-- ==== Sys2Proof/Word.lean ====
section
/-! DEFINITION. The word types of the TVG-4816: bytes, 32-bit registers (R16), 64-bit values (R22). -/

namespace Sys2Proof

/-- One byte of a record, a memory or a packet. -/
abbrev Byte := BitVec 8

/-- One register of the part: every register is 32 bits wide (R16). -/
abbrev Word := BitVec 32

/-- A register pair, or a `TS64` as it stands in a record. -/
abbrev DWord := BitVec 64

end Sys2Proof
end

