-- ==== Sys2Proof/Syntax.lean ====
section
/-! DEFINITION. The commands the block takes: one constructor per row of spec/opcode_table.json, with what the row's
rule needs from outside (a requester, an address, a value, an outcome that the spec lists or a level at a ball). -/

namespace Sys2Proof

/-- The nine requesters of BAR0 (R22). -/
inductive Requester where
  | host (h : Fin 4)
  | mbx (h : Fin 4)
  | dbg
  deriving DecidableEq, Repr

/-- The requesters of the object dictionary (R389, R490, R495). -/
inductive OdReq where
  | can (c : Fin 2)
  | mbx (h : Fin 4)
  | dbg
  deriving DecidableEq, Repr

/-- What a read of host memory returned: its bytes, or an unsuccessful or poisoned completion. -/
inductive HostRead where
  | ok (data : List Byte)
  | err
  deriving DecidableEq, Repr

/-- gPTP messages received on a sensor MAC (R45), with the fields the time base uses; times in ns. -/
inductive GptpFrame where
  | sync (seq : Nat) (twoStep : Bool) (origin : Nat) (corr : Int)
  | followUp (seq : Nat) (origin : Nat) (corr : Int)
  | pdelayReq (seq : Nat)
  | pdelayResp (seq : Nat) (reqRx : Nat)
  | pdelayRespFollowUp (seq : Nat) (respTx : Nat)
  | announce
  deriving DecidableEq, Repr

/-- A gPTP message with the domain its header names (R45). -/
structure GptpMsg where
  domain : Fin 256
  body : GptpFrame
  deriving DecidableEq, Repr

/-- Client frames of a USDO session (R485, R496), as far as the device's service reads them. -/
inductive UsdoFrame where
  /-- upload (read) request of one sub-index -/
  | upload (idx sub : Nat)
  /-- the client asks for the next segment of an upload -/
  | uploadSeg
  /-- expedited download (write) of a whole value -/
  | download (idx sub : Nat) (data : List Byte)
  /-- start of a segmented download of `len` bytes -/
  | downloadInit (idx sub len : Nat)
  /-- one segment, `last` for the final one -/
  | downloadSeg (data : List Byte) (last : Bool)
  /-- abort by the client -/
  | abort
  deriving DecidableEq, Repr

/-- Levels at the field bank at one sample instant (R511, R520). -/
structure FieldSample where
  a : Vector Bool 4
  b : Vector Bool 4
  /-- level read back at each `TRIGm` -/
  trigRb : Vector Bool 8
  ppsRb : Bool
  imagoIn : Bool
  ppsIn : Bool
  deriving DecidableEq, Repr

/-- One monitor window of R530: the `SYSCLK` count of 10 us, or an island's deviation of 2 us in 1/1000. -/
inductive ClockWindow where
  | sysclk (count : Nat)
  | island (i : Fin 24) (dev : Int)
  deriving DecidableEq, Repr

/-- What the startup self-test found (R216, R442, R443): for each checker tested, failing instances and longest
detection in SAF cycles; whether a memory outside the arrays failed; the failing quads of every core, and a row (2), a
check cell (3) or the MVP (4) of it that failed (0 for none). -/
structure StsResult where
  chk : List (Nat × Nat × Nat)
  memFail : Bool
  quads : Vector (BitVec 16) 16
  cause : Vector Nat 16
  deriving DecidableEq, Repr


/-- The commands: one constructor per row of spec/opcode_table.json. -/
inductive Instr where
  /-- REGISTER_WRITE (R17): A BAR0 write to a register that has no row of its own sets the field, or is ignored and counted under R21, R38 or R39. -/
  | registerWrite (r : Requester) (addr size : Nat) (v : Nat)
  /-- RC_READ (R17): A read of an RC register returns its value and then clears it, without losing a coincident hardware event. -/
  | rcRead (r : Requester) (addr size : Nat)
  /-- PAIR_LO_READ (R22): A read of a _LO register, or an aligned 64-bit read, latches the high word for this requester. -/
  | pairLoRead (r : Requester) (addr size : Nat)
  /-- PAIR_HI_WRITE (R22): A write of a _HI register, or an aligned 64-bit write, commits the staged low word and the high word together. -/
  | pairHiWrite (r : Requester) (addr size : Nat) (v : Nat)
  /-- REPLICA_REFRESH (R51): Every 16 SAF cycles a Gray-coded master copy refreshes each island replica, and SAF checks the lag. -/
  | replicaRefresh (isl : Fin 24) (lag : Int)
  /-- GPTP_FRAME_RX (R45): A gPTP frame received on a sensor MAC is passed to the time base, which takes the measurement and moves the time state. -/
  | gptpFrameRx (mac : Fin 8) (f : GptpMsg)
  /-- SYNC_MISSING (R46): Three consecutive expected Sync messages or PPS_IN edges are missing, and the time state goes to HOLDOVER. -/
  | syncMissing
  /-- HOLDOVER_EXPIRY (R46): HOLDOVER lasting longer than HOLD_MAX returns the time state to FREERUN. -/
  | holdoverExpiry
  /-- GPTP_SYNC_TX (R45): As grandmaster, every 125 ms each selected MAC sends two-step Sync and Follow_Up. -/
  | gptpSyncTx
  /-- GPTP_ANNOUNCE_TX (R45): As grandmaster, every 1 s each selected MAC sends Announce with the configured priority1 and clockClass. -/
  | gptpAnnounceTx
  /-- PPS_OUT_PULSE (R522): PPS_OUT rises as the master passes each whole second and falls PPS_WIDTH later. -/
  | ppsOutPulse
  /-- FRAME_RX (R63): A frame at a sensor MAC is checked, assigned to a stream context by its match fields, and stored or dropped on overflow. -/
  | frameRx (mac : Fin 8) (frame : List Byte) (fcsOk : Bool)
  /-- PACKET_PARSE (R74): The parser applies the context's PLD to a packet or injected block, decodes its points and times them, and accepts or drops each point. -/
  | packetParse (mac : Fin 9)
  /-- DESKEW_POINT (R92): The deskew unit takes the next waiting point, moves it by the slice's rigid transform, and passes the record to VOX. -/
  | deskewPoint
  /-- SWEEP_MAX_EXPIRY (R80): A sweep still open when the ING replica reaches Tref plus MAX_SWEEP closes and is marked DEGRADED. -/
  | sweepMaxExpiry (ctx : Fin 128)
  /-- STREAM_GAP (R82): An enabled context with no accepted point for MAX_SWEEP declares a gap sweep with no points. -/
  | streamGap (ctx : Fin 128)
  /-- SLICE_GRACE_EXPIRY (R84): The ING replica passing the open slice's end plus SLICE_GRACE closes the slice. -/
  | sliceGraceExpiry (ctx : Fin 128)
  /-- INJ_ENQUEUE (R66): A write to ING_INJ_CTX enqueues the staged host point block, or refuses it. -/
  | injEnqueue (r : Requester) (v : Nat)
  /-- INJ_BLOCK_READ_DONE (R67): ING finishes reading an injected block, or fails it on a read error, and increments ING_INJ_DONE. -/
  | injBlockReadDone (h : Fin 4) (data : HostRead)
  /-- POSE_COMMIT (R88): A write to ING_POSE_WIN15 checks the staged pose and commits it into the pose ring, or refuses it. -/
  | poseCommit (r : Requester) (v : Nat)
  /-- SWEEP_SUMMARY (R83): The sweep summary of a closed sweep, or of a gap, reaches VOX. -/
  | sweepSummary
  /-- VOX_POINT_INSERT (R109): A deskewed point is keyed and placed into the context's Pond allotment, as a new entry or by merging. -/
  | voxPointInsert
  /-- FOLD_COMPLETE (R115): A fold finishes, and the device checks the high-water mark once more. -/
  | foldComplete (ctx : Fin 128)
  /-- EMISSION_START (R119): Once the sweep is sealed, the fold is done and a window slot admits a reader, VOX starts writing the voxel tensor. -/
  | emissionStart (ctx : Fin 128)
  /-- EMISSION_COMPLETE (R124): VOX writes the header, sends sweep-ready to the job table, and starts clearing the allotment. -/
  | emissionComplete (ctx : Fin 128)
  /-- ALLOTMENT_CLEARED (R118): The allotment is empty again, and the hold buffer drains into the new sweep. -/
  | allotmentCleared (ctx : Fin 128)
  /-- SCRUB_LINE (R189): The scrubber reads the next Basin line, rewrites corrected words, and checks a weight block's CRC at its last line. -/
  | scrubLine (core : Fin 16)
  /-- APERTURE_WRITE (R173): A BAR0 write through a KC aperture is gated by ownership and performs a read, correct, merge and rewrite, or sets a weight block STALE. -/
  | apertureWrite (r : Requester) (addr size : Nat) (v : Nat)
  /-- APERTURE_READ (R173): A BAR0 read through a KC aperture returns physical Basin, Cistern or DMEM data, or 0 on an uncorrectable word. -/
  | apertureRead (r : Requester) (addr size : Nat)
  /-- CC_INSTRUCTION (R323): The control core executes one ordinary RV32 instruction in user mode, or stops on an exception under R325. -/
  | ccInstruction (core : Fin 16)
  /-- QPUSH (R334): QPUSH writes one word of the staging buffer. -/
  | qpush (core : Fin 16)
  /-- QCOMMIT (R335): QCOMMIT checks the staged descriptor and places it into its Runnel, or stalls while the Runnel is full. -/
  | qcommit (core : Fin 16)
  /-- QCOMMIT_T (R321): QCOMMIT.T checks and patches a template and places the result into its Runnel. -/
  | qcommitT (core : Fin 16)
  /-- SWAIT (R336): SWAIT waits on a semaphore count and stalls the control core until it is satisfied. -/
  | swait (core : Fin 16)
  /-- SWAIT_RELEASE (R336): A stalled SWAIT is satisfied and subtracts its count. -/
  | swaitRelease (core : Fin 16)
  /-- SSET (R336): SSET adds a count to a semaphore after the earlier stores are performed. -/
  | sset (core : Fin 16)
  /-- REDRD (R337): REDRD returns a reduction register or the GE value. -/
  | redrd (core : Fin 16)
  /-- TSRD_LO (R338): TSRD.LO returns the low word of TS64 and latches the high word. -/
  | tsrdLo (core : Fin 16)
  /-- TSRD_HI (R338): TSRD.HI returns the latched high word. -/
  | tsrdHi (core : Fin 16)
  /-- ECALL_END (R342): ECALL END stops the control core for good. -/
  | ecallEnd (core : Fin 16)
  /-- ECALL_ABORT (R342): ECALL ABORT stops the control core and raises CC_ABORT. -/
  | ecallAbort (core : Fin 16)
  /-- NOP (R306): A NOP issues, holds its regions, and acts as a fence. -/
  | nop (core : Fin 16) (eng : Fin 5)
  /-- MM (R200): An MM pass issues when its head is ready and loads its weight tile. -/
  | mm (core : Fin 16)
  /-- MMP (R212): A packed pass issues and runs up to four sub-problems in the quadrants. -/
  | mmp (core : Fin 16)
  /-- PASS_START (R209): Once its tile load is complete and the previous pass's last site has entered, the pass swaps its tile in and streams its sites at t0. -/
  | passStart (core : Fin 16)
  /-- RUN (R252): A RUN descriptor starts a statically scheduled VE microkernel. -/
  | run (core : Fin 16)
  /-- RESCALE (R265): RESCALE multiplies the output rows by each row's CR. -/
  | rescale (core : Fin 16)
  /-- HASH_BUILD (R229): HASH_BUILD builds a site hash from a site list. -/
  | hashBuild (core : Fin 16)
  /-- OUTSITES (R232): OUTSITES builds the output site list and hash for DILATE or STRIDE. -/
  | outsites (core : Fin 16)
  /-- KMAP (R233): KMAP builds the pairs of a block of output sites, binned by offset. -/
  | kmap (core : Fin 16)
  /-- SORT (R236): SORT splits and orders the kernel-map chunks into a work list. -/
  | sort (core : Fin 16)
  /-- GATHER (R238): GATHER in PLAIN, PRED or TBL mode copies groups, predictor lines or table rows. -/
  | gather (core : Fin 16)
  /-- SCATTER (R239): SCATTER accumulates staging rows into output rows, locally or remotely. -/
  | scatter (core : Fin 16)
  /-- MASK (R245): MASK scores Cistern rows and writes predictor mask bits. -/
  | mask (core : Fin 16)
  /-- XFER (R314): XFER moves data between local, remote, DRAM and host spaces. -/
  | xfer (core : Fin 16)
  /-- XFER_HOST_PIECE (R410): A 4 KiB piece of a host-memory XFER starts in a slot that admits the job's partition. -/
  | xferHostPiece (core : Fin 16) (data : HostRead)
  /-- FILL (R181): FILL writes a pattern into Basin lines or Cistern units. -/
  | fill (core : Fin 16)
  /-- COPY (R182): COPY moves Basin lines within one Basin. -/
  | copy (core : Fin 16)
  /-- WLOAD (R185): WLOAD writes whole weight blocks and checks each block's CRC-32C. -/
  | wload (core : Fin 16)
  /-- SELREQ (R275): SELREQ reads a request block and hands it to SEL. -/
  | selreq (core : Fin 16)
  /-- RINGSET (R314): RINGSET defines a Basin ring, which is empty from the cycle after it retires. -/
  | ringset (core : Fin 16)
  /-- SETUP (R268): SETUP binds a forward channel to a target ring and sets its credits. -/
  | setup (core : Fin 16)
  /-- SEND (R269): SEND moves one slot of lines into the target ring and takes a credit. -/
  | send (core : Fin 16)
  /-- PEER_LANDING_WRITE (R271): A landing write arrives at the target core, and one with a stale TAGGEN or setup count is discarded. -/
  | peerLandingWrite
  /-- CREDIT_RETURN (R270): A consumer's release returns one credit to the sender through FAB. -/
  | creditReturn
  /-- REMOTE_ACCESS (R190): A remote Basin or Cistern access arrives at the target core through port REMOTE and is checked and performed. -/
  | remoteAccess
  /-- DESCRIPTOR_RETIRE (R158): A descriptor's last write becomes visible; its entries are released, its RETIRE sets applied and its item recorded. -/
  | descriptorRetire (core : Fin 16) (eng : Fin 5)
  /-- SEL_REQUEST_ARRIVAL (R278): A request arrives at SEL and is checked for shape and for window length. -/
  | selRequestArrival
  /-- SEL_TOPK (R283): In a SEL window of its partition, a TOPK request starts radix or Swallowtail selection and writes ordered entries. -/
  | selTopk (p : Fin 8)
  /-- SEL_BOXES (R291): In a SEL window of its partition and with result space, a BOXES request starts selection, decode and oriented suppression. -/
  | selBoxes (p : Fin 8)
  /-- SEL_KNN (R289): In a SEL window of its partition, a KNN request starts and writes the nearest references of each query. -/
  | selKnn (p : Fin 8)
  /-- RESULT_HANDOFF (R382): SEL hands a BOXES header to HST for commit. -/
  | resultHandoff
  /-- RESULT_COMMIT (R382): HST writes the header, makes it valid, moves the result tail and writes the RESULT record. -/
  | resultCommit
  /-- RESULT_SPACE_TIMEOUT (R381): A BOXES request that waits 100 ms for result space is discarded, and its job aborts with RESULT_NOSPACE. -/
  | resultSpaceTimeout (p : Fin 8)
  /-- LOAD (R349): PRT_LD_CMD with LOAD queues a program load. -/
  | load (r : Requester) (p : Fin 8) (v : Nat)
  /-- UNLOAD (R358): PRT_LD_CMD with UNLOAD frees a program, or refuses the request. -/
  | unload (r : Requester) (p : Fin 8) (v : Nat)
  /-- LOADER_SERVE_START (R348): The loader takes the next queued request, in command order. -/
  | loaderServeStart
  /-- LOAD_COPY_COMPLETE (R353): The image copy completes, and the verifier runs its checks. -/
  | loadCopyComplete (p : Fin 8) (data : HostRead)
  /-- LOAD_INSTALL_COMPLETE (R357): Relocation and installation complete, and the handle is set DONE. -/
  | loadInstallComplete (p : Fin 8)
  /-- SQ_DOORBELL (R365): A write of HST_Pp_SQ_TAIL announces submission entries. -/
  | sqDoorbell (r : Requester) (p : Fin 8) (v : Nat)
  /-- CQ_DOORBELL (R365): A write of HST_Pp_CQ_HEAD frees completion slots. -/
  | cqDoorbell (r : Requester) (p : Fin 8) (v : Nat)
  /-- RESULT_DOORBELL (R382): A write of HST_Pp_RQ_HEAD frees result ring space. -/
  | resultDoorbell (r : Requester) (p : Fin 8) (v : Nat)
  /-- RING_SET_ENABLE (R366): A write of EN = 1 resets the ring pointers and the phase. -/
  | ringSetEnable (r : Requester) (p : Fin 8) (v : Nat)
  /-- RING_SET_DISABLE (R366): A write of EN = 0 disables a ring set with no live job. -/
  | ringSetDisable (r : Requester) (p : Fin 8) (v : Nat)
  /-- ENTRY_FETCH (R368): With a completion slot free, HST fetches the next submission entry and checks it. -/
  | entryFetch (p : Fin 8) (data : HostRead)
  /-- JOB_SUBMIT (R368): An accepted SUBMIT reserves a slot, takes a new generation and enters QUEUED. -/
  | jobSubmit (p : Fin 8)
  /-- JOB_CANCEL (R376): A CANCEL ends a queued job, or drains a running one. -/
  | jobCancel (p : Fin 8)
  /-- SWEEP_READY (R371): A sweep-ready, emitted or skipped, reaches the job table and resolves or ends STREAM bindings. -/
  | sweepReady
  /-- JOB_ADMIT (R372): A runnable job with slots and free contexts is admitted: task contexts loaded, DMEM areas written and the deadline fixed. -/
  | jobAdmit (p : Fin 8)
  /-- JOB_COMPLETE (R380): Once every control core has ended and every descriptor has retired, the job's final record is written. -/
  | jobComplete (slot : Fin 512)
  /-- TAG_RELEASE (R369): Four µs after the final record, the tag becomes FREE. -/
  | tagRelease (slot : Fin 512)
  /-- MSIX_COALESCE_TIMEOUT (R387): COALT µs after the first unsignalled record, the ring's MSI-X vector is raised. -/
  | msixCoalesceTimeout (p : Fin 8)
  /-- PORT_HOT_RESET (R385): Hot reset, PERST, link down or FLR drains and fails the port's jobs and resets its ring sets. -/
  | portHotReset (h : Fin 4)
  /-- PORT_LINK_UP (R545): A host port trains its link after MGT boot and PERST release. -/
  | portLinkUp (h : Fin 4) (speed width : Nat)
  /-- OD_READ (R495): An OD read through USDO or a mailbox returns one whole sub-index. -/
  | odRead (r : OdReq) (idx sub : Nat)
  /-- OD_WRITE (R495): MGT applies an OD write without a row of its own, whole and in transfer order, or refuses it. -/
  | odWrite (r : OdReq) (idx sub : Nat) (data : List Byte)
  /-- CONTEXT_ENABLE (R70): A write of ENABLE = 1 checks the PLD and voxel settings and reserves Pond pages. -/
  | contextEnable (r : OdReq) (ctx : Fin 128)
  /-- CONTEXT_DISABLE (R70): A write of ENABLE = 0 stops the context at a packet boundary and closes its sweep. -/
  | contextDisable (r : OdReq) (ctx : Fin 128)
  /-- PARTITION_RECORD_WRITE (R391): A write of a partition record or of STREAM is checked and applied whole. -/
  | partitionRecordWrite (r : OdReq) (sub : Nat) (data : List Byte)
  /-- PARTITION_RESET (R395): A write to RESET starts a reset of a partition. -/
  | partitionReset (r : OdReq) (v : Nat)
  /-- PARTITION_RESET_CLEAR (R395): One ms after the drains and unloads, the partition's regions are cleared and admission resumes. -/
  | partitionResetClear (p : Fin 8)
  /-- MMU_COPY (R403): MMU_CMD with COPY starts a translation table copy, or refuses it. -/
  | mmuCopy (r : Requester) (p : Fin 8)
  /-- MMU_INVAL (R420): MMU_CMD with INVAL invalidates the partition's translation cache entries. -/
  | mmuInval (r : Requester) (p : Fin 8)
  /-- MMU_COPY_COMPLETE (R403): A translation copy completes, and the partition's translation caches are invalidated. -/
  | mmuCopyComplete (p : Fin 8) (data : HostRead)
  /-- SLUICE_REFILL (R406): At every whole µs, MEM and FAB buckets gain their rate in tokens. -/
  | sluiceRefill
  /-- SLOT_BOUNDARY (R409): A new 15.625 µs slot starts; a new major frame applies pending budgets. -/
  | slotBoundary
  /-- TABLE_LOAD (R412): PRT_TBL_CMD with LOAD copies a table image into the standby version. -/
  | tableLoad (r : Requester) (p : Fin 8) (v : Nat)
  /-- TABLE_SWAP (R414): PRT_TBL_CMD with SWAP pauses admission so that the standby version becomes current. -/
  | tableSwap (r : Requester) (p : Fin 8) (v : Nat)
  /-- TABLE_DROP (R414): PRT_TBL_CMD with DROP pauses admission so that the table is removed. -/
  | tableDrop (r : Requester) (p : Fin 8) (v : Nat)
  /-- TABLE_LOAD_COMPLETE (R413): A table copy ends; the CRC and headers are checked and a TABLE record written. -/
  | tableLoadComplete (p : Fin 8) (data : HostRead)
  /-- TABLE_PAUSE_END (R414): Once every earlier job has its final record, the versions are exchanged or emptied and admission resumes. -/
  | tablePauseEnd (p : Fin 8)
  /-- DIR_GETS (R417): The directory serves a GetS for a line. -/
  | dirGets (core : Fin 16)
  /-- DIR_GETM (R417): The directory serves a GetM for a line. -/
  | dirGetm (core : Fin 16)
  /-- DIR_PUTM (R417): The directory takes a PutM, writes DRAM or treats it as stale, and sends PutAck. -/
  | dirPutm (core : Fin 16)
  /-- DIR_AGENT_READ (R417): A DRAM read by a non-cache agent is recalled if needed and served. -/
  | dirAgentRead (line : Nat)
  /-- DIR_AGENT_WRITE (R417): A DRAM write by a non-cache agent invalidates the holders and is performed. -/
  | dirAgentWrite (line : Nat) (data : List Byte)
  /-- DIR_ACK (R417): An Ack or forwarded data reaches the directory and advances its transaction. -/
  | dirAck
  /-- CACHE_FWD_S (R418): A cache answers FwdS with data to the requester and the directory. -/
  | cacheFwdS (core : Fin 16)
  /-- CACHE_FWD_M (R418): A cache answers FwdM with data and goes to I. -/
  | cacheFwdM (core : Fin 16)
  /-- CACHE_RECALL_KEEP (R418): A cache answers Recall-keep with data and keeps S. -/
  | cacheRecallKeep (core : Fin 16)
  /-- CACHE_INV (R418): A cache answers Inv with Ack after dropping the line. -/
  | cacheInv (core : Fin 16)
  /-- CACHE_PUT_ACK (R418): PutAck frees the eviction buffer entry and lets a waiting miss proceed. -/
  | cachePutAck (core : Fin 16)
  /-- DRAM_PATROL_READ (R398): MEM reads an ECC line in its 24 h patrol and rewrites any correction. -/
  | dramPatrolRead
  /-- PREEMPT_STOPPED (R425): Every engine has reached its stopping point, and the Chrysalis save starts. -/
  | preemptStopped (core : Fin 16)
  /-- CHRYSALIS_SAVE_COMPLETE (R425): The Chrysalis header is written, the context is PREEMPTED, and the preempting context issues. -/
  | chrysalisSaveComplete (core : Fin 16) (ok : Bool)
  /-- STOP_TIMEOUT (R425): An engine that has not stopped 28,800 cycles after the request aborts the preempted job. -/
  | stopTimeout (core : Fin 16)
  /-- CHRYSALIS_RESTORE (R428): A PREEMPTED context chosen to run is checked and restored. -/
  | chrysalisRestore (core : Fin 16) (ok : Bool)
  /-- FAULT_ARRIVAL (R429): A fault reaches SAF over the fault path; the sequencers act, and the abort is sent to the job's units. -/
  | faultArrival (isl : Fin 24) (agree : Bool)
  /-- JOB_ABORT (R430): The abort reaches a core, SEL or HST, and each item is stopped, drained or recorded. -/
  | jobAbort (slot : Fin 512) (unit : Nat)
  /-- DRAIN_TIMEOUT (R430): A drained item not retired within 2 µs is stopped and ABORTED. -/
  | drainTimeout (slot : Fin 512)
  /-- ATTEMPT_END (R432): After the last record of an aborted attempt, the job restarts or ends FAILED. -/
  | attemptEnd (slot : Fin 512)
  /-- WATCHDOG_EXPIRY (R436): A job's progress count reaches 65,536, and DEADLOCK is raised. -/
  | watchdogExpiry (slot : Fin 512)
  /-- SELFTEST_START (R442): After a reset or latch clear, SAF begins the startup self-test. -/
  | selftestStart
  /-- SELFTEST_END (R443): The self-test ends; its results are written and the device continues, retires cores or is held. -/
  | selftestEnd (res : StsResult)
  /-- SELFTEST_TIMEOUT (R443): A self-test over 60 ms raises STS_TIME and holds the device. -/
  | selftestTimeout (res : StsResult)
  /-- HEARTBEAT_TOGGLE (R446): Every 12,500 SAF cycles with no reason set, the SAFE pins change level. -/
  | heartbeatToggle
  /-- DEADLINE_EXPIRY (R453): The master passes an armed entry's deadline while the entry is unmet. -/
  | deadlineExpiry (slot : Fin 512)
  /-- SAFE_ACK (R449): A write of SAFE_ACK clears MISSp reasons. -/
  | safeAck (r : OdReq) (v : Nat)
  /-- SAFE_MIN_EXPIRY (R448): In AUTO mode, SAFE_MIN after the last MISS together with an on-time result clears MISSp. -/
  | safeMinExpiry (p : Fin 8)
  /-- LATCH_CLEAR (R460): A write of 0x524C_4352 to LATCH_CLR clears the recovery latch and resets the device as SYSRST_N does. -/
  | latchClear (r : OdReq) (v : Nat)
  /-- SEQ_WATCHDOG_EXPIRY (R460): A recovery sequencer's watchdog expires, raising SEQ_WATCHDOG and setting the recovery latch. -/
  | seqWatchdogExpiry (shadow : Bool)
  /-- MGT_LOCKSTEP_MISMATCH (R441): The management core pair mismatches; MGT is held in reset and CAN goes silent. -/
  | mgtLockstepMismatch
  /-- EMCY_SEND (R488): A queued emergency frame wins the bus on a channel and enters the error history. -/
  | emcySend (ch : Fin 2)
  /-- JOURNAL_WRITE (R464): Every 64 SAF cycles, SAF writes the first waiting record in canonical order into the ring. -/
  | journalWrite (ok : Bool)
  /-- NV_RECORD_WRITE (R467): A pending NV-eligible record finishes writing into the active MRAM bank. -/
  | nvRecordWrite (ok : Bool)
  /-- NV_COMPACT_COPY (R469): A compaction copies the next record into the other bank, or writes the new header. -/
  | nvCompactCopy (ok : Bool)
  /-- PWRFAIL (R471): PWRFAIL_N or a brownout stops commits and cuts the pending queue to the 8 newest records. -/
  | pwrfail
  /-- IMAGO_IN_EDGE (R523): A qualified rising edge at IMAGO_IN is accepted as a trigger. -/
  | imagoInEdge
  /-- IMAGO_TRIGGER (R475): A write of 1 to TRIGGER of OD index 0x4200 triggers a capture. -/
  | imagoTrigger (r : OdReq) (v : Nat)
  /-- IMG_TRIG (R476): A write of 0x494D to IMG_TRIG triggers a capture. -/
  | imgTrig (r : Requester) (v : Nat)
  /-- IMAGO_LATCH (R476): At the capture instant C, every island latches its Imago set. -/
  | imagoLatch
  /-- IMAGO_TRANSFER_COMPLETE (R477): The captured sets have moved into SAF, and the capture is held. -/
  | imagoTransferComplete
  /-- IMAGO_REARM (R477): REARM of OD index 0x4200 releases a held capture. -/
  | imagoRearm (r : OdReq) (v : Nat)
  /-- IMG_REARM (R477): A write of 1 to IMG_REARM releases a held capture. -/
  | imgRearm (r : Requester) (v : Nat)
  /-- USDO_REQUEST (R496): A USDO request frame opens or continues a session on a channel. -/
  | usdoRequest (ch : Fin 2) (f : UsdoFrame)
  /-- USDO_TIMEOUT (R496): A session with no frame for 1 s ends with abort code 0x0504_0000. -/
  | usdoTimeout (ch : Fin 2)
  /-- NMT_START (R486): NMT Start puts the channel in OPERATIONAL. -/
  | nmtStart (ch : Fin 2) (node : Nat)
  /-- NMT_STOP (R486): NMT Stop puts the channel in STOPPED. -/
  | nmtStop (ch : Fin 2) (node : Nat)
  /-- NMT_ENTER_PREOPERATIONAL (R486): NMT Enter pre-operational puts the channel in PRE-OPERATIONAL. -/
  | nmtEnterPreoperational (ch : Fin 2) (node : Nat)
  /-- NMT_RESET_NODE (R486): NMT Reset node applies the channel settings and sends boot-up. -/
  | nmtResetNode (ch : Fin 2) (node : Nat)
  /-- NMT_RESET_COMMUNICATION (R486): NMT Reset communication applies the channel settings and sends boot-up. -/
  | nmtResetCommunication (ch : Fin 2) (node : Nat)
  /-- HEARTBEAT_SEND (R487): A channel's heartbeat time elapses, and it sends its NMT state. -/
  | heartbeatSend (ch : Fin 2)
  /-- CAN_BUSOFF (R484): A channel enters bus-off, ends its session and stops heartbeats. -/
  | canBusoff (ch : Fin 2)
  /-- BUSOFF_RECOVERY (R484): A channel recovers from bus-off, sends boot-up and resumes its NMT state. -/
  | busoffRecovery (ch : Fin 2)
  /-- MBX_READ (R491): HST_MBX_CMD with READ starts a mailbox read of one sub-index. -/
  | mbxRead (r : Requester)
  /-- MBX_WRITE (R491): HST_MBX_CMD with WRITE starts a mailbox write of one sub-index. -/
  | mbxWrite (r : Requester)
  /-- ERROR_HISTORY_CLEAR (R499): A write of 0 to OD index 0x1003 sub-index 0x00 empties the error history. -/
  | errorHistoryClear (r : OdReq) (v : Nat)
  /-- SIN_SAMPLE (R512): Every 10 µs, SAF samples each enabled two-channel input, consolidates it, and checks output readback. -/
  | sinSample (f : FieldSample)
  /-- FIELD_SUPPLY_LOSS (R509): VDD_FIELD leaves its range; inputs go inactive and outputs are driven low. -/
  | fieldSupplyLoss
  /-- FIELD_SUPPLY_RETURN (R509): VDD_FIELD returns, and inputs and outputs restart. -/
  | fieldSupplyReturn
  /-- TRIG_EDGE (R518): A trigger output reaches a grid instant or its end of WIDTH and changes level. -/
  | trigEdge (m : Fin 8)
  /-- PPS_IN_EDGE (R521): A rising PPS_IN edge is stamped and passed to the time base, or rejected. -/
  | ppsInEdge (wide : Bool)
  /-- CLOCK_MONITOR_WINDOW (R530): A monitor window ends, and SAF checks the SYSCLK and island clock counts. -/
  | clockMonitorWindow (w : ClockWindow)
  /-- SLOPE_TICK (R537): Every 100 ns, the current slope governor grants or removes core levels. -/
  | slopeTick
  /-- THERMAL_GOVERN (R574): Every 1 ms, the thermal governor reads the sensors and sets each core's target k. -/
  | thermalGovern (sensors : List Int) (pAvg : Nat)
  /-- KC_CLOCK_STEP (R574): One core moves its k by one step toward its target, at most one core per µs. -/
  | kcClockStep
  /-- RAIL_FAULT (R567): A rail beyond its monitor limit for 1 µs raises RAIL_UNDER or RAIL_OVER. -/
  | railFault (rail : Fin 7) (isOver : Bool)
  /-- POWER_ON_RESET (R546): PORST_N or PGOOD_SAF low resets every island, empties the journal ring and boots from flash. -/
  | powerOnReset (pgood : Bool)
  /-- WARM_RESET (R546): SYSRST_N resets every island except SAF and ends every job, program and table. -/
  | warmReset (taken : Bool)
  /-- MGT_BOOT (R542): MGT boots from its verified image and applies the field record. -/
  | mgtBoot
  /-- DRAM_TRAINING_COMPLETE (R544): DRAM training ends and MEMCAP is set. -/
  | dramTrainingComplete (cap : Fin 4)
  /-- BRINGUP_COMPLETE (R544): Fabric bring-up ends; reason START clears and the state becomes READY. -/
  | bringupComplete
  /-- EXTEST (R551): TAP EXTEST drives the boundary and holds the islands in reset. -/
  | extest (cells : List Bool)
  /-- SAMPLE_PRELOAD (R551): TAP SAMPLE/PRELOAD captures the boundary without disturbing anything. -/
  | samplePreload (sampled shifted : List Bool)
  /-- IDCODE (R550): TAP IDCODE selects the 32-bit identity register. -/
  | idcode
  /-- CLAMP (R551): TAP CLAMP holds the pins and the islands in reset. -/
  | clamp
  /-- HIGHZ (R551): TAP HIGHZ floats the outputs and holds the islands in reset. -/
  | highz
  /-- BYPASS (R549): TAP BYPASS selects the one-bit register. -/
  | bypass
  /-- DBGAP_READ (R556): A DBGAP update with read performs a BAR0 read without side effects. -/
  | dbgapRead (waddr : Nat)
  /-- DBGAP_WRITE (R555): A DBGAP update with write performs a permitted BAR0 write. -/
  | dbgapWrite (waddr : Nat) (v : Nat)
  /-- DEBUG_ENABLE (R553): A write of DBG_CTRL.EN = 1 enables debug access, after authentication in AUTH mode. -/
  | debugEnable (v : Nat)
  /-- NONCE_READ (R554): A read of DBG_NONCE0 draws a new nonce. -/
  | nonceRead (r : Requester)
  /-- AUTH_CHECK_COMPLETE (R554): The signature check ends and enables debug access or sets AUTHFAIL. -/
  | authCheckComplete
  /-- DBG_HALT (R557): A DBG_HALT request halts a control core at an instruction boundary. -/
  | dbgHalt (mask : BitVec 16)
  /-- HALT_FORCE_TIMEOUT (R558): A halt deferred in a locked sequence is forced after 32 instructions or 256 cycles. -/
  | haltForceTimeout (core : Fin 16)
  /-- DBG_RESUME (R559): DBG_RESUME RUN resumes a halted core. -/
  | dbgResume (mask : BitVec 16)
  /-- DBG_STEP (R559): DBG_RESUME STEP runs one instruction and halts again. -/
  | dbgStep (mask : BitVec 16)
  /-- DBG_GPR_WRITE (R559): A DBG_GPR write sets a register in both harts of a halted core. -/
  | dbgGprWrite (v : Nat)
  /-- DBG_SVN_ADVANCE (R562): A valid DBG_SVN write advances the security version counter. -/
  | dbgSvnAdvance (v : Nat)
  /-- BLOCK_LOCK (R502): A sensor MAC gains or loses block lock on its SerDes lane, and its bit in ING_STATUS.LINK changes. -/
  | blockLock (mac : Fin 8) (lock : Bool)
  /-- CAN_FRAME_IGNORED (R482): A classical CAN frame, or one with a 29-bit identifier, is received, ignored and counted in CANERR. -/
  | canFrameIgnored (ch : Fin 2)
  /-- CAN_ERROR_PASSIVE (R482): A CAN FD channel's error counters take it from error-active to error-passive: CANST shows it, OD index 0x1001 bit 4 sets, and emergency messages stop on that channel. -/
  | canErrorPassive (ch : Fin 2)
  /-- CAN_ERROR_ACTIVE (R482): A CAN FD channel returns from error-passive to error-active, and emergency messages are sent on it again. -/
  | canErrorActive (ch : Fin 2)
  /-- DIR_TIMEOUT (R419): A directory transaction that has lost a message under R57 raises DIR_TIMEOUT for its requester and poisons the line until the partition is reset. -/
  | dirTimeout (line : Nat)
  /-- FAULT_N_HOLD_EXPIRY (R524): The 1 ms hold of FAULT_N after an emergency-message event ends, and the pin rises when no other cause holds it low. -/
  | faultNHoldExpiry
  /-- SAFE_PIN_READBACK (R439): The level read back at SAFE_A or SAFE_B differs from the driven level, raising OUT_READBACK and setting reason PIN within 2 SAF cycles. -/
  | safePinReadback (a b : Bool)
  /-- PEER_DELAY_TX (R45): As a gPTP end station using the peer-delay mechanism, the selected MAC sends its periodic peer-delay request. -/
  | peerDelayTx
  /-- CONFLICT_SUMMARY_WINDOW (R507): A 100 ms window of device time ends, and MGT updates each core's conflict-counter summary in OD index 0x5100 and its WINDOW stamp. -/
  | conflictSummaryWindow
  deriving DecidableEq, Repr

end Sys2Proof
end

