-- ==== Sys2Proof/Machine/Base.lean ====
section
/-! DEFINITION. Shared plain data: sparse maps in one canonical form, fixed banks, bit fields, little-endian
bytes (R13), saturating counters (R20), CRC-32C (R120), serial comparison (R55). -/

namespace Sys2Proof.Machine

/-! ### Sparse maps: keys strictly rising, no entry equal to its default. -/

/-- A sparse map from addresses (or register keys, or slots) to values. -/
abbrev SMap (α : Type) := List (Nat × α)

/-- The value at key `k`; an unlisted key reads as the default `d k`. -/
def smGet {α : Type} (d : Nat → α) : SMap α → Nat → α
  | [], k => d k
  | (a, v) :: m, k => if k = a then v else smGet d m k

/-- Lists `k` with `v`, in key order. -/
def smIns {α : Type} (k : Nat) (v : α) : SMap α → SMap α
  | [] => [(k, v)]
  | (a, w) :: m => if k = a then (k, v) :: m else if k < a then (k, v) :: (a, w) :: m else (a, w) :: smIns k v m

/-- Unlists `k`. -/
def smDel {α : Type} (k : Nat) : SMap α → SMap α
  | [] => []
  | (a, w) :: m => if k = a then smDel k m else (a, w) :: smDel k m

/-- A write: writing the default removes the entry, so that equal maps are equal data. -/
def smSet {α : Type} [DecidableEq α] (d : Nat → α) (m : SMap α) (k : Nat) (v : α) : SMap α :=
  if v = d k then smDel k m else smIns k v m

/-- Every key of the map lies above `lo`, keys rise strictly. -/
def smSorted {α : Type} : SMap α → Bool
  | [] => true
  | [_] => true
  | (a, _) :: (b, w) :: m => decide (a < b) && smSorted ((b, w) :: m)

/-- No entry holds its default. -/
def smNoDefault {α : Type} [DecidableEq α] (d : Nat → α) : SMap α → Bool
  | [] => true
  | (a, v) :: m => decide (v ≠ d a) && smNoDefault d m

/-- The canonical form. -/
def smWf {α : Type} [DecidableEq α] (d : Nat → α) (m : SMap α) : Bool :=
  smSorted m && smNoDefault d m

/-- Writes one value after another from key `k` upward. -/
def smSetList {α : Type} [DecidableEq α] (d : Nat → α) (m : SMap α) (k : Nat) : List α → SMap α
  | [] => m
  | v :: vs => smSetList d (smSet d m k v) (k + 1) vs

/-- The `n` values from key `k` upward. -/
def smGetList {α : Type} (d : Nat → α) (m : SMap α) (k : Nat) : Nat → List α
  | 0 => []
  | n + 1 => smGet d m k :: smGetList d m (k + 1) n

/-- Unlists every key from `lo` up to, and not with, `hi`: they read their default again. -/
def smClear {α : Type} (lo hi : Nat) (m : SMap α) : SMap α :=
  m.filter fun e => !(decide (lo ≤ e.1) && decide (e.1 < hi))

/-! ### Fixed banks -/

/-- Element `i` of a bank; outside the bank, the given value. -/
def vget {α : Type} {n : Nat} (v : Vector α n) (i : Nat) (d : α) : α := (v[i]?).getD d

/-- Element `i` of a bank set; outside the bank nothing changes. -/
def vset {α : Type} {n : Nat} (v : Vector α n) (i : Nat) (x : α) : Vector α n := v.setIfInBounds i x

/-- Element `i` of a bank changed by `f`. -/
def vmod {α : Type} {n : Nat} (v : Vector α n) (i : Nat) (d : α) (f : α → α) : Vector α n := vset v i (f (vget v i d))

/-- Every element of a bank changed by `f`, which sees its number. -/
def vmap {α : Type} {n : Nat} (v : Vector α n) (d : α) (f : Nat → α → α) : Vector α n :=
  (List.range n).foldl (fun w i => vmod w i d (f i)) v

/-! ### Bit fields -/

/-- Bits `[lo+len-1:lo]` of a number. -/
def bits (x lo len : Nat) : Nat := x / 2 ^ lo % 2 ^ len

/-- Bit `i` of a number, as a truth value. -/
def bitOf (x i : Nat) : Bool := x / 2 ^ i % 2 == 1

/-- A truth value as a bit at position `i`. -/
def bitAt (b : Bool) (i : Nat) : Nat := if b then 2 ^ i else 0

/-- `x` with bits `[lo+len-1:lo]` replaced by the low bits of `v`. -/
def putBits (x lo len v : Nat) : Nat :=
  x / 2 ^ (lo + len) * 2 ^ (lo + len) + v % 2 ^ len * 2 ^ lo + x % 2 ^ lo

/-- `x` with bit `i` set to `b`. -/
def putBit (x i : Nat) (b : Bool) : Nat := putBits x i 1 (if b then 1 else 0)

/-- Signed value of an `n`-bit field. -/
def signed (n x : Nat) : Int := if x % 2 ^ n < 2 ^ (n - 1) then (x % 2 ^ n : Nat) else (x % 2 ^ n : Nat) - (2 ^ n : Nat)

/-- Two's complement of `x` in `n` bits. -/
def unsigned (n : Nat) (x : Int) : Nat := (x % (2 ^ n : Nat)).toNat

/-- The number of ones among the low `n` bits. -/
def popCount : Nat → Nat → Nat
  | 0, _ => 0
  | n + 1, x => x % 2 + popCount n (x / 2)

/-- The positions of the ones among bits `[i+n-1:i]`. -/
def onesFrom (x : Nat) : Nat → Nat → List Nat
  | _, 0 => []
  | i, n + 1 => if bitOf x i then i :: onesFrom x (i + 1) n else onesFrom x (i + 1) n

/-! ### Little-endian bytes (R13) -/

/-- `n` bytes of a number, least significant first. -/
def leBytes : Nat → Nat → List Byte
  | 0, _ => []
  | n + 1, x => BitVec.ofNat 8 x :: leBytes n (x / 256)

/-- The number that little-endian bytes spell. -/
def leNat : List Byte → Nat
  | [] => 0
  | b :: bs => b.toNat + 256 * leNat bs

/-- The number that big-endian bytes spell (octet strings of R13). -/
def beNat (bs : List Byte) : Nat := leNat bs.reverse

/-- `len` bytes of a list from offset `off`, short lists reading 0. -/
def slice (bs : List Byte) (off len : Nat) : List Byte :=
  ((bs.drop off).take len) ++ List.replicate (len - ((bs.drop off).take len).length) 0

/-- The little-endian field of `len` bytes at offset `off`. -/
def field (bs : List Byte) (off len : Nat) : Nat := leNat (slice bs off len)

/-- Zero bytes. -/
def zeros (n : Nat) : List Byte := List.replicate n 0

/-- A list with the values `vs` put at offset `off`. -/
def patch {α : Type} (bs : List α) (off : Nat) (vs : List α) : List α :=
  bs.take off ++ vs ++ bs.drop (off + vs.length)

/-! ### Counters (R20) -/

/-- A counter of `n` bits that saturates at all ones. -/
def satAdd (n : Nat) (x d : Nat) : Nat := min (x + d) (2 ^ n - 1)

/-- A counter of `n` bits that wraps. -/
def wrapAdd (n : Nat) (x d : Nat) : Nat := (x + d) % 2 ^ n

/-- Serial comparison of R55: `none` where the difference is exactly half the range. -/
def serialCmp (n a b : Nat) : Option Int :=
  let d := (a + 2 ^ n - b % 2 ^ n) % 2 ^ n
  if d = 0 then some 0
  else if d < 2 ^ (n - 1) then some 1
  else if d > 2 ^ (n - 1) then some (-1)
  else none

/-- The signed serial difference of R55 (R370 bounds it). -/
def serialDiff (n a b : Nat) : Int := signed n ((a + 2 ^ n - b % 2 ^ n) % 2 ^ n)

/-! ### CRC-32C with the parameters of R120 -/

/-- One bit of the reflected CRC register, polynomial 0x1EDC6F41 (reflected 0x82F63B78). -/
def crcBit (c : Nat) : Nat := if c % 2 = 1 then (c / 2) ^^^ 0x82F63B78 else c / 2

/-- `n` bits. -/
def crcBits : Nat → Nat → Nat
  | 0, c => c
  | n + 1, c => crcBits n (crcBit c)

/-- The register after one byte. -/
def crcByte (c : Nat) (b : Byte) : Nat := crcBits 8 (c ^^^ b.toNat)

/-- CRC-32C of a list of bytes: initial value all ones, result inverted. -/
def crc32c (bs : List Byte) : Nat := (bs.foldl crcByte 0xFFFFFFFF) ^^^ 0xFFFFFFFF

/-! ### Lists as queues -/

/-- A list with element `i` changed by `f`. -/
def lmod {α : Type} (l : List α) (i : Nat) (f : α → α) : List α := l.modify i f

/-- The first element that satisfies `p`, with the list without it. -/
def takeFirst {α : Type} (p : α → Bool) : List α → Option (α × List α)
  | [] => none
  | x :: xs => if p x then some (x, xs) else (takeFirst p xs).map fun r => (r.1, x :: r.2)

/-- The element that comes first under a strict order `lt` (earlier elements win ties), with the list without it. -/
def takeMin {α : Type} (lt : α → α → Bool) : List α → Option (α × List α)
  | [] => none
  | x :: xs =>
    match takeMin lt xs with
    | none => some (x, [])
    | some (m, rest) => if lt m x then some (m, x :: rest) else some (x, m :: rest)

end Sys2Proof.Machine
end

