-- ==== Sys2Proof/Machine/Crypto.lean ====
section
/-! DEFINITION. SHA-384 and ECDSA P-384 verification, which the spec names for program images (R355), boot images (R541) and
debug authentication (R554): FIPS 180-4 and FIPS 186. -/

namespace Sys2Proof.Machine

/-! ### SHA-384 -/

/-- The largest `r` below `2 ^ n` above `acc` whose power `k` does not pass `x`, bit by bit from the top. -/
def rootBits (k x : Nat) : Nat → Nat → Nat
  | 0, acc => acc
  | n + 1, acc => rootBits k x n (if (acc + 2 ^ n) ^ k ≤ x then acc + 2 ^ n else acc)

/-- The first 64 bits of the fraction of the `k`-th root of `x`: how FIPS 180-4 gives its constants. -/
def rootFrac (k x : Nat) : Nat := rootBits k (x * 2 ^ (64 * k)) 72 0 % 2 ^ 64

/-- The primes below 410, of which there are 80. -/
def shaPrimes : List Nat := (List.range 410).filter fun n => decide (2 ≤ n) && (List.range 21).all fun d => decide (d < 2 ∨ n = d) || n % d != 0

/-- Round constants: cube roots of the first 80 primes. -/
def shaK : List Nat := shaPrimes.map (rootFrac 3)

/-- Initial values of SHA-384: square roots of the ninth to the sixteenth prime. -/
def shaInit : List Nat := ((shaPrimes.drop 8).take 8).map (rootFrac 2)

def w64 : Nat := 2 ^ 64

/-- Rotation to the right in 64 bits. -/
def rotr64 (n x : Nat) : Nat := x / 2 ^ n + x % 2 ^ n * 2 ^ (64 - n)

/-- One word of the message schedule from the last 16, the newest first. -/
def shaNext (w : List Nat) : Nat :=
  let a := w.getD 14 0
  let b := w.getD 1 0
  let s0 := rotr64 1 a ^^^ rotr64 8 a ^^^ a / 2 ^ 7
  let s1 := rotr64 19 b ^^^ rotr64 61 b ^^^ b / 2 ^ 6
  (w.getD 15 0 + s0 + w.getD 6 0 + s1) % w64

/-- `n` more words of the schedule, newest first. -/
def shaSched : Nat → List Nat → List Nat
  | 0, w => w
  | n + 1, w => shaSched n (shaNext w :: w)

/-- One round on the eight working words. -/
def shaRound (v : List Nat) (kw : Nat × Nat) : List Nat :=
  let g (i : Nat) : Nat := v.getD i 0
  let s1 := rotr64 14 (g 4) ^^^ rotr64 18 (g 4) ^^^ rotr64 41 (g 4)
  let ch := (g 4 &&& g 5) ^^^ ((w64 - 1 - g 4) &&& g 6)
  let t1 := g 7 + s1 + ch + kw.1 + kw.2
  let s0 := rotr64 28 (g 0) ^^^ rotr64 34 (g 0) ^^^ rotr64 39 (g 0)
  let mj := (g 0 &&& g 1) ^^^ (g 0 &&& g 2) ^^^ (g 1 &&& g 2)
  [(t1 + s0 + mj) % w64, g 0, g 1, g 2, (g 3 + t1) % w64, g 4, g 5, g 6]

/-- One block of 128 bytes. -/
def shaBlock (h : List Nat) (blk : List Byte) : List Nat :=
  let w0 := ((List.range 16).map fun i => beNat (slice blk (8 * i) 8)).reverse
  let w := (shaSched 64 w0).reverse
  let v := (shaK.zip w).foldl shaRound h
  (h.zip v).map fun e => (e.1 + e.2) % w64

/-- Big-endian bytes of a number. -/
def beBytes (n x : Nat) : List Byte := (leBytes n x).reverse

def shaPad (m : List Byte) : List Byte :=
  m ++ [0x80] ++ zeros ((239 - m.length % 128) % 128) ++ beBytes 16 (8 * m.length)

def shaBlocks (h : List Nat) (m : List Byte) : Nat → List Nat
  | 0 => h
  | n + 1 => shaBlocks (shaBlock h (m.take 128)) (m.drop 128) n

/-- SHA-384 of a message. -/
def sha384 (m : List Byte) : List Byte :=
  let p := shaPad m
  ((shaBlocks shaInit p (p.length / 128)).take 6).flatMap (beBytes 8)

/-! ### P-384 -/

def p384P : Nat := 2 ^ 384 - 2 ^ 128 - 2 ^ 96 + 2 ^ 32 - 1
def p384N : Nat :=
  0xffffffffffffffffffffffffffffffffffffffffffffffffc7634d81f4372ddf581a0db248b0a77aecec196accc52973
def p384B : Nat :=
  0xb3312fa7e23ee7e4988e056be3f82d19181d9c6efe8141120314088f5013875ac656398d8a2ed19d2a85c8edd3ec2aef
def p384Gx : Nat :=
  0xaa87ca22be8b05378eb1c71ef320ad746e1d3b628ba79b9859f741e082542a385502f25dbf55296c3a545e3872760ab7
def p384Gy : Nat :=
  0x3617de4a96262c6f5d9e98bf9292dc29f8f41dbd289a147ce9da3113b5f0b8c00a60b1ce1d7e819d7a431d7c90ea0e5f

/-- `x` to the power of the low `n` bits of `e`, modulo `m`. -/
def powMod (m : Nat) : Nat → Nat → Nat → Nat
  | 0, _, _ => 1 % m
  | n + 1, x, e => (if e % 2 = 1 then x else 1) * powMod m n (x * x % m) (e / 2) % m

/-- The inverse modulo a prime below 2^384. -/
def invMod (m x : Nat) : Nat := powMod m 384 (x % m) (m - 2)

/-- Sum of two points; `none` is the point at infinity. -/
def p384Add : Option (Nat × Nat) → Option (Nat × Nat) → Option (Nat × Nat)
  | none, q => q
  | q, none => q
  | some (x1, y1), some (x2, y2) =>
    let p := p384P
    if x1 = x2 ∧ (y1 + y2) % p = 0 then none
    else
      let l := if x1 = x2 then (3 * (x1 * x1 % p) + (p - 3)) * invMod p (2 * y1) % p
        else (y2 + p - y1) * invMod p (x2 + p - x1) % p
      let x3 := (l * l + 2 * p - x1 - x2) % p
      some (x3, (l * (x1 + p - x3) + p - y1) % p)

/-- The low `n` bits of `k` times a point. -/
def p384Mul : Nat → Nat → Option (Nat × Nat) → Option (Nat × Nat)
  | 0, _, _ => none
  | n + 1, k, q =>
    let r := p384Mul n (k / 2) (p384Add q q)
    if k % 2 = 1 then p384Add q r else r

/-- An uncompressed public key of 97 bytes on the curve. -/
def p384Key (key : List Byte) : Option (Nat × Nat) :=
  let x := beNat (slice key 1 48)
  let y := beNat (slice key 49 48)
  let p := p384P
  if key.length = 97 ∧ key.headD 0 = 4 ∧ x < p ∧ y < p ∧ y * y % p = (x * x % p * x + (p - 3) * x + p384B) % p
  then some (x, y) else none

/-- ECDSA verification of a signature `r`, `s` of 48 bytes each over a SHA-384 hash. -/
def p384Verify (key hash sig : List Byte) : Bool :=
  match p384Key key with
  | none => false
  | some q =>
    let r := beNat (slice sig 0 48)
    let t := beNat (slice sig 48 48)
    if 1 ≤ r ∧ r < p384N ∧ 1 ≤ t ∧ t < p384N then
      let w := invMod p384N t
      let u1 := beNat hash * w % p384N
      let u2 := r * w % p384N
      match p384Add (p384Mul 384 u1 (some (p384Gx, p384Gy))) (p384Mul 384 u2 (some q)) with
      | some (x, _) => x % p384N == r
      | none => false
    else false

end Sys2Proof.Machine
end

