-- ==== Sys2Proof/Machine/VeWord.lean ====
section
/-! DEFINITION. The operations an instruction word of the vector engine holds (R252 to R254). The spec fixes no
encoding of a word in the microkernel store: `Config.veDecode` is free (notes/assumptions/9). -/

namespace Sys2Proof

/-- ALU operations of R253. -/
inductive VeAlu where
  | iadd | isub | iand | ior | ixor | ishl | ishr | isar | ieq | ilt | iltu | iselect
  | fadd | fmul | fmax | fmin | ffma
  /-- a conversion of FP32 to the format of a code of R130: code, stochastic, NONSAT -/
  | cvt (fmt : Nat) (stoch nonsat : Bool)
  /-- INT32 to FP32 (R141) -/
  | itof
  deriving DecidableEq, Repr, Inhabited

/-- Special functions of R253 and of the epilogue function table (R258). -/
inductive VeSf where
  | exp | rcp | sqrt | rsqrt
  | fn (code : Nat) (alpha : Word)
  deriving DecidableEq, Repr, Inhabited

/-- A source operand: register and the epoch the compiler expects (R167). -/
structure VeSrc where
  reg : Nat
  epoch : Bool
  deriving DecidableEq, Repr, Inhabited

structure VeAluOp where
  op : VeAlu
  /-- BF16: computed in FP32 and rounded once to BF16 (R252) -/
  bf16 : Bool
  dst : Nat
  src : List VeSrc
  deriving DecidableEq, Repr, Inhabited

structure VeRedOp where
  /-- lane maximum; otherwise lane sum -/
  isMax : Bool
  dst : Nat
  src : VeSrc
  /-- reduction register named (R256) -/
  red : Option Nat
  deriving DecidableEq, Repr, Inhabited

/-- One instruction word: up to six operations (R253). -/
structure VeWord where
  alu0 : Option VeAluOp
  alu1 : Option VeAluOp
  sf : Option (VeSf × Nat × VeSrc)
  /-- input stream 0-3 and destination -/
  ld : Option (Nat × Nat)
  /-- output stream 4-5 and source -/
  st : Option (Nat × VeSrc)
  red : Option VeRedOp
  deriving DecidableEq, Repr, Inhabited

end Sys2Proof
end

