-- ==== Sys2Proof/Config.lean ====
section
/-! DEFINITION. Free values: what the spec leaves open. Each is an opaque constant, so no proof sees a value of it;
the ones without operands are applied to the counter `State.free`. notes/assumptions/6 lists them. -/

namespace Sys2Proof.Config

/-- The rate trim that the servo of the time base chooses, before the bounds of R46 cut it. -/
opaque servo : Nat → Int

/-- A word of an Imago set whose content the spec does not fix (R478): a register kept for each requester, a watchdog
count. -/
opaque imagoWord : Nat → Word

/-- Word `i` of a scoreboard entry in an Imago set (R478 gives two words and no layout), from engine, commit number, space,
first and last unit, write. -/
opaque sbWord : Nat → Nat → Bool → Nat → Nat → Bool → Nat → Word

/-- One byte of the SAF random source (R554). -/
opaque random : Nat → Byte

/-- A state word of the management core in an Imago set (R478), whose content the spec does not lay out. -/
opaque mgtWord : Nat → Word

/-- The version string of the MGT image, byte by byte (R499, OD 0x100A): the spec does not place it in the image. -/
opaque mgtVersion : Nat → Byte

/-- The revision of the MGT image (R499, OD 0x1018 sub-index 0x03). -/
opaque mgtRevision : Nat → Nat

/-- Whether a read of an ECC line not written since it came under ECC raises DRAM_UE (R398). -/
opaque eccFresh : Nat → Bool

/-- The operations that the bytes of a microkernel word spell (R252: no encoding is given). -/
opaque veDecode : List Byte → VeWord

/-- The 32-bit element that lane `l` takes from a stream line (R253 gives no element layout). -/
opaque veLoad : List Byte → Nat → Word

/-- Byte `i` of the line that a store writes from a register's 64 lanes and the group exponents that a conversion to KQ8
left with it (R149, R253: no layout is given). -/
opaque veStore : List Word → List Byte → Nat → Byte

/-- The element that a true comparison gives (R253 names the comparison, not its result). -/
opaque veTrue : Word

/-- The element that a shift by 32 or more gives (R253 names the shift, not this case). -/
opaque veShift : Word → Word → Word

/-- The set of the kernel-map cache that a key selects (R234 gives 8 banks of 64 sets and no index). -/
opaque kmcSet : Nat → Nat

/-- The CRC-32C of a Chrysalis image (R427): the spec gives its areas and no layout inside most of them. -/
opaque chryCrc : Nat → Word

/-- Whether a CHAIN STEP is the first of its rows (R264: no field of the epilogue record says so). -/
opaque chainFirst : Nat → Bool

/-- The element format of the groups a GATHER reads, by its descriptor (R238, R312: no operand names it). -/
opaque gatherFmt : List Word → Nat

/-- atan2 of a zero and −0 (R291 states only the case of +0), by the sign of the first. -/
opaque atanNegZero : Bool → Word

/-- Cycles that a request of SEL took (R279, `CYC`): R286 bounds them, nothing fixes them. -/
opaque selCycles : Nat → Word

/-- The set of a translation cache that a page number and a page size select (R404 gives no index). -/
opaque tcSet : Nat → Bool → Nat

/-- Cycles an instruction takes beyond one (R343 binds no figure for misses, waits and divisions). -/
opaque ccCycles : Nat → Nat

/-- The way that a full cache set gives up (R330, R331 name no replacement). -/
opaque victim : Nat → Nat

/-- The set of the directory that a line selects (R416 names 16 ways and no index). -/
opaque dirSet : Nat → Nat

/-- `VDD_CORE` in mV and its current in 0.1 A, by the millisecond of the master (R506 names no source). -/
opaque vcore : Nat → Nat
opaque icore : Nat → Nat

/-- A check word of an array row past the check vector's bytes (R203, R218: no place is given for it). -/
opaque checkBeyond : Nat → Nat → Word

/-- What the field record of an MGT image says (R542 lists its contents and no layout): whether its version is 1 and every
value lies in its range, the CAN FD defaults of R483 in the order of OD 0x2080 where it holds them, the slope of R537. -/
structure FieldRec where
  valid : Bool
  can : Option (List Nat)
  slope : Nat
  deriving DecidableEq, Repr, Inhabited

/-- The reading of the 4 KiB field record. -/
opaque fieldRec : List Byte → FieldRec

end Sys2Proof.Config
end

