-- ==== Sys2Proof/Machine/OdMap.lean ====
section
/-! DEFINITION. The object dictionary's entries: existence, access, length and default of every sub-index
(R389, R405, R421, R445, R449, R451, R474, R475, R483, R499 to R507, R510, R517, and R69, R101, R102). -/

namespace Sys2Proof.Machine

/-- Access rights of R23. -/
inductive OdAcc where
  | ro | rw | wo | const
  deriving DecidableEq, Repr

/-- A row of the dictionary: first sub-index, how many, access, bytes, default value. -/
structure OdRow where
  sub : Nat
  n : Nat
  acc : OdAcc
  len : Nat
  dflt : List Byte
  deriving DecidableEq, Repr

/-- A row whose default is a number. -/
def odN (sub n : Nat) (acc : OdAcc) (len v : Nat) : OdRow := ⟨sub, n, acc, len, leBytes len v⟩

/-- Stream contexts: parsing and timing (R69), voxel settings (R102). -/
def odCtxRows : List OdRow :=
  [odN 1 2 .rw 1 0, odN 3 1 .rw 2 0xFFFF, odN 4 1 .rw 16 0, odN 5 1 .rw 2 2368, odN 6 1 .rw 2 0, odN 7 1 .rw 128 0,
    odN 8 1 .rw 1 0, odN 9 2 .rw 2 1,
    ⟨0x0B, 1, .rw, 48, leBytes 16 0x3F800000 ++ leBytes 16 0x3F800000 ++ leBytes 16 0x3F800000⟩,
    odN 0x0C 1 .rw 1 0, odN 0x0D 1 .rw 2 0, odN 0x0E 1 .rw 4 100000000, odN 0x0F 1 .rw 4 0, odN 0x10 1 .rw 4 200000000,
    odN 0x11 1 .rw 4 1000000, odN 0x12 1 .rw 4 0, odN 0x13 1 .rw 4 100000, odN 0x14 2 .rw 1 0, odN 0x16 1 .rw 4 50000000,
    odN 0x17 1 .rw 1 0, odN 0x20 1 .rw 1 16, odN 0x21 1 .rw 1 1, odN 0x22 1 .rw 1 0, odN 0x23 1 .rw 8 0, odN 0x24 1 .rw 1 4,
    odN 0x25 1 .rw 4 0, odN 0x26 1 .rw 1 0]

/-- Stream groups (R101). -/
def odGroupRows : List OdRow :=
  [odN 1 1 .rw 4 0x3DCCCCCD, odN 2 2 .rw 4 0xC3000000, odN 4 1 .rw 4 0xC1000000, odN 5 2 .rw 4 0x43000000,
    odN 7 1 .rw 4 0x41000000, odN 8 1 .rw 1 0, odN 9 1 .rw 2 0x1F]

/-- The sub-indices of an index; empty where the index does not exist (R498). -/
def odRows (idx : Nat) : List OdRow :=
  if 0x2300 ≤ idx ∧ idx ≤ 0x237F then odCtxRows
  else if 0x2380 ≤ idx ∧ idx ≤ 0x2387 then
    [odN 1 1 .rw 1 0, odN 2 8 .rw 6 0, odN 0x0A 1 .ro 6 0]
  else if 0x23A0 ≤ idx ∧ idx ≤ 0x23AF then [odN 1 1 .rw 2048 0, odN 2 1 .rw 32768 0]
  else if 0x23C0 ≤ idx ∧ idx ≤ 0x23CF then odGroupRows
  else if 0x4020 ≤ idx ∧ idx ≤ 0x4023 then
    [odN 1 1 .rw 1 0, odN 2 1 .rw 1 0, odN 3 1 .rw 2 50, odN 4 1 .rw 1 1, odN 0x10 1 .ro 1 0, odN 0x11 1 .ro 4 0,
      odN 0x12 1 .ro 8 0]
  else match idx with
  | 0x1000 => [odN 0 1 .const 4 0x48160000]
  | 0x1001 => [odN 0 1 .ro 1 0]
  | 0x1003 => [odN 0 1 .rw 1 0, odN 1 16 .ro 4 0]
  | 0x1008 => [⟨0, 1, .const, 8, [0x54, 0x56, 0x47, 0x2D, 0x34, 0x38, 0x31, 0x36]⟩]
  | 0x100A => [odN 0 1 .const 16 0]
  | 0x1017 => [odN 0 1 .rw 2 100]
  | 0x1018 => [odN 1 1 .const 4 0x0D2E, odN 2 1 .const 4 0x48160002, odN 3 2 .const 4 0]
  | 0x2000 => [odN 1 1 .ro 2 0, odN 2 1 .ro 8 0, odN 3 3 .ro 1 0]
  | 0x2080 => [odN 1 2 .rw 1 0x7F, odN 3 1 .rw 1 3, odN 4 1 .rw 1 1, odN 5 1 .rw 1 3, odN 6 2 .ro 1 0, odN 8 1 .ro 4 0]
  | 0x2100 => [odN 1 1 .rw 1 0x1F, odN 2 1 .rw 1 0, odN 3 1 .ro 1 0, odN 4 1 .rw 4 0, odN 5 1 .wo 1 0, odN 6 1 .ro 1 0,
      odN 0x10 8 .rw 320 0, odN 0x20 32 .rw 48 0]
  | 0x2200 => [odN 1 4 .rw 1 0x35, odN 0x11 4 .ro 1 0]
  | 0x2400 => [odN 1 3 .rw 1 0, odN 4 2 .rw 1 248, odN 6 1 .rw 2 10, odN 7 1 .rw 4 1000, odN 8 1 .rw 8 0, odN 9 1 .rw 1 0,
      odN 0x0A 1 .rw 1 20, odN 0x0B 1 .rw 2 50, odN 0x10 1 .ro 1 0, odN 0x11 1 .ro 4 0]
  | 0x2500 => [⟨0x10, 8, .rw, 16, leBytes 2 0 ++ leBytes 2 256 ++ leBytes 2 0 ++ leBytes 2 1024 ++ leBytes 8 3⟩,
      ⟨0x20, 3, .rw, 32, List.replicate 32 0x88⟩, odN 0x30 8 .rw 2 0]
  | 0x2F00 => [odN 1 1 .const 8 0, odN 2 3 .const 1 0, odN 5 1 .const 4 0, odN 6 1 .const 1 0]
  | 0x4000 => [odN 1 1 .rw 1 0xFF, odN 2 1 .rw 1 0, odN 3 1 .rw 2 100, odN 4 1 .wo 1 0, odN 5 1 .wo 4 0, odN 6 1 .ro 2 0,
      odN 0x10 128 .rw 1 3]
  | 0x4001 => [odN 0x10 8 .rw 4 9000, odN 0x18 8 .rw 4 100000, odN 0x20 8 .rw 1 1]
  | 0x4010 => [odN 1 1 .ro 1 0, odN 2 1 .ro 4 0, odN 3 1 .ro 1 0, odN 4 1 .ro 4 0, odN 0x11 27 .ro 4 0]
  | 0x4030 => [⟨1, 8, .rw, 16, leBytes 4 100000000 ++ leBytes 4 0 ++ leBytes 4 10000 ++ leBytes 4 0⟩,
      odN 0x10 1 .rw 1 1, odN 0x11 1 .rw 4 100000000]
  | 0x4100 => [odN 1 1 .ro 1 0, odN 2 1 .ro 4 0, odN 3 1 .rw 4 0, odN 4 1 .ro 64 0, odN 5 1 .ro 4 0, odN 6 1 .ro 1 0,
      odN 7 1 .rw 2 1, odN 8 2 .ro 64 0, odN 0x0A 1 .ro 4 0]
  | 0x4200 => [odN 1 1 .rw 1 0x1F, odN 2 1 .rw 2 0x36BE, odN 3 1 .rw 1 0, odN 4 2 .wo 1 0, odN 6 1 .rw 1 0x1F,
      odN 7 1 .rw 4 0, odN 8 2 .ro 4 0]
  | 0x5000 => [odN 1 4 .ro 2 0, odN 5 1 .ro 1 0, odN 6 3 .ro 4 0, odN 9 1 .ro 8 0, odN 0x0A 1 .ro 2 0]
  | 0x5100 => [odN 1 16 .ro 16 0, odN 0x11 1 .ro 8 0]
  | _ => []

/-- The highest sub-index of a list of rows. -/
def odTop : List OdRow → Nat
  | [] => 0
  | r :: rs => max (r.sub + r.n - 1) (odTop rs)

/-- The row that holds a sub-index. -/
def odFind (sub : Nat) : List OdRow → Option OdRow
  | [] => none
  | r :: rs => if r.sub ≤ sub ∧ sub < r.sub + r.n then some r else odFind sub rs

/-- The row of an entry. Sub-index 0x00 of a RECORD or ARRAY is an RO UNSIGNED8 with the highest sub-index (R493). -/
def odRow (idx sub : Nat) : Option OdRow :=
  match odFind sub (odRows idx) with
  | some r => some r
  | none => if sub = 0 ∧ odRows idx ≠ [] then some (odN 0 1 .ro 1 (odTop (odRows idx))) else none

/-- Storage key of an entry. -/
def odKey (idx sub : Nat) : Nat := idx * 256 + sub

/-- Storage key of an entry kept for each requester (R474, R475). -/
def odKeyR (req idx sub : Nat) : Nat := (1 + req) * 16777216 + odKey idx sub

/-- Default value of a stored entry. -/
def odDefault (k : Nat) : List Byte :=
  match odRow (k % 16777216 / 256) (k % 256) with
  | some r => r.dflt
  | none => []

end Sys2Proof.Machine
end

