-- ==== Sys2Proof/Machine/FaultCode.lean ====
section
/-! DEFINITION. The fault codes of R437, one constructor each, with their 16-bit values and their Job column. -/

namespace Sys2Proof.Machine

/-- The Job column of R437: what a fault of the code does to its job. -/
inductive JobEffect where
  /-- aborts the job, and R432 may restart it -/
  | restartable
  /-- aborts the job with no restart -/
  | aborts
  /-- ends the job FAILED without an attempt -/
  | fails
  /-- aborts no job -/
  | noJob
  /-- refuses a request -/
  | refuses
  deriving DecidableEq, Repr

/-- The codes the device raises (R437, the complete list). -/
inductive FaultCode where
  /-- XLATE_MISS (0x0101): R399, R401. -/
  | xlateMiss
  /-- XLATE_PERM (0x0102): R401. -/
  | xlatePerm
  /-- XLATE_WALK (0x0103): R401. -/
  | xlateWalk
  /-- SAVE_FAULT (0x0104): R428. -/
  | saveFault
  /-- STREAM_DENY (0x0105): R402. -/
  | streamDeny
  /-- RESTORE_FAULT (0x0106): R428. -/
  | restoreFault
  /-- TASK_BOUND (0x0108): R171, R325. -/
  | taskBound
  /-- REGION_UNDECLARED (0x0109): R163. -/
  | regionUndeclared
  /-- SEM_DENY (0x010A): R166. -/
  | semDeny
  /-- WEIGHT_WRITE (0x010B): R185. -/
  | weightWrite
  /-- WEIGHT_CLASS (0x010C): R187. -/
  | weightClass
  /-- REMOTE_DENY (0x010D): R190, R268, R277. -/
  | remoteDeny
  /-- ME_WIDTH (0x010E): R213, R217. -/
  | meWidth
  /-- PACK_CLASS (0x010F): R213. -/
  | packClass
  /-- ME_SHAPE (0x0110): R215, R240. -/
  | meShape
  /-- GE_SHAPE (0x0111): R250, R273. -/
  | geShape
  /-- SITEHASH_FULL (0x0112): R229. -/
  | sitehashFull
  /-- KMAP_OVERFLOW (0x0113): R232, R237. -/
  | kmapOverflow
  /-- VE_SHAPE (0x0114): R258, R260, R310. -/
  | veShape
  /-- SEL_SHAPE (0x0115): R278, R284, R287. -/
  | selShape
  /-- SEL_WINDOW (0x0116): R278. -/
  | selWindow
  /-- DESC_INVALID (0x0117): R307, R321. -/
  | descInvalid
  /-- DE_SHAPE (0x0118): R307, R314. -/
  | deShape
  /-- CC_TRAP (0x0119): R325. -/
  | ccTrap
  /-- CC_ABORT (0x011A): R342. -/
  | ccAbort
  /-- HOST_XFER (0x011B): R314. -/
  | hostXfer
  /-- BASIN_UE (0x0201): R188, R189. -/
  | basinUe
  /-- CISTERN_UE (0x0202): R196. -/
  | cisternUe
  /-- WEIGHT_CRC (0x0203): R186, R187. -/
  | weightCrc
  /-- DMEM_UE (0x0204): R329. -/
  | dmemUe
  /-- DCACHE_UE (0x0205): R331. -/
  | dcacheUe
  /-- DRAM_UE (0x0206): R398. -/
  | dramUe
  /-- DIR_UE (0x0207): R419. -/
  | dirUe
  /-- POND_UE (0x0210): R127. -/
  | pondUe
  /-- RUNNEL_PARITY (0x0211): R159. -/
  | runnelParity
  /-- FEEDER_PARITY (0x0212): R207. -/
  | feederParity
  /-- META_PARITY (0x0213): R227. -/
  | metaParity
  /-- TILELINK_PARITY (0x0214): R263. -/
  | tilelinkParity
  /-- SEL_UE (0x0215): R299. -/
  | selUe
  /-- TEMPLATE_CRC (0x0216): R321. -/
  | templateCrc
  /-- LOCKSTEP (0x0217): R346. -/
  | lockstep
  /-- SKEW (0x0301): R167. -/
  | skew
  /-- SLOT_UNDERRUN (0x0302): R169. -/
  | slotUnderrun
  /-- SLOT_OVERRUN (0x0303): R169. -/
  | slotOverrun
  /-- DEADLOCK (0x0401): R436. -/
  | deadlock
  /-- SEM_OVERFLOW (0x0402): R164. -/
  | semOverflow
  /-- DIR_TIMEOUT (0x0403): R419. -/
  | dirTimeout
  /-- STOP_TIMEOUT (0x0404): R425. -/
  | stopTimeout
  /-- ABFT (0x0501): R220, R221. -/
  | abft
  /-- 0x0600 + `n`: the load codes of R353. -/
  | load (n : Fin 32)
  /-- MISS (0x0701): A result is not committed by its deadline; Safety island. -/
  | miss
  /-- INGRESS_DROP (0x0801): First dropped packet of a sweep. -/
  | ingressDrop
  /-- POSE_REJECT (0x0802): R88, at most once per 10 ms. -/
  | poseReject
  /-- NOPOSE_SLICE (0x0803): R93. -/
  | noposeSlice
  /-- SWEEP_FORCED (0x0804): R80. -/
  | sweepForced
  /-- PTIME_BAD (0x0805): R75. -/
  | ptimeBad
  /-- POND_NOROOM (0x0806): R112. -/
  | pondNoroom
  /-- POND_COARSEN (0x0807): R114. -/
  | pondCoarsen
  /-- HOLD_DROP (0x0808): R118. -/
  | holdDrop
  /-- EMIT_SKIP (0x0809): R123. -/
  | emitSkip
  /-- STREAM_SILENT (0x080A): R82. -/
  | streamSilent
  /-- DISCREPANCY (0x0901): Two-channel inputs disagree for *T*D or longer; Field inputs and outputs. -/
  | discrepancy
  /-- FIELD_SUPPLY (0x0902): `VDD_FIELD` outside its range. -/
  | fieldSupply
  /-- OUT_READBACK (0x0903): A field output reads back a level other than the one driven. -/
  | outReadback
  /-- CAN_BUSOFF (0x0904): A CAN FD channel enters bus-off. -/
  | canBusoff
  /-- SYSCLK_LOSS (0x0A01): `SYSCLK` absent; Clock islands, power and start-up. -/
  | sysclkLoss
  /-- OSC_DIFF (0x0A02): `SYSCLK` and `CLKMON` disagree in the cross-check. -/
  | oscDiff
  /-- ISLAND_CLOCK (0x0A03): An island clock leaves its monitored range. -/
  | islandClock
  /-- RAIL_UNDER (0x0A04): A supply rail below its limit. -/
  | railUnder
  /-- RAIL_OVER (0x0A05): A supply rail above its limit. -/
  | railOver
  /-- THERMAL_THROTTLE (0x0A06): The thermal governor reduces clocks. -/
  | thermalThrottle
  /-- THERMAL_CRIT (0x0A07): Junction above its critical limit. -/
  | thermalCrit
  /-- PWRFAIL (0x0A08): `PWRFAIL_N` asserted, or internal brownout. -/
  | pwrfail
  /-- REPLICA_SKEW (0x0A09): R51. -/
  | replicaSkew
  /-- TAG_BUSY (0x0B01): R368. -/
  | tagBusy
  /-- STALE (0x0B02): R271, R369. -/
  | stale
  /-- HOST_RESET (0x0B03): R385. -/
  | hostReset
  /-- ENTRY_BAD (0x0B04): R368, R377. -/
  | entryBad
  /-- JOB_FULL (0x0B05): R368. -/
  | jobFull
  /-- HANDLE_BAD (0x0B06): R368. -/
  | handleBad
  /-- BIND_BAD (0x0B07): R368, R371. -/
  | bindBad
  /-- SWEEP_GONE (0x0B08): R371. -/
  | sweepGone
  /-- ADMIT_FIT (0x0B09): R372, R411. -/
  | admitFit
  /-- CANCELLED (0x0B0A): R376. -/
  | cancelled
  /-- TAG_UNKNOWN (0x0B0B): R368. -/
  | tagUnknown
  /-- ITEM_LIMIT (0x0B0C): R377. -/
  | itemLimit
  /-- RESULT_NOSPACE (0x0B0D): R381. -/
  | resultNospace
  /-- RING_READ (0x0B0E): R386. -/
  | ringRead
  /-- TABLE_BAD (0x0B0F): R413. -/
  | tableBad
  /-- STS_CHECKER (0x0C01): A checker misses its injected error; Safety island. -/
  | stsChecker
  /-- STS_ARRAY (0x0C02): Startup self-test retires a quad or a core. -/
  | stsArray
  /-- STS_MEMORY (0x0C03): An SRAM fails startup self-test. -/
  | stsMemory
  /-- STS_TIME (0x0C04): Startup self-test exceeds 60 ms. -/
  | stsTime
  /-- SEQ_DISAGREE (0x0D01): The recovery sequencers disagree. -/
  | seqDisagree
  /-- SEQ_WATCHDOG (0x0D02): A recovery sequencer fails its watchdog. -/
  | seqWatchdog
  /-- LATCH_SET (0x0D03): The recovery latch is set. -/
  | latchSet
  /-- LATCH_CLEAR (0x0D04): The recovery latch is cleared. -/
  | latchClear
  /-- JOURNAL_FAIL (0x0D05): The journal memory fails; Journal and Imago snapshots. -/
  | journalFail
  /-- NV_RESUME (0x0D06): NV journal compaction resumes after a reset. -/
  | nvResume
  /-- JOB_RESTART (0x0D07): R432. -/
  | jobRestart
  /-- PART_RESET (0x0D08): R395. -/
  | partReset
  deriving DecidableEq, Repr

/-- The 16-bit value of a code; the high byte is its class (R14). -/
def FaultCode.num : FaultCode → Nat
  | .xlateMiss => 0x0101
  | .xlatePerm => 0x0102
  | .xlateWalk => 0x0103
  | .saveFault => 0x0104
  | .streamDeny => 0x0105
  | .restoreFault => 0x0106
  | .taskBound => 0x0108
  | .regionUndeclared => 0x0109
  | .semDeny => 0x010A
  | .weightWrite => 0x010B
  | .weightClass => 0x010C
  | .remoteDeny => 0x010D
  | .meWidth => 0x010E
  | .packClass => 0x010F
  | .meShape => 0x0110
  | .geShape => 0x0111
  | .sitehashFull => 0x0112
  | .kmapOverflow => 0x0113
  | .veShape => 0x0114
  | .selShape => 0x0115
  | .selWindow => 0x0116
  | .descInvalid => 0x0117
  | .deShape => 0x0118
  | .ccTrap => 0x0119
  | .ccAbort => 0x011A
  | .hostXfer => 0x011B
  | .basinUe => 0x0201
  | .cisternUe => 0x0202
  | .weightCrc => 0x0203
  | .dmemUe => 0x0204
  | .dcacheUe => 0x0205
  | .dramUe => 0x0206
  | .dirUe => 0x0207
  | .pondUe => 0x0210
  | .runnelParity => 0x0211
  | .feederParity => 0x0212
  | .metaParity => 0x0213
  | .tilelinkParity => 0x0214
  | .selUe => 0x0215
  | .templateCrc => 0x0216
  | .lockstep => 0x0217
  | .skew => 0x0301
  | .slotUnderrun => 0x0302
  | .slotOverrun => 0x0303
  | .deadlock => 0x0401
  | .semOverflow => 0x0402
  | .dirTimeout => 0x0403
  | .stopTimeout => 0x0404
  | .abft => 0x0501
  | .miss => 0x0701
  | .ingressDrop => 0x0801
  | .poseReject => 0x0802
  | .noposeSlice => 0x0803
  | .sweepForced => 0x0804
  | .ptimeBad => 0x0805
  | .pondNoroom => 0x0806
  | .pondCoarsen => 0x0807
  | .holdDrop => 0x0808
  | .emitSkip => 0x0809
  | .streamSilent => 0x080A
  | .discrepancy => 0x0901
  | .fieldSupply => 0x0902
  | .outReadback => 0x0903
  | .canBusoff => 0x0904
  | .sysclkLoss => 0x0A01
  | .oscDiff => 0x0A02
  | .islandClock => 0x0A03
  | .railUnder => 0x0A04
  | .railOver => 0x0A05
  | .thermalThrottle => 0x0A06
  | .thermalCrit => 0x0A07
  | .pwrfail => 0x0A08
  | .replicaSkew => 0x0A09
  | .tagBusy => 0x0B01
  | .stale => 0x0B02
  | .hostReset => 0x0B03
  | .entryBad => 0x0B04
  | .jobFull => 0x0B05
  | .handleBad => 0x0B06
  | .bindBad => 0x0B07
  | .sweepGone => 0x0B08
  | .admitFit => 0x0B09
  | .cancelled => 0x0B0A
  | .tagUnknown => 0x0B0B
  | .itemLimit => 0x0B0C
  | .resultNospace => 0x0B0D
  | .ringRead => 0x0B0E
  | .tableBad => 0x0B0F
  | .stsChecker => 0x0C01
  | .stsArray => 0x0C02
  | .stsMemory => 0x0C03
  | .stsTime => 0x0C04
  | .seqDisagree => 0x0D01
  | .seqWatchdog => 0x0D02
  | .latchSet => 0x0D03
  | .latchClear => 0x0D04
  | .journalFail => 0x0D05
  | .nvResume => 0x0D06
  | .jobRestart => 0x0D07
  | .partReset => 0x0D08
  | .load n => 0x0600 + n.val

/-- The Job column of R437. A code marked `AR; N for no job` aborts only where a job is named. -/
def FaultCode.job : FaultCode → JobEffect
  | .xlateMiss => .aborts
  | .xlatePerm => .aborts
  | .xlateWalk => .aborts
  | .saveFault => .restartable
  | .streamDeny => .aborts
  | .restoreFault => .restartable
  | .taskBound => .aborts
  | .regionUndeclared => .aborts
  | .semDeny => .aborts
  | .weightWrite => .aborts
  | .weightClass => .aborts
  | .remoteDeny => .aborts
  | .meWidth => .aborts
  | .packClass => .aborts
  | .meShape => .aborts
  | .geShape => .aborts
  | .sitehashFull => .aborts
  | .kmapOverflow => .aborts
  | .veShape => .aborts
  | .selShape => .aborts
  | .selWindow => .aborts
  | .descInvalid => .aborts
  | .deShape => .aborts
  | .ccTrap => .aborts
  | .ccAbort => .aborts
  | .hostXfer => .restartable
  | .basinUe => .restartable
  | .cisternUe => .restartable
  | .weightCrc => .restartable
  | .dmemUe => .restartable
  | .dcacheUe => .restartable
  | .dramUe => .restartable
  | .dirUe => .restartable
  | .pondUe => .noJob
  | .runnelParity => .restartable
  | .feederParity => .restartable
  | .metaParity => .restartable
  | .tilelinkParity => .restartable
  | .selUe => .restartable
  | .templateCrc => .aborts
  | .lockstep => .restartable
  | .skew => .aborts
  | .slotUnderrun => .aborts
  | .slotOverrun => .aborts
  | .deadlock => .aborts
  | .semOverflow => .aborts
  | .dirTimeout => .aborts
  | .stopTimeout => .restartable
  | .abft => .restartable
  | .miss => .noJob
  | .ingressDrop => .noJob
  | .poseReject => .noJob
  | .noposeSlice => .noJob
  | .sweepForced => .noJob
  | .ptimeBad => .noJob
  | .pondNoroom => .noJob
  | .pondCoarsen => .noJob
  | .holdDrop => .noJob
  | .emitSkip => .noJob
  | .streamSilent => .noJob
  | .discrepancy => .noJob
  | .fieldSupply => .noJob
  | .outReadback => .noJob
  | .canBusoff => .noJob
  | .sysclkLoss => .noJob
  | .oscDiff => .noJob
  | .islandClock => .noJob
  | .railUnder => .noJob
  | .railOver => .noJob
  | .thermalThrottle => .noJob
  | .thermalCrit => .noJob
  | .pwrfail => .noJob
  | .replicaSkew => .noJob
  | .tagBusy => .refuses
  | .stale => .noJob
  | .hostReset => .aborts
  | .entryBad => .refuses
  | .jobFull => .refuses
  | .handleBad => .refuses
  | .bindBad => .refuses
  | .sweepGone => .fails
  | .admitFit => .fails
  | .cancelled => .aborts
  | .tagUnknown => .refuses
  | .itemLimit => .aborts
  | .resultNospace => .restartable
  | .ringRead => .noJob
  | .tableBad => .refuses
  | .stsChecker => .noJob
  | .stsArray => .noJob
  | .stsMemory => .noJob
  | .stsTime => .noJob
  | .seqDisagree => .noJob
  | .seqWatchdog => .noJob
  | .latchSet => .noJob
  | .latchClear => .noJob
  | .journalFail => .noJob
  | .nvResume => .noJob
  | .jobRestart => .noJob
  | .partReset => .aborts
  | .load _ => .refuses

/-- The class byte of a code (R14). -/
def FaultCode.cls (c : FaultCode) : Nat := c.num / 256

end Sys2Proof.Machine
end

