-- ==== Sys2Proof/Machine/StateMgmt.lean ====
section
/-! DEFINITION. The management plane's state: time base, journal, Imago, safety island, object dictionary node,
field bank, clocks and power, boot, debug access. Every structure is plain data; its defaults are the reset
values that notes/assumptions and the spec's tables name. -/

namespace Sys2Proof.Machine

/-! ### Device time (02) -/

/-- Time states of R46, in the code order of `TB_STATUS.STATE`. -/
inductive TbMode where
  | freerun | acquiring | locked | holdover
  deriving DecidableEq, Repr

/-- A two-step Sync that waits for its Follow_Up (R45). -/
structure SyncPend where
  seq : Nat := 0
  /-- master at the arrival of the Sync -/
  rx : Nat := 0
  /-- correction field of the Sync, ns -/
  corr : Int := 0
  deriving DecidableEq, Repr

/-- The time base master in SAF and the replicas' bookkeeping (R42 to R52). -/
structure TimeBase where
  /-- `TS64` of the master (R43: 0 at `PORST_N`) -/
  master : Nat := 0
  /-- accumulated fraction of the trim, in 2^-24 ns (R44) -/
  acc : Int := 0
  /-- rate trim in units of 2^-24 (R44) -/
  trim : Int := 0
  mode : TbMode := .freerun
  /-- last measured offset, source minus master (R61) -/
  offset : Int := 0
  /-- consecutive measurements within 100 ns (R46) -/
  good : Nat := 0
  /-- trims at the last 8 measurements, newest first (R46, HOLDOVER) -/
  trims : List Int := []
  /-- master when HOLDOVER was entered -/
  holdSince : Nat := 0
  /-- `TB_STEP_CNT` (R47) -/
  steps : Nat := 0
  /-- lag of each island's replica behind the master, as last checked (R49, R51) -/
  lag : Vector Int 24 := Vector.replicate 24 0
  /-- steps of the master that the island's replica has not followed yet (R26: it does at its next refresh) -/
  unseen : Vector Int 24 := Vector.replicate 24 0
  /-- the value below which the island's replica does not go back (R50) -/
  hold : Vector Nat 24 := Vector.replicate 24 0
  /-- last stamp taken in each island (R50) -/
  last : Vector Nat 24 := Vector.replicate 24 0
  /-- sides of the backward steps that each island has passed: odd for the `TIME_STEP` record itself (R60) -/
  side : Vector Nat 24 := Vector.replicate 24 0
  /-- consecutive passing refreshes of each island since its skew state was set (R51) -/
  passes : Vector Nat 24 := Vector.replicate 24 0
  skewState : BitVec 24 := 0
  skewFlt : BitVec 24 := 0
  /-- journal sequence number of each island (R54) -/
  seq : Vector Nat 24 := Vector.replicate 24 0
  /-- TAI second that the next `PPS_IN` edge marks (R45, R504) -/
  ppsSec : Nat := 0
  /-- a `PPS_SEC` value written, with the master at that moment (R504) -/
  ppsWrite : Option (Nat × Nat) := none
  /-- ns since `PORST_N`, steps not counted (R506, `UPTIME`) -/
  upNs : Nat := 0
  sync : Option SyncPend := none
  /-- measured peer delay, ns (R45) -/
  pdelay : Int := 0
  /-- sequence and transmit time of the peer-delay request in flight -/
  pdReq : Option (Nat × Nat) := none
  /-- request receipt time at the peer and response receipt time here -/
  pdResp : Option (Nat × Nat) := none
  /-- sequence number of the next gPTP message sent -/
  txSeq : Nat := 0
  /-- foreign Announce messages (R45, OD 0x2400 sub-index 0x11) -/
  foreignAnn : Nat := 0
  deriving DecidableEq, Repr

/-! ### Faults on their way to SAF (R28, R429, R533) -/

/-- The job a fault is raised for: its slot in the job table and its `TAGGEN`. -/
structure JobRef where
  slot : Nat := 0
  taggen : Nat := 0
  deriving DecidableEq, Repr

/-- One fault on the fault path, with what its journal record carries (R463). -/
structure FaultRec where
  code : FaultCode
  isl : Nat
  ts : Nat
  job : Option JobRef
  part : Option Nat
  commit : Option Nat
  core : Option Nat
  /-- engine code of R174, 7 for none -/
  eng : Nat
  /-- detail words of R463 -/
  detail : List Word
  /-- events counted into the record of a COUNT kind -/
  count : Nat
  /-- the job is named and not aborted (R437: an aperture read) -/
  quiet : Bool
  deriving DecidableEq, Repr

/-! ### Journal (19) -/

/-- One journal record of R462; its CRC is computed where it is read. -/
structure JRec where
  seq : Nat := 0
  isl : Nat := 0
  kind : Nat := 0
  code : Nat := 0
  ts : Nat := 0
  /-- offset 0x10: `TAGGEN`, partition, `NOJOB` -/
  tag : Nat := 0
  flags : Nat := 0
  a0 : Nat := 0
  a1 : Nat := 0
  a2 : Nat := 0
  jseq : Nat := 0
  /-- the MODEL's own: the side of the backward steps it stands on (R60), 0 once it is in the ring -/
  side : Nat := 0
  deriving DecidableEq, Repr

/-- A slot of an MRAM bank (R468): empty, torn, or a record. -/
inductive NvSlot where
  | empty
  | torn
  | full (r : JRec)
  deriving DecidableEq, Repr

/-- One MRAM bank: the generation of a valid header, and slots 1 to 2,047 (R468). -/
structure NvBank where
  gen : Option Nat := none
  slots : SMap NvSlot := []
  /-- records appended, slots 1 upward -/
  used : Nat := 0
  deriving DecidableEq, Repr

/-- A running compaction (R469). -/
structure Compaction where
  /-- the next slot of the active bank to copy -/
  src : Nat := 0
  /-- records copied, the SUMMARY record not counted -/
  copied : Nat := 0
  deriving DecidableEq, Repr

/-- The journal in SAF (R462 to R474). -/
structure Journal where
  intake : List JRec := []
  /-- a record was dropped since the last record was written (R464) -/
  dropped : Bool := false
  ring : SMap (Option JRec) := []
  jseq : Nat := 0
  /-- highest `TS64` written (R464, `OOO`) -/
  topTs : Nat := 0
  nvPend : List JRec := []
  bank0 : NvBank := {}
  bank1 : NvBank := {}
  /-- the active bank is bank 1 (R468) -/
  active1 : Bool := false
  compact : Option Compaction := none
  ringFail : Bool := false
  nvFail : Bool := false
  /-- MRAM writing closed after a power failure (R471) -/
  nvClosed : Bool := false
  torn : Nat := 0
  /-- the three copies of the last-word registers (R473) -/
  lastw0 : List Word := []
  lastw1 : List Word := []
  lastw2 : List Word := []
  deriving DecidableEq, Repr

/-! ### Imago (R475 to R481) -/

inductive ImgPhase where
  | empty | pending | transferring | held
  deriving DecidableEq, Repr

/-- One island's captured set (R478); `none` where its clock had failed (NOCLK). -/
structure ImgSet where
  isl : Nat
  /-- the island's sequence number at the capture (R54); the header of R479 has no place for it -/
  seq : Nat
  words : Option (List Word)
  deriving DecidableEq, Repr

structure Imago where
  phase : ImgPhase := .empty
  capno : Nat := 0
  trig : Nat := 0
  capt : Nat := 0
  src : Nat := 0
  req : Nat := 0xFF
  code : Nat := 0
  sets : List ImgSet := []
  missed : Nat := 0
  deriving DecidableEq, Repr

/-! ### Safety island (18) -/

/-- `GLB_STATE.STATE` (R40), without LATCHED, which the recovery latch overlays. -/
inductive DevState where
  | starting | selftest | bringup | ready | safe
  deriving DecidableEq, Repr

/-- One armed entry of the deadline monitor (R452). -/
structure MonEntry where
  taggen : Nat
  part : Nat
  expect : Nat
  /-- deadline, once fixed -/
  deadline : Option Nat
  count : Nat
  deriving DecidableEq, Repr

structure Safety where
  dev : DevState := .starting
  /-- the reasons of R448 in force -/
  why : BitVec 16 := 0x8000
  latch : Bool := false
  /-- `GLB_STATE.STATE` has read READY since the last reset (R497) -/
  everReady : Bool := false
  /-- MGT held in reset after a lockstep mismatch (R441) -/
  mgtDown : Bool := false
  /-- MGT has booted and serves transfers (R490) -/
  mgtUp : Bool := false
  /-- levels driven at `SAFE_A` and `SAFE_B` (R446) -/
  pinA : Bool := false
  pinB : Bool := false
  /-- levels read back at the balls -/
  rbA : Bool := false
  rbB : Bool := false
  /-- master at which the last MISS of each partition was raised (R448, AUTO) -/
  missAt : Vector Nat 8 := Vector.replicate 8 0
  /-- an on-time result of the partition has committed after its last MISS -/
  onTime : Vector Bool 8 := Vector.replicate 8 false
  /-- deadline monitor, by job slot (R452) -/
  mon : SMap (Option MonEntry) := []
  seqAgree : Bool := true
  seqShadow : Bool := true
  seqPrimary : Bool := true
  /-- action words compared (R461) -/
  seqCnt : Nat := 0
  /-- fault Weir of each island into SAF, oldest first (R533) -/
  weirs : Vector (List FaultRec) 24 := Vector.replicate 24 []
  /-- faults that wait at their source for room in the full Weir of their island, oldest first (R531, R533) -/
  stalls : Vector (List FaultRec) 24 := Vector.replicate 24 []
  /-- faults raised so far, for the order of faults of one island and stamp (R58, R431) -/
  raised : Nat := 0
  /-- faults not queued, to be added to the next COUNT record of their code: `(isl, code, count)` (R533) -/
  lost : List (Nat × Nat × Nat) := []
  /-- last time a rate-limited record was written, by code and partition, with events since (R463, R369, R88) -/
  rate : SMap (Nat × Nat) := []
  /-- results of the last test that ended: OD 0x4010 by sub-index (R444, R445) -/
  sts : SMap Nat := []
  /-- tests ended since `PORST_N` (R445) -/
  stsRuns : Nat := 0
  /-- `SAF_STS_STATUS` (R461) and `SAF_STS_FAIL` -/
  stsStatus : Nat := 0x3000000
  stsFail : BitVec 64 := 0
  slack : Nat := 0xFFFFFFFF
  /-- the self-test runs since this master count -/
  stsSince : Option Nat := none
  /-- islands other than SAF held in reset until `PORST_N` (R551, R576) -/
  hold : Bool := false
  /-- the reason of that hold is a TAP instruction (R551) -/
  tapHold : Bool := false
  pwrFail : Bool := false
  deriving DecidableEq, Repr

/-! ### CANopen FD node (20) -/

inductive CanErr where
  | active | passive | busoff
  deriving DecidableEq, Repr

/-- NMT states of R486. -/
inductive Nmt where
  | initialising | preop | operational | stopped
  deriving DecidableEq, Repr

/-- One queued emergency frame (R488, R489). -/
structure Emcy where
  fcode : Nat
  er : Nat
  pmask : Nat
  count : Nat
  ts : Nat
  /-- numbers of the events merged that the error history has not taken yet (R489) -/
  evs : List Nat
  deriving DecidableEq, Repr

/-- A USDO session (R496): what has been exchanged so far. -/
structure Usdo where
  idx : Nat
  sub : Nat
  write : Bool
  /-- bytes announced -/
  len : Nat
  /-- a write: bytes received; a read: bytes still to send -/
  data : List Byte
  /-- master at the client's last frame -/
  last : Nat
  deriving DecidableEq, Repr

structure CanCh where
  /-- settings applied at the last reset communication or boot (R483) -/
  enabled : Bool := false
  node : Nat := 0x7F
  arb : Nat := 3
  data : Nat := 1
  err : CanErr := .active
  nmt : Nmt := .initialising
  /-- NMT state to return to after bus-off (R484) -/
  nmtBack : Nmt := .preop
  session : Option Usdo := none
  /-- master at which the next heartbeat is due (R487) -/
  hbNext : Option Nat := none
  emq : List Emcy := []
  deriving DecidableEq, Repr

/-- One OD mailbox (R491). -/
structure Mbx where
  /-- `HST_MBX_STATUS.STATE`: 0 IDLE, 1 BUSY, 2 DONE, 3 ABORTED -/
  state : Nat := 0
  addr : Nat := 0
  len : Nat := 0
  irq : Nat := 0
  abort : Nat := 0
  rlen : Nat := 0
  count : Nat := 0
  data : SMap Byte := []
  deriving DecidableEq, Repr

/-- A transfer that MGT holds whole, in order of completion (R495). Requesters: 0 CAN0, 1 CAN1, 2-5 mailboxes
H0-H3, 6 the debug port's mailbox. -/
structure OdXfer where
  req : Nat
  write : Bool
  idx : Nat
  sub : Nat
  data : List Byte
  /-- the requester still waits for the answer (R484, R486, R491) -/
  live : Bool := true
  deriving DecidableEq, Repr

structure Node where
  odq : List OdXfer := []
  /-- `REJ` of OD 0x2100 by requester (R389) -/
  rej : Vector Nat 7 := Vector.replicate 7 0
  /-- mailboxes of H0-H3, then the debug port's (R491) -/
  mbx : Vector Mbx 5 := Vector.replicate 5 {}
  can0 : CanCh := {}
  can1 : CanCh := {}
  /-- frames ignored under R482 -/
  canErr : Nat := 0
  /-- error history of OD 0x1003, newest first (R499) -/
  history : List Nat := []
  /-- `FAULT_N` is held low until this master count (R524) -/
  faultHold : Nat := 0
  faultHolding : Bool := false
  /-- events before MGT has booted: code, partitions, `TS64` (R488) -/
  early : List (Nat × Nat × Nat) := []
  /-- number of the next emergency event -/
  nextEv : Nat := 0
  /-- OD 0x1001 as MGT last saw it, for the error-reset frame of R489 -/
  erLast : Nat := 0
  /-- conflict counters as MGT last sampled them, by 4 x core + sum (R507) -/
  confLast : SMap Nat := []
  deriving DecidableEq, Repr

/-! ### Field bank (21) -/

structure SinSt where
  active : Bool := false
  armed : Bool := false
  disc : Bool := false
  cnt : Nat := 0
  aAct : Bool := false
  bAct : Bool := false
  aPin : Bool := false
  bPin : Bool := false
  changed : Nat := 0
  deriving DecidableEq, Repr

structure TrigSt where
  /-- level driven -/
  drive : Bool := false
  /-- a pulse is in progress, to end at this instant -/
  until_ : Option Nat := none
  /-- the output may start a pulse only at a grid instant at or after this one (R518, R519) -/
  notBefore : Nat := 0
  rb : Bool := false
  rbFail : Bool := false
  pulses : Nat := 0
  /-- master at the last change of the driven level (R520) -/
  changedAt : Nat := 0
  deriving DecidableEq, Repr

structure Fio where
  supply : Bool := false
  sin : Vector SinSt 4 := Vector.replicate 4 {}
  trig : Vector TrigSt 8 := Vector.replicate 8 {}
  ppsOut : Bool := false
  ppsUntil : Option Nat := none
  ppsRb : Bool := false
  ppsRbFail : Bool := false
  ppsChangedAt : Nat := 0
  /-- whole second at which `PPS_OUT` last rose -/
  ppsLast : Nat := 0
  imagoIn : Bool := false
  ppsIn : Bool := false
  ppsInTs : Nat := 0
  ppsSeen : Bool := false
  deriving DecidableEq, Repr

/-! ### Clocks, power, start-up (22, 24) -/

structure Clocks where
  /-- clock factor of each core (R527) -/
  k : Vector Nat 16 := Vector.replicate 16 16
  target : Vector Nat 16 := Vector.replicate 16 16
  /-- current level of each core (R536) -/
  level : Vector Nat 16 := Vector.replicate 16 0
  /-- core served last by the slope governor (R537) -/
  lastLevel : Nat := 15
  /-- core stepped last by the thermal governor (R574) -/
  lastStep : Nat := 15
  /-- slope S in A/us (R537, R538) -/
  slope : Nat := 5
  /-- every core has stood at k = 16 since the last THERMAL_THROTTLE (R575) -/
  armed16 : Bool := true
  /-- junction sensors, 1/16 degree C: two for each KC island, then one for each of islands 16-23 (R573) -/
  sensors : List Int := []
  /-- estimated device power averaged over 10 ms, 0.1 W (R574) -/
  pAvg : Nat := 0
  /-- islands clocked since bring-up (R548, `CLK_STATUS.RUN` without the gating of cores) -/
  run : BitVec 24 := 0x800000
  fail : BitVec 24 := 0
  osc : Nat := 0
  /-- islands whose monitor has raised and has not passed since (R530) -/
  failing : BitVec 24 := 0
  sysFailing : Bool := false
  /-- rails in range (R548) -/
  railsOk : BitVec 7 := 0
  deriving DecidableEq, Repr

/-- What the fuses hold (R40, R499, R505, R541, R553). -/
structure Fuses where
  step : Nat := 1
  aq2m : Bool := false
  keyHash : List (List Byte) := []
  revoked : List Bool := []
  svn : Nat := 0
  /-- 0 OPEN, 1 AUTH, 2 CLOSED (R562) -/
  dbgMode : Nat := 0
  serial : Nat := 0
  lot : List Byte := zeros 8
  wafer : Nat := 1
  dieX : Nat := 0
  dieY : Nat := 0
  testDate : Nat := 0
  speedBin : Nat := 1
  /-- the fuse base address of the sensor MACs, as a 48-bit number (R63) -/
  macBase : Nat := 0
  deriving DecidableEq, Repr

structure Boot where
  /-- `PWR_BOOT` fields (R548) -/
  svn : Nat := 0
  fail : Nat := 0
  tried : Nat := 0
  slot : Nat := 0
  stage : Nat := 0
  /-- `PWR_RST_CAUSE` -/
  cause : Nat := 2
  /-- `GLB_CAP.MEMCAP` and `CORE_PRESENT`, `GLB_WIDTH` codes (R40) -/
  memcap : Nat := 0
  corePresent : BitVec 16 := 0
  width : Vector Nat 16 := Vector.replicate 16 0xF
  /-- the MGT image accepted with the SAF image (R541, R543) -/
  mgtImage : List Byte := []
  /-- start of SAF after the reset, for the times of R442 -/
  since : Nat := 0
  deriving DecidableEq, Repr

/-! ### Debug access (23) -/

/-- Halt requests, steps and breaks of one core (R557 to R562). -/
structure HaltSt where
  pending : Bool := false
  /-- instructions retired since the deferred request entered a locked sequence (R558) -/
  deferred : Nat := 0
  /-- one step runs (R559) -/
  stepping : Bool := false
  /-- a STOP waits for the placed descriptors before its capture (R561) -/
  stopWait : Bool := false
  brkCnt : Nat := 0
  brkMode : Nat := 0
  deriving DecidableEq, Repr

structure Debug where
  en : Bool := false
  authFail : Bool := false
  /-- an authentication has passed since the last reset (R553) -/
  authOk : Bool := false
  /-- the check of R554 runs, with what it finds in the nonce, key and signature it took -/
  checking : Option Bool := none
  pmask : BitVec 8 := 0
  core : Nat := 0
  gpr : Nat := 0
  brkTag : Nat := 0
  nonce : List Byte := []
  /-- the nonce has not been used for a check -/
  nonceFresh : Bool := false
  auth : SMap Byte := []
  cores : Vector HaltSt 16 := Vector.replicate 16 {}
  /-- the TAP's current instruction (R549) -/
  ir : Nat := 0x02
  /-- boundary-scan cells last captured, and those of the update stage, which EXTEST and CLAMP drive (R551) -/
  bsr : List Bool := []
  bsrOut : List Bool := []
  /-- DBGAP capture: data and status of the last access (R552) -/
  apData : Nat := 0
  apStat : Nat := 0
  deriving DecidableEq, Repr

end Sys2Proof.Machine
end

