-- ==== Sys2Proof/Machine/StateCtrl.lean ====
section
/-! DEFINITION. The control plane's state: partitions, Sluices, translation, tables, loader, host rings, job table,
coherence directory, data caches, DRAM, control cores. -/

namespace Sys2Proof.Machine

/-! ### Partitions (16) -/

/-- A ring pointer pair and the rest of one ring set (R364 to R366, R388). -/
structure RingSet where
  sqBase : Nat := 0
  cqBase : Nat := 0
  rqBase : Nat := 0
  sqLog : Nat := 4
  cqLog : Nat := 6
  rqLog : Nat := 0x13
  en : Bool := false
  vec : Nat := 0
  coal : Nat := 0
  coalt : Nat := 0
  sqTail : Nat := 0
  sqHead : Nat := 0
  cqHead : Nat := 0
  cqTail : Nat := 0
  rqHead : Nat := 0
  rqTail : Nat := 0
  ringErr : Bool := false
  cqRsv : Nat := 0
  accept : Nat := 0
  refuse : Nat := 0
  lastRefCode : Nat := 0
  lastRefIdx : Nat := 0
  /-- phase of the next record (R379) -/
  phase : Bool := true
  /-- records written since the last MSI-X (R387) -/
  unsig : Nat := 0
  /-- master at the first unsignalled record -/
  unsigAt : Nat := 0
  deriving DecidableEq, Repr

/-- One version of a lookup table (R411). -/
structure TblVer where
  addr : Nat
  shards : Nat
  shstride : Nat
  len : Nat
  deriving DecidableEq, Repr

structure TblEntry where
  cur : Option TblVer := none
  standby : Option TblVer := none
  ver : Nat := 0
  deriving DecidableEq, Repr

/-- A running table operation (R412): 1 LOAD, 2 SWAP, 3 DROP. -/
structure TblOp where
  op : Nat
  id : Nat
  src : Nat
  dst : Nat
  len : Nat
  crc : Nat
  shards : Nat
  shstride : Nat
  /-- bytes copied (LOAD) -/
  copied : Nat
  /-- jobs admitted before the command, by slot and `TAGGEN` (SWAP, DROP) -/
  waits : List JobRef
  /-- the owning port was reset: no TABLE record (R415) -/
  silent : Bool
  deriving DecidableEq, Repr

/-- A partition reset in progress (R395). -/
structure PartResetSt where
  /-- the later of the end of step 3 and the last final record -/
  since : Nat
  deriving DecidableEq, Repr

/-- A load request on a channel (R348). -/
structure LoadReq where
  unload : Bool
  handle : Nat
  src : Nat
  dst : Nat
  len : Nat
  cores : BitVec 16
  form : Nat
  /-- 0 queued, 1 copying, 2 verified and installing -/
  stage : Nat
  /-- the write-protected range is in force (R349) -/
  prot : Bool
  deriving DecidableEq, Repr

/-- Result registers of a load channel (R361). -/
structure LoadCh where
  req : Option LoadReq := none
  /-- `PRT_LD_STATUS.STATE` -/
  state : Nat := 0
  busy : Bool := false
  rej : Nat := 0
  rejOff : Nat := 0
  handle : Nat := 0
  doneCnt : Nat := 0
  deriving DecidableEq, Repr

/-- One entry of a translation cache (R404): agent, partition, page size and leaf. -/
structure TcEntry where
  agent : Nat
  part : Nat
  /-- 2 MiB pages -/
  big : Bool
  vpn : Nat
  w : Bool
  page : Nat
  /-- its parity shows an error -/
  bad : Bool
  deriving DecidableEq, Repr

structure Part where
  /-- the partition record, 320 bytes of R390 -/
  record : List Byte := zeros 320
  rings : RingSet := {}
  /-- an entry fetched and not yet decided: its index and bytes (R368) -/
  fetched : Option (Nat × List Byte) := none
  tables : Vector TblEntry 16 := Vector.replicate 16 {}
  tblOp : Option TblOp := none
  tblState : Nat := 0
  tblId : Nat := 0
  tblCode : Nat := 0
  tblPause : Bool := false
  reset : Option PartResetSt := none
  ld : LoadCh := {}
  /-- a translation copy in progress: source, destination, length, bytes copied (R403) -/
  mmuCopy : Option (Nat × Nat × Nat × Nat) := none
  mmuState : Nat := 0
  mmuRej : Nat := 0
  /-- MEM tokens by channel, FAB tokens (R406, R408) -/
  memTok : Vector Nat 8 := Vector.replicate 8 0
  fabTok : Nat := 0
  memLines : Nat := 0
  preCnt : Nat := 0
  restartCnt : Nat := 0
  fltCode : Nat := 0
  /-- generation of each tag (R369) -/
  gens : SMap Nat := []
  deriving DecidableEq, Repr

/-! ### Jobs (15) -/

/-- States of R375. -/
inductive JobState where
  | free | queued | running | preempted | draining | restarting | done | failed
  deriving DecidableEq, Repr

/-- A binding of R370 with what its resolution gave (R371). -/
inductive Binding where
  | none
  | stream (ctx : Nat) (next : Bool) (seq : Nat)
  | hostbuf (addr : Nat)
  deriving DecidableEq, Repr

/-- A resolved binding: what the binding area of R374 and the deadline of R373 need. -/
structure Resolved where
  addr : Nat
  space : Nat
  core : Nat
  flags : Nat
  levels : Nat
  nsites : Nat
  tref : Nat
  noroom : Nat
  /-- context and sweep sequence of the tensor -/
  ctx : Nat
  seq : Nat
  /-- the stream slot it names, with its sweep sequence -/
  slot : Option (Nat × Nat)
  deriving DecidableEq, Repr

/-- How an attempt ended or is ending. -/
structure EndCause where
  code : Nat
  ts : Nat
  /-- island and sequence number, for the order of R58 -/
  isl : Nat
  seq : Nat
  restart : Bool
  cancel : Bool
  deriving DecidableEq, Repr

/-- An item record held back until an aborted attempt ends (R431): core, commit number, code, event. -/
structure ItemRec where
  core : Nat
  commit : Nat
  code : Nat
  ev : Nat
  /-- island and place among the raised faults, for the order of R58 -/
  isl : Nat := 0
  ord : Nat := 0
  deriving DecidableEq, Repr

/-- One job of the job table. -/
structure Job where
  st : JobState := .free
  part : Nat := 0
  tag : Nat := 0
  gen : Nat := 0
  handle : Nat := 0
  restart : Nat := 0
  nitem : Nat := 0
  budget : Nat := 0
  binds : List Binding := []
  res : List (Option Resolved) := []
  args : List Byte := []
  entryIdx : Nat := 0
  port : Nat := 0
  /-- state changes are stamped (R375) -/
  ts : Nat := 0
  /-- order of acceptance, for R372 -/
  order : Nat := 0
  attempt : Nat := 0
  restarts : Nat := 0
  /-- reserved slots still held, the final record's included -/
  rsv : Nat := 0
  items : Nat := 0
  itemsAll : Nat := 0
  /-- items created by earlier attempts -/
  itemsPrev : Nat := 0
  tref : Nat := 0
  deadline : Option Nat := none
  admitTs : Nat := 0
  /-- rank of R421, taken at admission -/
  cls : Nat := 0
  prio : Nat := 0
  nopre : Bool := false
  /-- cores of the job, core index ascending, with the context taken on each -/
  cores : List (Nat × Nat) := []
  /-- cores whose control core has not ended -/
  live : List Nat := []
  /-- the fault or cancel that ends the attempt -/
  cause : Option EndCause := none
  /-- a cancel has arrived (R376, R432) -/
  cancelled : Bool := false
  /-- the port was reset: no records (R385) -/
  silent : Bool := false
  /-- units that the abort has still to reach: cores, 32 for SEL, 33 for HST -/
  abortTo : List Nat := []
  /-- items draining: core, commit number, and the end of the 2 us of that core (R430) -/
  draining : List (Nat × Nat × Nat) := []
  /-- records of the aborted attempt, still to be written: FAILED, DONE of drained items, ABORTED, RESULT -/
  failRec : List ItemRec := []
  doneRec : List ItemRec := []
  abortRec : List ItemRec := []
  resRec : List ItemRec := []
  /-- a MASK of the attempt wrote a 0 bit (R245) -/
  predicted : Bool := false
  /-- a result of the last attempt carried INVALID (R380) -/
  invalid : Bool := false
  /-- the job ran while a skew state was set (R51) -/
  skewed : Bool := false
  /-- its monitor entry was met, or owes no result (R453, R454) -/
  met : Bool := false
  /-- last retirement's `TS64` (R27) -/
  lastRetire : Nat := 0
  /-- `TS64` of the last control core's END (R342) -/
  endTs : Nat := 0
  /-- `TS64` at which the attempt began: an earlier fault is of an earlier attempt -/
  startTs : Nat := 0
  /-- watchdog count in fifths of a cycle (FAB) (R435) -/
  wd : Nat := 0
  /-- the fault that ended the last attempt (R380) -/
  lastCause : Option EndCause := none
  /-- a reset of the partition: no restart (R395) -/
  noRestart : Bool := false
  finalTs : Nat := 0
  dcut : Nat := 40
  width : Nat := 64
  /-- snapshot of the table directory (R411) -/
  tsnap : List (Nat × TblEntry) := []
  deriving DecidableEq, Repr

/-- A loaded program (R357, R358). -/
structure Program where
  part : Nat
  gen : Nat
  dst : Nat
  len : Nat
  form : Nat
  width : Nat
  ncore : Nat
  cores : List Nat
  basin : Nat
  cis : Nat
  dmem : Nat
  wwin : Nat
  dcut : Nat
  kdwin : Nat
  entries : List Nat
  /-- IOVA and length of the CODE section of each core index -/
  code : List (Nat × Nat)
  /-- template numbers and microkernel words held, by core: (core, template), (core, first, count) -/
  tpls : List (Nat × Nat)
  ukerns : List (Nat × Nat × Nat)
  deriving DecidableEq, Repr

/-- One write the device makes outside itself, in order. -/
inductive OutEvent where
  /-- a memory write to host `port` (R363) -/
  | hostWrite (port addr : Nat) (data : List Byte)
  /-- an MSI-X message -/
  | msix (port vec : Nat)
  /-- a frame on a CAN FD channel: identifier and data -/
  | can (ch id : Nat) (data : List Byte)
  /-- a USDO response: SDO abort code (0 for none) and the bytes carried (R496, R497) -/
  | usdo (ch id abort : Nat) (data : List Byte)
  /-- a gPTP message on a sensor MAC: kind (0 Sync, 8 Follow_Up, 11 Announce, 2 Pdelay_Req, 3 Pdelay_Resp,
  10 Pdelay_Resp_Follow_Up), sequence, time or settings carried -/
  | gptp (mac kind seq : Nat) (val : Nat) (val2 : Nat)
  /-- what an OD transfer that no channel or mailbox carried answers: requester, SDO abort code, bytes read (R495) -/
  | od (req abort : Nat) (data : List Byte)
  deriving DecidableEq, Repr

structure HostPort where
  linkUp : Bool := false
  speed : Nat := 0
  width : Nat := 0
  staleCnt : Nat := 0
  msixCnt : Nat := 0
  /-- MSI-X table: masked vectors and pending bits (R362, R387) -/
  mask : BitVec 64 := 0xFFFFFFFFFFFFFFFF
  pba : BitVec 64 := 0
  msixTbl : SMap Word := []
  perst : Bool := true
  deriving DecidableEq, Repr

structure Hst where
  ports : Vector HostPort 4 := Vector.replicate 4 {}
  /-- job table, slot 64 p + j (R369) -/
  jobs : SMap Job := []
  /-- acceptance order -/
  nextOrder : Nat := 0
  progs : Vector (Option Program) 64 := Vector.replicate 64 none
  progGen : Vector Nat 64 := Vector.replicate 64 0
  /-- load channels waiting, in command order (R348) -/
  ldQueue : List Nat := []
  results : Nat := 0
  misses : Nat := 0
  points : Nat := 0
  deriving DecidableEq, Repr

/-! ### Coherence (R416 to R419) -/

/-- Directory state of a line. -/
inductive DirState where
  | s (sharers : BitVec 16)
  | m (owner : Nat)
  deriving DecidableEq, Repr

/-- Messages from the directory to a cache. -/
inductive DirMsg where
  | fwdS (line req : Nat)
  | fwdM (line req : Nat)
  | recallKeep (line : Nat)
  | inv (line : Nat)
  | putAck (line : Nat)
  deriving DecidableEq, Repr

/-- Answers of a cache to the directory, with the `TS64` they carry (R57). -/
inductive DirAns where
  | ack (line core ts : Nat)
  /-- data of a forwarded or recalled line; `none` where the line was uncorrectable (R331) -/
  | data (line core : Nat) (bytes : Option (List Byte)) (ts : Nat)
  deriving DecidableEq, Repr

/-- Who asked for a transaction, and what it wants. -/
inductive DirReq where
  | getS (core line : Nat)
  | getM (core line : Nat)
  | putM (core line : Nat) (bytes : List Byte)
  | read (line : Nat)
  | write (line : Nat) (bytes : List Byte)
  deriving DecidableEq, Repr

/-- A request on its way to the directory, or waiting there behind its line: for whom, and the `TS64` it carries (R57). -/
structure DirWait where
  req : DirReq
  job : Option JobRef
  ts : Nat
  deriving DecidableEq, Repr

/-- A transaction of one line waiting for answers. -/
structure DirTxn where
  req : DirReq
  line : Nat
  /-- caches whose answer is outstanding -/
  await : List Nat
  job : Option JobRef
  ts : Nat
  deriving DecidableEq, Repr

structure Dir where
  entries : SMap (Option DirState) := []
  txns : List DirTxn := []
  /-- requests waiting behind a transaction of their line, in order of arrival -/
  wait : List DirWait := []
  toCache : Vector (List DirMsg) 16 := Vector.replicate 16 []
  toDir : List DirAns := []
  /-- lines poisoned by a lost message, until their partition is reset (R419) -/
  poisoned : List Nat := []
  /-- bits in error, by line (R419) -/
  upset : SMap Nat := []
  deriving DecidableEq, Repr

/-- A line of a data cache (R331). -/
structure DcLine where
  line : Nat
  dirty : Bool
  bytes : List Byte
  /-- bits in error of each 64-bit word; none where the list is short -/
  up : List Nat
  deriving DecidableEq, Repr

/-- A line of an instruction cache (R330): partition, IOVA of the line, bytes. -/
structure IcLine where
  part : Nat
  iova : Nat
  bytes : List Byte
  /-- its parity shows an error -/
  bad : Bool
  deriving DecidableEq, Repr

structure DCache where
  lines : List DcLine := []
  /-- eviction buffer (R418) -/
  evict : List DcLine := []
  /-- the miss in flight: line, exclusive -/
  miss : Option (Nat × Bool) := none
  deriving DecidableEq, Repr

/-! ### DRAM (R396 to R398) -/

structure Dram where
  mem : SMap Byte := []
  /-- lines with one or two bits in error, as reads find them -/
  upset : SMap Nat := []
  /-- address ranges that a record write brought under ECC, and the lines of them written since (R398) -/
  fresh : List (Nat × Nat) := []
  written : SMap Bool := []
  /-- metadata lines that each channel caches, by 2 KiB of data (R398) -/
  metaLines : Vector (List Nat) 8 := Vector.replicate 8 []
  /-- next line of the 24 h patrol -/
  patrol : Nat := 0
  /-- the millisecond of the last counted line access, the line accesses in it and in the one before (R506) -/
  winNo : Nat := 0
  lines : Nat := 0
  linesLast : Nat := 0
  deriving DecidableEq, Repr

/-! ### Control core (13) -/

/-- One hart of the pair. -/
structure Hart where
  pc : Nat := 0
  x : Vector Word 32 := Vector.replicate 32 0
  deriving DecidableEq, Repr

/-- Status of `KC_CC_STATUS.STATE` (R347). -/
inductive CcState where
  | idle | running | qcommit | swait | ended | halted | stopped
  deriving DecidableEq, Repr

/-- What R344 saves, with the leader and the checker. -/
structure CcCtx where
  leader : Hart := {}
  checker : Hart := {}
  cycle : Nat := 0
  instret : Nat := 0
  kdwin : Nat := 0
  preg : Vector Word 64 := Vector.replicate 64 0
  stage : Vector Word 16 := Vector.replicate 16 0
  /-- `KC_STAGE.WRITTEN` -/
  written : BitVec 16 := 0
  tsrd : Nat := 0
  /-- commit number of the next descriptor (R316) -/
  commit : Nat := 0
  red : Vector Word 8 := Vector.replicate 8 0
  ge : Word := 0
  /-- reservation: word address, and device line in the DRAM window (R332) -/
  rsv : Option (Nat × Option Nat) := none
  /-- the master at the last `LR.W` to the DRAM window: the cache defers snoops for 64 cycles (R332) -/
  rsvAt : Nat := 0
  /-- halted by debug: cause of `DBG_CORE_INFO`, `FORCED` (R557, R559) -/
  halt : Option (Nat × Bool) := none
  /-- a break has halted before this commit, which passes once the core is resumed (R561) -/
  passBrk : Bool := false
  /-- pc of the first QPUSH of the open sequence (R558) -/
  seqPc : Option Nat := none
  /-- a stalled commit: its `rd`, and the template where it names one (R155) -/
  pendCommit : Option (Nat × Option Nat) := none
  /-- a stalled `SWAIT`: semaphore code and count (R336) -/
  pendWait : Option (Nat × Nat) := none
  st : CcState := .idle
  deriving DecidableEq, Repr

end Sys2Proof.Machine
end

