-- ==== Sys2Proof/Machine/StateCore.lean ====
section
/-! DEFINITION. One Kobel core's state (06 to 10, 13): task contexts, Runnels, scoreboard, semaphores, rings,
memories and engines, and the messages between cores. -/

namespace Sys2Proof.Machine

/-- States of `KC_TCn_STATE` (R174). -/
inductive TcState where
  | free | admitted | running | preempted | draining
  deriving DecidableEq, Repr

/-- A descriptor in a Runnel (R155, R159). -/
structure QDesc where
  /-- the 16 words of R301 -/
  w : List Word
  commit : Nat
  /-- parity of each word, as stored at its commit -/
  par : BitVec 16
  deriving DecidableEq, Repr

/-- An entry of the scoreboard (R160, R161): engine, commit number, space (true Cistern), first and last unit after
relocation, write. -/
structure SbEntry where
  eng : Nat
  commit : Nat
  cis : Bool
  lo : Nat
  hi : Nat
  write : Bool
  deriving DecidableEq, Repr

/-- A result in flight in the VE: the cycle it lands in, its register, its lanes, the word that issued it, and the
reduction register it stages. `idx` is the word's index in the microkernel. -/
structure VeLand where
  due : Nat
  reg : Nat
  lanes : List Word
  idx : Nat
  red : Option Nat
  /-- cycle in which its word issued -/
  at_ : Nat
  /-- exponents of its groups where it is KQ8 (R149) -/
  exps : List Byte
  deriving DecidableEq, Repr

/-- A microkernel under way (R252 to R256). -/
structure VeProg where
  /-- words issued so far, over all trips -/
  k : Nat := 0
  land : List VeLand := []
  epochs : BitVec 64 := 0
  /-- lines moved on each of the six streams -/
  pos : List Nat := [0, 0, 0, 0, 0, 0]
  reds : List (Nat × Word) := []
  /-- the stream table as it was read at issue (R310): kind, ring, first line, lines -/
  strms : List (Nat × Nat × Nat × Nat) := []
  deriving DecidableEq, Repr

/-- A descriptor issued and not retired. -/
structure Flight where
  eng : Nat
  d : QDesc
  issueTs : Nat
  /-- every access is made: the descriptor may retire -/
  done : Bool := false
  /-- code and `TS64` of the fault that stopped it (R430) -/
  failed : Option (Nat × Nat) := none
  /-- island and place among the raised faults of that fault (R431) -/
  failIsl : Nat := 0
  failOrd : Nat := 0
  /-- a SELREQ whose request SEL holds (R275, R279) -/
  selw : Bool := false
  /-- pieces of an XFER moved (R410) -/
  pos : Nat := 0
  /-- remote accesses not yet performed (R191) -/
  outst : Nat := 0
  /-- a pass whose tile is loaded and which has not started (R209) -/
  loading : Bool := false
  /-- weight and check lines in the shadow, and the bias lines (R208) -/
  tile : List (List Byte) := []
  /-- value posted to the GE value at retirement (R313) -/
  geVal : Option Nat := none
  /-- reduction registers staged (R256) -/
  reds : List (Nat × Word) := []
  ve : Option VeProg := none
  deriving DecidableEq, Repr

/-- A Basin ring of R169 (RINGSET, R314), with the forward channel that feeds it (R268). -/
structure Ring where
  base : Nat
  slotl : Nat
  prod : Nat
  cons : Nat
  checked : Bool
  full : List Bool
  /-- next slot the producer and the consumer stream takes -/
  wr : Nat := 0
  rd : Nat := 0
  /-- core, channel and setup count of the sender -/
  feeder : Option (Nat × Nat × Nat) := none
  deriving DecidableEq, Repr

/-- A forward channel (R268). -/
structure FwdCh where
  valid : Bool := false
  tcore : Nat := 0
  tring : Nat := 0
  setup : Nat := 0
  credits : Nat := 0
  slots : Nat := 0
  slotl : Nat := 0
  next : Nat := 0
  deriving DecidableEq, Repr

/-- A line in the tile link (R262, R263). -/
structure LinkLine where
  bytes : List Byte
  /-- its parity shows an error -/
  bad : Bool
  deriving DecidableEq, Repr

/-! ### Messages between cores (R190, R191, R268 to R271) -/

/-- Where a line read by an XFER goes. -/
inductive XDest where
  | basin (off : Nat)
  | cis (off : Nat)
  | dmem (off : Nat)
  | dram (iova : Nat)
  | host (addr : Nat)
  | remote (core off : Nat)
  deriving DecidableEq, Repr

/-- What a remote access does at the target core. -/
inductive RemOp where
  | read (off : Nat) (dst : XDest)
  | write (off : Nat) (line : List Byte)
  /-- accumulate a row of entries: entry offset, FP32, values -/
  | acc (off : Nat) (fp : Bool) (vals : List Word)
  deriving DecidableEq, Repr

structure RemReq where
  src : Nat
  eng : Nat
  commit : Nat
  taggen : Nat
  part : Nat
  dst : Nat
  op : RemOp
  /-- `TS64` that the message carries (R57) -/
  ts : Nat
  /-- place in the order of issue (R191), and the pair it belongs to (R251) -/
  ord : Nat
  idx : Nat
  deriving DecidableEq, Repr

/-- A line of a SEND on its way to the target ring. -/
structure Landing where
  src : Nat
  commit : Nat
  ch : Nat
  taggen : Nat
  part : Nat
  setup : Nat
  dst : Nat
  ring : Nat
  slot : Nat
  k : Nat
  line : List Byte
  last : Bool
  /-- `TS64` that the message carries (R57) -/
  ts : Nat
  /-- place in the order of issue (R191) -/
  ord : Nat
  deriving DecidableEq, Repr

structure Credit where
  dst : Nat
  ch : Nat
  part : Nat
  taggen : Nat
  setup : Nat
  /-- `TS64` that the message carries (R57) -/
  ts : Nat
  deriving DecidableEq, Repr

/-- What a Chrysalis image holds of a context (R427), and what the running context uses. -/
structure CtxRun where
  cc : CcCtx := {}
  sems : Vector Nat 32 := Vector.replicate 32 0
  runnels : Vector (List QDesc) 5 := Vector.replicate 5 []
  flight : List Flight := []
  sb : List SbEntry := []
  rings : Vector (Option Ring) 16 := Vector.replicate 16 none
  fwd : Vector FwdCh 8 := Vector.replicate 8 {}
  /-- Compressor cursors: byte and record (R247) -/
  cur : Vector (Nat × Nat) 4 := Vector.replicate 4 (0, 0)
  /-- vector registers, an unlisted one all zero -/
  vregs : SMap (List Word) := []
  /-- exponents of the groups of a register that holds KQ8 (R149) -/
  vexps : SMap (List Byte) := []
  /-- lane generators (R138, R257) -/
  gens : List Word := List.replicate 64 1
  /-- complete tiles in the tile link, and the lines of the one being written (R262) -/
  link : List (List LinkLine) := []
  linkPart : List LinkLine := []
  /-- `TS64` of the stop request (R427) -/
  stopTs : Nat := 0
  /-- remote accesses and landing writes that a stopped descriptor has still to make (R424) -/
  rem : List RemReq := []
  land : List Landing := []
  deriving DecidableEq, Repr

/-- The header of a Chrysalis image (R427). -/
structure ChryHdr where
  magic : Nat
  taggen : Nat
  stopTs : Nat
  commit : Nat
  /-- CRC-32C over bytes 0x40 to 0xC57F of the image -/
  crc : Word
  deriving DecidableEq, Repr

/-- A task context (R170). -/
structure TaskCtx where
  st : TcState := .free
  part : Nat := 0
  taggen : Nat := 0
  slot : Nat := 0
  /-- index of the core within the job, and the job's cores -/
  idx : Nat := 0
  ncore : Nat := 0
  basinBase : Nat := 0
  basinBound : Nat := 0
  cisBase : Nat := 0
  cisBound : Nat := 0
  dmemBase : Nat := 0
  dmemBound : Nat := 0
  dcut : Nat := 40
  /-- state to start or resume with: a fresh start, or the Chrysalis image of a PREEMPTED context (R328, R426) -/
  saved : Option CtxRun := none
  /-- header of the image, once the save is complete (R427, R428) -/
  hdr : Option ChryHdr := none
  deriving DecidableEq, Repr

/-- A stop in progress on a core (R424, R425): the context that preempts, and the master at the request. -/
structure StopReq where
  by_ : Nat
  since : Nat
  /-- every engine has stopped: the save runs -/
  saving : Bool
  deriving DecidableEq, Repr

/-- An entry of the template store (R320). -/
structure Template where
  words : List Word
  patches : List Word
  crc : Nat
  part : Nat
  prog : Nat
  deriving DecidableEq, Repr

/-- A weight window: owner, base and bound in 4 KiB units (R184). -/
structure WeightWin where
  part : Nat
  base : Nat
  bound : Nat
  deriving DecidableEq, Repr

structure Core where
  ctx : Vector TaskCtx 8 := Vector.replicate 8 {}
  /-- number of the RUNNING context -/
  active : Option Nat := none
  run : CtxRun := {}
  /-- the Runnel that issued last (R157) -/
  rr : Nat := 4
  stop : Option StopReq := none
  /-- the preempting context that has still to issue, and the master at its stop request (`PRT_PRE_MAX`) -/
  pre : Option (Nat × Nat) := none
  /-- a lockstep mismatch is forced at the next output of the pair (R345) -/
  mismatch : Bool := false
  dmem : SMap Byte := []
  /-- bits in error, by DMEM word, Basin word and Cistern entry -/
  dmemUp : SMap Nat := []
  basin : SMap Byte := []
  basinCls : SMap Bool := []
  basinUp : SMap Nat := []
  cis : SMap Word := []
  cisUp : SMap Nat := []
  dc : DCache := {}
  /-- the instruction cache, most recently filled first (R330) -/
  ic : List IcLine := []
  ww : Vector (Option WeightWin) 8 := Vector.replicate 8 none
  /-- windows that wait for the contexts of their partitions to be FREE (R184) -/
  wwNext : Option (Vector (Option WeightWin) 8) := none
  /-- weight blocks: state of `KC_WBLK_STATE` and CRC of `KC_WBLK_CRC` -/
  wblk : SMap (Nat × Nat) := []
  scrub : Nat := 0
  /-- the block under the scrubber has stayed VALID since its first line (R189) -/
  scrubOk : Bool := false
  tpl : Vector (Option Template) 64 := Vector.replicate 64 none
  /-- microkernel store: bytes of each of the 4,096 words (R252) -/
  ukern : SMap (List Byte) := []
  /-- site whose wavefront meets a parity error at the feeder queues of the next pass (R207) -/
  feedBad : Option Nat := none
  /-- kernel-map cache: keys and the results of their lookups, most recently used first (R234) -/
  kmc : List (Nat × Option Nat) := []
  /-- retired quads and cause of a retired core (`ME_COLMAP`) -/
  quads : BitVec 16 := 0xFFFF
  cause : Nat := 0
  deriving DecidableEq, Repr

/-- A waiter for chip-wide semaphores: core, Runnel (5 for `SWAIT`) and commit number, the master at its arrival. -/
structure SemWaiter where
  core : Nat
  who : Nat
  commit : Nat
  at_ : Nat
  deriving DecidableEq, Repr

structure FabQ where
  remote : List RemReq := []
  landing : List Landing := []
  credit : List Credit := []
  /-- number of the next access in the order of issue -/
  next : Nat := 0
  /-- who waits for a chip-wide semaphore, in order of arrival (R165) -/
  semq : List SemWaiter := []
  deriving DecidableEq, Repr

end Sys2Proof.Machine
end

