-- ==== Sys2Proof/Machine/StateData.lean ====
section
/-! DEFINITION. The data plane outside the cores: ING (03), VOX (04), SEL (11), and the messages between islands. FP32
values stand as their bits in a `Nat`. -/

namespace Sys2Proof.Machine

/-! ### ING -/

/-- A committed pose (R87, R88), its quaternion normalised. -/
structure Pose where
  ts : Nat
  /-- w, x, y, z -/
  q : List Nat
  p : List Nat
  v : List Nat
  w : List Nat
  epoch : Nat
  velValid : Bool
  deriving DecidableEq, Repr

/-- An open slice (R84): start, index in the sweep, transform of R92 row by row, `NOPOSE`. -/
structure SliceSt where
  start : Nat
  idx : Nat
  xf : List Nat
  nopose : Bool
  /-- stamp of its open (R53) -/
  openTs : Nat
  deriving DecidableEq, Repr

/-- One stream context in ING (03). -/
structure StreamCtx where
  en : Bool := false
  /-- disabled while a block of it is still being read or parsed (R70) -/
  closing : Bool := false
  /-- a sweep is open -/
  sweepOpen : Bool := false
  degraded : Bool := false
  nopose : Bool := false
  /-- `ING_CTXs_SEQ`, and the sequence of the next sweep -/
  seq : Nat := 0
  nextSeq : Nat := 0
  tref : Nat := 0
  openAt : Nat := 0
  pts : Nat := 0
  drops : Nat := 0
  slices : Nat := 0
  nopSlices : Nat := 0
  /-- `u` of the last accepted point (R80) -/
  uprev : Nat := 0
  slice : Option SliceSt := none
  /-- open and close stamps of the last slice that closed (R53) -/
  sliceTs : Nat × Nat := (0, 0)
  /-- index of the last slice, for `ING_CTXs_STATE` -/
  lastIdx : Nat := 0
  /-- start of the sweep's first slice -/
  first : Nat := 0
  /-- epoch of the sweep, and the pose at its reference time: quaternion and translation -/
  epoch : Option Nat := none
  pref : Option (List Nat × List Nat) := none
  /-- extrinsics in force since the sweep's open: rotation row by row, then translation -/
  ext : List Nat := []
  /-- `Tg` of R82 -/
  gapFrom : Nat := 0
  /-- a gap has been declared since the last accepted point -/
  silent : Bool := false
  /-- a packet of this sweep was dropped, a packet time of it was replaced (R93) -/
  dropSeen : Bool := false
  ptimeSeen : Bool := false
  deriving DecidableEq, Repr

/-- A packet, or an injected block read in full, that waits for its parser. -/
structure Pkt where
  ctx : Nat
  /-- arrival stamp (R53) -/
  at_ : Nat
  payload : List Byte
  /-- bytes taken in the receive buffer -/
  room : Nat
  deriving DecidableEq, Repr

/-- An entry of an injection queue (R66). -/
structure InjBlk where
  ctx : Nat
  addr : Nat
  len : Nat
  deriving DecidableEq, Repr

/-- A sweep summary (R83), or a gap (R82). -/
structure SweepSum where
  ctx : Nat
  seq : Nat
  tref : Nat
  openAt : Nat
  close : Nat
  pts : Nat
  drops : Nat
  slices : Nat
  nopSlices : Nat
  nopose : Bool
  degraded : Bool
  gap : Bool
  deriving DecidableEq, Repr

/-- A point on its way to the deskew unit. -/
structure RawPt where
  ctx : Nat
  row : Nat
  col : Nat
  range : Nat
  int : Nat
  ret : Nat
  late : Bool
  nopose : Bool
  slice : Nat
  xf : List Nat
  /-- its `TS32` (R53, R76) -/
  ts32 : Nat
  deriving DecidableEq, Repr

/-- What waits before the deskew unit, in order of arrival. -/
inductive IngItem where
  | pt (p : RawPt)
  | sum (x : SweepSum)
  deriving DecidableEq, Repr

/-- A deskewed point record (R96). -/
structure PointRec where
  ctx : Nat
  x : Nat
  y : Nat
  z : Nat
  int : Nat
  colw : Nat
  row : Nat
  slice : Nat
  /-- `TS64` that the message to VOX carries (R52) -/
  ts : Nat := 0
  deriving DecidableEq, Repr

/-- What waits in the Weir to VOX, or in the hold buffer. -/
inductive VoxIn where
  | pt (p : PointRec)
  | sum (x : SweepSum)
  deriving DecidableEq, Repr

structure Ing where
  ctx : Vector StreamCtx 128 := Vector.replicate 128 {}
  link : BitVec 8 := 0
  /-- received packets by MAC, oldest first (R65) -/
  macs : Vector (List Pkt) 8 := Vector.replicate 8 []
  /-- injected blocks read in full -/
  blocks : List Pkt := []
  /-- injection queues by host port (R66); the head of each is being read -/
  inj : Vector (List InjBlk) 4 := Vector.replicate 4 []
  /-- the pose ring, oldest first (R88) -/
  poses : List Pose := []
  poseRej : Nat := 0
  deskew : List IngItem := []
  deriving DecidableEq, Repr

/-! ### VOX -/

/-- A LIVE Pond entry (R108), with its place in the order of creation. -/
structure PondEntry where
  key : Nat
  count : Nat
  x : Nat
  y : Nat
  z : Nat
  int : Nat
  colw : Nat
  row : Nat
  slice : Nat
  meta_ : Nat
  ts : Nat
  born : Nat
  deriving DecidableEq, Repr

/-- State of a Pond slot. -/
inductive PondSlot where
  | empty
  | tomb
  | live (e : PondEntry)
  deriving DecidableEq, Repr

/-- What a slot of a context's ring holds (R119, R123). -/
structure EmitInfo where
  seq : Nat
  nsites : Nat
  levels : Nat
  flags : Nat
  tref : Nat
  noroom : Nat
  deriving DecidableEq, Repr

/-- One stream context in VOX (04). -/
structure VoxCtx where
  pages : Nat := 0
  /-- the context was enabled again while its old allotment still held a sweep (R104): the new pages replace it once
  that sweep has been emitted or skipped -/
  renew : Bool := false
  table : SMap PondSlot := []
  /-- bits in error, by 64-bit word (R127): words 0 to 3 of slot `j` at 8j to 8j + 3, the word of the states of slots 32n to
  32n + 31 at 256n + 4 -/
  up : SMap Nat := []
  live : Nat := 0
  /-- highest LIVE count of the open sweep, and `VOX_CTXs_PEAK` -/
  high : Nat := 0
  peak : Nat := 0
  born : Nat := 0
  /-- points have been inserted since the last sweep -/
  inserting : Bool := false
  level : Nat := 0
  /-- a coarsening request: the `SLICE` of the point that set it (R113) -/
  req : Option Nat := none
  folding : Bool := false
  partial_ : Bool := false
  degraded : Bool := false
  /-- `SLICE` of the last point inserted (R113) -/
  lastSlice : Nat := 0
  noroom : Nat := 0
  noroomSeen : Bool := false
  /-- sweeps of the context behind the closed one that lost a point at the hold buffer (R118): 0 for the next one, and so on -/
  holdLost : List Nat := []
  /-- the closed sweep that waits for its emission or is being emitted -/
  sealed : Option SweepSum := none
  emitting : Bool := false
  clearing : Bool := false
  /-- `VOX_CTXs_SEQ`; whether any sweep has been emitted or skipped -/
  seq : Nat := 0
  anySeq : Bool := false
  slots : Vector (Option EmitInfo) 16 := Vector.replicate 16 none
  /-- `INV`, and `FEAT_MASK` at `ENABLE` -/
  inv : Nat := 0
  feat : Nat := 0
  deriving DecidableEq, Repr

/-- A sweep-ready on its way to the job table (R119, R123). -/
structure Ready where
  ctx : Nat
  seq : Nat
  skipped : Bool
  /-- the jobs whose bindings waited for the sweep when it left, with the `TAGGEN` each message carries (R369) -/
  refs : List JobRef
  deriving DecidableEq, Repr

structure Vox where
  ctx : Vector VoxCtx 128 := Vector.replicate 128 {}
  weir : List VoxIn := []
  hold : List VoxIn := []
  ready : List Ready := []
  /-- `VOX_STATUS.LAST_REJ` -/
  lastRej : Nat := 0
  deriving DecidableEq, Repr

/-! ### SEL -/

/-- A request (R275, R276). -/
structure SelReq where
  part : Nat
  slot : Nat
  taggen : Nat
  core : Nat
  commit : Nat
  attempt : Nat
  blk : List Byte
  /-- master since which it has waited for result space (R381) -/
  waits : Option Nat := none
  /-- `TS64` that the message to SEL carries (R57) -/
  ts : Nat := 0
  deriving DecidableEq, Repr

/-- A BOXES result: its header as SEL leaves it, its allocation in the result ring, its status record. -/
structure SelRes where
  req : SelReq
  header : List Byte
  alloc : Nat
  nbox : Nat
  status : List Byte
  /-- stamp of the hand-off (R52) -/
  ts : Nat := 0
  deriving DecidableEq, Repr

structure Sel where
  /-- requests on their way to SEL -/
  arr : List SelReq := []
  queue : Vector (List SelReq) 8 := Vector.replicate 8 []
  /-- the result that SEL has still to hand off -/
  done : Option SelRes := none
  /-- bits in error in the word of the key store or sort buffer that the next request uses (R299) -/
  up : Nat := 0
  /-- results handed to HST and not committed -/
  handed : List SelRes := []
  deriving DecidableEq, Repr

end Sys2Proof.Machine
end

