-- ==== Sys2Proof/Machine/State.lean ====
section
/-! DEFINITION. The whole state of the TVG-4816 as plain data, the state after `PORST_N`, and the two closed types of
stops. -/

namespace Sys2Proof.Machine

/-- Everything the spec gives the machine, and the queue of commands. -/
structure State where
  /-- commands that wait, first in, first out -/
  pending : List Instr := []
  /-- the MODEL's own: free values already used (notes/assumptions/6) -/
  free : Nat := 0
  /-- stored registers and counters, by bank and BAR0 address; an unlisted key reads its reset value -/
  regs : SMap Word := []
  /-- high words latched by `_LO` reads, by requester and address (R22) -/
  latch : SMap Nat := []
  /-- low words staged by `_LO` writes, by requester and address (R22) -/
  stage : SMap Nat := []
  /-- data of the last read completion of each requester -/
  reply : Vector DWord 9 := Vector.replicate 9 0
  /-- stored object dictionary values, by 256 x index + sub-index (per requester where an entry is kept so) -/
  od : SMap (List Byte) := []
  /-- budgets of OD 0x2500 in force since the last major frame (R405) -/
  budget : SMap (List Byte) := []
  /-- number of the current slot of the major frame (R409) -/
  slotNo : Nat := 0
  /-- major frame of that slot (R405) -/
  frameNo : Nat := 0
  /-- the whole microsecond of the last refill of the Sluices (R406) -/
  sluiceUs : Nat := 0
  /-- partition that VOX, SEL and host DMA served last in an OPEN slot (R409) -/
  openLast : Vector Nat 3 := Vector.replicate 3 7
  tb : TimeBase := {}
  jr : Journal := {}
  img : Imago := {}
  saf : Safety := {}
  node : Node := {}
  fio : Fio := {}
  clk : Clocks := {}
  fuses : Fuses := {}
  /-- the external flash, by offset; an erased byte reads 0xFF -/
  flash : SMap Byte := []
  boot : Boot := {}
  dbg : Debug := {}
  parts : Vector Part 8 := Vector.replicate 8 {}
  hst : Hst := {}
  dir : Dir := {}
  dram : Dram := {}
  /-- translation caches (R404), most recently used first -/
  tc : List TcEntry := []
  /-- chip-wide semaphores (R166) -/
  sems : Vector Nat 64 := Vector.replicate 64 0
  kc : Vector Core 16 := Vector.replicate 16 {}
  /-- accesses and credits under way between cores -/
  fab : FabQ := {}
  ing : Ing := {}
  vox : Vox := {}
  sel : Sel := {}
  /-- what the device has sent outside, oldest first -/
  out : List OutEvent := []
  deriving DecidableEq, Repr

/-- Faults that stop the MODEL. The part's own fault codes are state (`FaultCode`), never a stop. -/
inductive Fault where
  /-- raised by no command: the part has no behaviour that stops it for good (safe) -/
  | none
  deriving DecidableEq, Repr

/-- Commands the model has no meaning for. -/
inductive Refusal where
  /-- a command whose meaning is not written; raised by Dispatch only (safe) -/
  | notModelled (mnemonic : String)
  deriving DecidableEq, Repr

/-- The state after `PORST_N` (R16, R43, R442 and the reset columns of the register tables). -/
def State.reset : State := {}

end Sys2Proof.Machine
end

