-- ==== Sys2Proof/Machine/Ops.lean ====
section
/-! DEFINITION. Shared operations of every plane: stored registers and counters, stamps (R49 to R53), the journal's
intake (R462 to R464), the reasons of the safe state (R448), emergency messages (R488, R489), the fault path
(R28, R533), outputs. -/

namespace Sys2Proof.Machine

/-! ### Requesters -/

/-- `GLB_REQ` code of a requester (R40). -/
def reqCode : Requester → Nat
  | .host h => h.val
  | .mbx h => 4 + h.val
  | .dbg => 8

/-- Number of an OD requester, in the tie order of R495: CAN0, CAN1, mailboxes H0-H3, debug port. -/
def odReqNo : OdReq → Nat
  | .can c => c.val
  | .mbx h => 2 + h.val
  | .dbg => 6

/-! ### Stored registers -/

/-- Key of a stored register: bank and BAR0 address (bank 0 where the register is not kept per requester or port). -/
def rkey (bank addr : Nat) : Nat := bank * 67108864 + addr

/-- Reset value of a stored register: `PRT_TBL_GEOM` of every partition 1 (R420), every other 0. -/
def regReset (k : Nat) : Word :=
  if 0x0100000 ≤ k ∧ k < 0x0200000 ∧ k % 0x20000 = 0x10118 then 1 else 0

def regGet (s : State) (k : Nat) : Word := smGet regReset s.regs k

def regPut (k : Nat) (v : Word) (s : State) : State := { s with regs := smSet regReset s.regs k v }

/-- A 32-bit counter that saturates (R20). -/
def regCount (k d : Nat) (s : State) : State :=
  regPut k (BitVec.ofNat 32 (satAdd 32 (regGet s k).toNat d)) s

/-- A 32-bit counter whose Meaning says that it wraps. -/
def regWrap (k d : Nat) (s : State) : State := regPut k (regGet s k + BitVec.ofNat 32 d) s

/-- A counter in bits `[lo+len-1:lo]` of a register, saturating at all ones. -/
def regCountField (k lo len d : Nat) (s : State) : State :=
  let v := (regGet s k).toNat
  regPut k (BitVec.ofNat 32 (putBits v lo len (satAdd len (bits v lo len) d))) s

/-- Records a first-since-read register: written only while bit `valid` of it is 0. -/
def regFirst (k valid : Nat) (v : Nat) (s : State) : State :=
  if bitOf (regGet s k).toNat valid then s else regPut k (BitVec.ofNat 32 v) s

/-- `GLB_IGNWR_CNT` of the requester (R21). -/
def ignWrite (r : Requester) (s : State) : State := regCount (rkey (1 + reqCode r) 0x20) 1 s

/-- `GLB_DENY_CNT` of the requester (R40). -/
def denyAccess (r : Requester) (s : State) : State := regCount (rkey (1 + reqCode r) 0x24) 1 s

/-- The data of a read completion. -/
def setReply (r : Requester) (v : Nat) (s : State) : State :=
  { s with reply := vset s.reply (reqCode r) (BitVec.ofNat 64 v) }

/-! ### Object dictionary storage -/

def odGet (s : State) (idx sub : Nat) : List Byte := smGet odDefault s.od (odKey idx sub)

def odNat (s : State) (idx sub : Nat) : Nat := leNat (odGet s idx sub)

def odPut (idx sub : Nat) (v : List Byte) (s : State) : State := { s with od := smSet odDefault s.od (odKey idx sub) v }

def odGetR (s : State) (req idx sub : Nat) : List Byte := smGet odDefault s.od (odKeyR req idx sub)

def odPutR (req idx sub : Nat) (v : List Byte) (s : State) : State :=
  { s with od := smSet odDefault s.od (odKeyR req idx sub) v }

/-! ### Outputs -/

def emitOut (e : OutEvent) (s : State) : State := { s with out := s.out ++ [e] }

/-! ### Free values -/

/-- Uses one free value: its number, and the state with the counter advanced (notes/assumptions/6). -/
def takeFree (s : State) : Nat × State := (s.free, { s with free := s.free + 1 })

/-! ### DRAM traffic (R506) -/

/-- Counts a line access in its millisecond of the master (R506). -/
def dramCount (s : State) : State :=
  let d := s.dram
  let w := s.tb.master / 1000000
  if d.winNo = w then { s with dram := { d with lines := d.lines + 1 } }
  else { s with dram := { d with winNo := w, lines := 1, linesLast := if d.winNo + 1 = w then d.lines else 0 } }

/-- DRAM traffic over the last whole millisecond, in 0.1 GB/s (R506). -/
def dramTraffic (s : State) : Nat :=
  let d := s.dram
  let w := s.tb.master / 1000000
  (if d.winNo = w then d.linesLast else if d.winNo + 1 = w then d.lines else 0) * 64 / 100000

/-! ### Stamps (R49 to R53) -/

/-- The master as island `i` knows it: a step reaches a replica at the island's next refresh (R26). -/
def masterAt (s : State) (i : Nat) : Nat := ((s.tb.master : Int) - vget s.tb.unseen i 0).toNat

/-- The replica of island `i`: the master it knows less the island's lag, held where a refresh would move it backwards
(R49, R50). SAF reads the master itself. -/
def replica (s : State) (i : Nat) : Nat :=
  if i = 23 then s.tb.master
  else max (vget s.tb.hold i 0) ((s.tb.master : Int) - vget s.tb.unseen i 0 - vget s.tb.lag i 0).toNat

/-- The master that bounds a stamp of island `i`: a carried stamp may follow a step the island has not seen. -/
def stampTop (s : State) (i : Nat) : Nat := max (masterAt s i) s.tb.master

/-- A stamp of island `i` for an effect whose cause in another island carries `cause` (0 where nothing crossed a Weir):
the replica, raised above the cause (R52) and never below the island's last stamp (R50); at most 1 ns above the master
(R49). -/
def stampOf (s : State) (i cause : Nat) : Nat :=
  min (max (replica s i) (stampTop s i + 1)) (max (max (vget s.tb.last i 0) (replica s i)) (if cause = 0 then 0 else cause + 1))

/-- Keeps a stamp as the island's last, so that stamps never decrease (R50). -/
def keepStamp (i ts : Nat) (s : State) : State := { s with tb := { s.tb with last := vset s.tb.last i ts } }

/-- A message whose `TS64` lies 1 ns above the master has not finished its crossing: the carried stamp of R52 does not
exceed the master (notes/assumptions/18). -/
def crossed (s : State) (i ts : Nat) : Bool := ts != stampTop s i + 1

/-- Island `i` takes a message that carries `ts`: no later stamp of it stands at `ts` or below (R50, R52). -/
def arrive (i ts : Nat) (s : State) : State := keepStamp i (stampOf s i ts) s

/-! ### Addresses of the sensor MACs (R63) -/

/-- The unicast address of MAC `m`: the fuse base address plus `m`. -/
def macUnicast (s : State) (m : Nat) : List Byte := (leBytes 6 (s.fuses.macBase + m)).reverse

/-! ### Device state -/

/-- A device held under R443. -/
def held (s : State) : Bool := s.saf.dev == .safe

/-- `GLB_STATE.STATE` (R40, R460). -/
def devCode (s : State) : Nat :=
  if s.saf.latch then 5
  else match s.saf.dev with
  | .starting => 0
  | .selftest => 1
  | .bringup => 2
  | .ready => 3
  | .safe => 4

/-- `STATE` reads READY: the blocks other than SAF and MGT serve (R41, R460). -/
def isReady (s : State) : Bool := devCode s == 3 && !s.saf.hold

/-- Any core below k = 16 (R499 bit 3, THERMAL_THROTTLE in force). -/
def throttled (s : State) : Bool := s.clk.k.toList.any (· < 16)

/-- OD index 0x1001 (R499). -/
def errReg (s : State) : Nat :=
  bitAt (s.saf.why != 0) 0 + bitAt (s.saf.why.getLsbD 10) 2 + bitAt (s.saf.why.getLsbD 11 || throttled s) 3
    + bitAt (s.node.can0.err != .active || s.node.can1.err != .active) 4 + bitAt (s.saf.latch || held s) 7

/-! ### Journal intake -/

/-- Classes whose FAULT, STATE and JOB records are NV-eligible (R467). -/
def nvClass (c : Nat) : Bool := [1, 2, 3, 4, 5, 7, 9, 0xA, 0xC, 0xD].contains c

/-- NV-eligibility of a record (R467). -/
def nvEligible (r : JRec) : Bool :=
  (([1, 2, 4].contains r.kind) && nvClass (r.code / 256)) || r.kind == 3

/-- A record reaches the intake of 256; a full intake drops and counts it (R464). -/
def intakePut (r : JRec) (s : State) : State :=
  if s.jr.intake.length < 256 then { s with jr := { s.jr with intake := s.jr.intake ++ [r] } }
  else regCount (rkey 0 0x0402008) 1 { s with jr := { s.jr with dropped := true } }

/-- `NOJOB` (R462, offset 0x10). -/
def noJobTag (part : Option Nat) : Nat := 0x8000000 + (part.getD 0) * 0x1000000

/-- Offset 0x10 of a record for a job. -/
def jobTag (taggen part : Nat) : Nat := taggen % 0x1000000 + part % 8 * 0x1000000

/-- Originates a record in island `i` (R54, R462): takes the island's sequence number. -/
def journal (i kind code ts tag a0 a1 a2 : Nat) (s : State) : State :=
  let q := vget s.tb.seq i 0
  let r : JRec := { seq := q, isl := i, kind := kind, code := code, ts := ts, tag := tag, a0 := a0, a1 := a1, a2 := a2,
                    side := vget s.tb.side i 0 }
  let r := { r with flags := if nvEligible r then 1 else 0 }
  intakePut r { s with tb := { s.tb with seq := vset s.tb.seq i (wrapAdd 32 q 1) } }

/-! ### Emergency messages (R488, R489) -/

/-- The codes for which MGT sends an emergency message (R488). -/
def emcyCode (c : Nat) : Bool :=
  c == 0x0701 || (0x0901 ≤ c && c ≤ 0x0904) || (0x0A01 ≤ c && c ≤ 0x0A09) || (0x0C01 ≤ c && c ≤ 0x0C04)
    || (0x0D01 ≤ c && c ≤ 0x0D05)

/-- Queues or merges one event in a channel's queue: at most one frame per code (R489). -/
def emcyMerge (e : Emcy) : List Emcy → List Emcy
  | [] => [e]
  | x :: xs =>
    if x.fcode = e.fcode then
      (if e.fcode = 0 then x
       else { x with pmask := x.pmask ||| e.pmask, count := satAdd 8 x.count 1, evs := x.evs ++ e.evs }) :: xs
    else x :: emcyMerge e xs

/-- A channel that may send emergency messages: enabled and error-active (R488). -/
def canSends (c : CanCh) : Bool := c.enabled && c.err == .active

def emcyOn (e : Emcy) (c : CanCh) : CanCh := if canSends c then { c with emq := emcyMerge e c.emq } else c

/-- MGT runs: booted and not held in reset (R441). -/
def mgtRuns (s : State) : Bool := s.saf.mgtUp && !s.saf.mgtDown

/-- An emergency frame for one event on every channel that may send (R488, R489). -/
def emcyQueue (code pmask ts : Nat) (s : State) : State :=
  let e : Emcy := ⟨code, errReg s, pmask, 1, ts, [s.node.nextEv]⟩
  { s with node := { s.node with
      can0 := emcyOn e s.node.can0, can1 := emcyOn e s.node.can1, nextEv := s.node.nextEv + 1 } }

/-- One emergency event: `FAULT_N` held low for 1 ms (R524); MGT queues its frame, once it has booted, and never while it
is held in reset (R441). -/
def emcyEvent (code : Nat) (pmask ts : Nat) (s : State) : State :=
  if s.saf.mgtDown then s
  else
    let s := { s with node := { s.node with faultHold := s.tb.master + 1000000, faultHolding := true } }
    if s.saf.mgtUp then emcyQueue code pmask ts s
    else { s with node := { s.node with early := s.node.early ++ [(code, pmask, ts)] } }

/-- MGT notices a return of OD 0x1001 to 0 and queues the error-reset frame (R489). -/
def erCheck (s : State) : State :=
  let e := errReg s
  if s.node.erLast = e then s
  else
    let s := { s with node := { s.node with erLast := e } }
    if e = 0 ∧ mgtRuns s then
      let f : Emcy := ⟨0, 0, 0, 1, s.tb.master, []⟩
      { s with node := { s.node with can0 := emcyOn f s.node.can0, can1 := emcyOn f s.node.can1 } }
    else s

/-! ### Reasons for the safe state (R446 to R448) -/

/-- Pins as the reasons require: both low while a reason is set or the latch is set, opposite levels otherwise. -/
def drivePins (s : State) : State :=
  if s.saf.why != 0 || s.saf.latch then
    { s with saf := { s.saf with pinA := false, pinB := false, rbA := false, rbB := false } }
  else if s.saf.pinA == s.saf.pinB then
    { s with saf := { s.saf with pinA := true, pinB := false, rbA := true, rbB := false } }
  else s

/-- Sets the reasons word; a change writes a STATE record (R448, R463). -/
def setWhy (w : BitVec 16) (code ts : Nat) (s : State) : State :=
  if s.saf.why = w then s
  else
    erCheck (drivePins (journal 23 2 code ts (noJobTag none) s.saf.why.toNat w.toNat 1
      { s with saf := { s.saf with why := w } }))

def setReason (b code ts : Nat) (s : State) : State := setWhy (s.saf.why ||| (1#16 <<< b)) code ts s

def clearReason (b code ts : Nat) (s : State) : State := setWhy (s.saf.why &&& ~~~(1#16 <<< b)) code ts s

/-! ### The fault path (R28, R533) -/

/-- The reason of R448 that an arriving code sets; MISS and OUT_READBACK set theirs where they are raised. -/
def codeReason : FaultCode → Option Nat
  | .sysclkLoss | .oscDiff | .islandClock => some 9
  | .railUnder | .railOver => some 10
  | .thermalCrit => some 11
  | .pwrfail => some 12
  | _ => none

/-- A fault that aborts its job (R437). -/
def abortsJob (f : FaultRec) : Bool := (f.code.job == .restartable || f.code.job == .aborts) && !f.quiet

/-- A fault that ends a job, which a Weir never stalls (R533). -/
def endsJob (f : FaultRec) : Bool :=
  f.job.isSome && !f.quiet && (f.code.job == .restartable || f.code.job == .aborts || f.code.job == .fails)

/-- An entry that may be removed for a fault that ends a job: class 0x08 or STALE (R533). -/
def sheddable (f : FaultRec) : Bool := f.code.cls == 8 || f.code == .stale

/-- Adds lost events of a code to those the next COUNT record of it carries. -/
def addLost (i c n : Nat) : List (Nat × Nat × Nat) → List (Nat × Nat × Nat)
  | [] => [(i, c, n)]
  | (j, d, m) :: l => if i = j ∧ c = d then (j, d, m + n) :: l else (j, d, m) :: addLost i c n l

/-- A fault waits at its source: the Weir is full (R531). -/
def weirStall (f : FaultRec) (s : State) : State :=
  { s with saf := { s.saf with stalls := vset s.saf.stalls f.isl (vget s.saf.stalls f.isl [] ++ [f]) } }

/-- One fault enters its island's Weir into SAF (R533): 32 entries, and for a fault that ends a job 8 more. A fault of class
0x08 is counted instead; any other waits at its source, also one that ends a job and finds the reserve full
(notes/assumptions/74). -/
def weirPut (f : FaultRec) (s : State) : State :=
  let q := vget s.saf.weirs f.isl []
  if q.length < 32 ∧ vget s.saf.stalls f.isl [] = [] then { s with saf := { s.saf with weirs := vset s.saf.weirs f.isl (q ++ [f]) } }
  else if f.code.cls == 8 then { s with saf := { s.saf with lost := addLost f.isl f.code.num f.count s.saf.lost } }
  else if !endsJob f then weirStall f s
  else match takeFirst sheddable q.reverse with
  | some (x, r) =>
    { s with saf := { s.saf with
        weirs := vset s.saf.weirs f.isl (r.reverse ++ [f]), lost := addLost f.isl x.code.num x.count s.saf.lost } }
  | none =>
    if q.length < 40 then { s with saf := { s.saf with weirs := vset s.saf.weirs f.isl (q ++ [f]) } } else weirStall f s

/-- A fault leaves its island's Weir; the first that waits at the source enters where there is room. -/
def weirPop (i : Nat) (rest : List FaultRec) (s : State) : State :=
  match vget s.saf.stalls i [] with
  | f :: r =>
    if rest.length < 32 then
      { s with saf := { s.saf with weirs := vset s.saf.weirs i (rest ++ [f]), stalls := vset s.saf.stalls i r } }
    else { s with saf := { s.saf with weirs := vset s.saf.weirs i rest } }
  | [] => { s with saf := { s.saf with weirs := vset s.saf.weirs i rest } }

/-- Faults of an island on their way to SAF. -/
def weirAll (s : State) (i : Nat) : List FaultRec := vget s.saf.weirs i [] ++ vget s.saf.stalls i []

/-- Raises a fault in an island (R28, R53): stamped with the island's replica and put on the fault path. -/
def raise (f : FaultRec) (s : State) : State :=
  let ts := stampOf s f.isl f.ts
  weirPut { f with ts := ts } { keepStamp f.isl ts s with saf := { s.saf with raised := s.saf.raised + 1 } }

/-- A fault of no job. -/
def plainFault (code : FaultCode) (isl : Nat) (part : Option Nat) : FaultRec :=
  ⟨code, isl, 0, none, part, none, none, 7, [], 1, false⟩

/-- Raises a fault that names no job. -/
def raiseNoJob (code : FaultCode) (isl : Nat) (s : State) : State := raise (plainFault code isl none) s

/-- A rate-limited fault: raised when `gap` ns have passed since the last one of its code and partition, with the
events since then as its count; otherwise only counted (R88, R369, R463). -/
def raiseLimited (gap : Nat) (f : FaultRec) (s : State) : State :=
  let k := f.code.num * 256 + f.isl * 8 + f.part.getD 0
  let e := smGet (fun _ => (0, 0)) s.saf.rate k
  let due := e.1 = 0 ∨ e.1 - 1 + gap ≤ s.tb.master
  let s := { s with saf := { s.saf with
    rate := smSet (fun _ => (0, 0)) s.saf.rate k (if due then (s.tb.master + 1, 0) else (e.1, e.2 + 1)) } }
  if due then raise { f with count := e.2 + f.count } s else s

/-! ### Interrupts -/

/-- MSI-X message of a port: sent, or pending while its vector is masked (R362, R387). -/
def sendMsix (h vec : Nat) (s : State) : State :=
  let p := vget s.hst.ports h {}
  if s.saf.latch then s
  else if p.mask.getLsbD vec then
    { s with hst := { s.hst with ports := vset s.hst.ports h { p with pba := p.pba ||| (1#64 <<< vec) } } }
  else emitOut (.msix h vec)
    { s with hst := { s.hst with ports := vset s.hst.ports h { p with msixCnt := wrapAdd 32 p.msixCnt 1 } } }

/-- An access of this requester reaches the device: a host port's only while its link is up (R41), none under the hold of
R551. -/
def linked (s : State) (r : Requester) : Bool :=
  !s.saf.tapHold && (match r with
    | .host h => (vget s.hst.ports h.val {}).linkUp
    | _ => true)

/-- The gate of every block other than GLB, SAF, JNL and IMG for a write (R41, R460): not counted before READY, counted
while latched. -/
def blockGate (r : Requester) (k : State → State) (s : State) : State :=
  if !linked s r then s else if s.saf.latch then ignWrite r s else if isReady s then k s else s

/-- Whether the partition record has `EN` 1 and names the port in `OWNER` (R39, R390). -/
def ownerOf (p : Part) : Option Nat :=
  if field p.record 0 1 = 1 then (if field p.record 2 1 < 4 then some (field p.record 2 1) else none) else none

def partOf (s : State) (p : Nat) : Part := vget s.parts p {}

/-- Debug access reaches a partition: enabled for it in `PMASK`, and never for an enabled class D partition (R555). -/
def dbgPart (s : State) (p : Nat) : Bool :=
  s.dbg.en && s.dbg.pmask.getLsbD p && !(field (partOf s p).record 0 1 == 1 && field (partOf s p).record 1 1 == 0)

def setPart (p : Nat) (x : Part) (s : State) : State := { s with parts := vset s.parts p x }

end Sys2Proof.Machine
end

