-- ==== Sys2Proof/Machine/Can.lean ====
section
/-! DEFINITION. The two CAN FD channels: NMT, heartbeat, emergency messages, errors, USDO sessions (R482 to R489,
R496), the OD mailboxes (R490 to R492), and how a transfer's result returns to its requester. -/

namespace Sys2Proof.Machine

def chGet (s : State) (i : Nat) : CanCh := if i = 0 then s.node.can0 else s.node.can1

def chPut (i : Nat) (c : CanCh) (s : State) : State :=
  { s with node := if i = 0 then { s.node with can0 := c } else { s.node with can1 := c } }

/-- A channel that can move frames: enabled, not bus-off, MGT running. -/
def chLive (s : State) (i : Nat) : Bool := mgtRuns s && (chGet s i).enabled && (chGet s i).err != .busoff

/-- NMT state as CiA 1301 codes it in a heartbeat. -/
def nmtByte : Nmt → Nat
  | .initialising => 0x00
  | .preop => 0x7F
  | .operational => 0x05
  | .stopped => 0x04

/-- `CANST` (R483). -/
def canSt (c : CanCh) : Nat :=
  (if !c.enabled then 0 else match c.err with
    | .active => 1
    | .passive => 2
    | .busoff => 3) +
  16 * (match c.nmt with
    | .initialising => 0
    | .preop => 1
    | .operational => 2
    | .stopped => 3)

/-- Heartbeat time in ns, 0 for none (R487). -/
def hbTime (s : State) : Nat := odNat s 0x1017 0 * 1000000

/-- What a change of OD 0x1017 does to a channel's schedule (R487). -/
def hbSchedule (old new now : Nat) (c : CanCh) : CanCh :=
  if new = 0 then { c with hbNext := none }
  else if old = 0 then (if c.enabled then { c with hbNext := some (now + new * 1000000) } else c)
  else c

/-- Sets the heartbeat time of both channels (R487). -/
def hbSet (new : Nat) (s : State) : State :=
  let old := odNat s 0x1017 0
  let s := odPut 0x1017 0 (leBytes 2 new) s
  { s with node := { s.node with can0 := hbSchedule old new s.tb.master s.node.can0,
                                 can1 := hbSchedule old new s.tb.master s.node.can1 } }

/-- Sends the boot-up message and schedules the first heartbeat one heartbeat time later (R485, R487). -/
def chBootUp (i : Nat) (s : State) : State :=
  let c := chGet s i
  if c.enabled then
    chPut i { c with hbNext := if hbTime s = 0 then none else some (s.tb.master + hbTime s) }
      (emitOut (.can i (0x700 + c.node) [0]) s)
  else s

/-- A transfer in MGT is broken off (R495). -/
def odqDrop (i : Nat) (s : State) : State := { s with node := { s.node with odq := s.node.odq.filter fun x => x.req != i } }

/-- A requester's transfer ends without an answer; a write that MGT holds whole still takes effect (R484, R486, R491). -/
def odqMute (i : Nat) (s : State) : State :=
  { s with node := { s.node with odq :=
      (s.node.odq.filter fun x => x.req != i || x.write).map fun x => if x.req = i then { x with live := false } else x } }

/-- Reset communication of a channel (R483, R486): session ended, settings applied, heartbeat time to its default,
boot-up message, PRE-OPERATIONAL. -/
def chReset (i : Nat) (s : State) : State :=
  let s := odqMute i s
  let c := chGet s i
  let c := { c with
    session := none, enabled := bitOf (odNat s 0x2080 5) i, node := odNat s 0x2080 (1 + i), arb := odNat s 0x2080 3,
    data := odNat s 0x2080 4, nmt := .preop, nmtBack := .preop }
  chBootUp i (hbSet 100 (chPut i c s))

/-- An NMT command addressed to the channel's node-ID or to 0 (R486). -/
def nmtCmd (ch node : Nat) (f : State → State) (s : State) : State :=
  if chLive s ch && (node == 0 || node == (chGet s ch).node) then f s else s

def nmtSet (ch : Nat) (n : Nmt) (s : State) : State := chPut ch { chGet s ch with nmt := n } s

/-- NMT_START (R486). -/
def execNmtStart (ch : Fin 2) (node : Nat) (s : State) : Host.Outcome State Fault Refusal :=
  .next (nmtCmd ch.val node (nmtSet ch.val .operational) s)

/-- NMT_STOP (R486): the channel serves no USDO from here on. -/
def execNmtStop (ch : Fin 2) (node : Nat) (s : State) : Host.Outcome State Fault Refusal :=
  .next (nmtCmd ch.val node (nmtSet ch.val .stopped) s)

/-- NMT_ENTER_PREOPERATIONAL (R486). -/
def execNmtEnterPreoperational (ch : Fin 2) (node : Nat) (s : State) : Host.Outcome State Fault Refusal :=
  .next (nmtCmd ch.val node (nmtSet ch.val .preop) s)

/-- NMT_RESET_NODE (R486). -/
def execNmtResetNode (ch : Fin 2) (node : Nat) (s : State) : Host.Outcome State Fault Refusal :=
  .next (nmtCmd ch.val node (chReset ch.val) s)

/-- NMT_RESET_COMMUNICATION (R486). -/
def execNmtResetCommunication (ch : Fin 2) (node : Nat) (s : State) : Host.Outcome State Fault Refusal :=
  .next (nmtCmd ch.val node (chReset ch.val) s)

/-- HEARTBEAT_SEND (R487): one byte, the NMT state; the next one follows by the time in force. -/
def execHeartbeatSend (ch : Fin 2) (s : State) : Host.Outcome State Fault Refusal :=
  .next (
    let c := chGet s ch.val
    match c.hbNext with
    | some t =>
      if chLive s ch.val && decide (t ≤ s.tb.master) then
        chPut ch.val { c with hbNext := if hbTime s = 0 then none else some (t + hbTime s) }
          (emitOut (.can ch.val (0x700 + c.node) [BitVec.ofNat 8 (nmtByte c.nmt)]) s)
      else s
    | none => s)

/-- An emergency frame of 16 bytes (R488). -/
def emcyBytes (e : Emcy) : List Byte :=
  leBytes 2 (if e.fcode = 0 then 0 else 0xFF00 + e.fcode / 256) ++ leBytes 1 e.er ++ leBytes 1 0 ++ leBytes 2 e.fcode
    ++ leBytes 1 e.pmask ++ leBytes 1 e.count ++ leBytes 8 e.ts

/-- Events of a sent frame are entered: they no longer count as new in the other channel's frames (R489). -/
def dropEvs (evs : List Nat) (q : List Emcy) : List Emcy := q.map fun e => { e with evs := e.evs.filter fun n => !evs.contains n }

/-- EMCY_SEND (R488, R489, R499): the first queued frame leaves; the history gains one entry where the frame carries an
event not yet entered. -/
def execEmcySend (ch : Fin 2) (s : State) : Host.Outcome State Fault Refusal :=
  .next (
    let c := chGet s ch.val
    match c.emq with
    | e :: rest =>
      if chLive s ch.val && c.err == .active then
        let s := emitOut (.can ch.val (0x80 + c.node) (emcyBytes e)) s
        let s := chPut ch.val { c with emq := rest } s
        if e.evs.isEmpty then s
        else
          let s := { s with node := { s.node with
            history := ((0xFF00 + e.fcode / 256 + e.fcode * 65536) :: s.node.history).take 16 } }
          { s with node := { s.node with
            can0 := { s.node.can0 with emq := dropEvs e.evs s.node.can0.emq },
            can1 := { s.node.can1 with emq := dropEvs e.evs s.node.can1.emq } } }
      else s
    | [] => s)

/-- CAN_BUSOFF (R484): the session ends without a response, heartbeats stop, CAN_BUSOFF is raised. -/
def execCanBusoff (ch : Fin 2) (s : State) : Host.Outcome State Fault Refusal :=
  .next (
    let c := chGet s ch.val
    if chLive s ch.val then
      let s := chPut ch.val { c with err := .busoff, session := none, hbNext := none, nmtBack := c.nmt } s
      erCheck (raiseNoJob .canBusoff 22 (odqMute ch.val s))
    else s)

/-- BUSOFF_RECOVERY (R484, R487): boot-up again, the NMT state held before. -/
def execBusoffRecovery (ch : Fin 2) (s : State) : Host.Outcome State Fault Refusal :=
  .next (
    let c := chGet s ch.val
    if mgtRuns s && c.err == .busoff then
      erCheck (chBootUp ch.val (chPut ch.val { c with err := .active, nmt := c.nmtBack } s))
    else s)

/-- CAN_FRAME_IGNORED (R482): counted in `CANERR`, which wraps. -/
def execCanFrameIgnored (ch : Fin 2) (s : State) : Host.Outcome State Fault Refusal :=
  .next (if chLive s ch.val then { s with node := { s.node with canErr := wrapAdd 32 s.node.canErr 1 } } else s)

/-- CAN_ERROR_PASSIVE (R482, R488, R499). -/
def execCanErrorPassive (ch : Fin 2) (s : State) : Host.Outcome State Fault Refusal :=
  .next (
    let c := chGet s ch.val
    if chLive s ch.val && c.err == .active then erCheck (chPut ch.val { c with err := .passive } s) else s)

/-- CAN_ERROR_ACTIVE (R482, R488, R499). -/
def execCanErrorActive (ch : Fin 2) (s : State) : Host.Outcome State Fault Refusal :=
  .next (
    let c := chGet s ch.val
    if chLive s ch.val && c.err == .passive then erCheck (chPut ch.val { c with err := .active } s) else s)

/-! ### USDO (R485, R496) -/

/-- Bytes of a value in one response frame (PRESUMED, notes/assumptions/12). -/
def usdoChunk : Nat := 56

def usdoSend (ch abort : Nat) (data : List Byte) (s : State) : State :=
  emitOut (.usdo ch (0x580 + (chGet s ch).node) abort data) s

/-- MGT holds a whole transfer (R494, R495). -/
def odEnqueue (x : OdXfer) (s : State) : State := { s with node := { s.node with odq := s.node.odq ++ [x] } }

/-- One client frame on a channel that serves USDO. -/
def usdoRx (ch : Nat) (f : UsdoFrame) (s : State) : State :=
  let c := chGet s ch
  let now := s.tb.master
  match f, c.session with
  | .upload i b, none =>
    odEnqueue ⟨ch, false, i, b, [], true⟩ (chPut ch { c with session := some ⟨i, b, false, 0, [], now⟩ } s)
  | .download i b d, none =>
    odEnqueue ⟨ch, true, i, b, d, true⟩ (chPut ch { c with session := some ⟨i, b, true, d.length, d, now⟩ } s)
  | .downloadInit i b n, none => usdoSend ch 0 [] (chPut ch { c with session := some ⟨i, b, true, n, [], now⟩ } s)
  | .upload _ _, some _ | .download _ _ _, some _ | .downloadInit _ _ _, some _ => usdoSend ch 0x08000020 [] s
  | .downloadSeg d last, some x =>
    if !x.write then s
    else
      let data := x.data ++ d
      let s := chPut ch { c with session := some { x with data := data, last := now } } s
      if last then odEnqueue ⟨ch, true, x.idx, x.sub, data, true⟩ s else usdoSend ch 0 [] s
  | .uploadSeg, some x =>
    if x.write || x.data.isEmpty then s
    else
      let rest := x.data.drop usdoChunk
      usdoSend ch 0 (x.data.take usdoChunk)
        (chPut ch { c with session := if rest.isEmpty then none else some { x with data := rest, last := now } } s)
  | .abort, some _ => chPut ch { c with session := none } (odqDrop ch s)
  | _, none => s

/-- USDO_REQUEST (R496): served in every NMT state but INITIALISING and STOPPED (R486). -/
def execUsdoRequest (ch : Fin 2) (f : UsdoFrame) (s : State) : Host.Outcome State Fault Refusal :=
  .next (
    if chLive s ch.val && ((chGet s ch.val).nmt == .preop || (chGet s ch.val).nmt == .operational) then
      usdoRx ch.val f s
    else s)

/-- USDO_TIMEOUT (R496). -/
def execUsdoTimeout (ch : Fin 2) (s : State) : Host.Outcome State Fault Refusal :=
  .next (
    let c := chGet s ch.val
    match c.session with
    | some x =>
      if chLive s ch.val && decide (x.last + 1000000000 ≤ s.tb.master) then
        usdoSend ch.val 0x05040000 [] (chPut ch.val { c with session := none } (odqDrop ch.val s))
      else s
    | none => s)

/-! ### Mailboxes (R490, R491) -/

/-- The mailbox a requester of BAR0 sees: H0-H3's own, the debug port's. -/
def mbxOf : Requester → Option Nat
  | .host h => some h.val
  | .dbg => some 4
  | .mbx _ => none

def mbxGet (s : State) (i : Nat) : Mbx := vget s.node.mbx i {}
def mbxPut (i : Nat) (m : Mbx) (s : State) : State := { s with node := { s.node with mbx := vset s.node.mbx i m } }

/-- MGT serves transfers (R490, R441). -/
def mbxUp (s : State) : Bool := mgtRuns s

def byteZero : Nat → Byte := fun _ => 0

/-- A transfer started by a write of `HST_MBX_CMD` (R491): ignored and counted while `UP` is 0 or `STATE` is BUSY. -/
def mbxStart (r : Requester) (write : Bool) (s : State) : State :=
  match mbxOf r with
  | none => s
  | some i =>
    let m := mbxGet s i
    if !linked s r then s
    else if !mbxUp s || m.state == 1 || (r == .dbg && !s.dbg.en) then ignWrite r s
    else
      let data := if write then smGetList byteZero m.data 0 (min m.len 32768) else []
      odEnqueue ⟨2 + i, write, m.addr % 65536, m.addr / 65536 % 256, data, true⟩ (mbxPut i { m with state := 1 } s)

/-- MBX_READ (R491). -/
def execMbxRead (r : Requester) (s : State) : Host.Outcome State Fault Refusal := .next (mbxStart r false s)

/-- MBX_WRITE (R491). -/
def execMbxWrite (r : Requester) (s : State) : Host.Outcome State Fault Refusal := .next (mbxStart r true s)

/-- The end of a mailbox transfer (R491): DONE with the bytes read, or ABORTED with the code; its MSI-X. -/
def mbxEnd (i : Nat) (abort : Nat) (write : Bool) (data : List Byte) (s : State) : State :=
  let m := mbxGet s i
  if m.state ≠ 1 then s
  else
    let m := { m with state := if abort = 0 then 2 else 3, abort := abort, count := wrapAdd 32 m.count 1 }
    let m := if abort = 0 ∧ !write then { m with rlen := data.length, data := smSetList byteZero m.data 0 data } else m
    let s := mbxPut i m s
    if bitOf m.irq 6 && decide (i < 4) then sendMsix i (m.irq % 64) s else s

/-! ### Where a transfer's result goes -/

/-- Delivers a result: to the channel's session, or to the mailbox. -/
def odDeliver (req abort : Nat) (write : Bool) (data : List Byte) (s : State) : State :=
  if req < 2 then
    let c := chGet s req
    match c.session with
    | none => s
    | some x =>
      if abort ≠ 0 ∨ write then usdoSend req abort [] (chPut req { c with session := none } s)
      else
        let rest := data.drop usdoChunk
        usdoSend req 0 (data.take usdoChunk)
          (chPut req { c with session := if rest.isEmpty then none else some { x with data := rest } } s)
  else mbxEnd (req - 2) abort write data s

/-- Runs one OD access in transfer order (R495): where transfers wait, only the first of them may run, and its result
is delivered; where none waits, the command itself is the completed transfer and its answer an output. `run` answers an SDO abort code (0 for
none), the value read and the state. -/
def odServe (r : OdReq) (write : Bool) (idx sub : Nat) (data : List Byte)
    (run : State → Nat × List Byte × State) (s : State) : State :=
  if !mgtRuns s then s
  else match s.node.odq with
  | [] => let a := run s; emitOut (.od (odReqNo r) a.1 a.2.1) a.2.2
  | x :: rest =>
    if x = ⟨odReqNo r, write, idx, sub, data, x.live⟩ then
      let a := run { s with node := { s.node with odq := rest } }
      if x.live then odDeliver (odReqNo r) a.1 write a.2.1 a.2.2 else a.2.2
    else s

end Sys2Proof.Machine
end

