-- ==== Sys2Proof/Machine/Hst.lean ====
section
/-! DEFINITION. Ring sets, doorbells, completion records and interrupts of HST (R363 to R368, R377 to R379, R387). -/

namespace Sys2Proof.Machine

/-! ### Ring sets -/

def ringsOf (s : State) (p : Nat) : RingSet := (partOf s p).rings

def setRings (p : Nat) (g : RingSet) (s : State) : State := setPart p { partOf s p with rings := g } s

/-- Difference of two pointers that count modulo twice the ring size (R365). -/
def ptrDiff (size a b : Nat) : Nat := (a + 2 * size - b % (2 * size)) % (2 * size)

/-- Completion slots neither full nor reserved (R368, R372). -/
def cqFree (g : RingSet) : Nat := 2 ^ g.cqLog - ptrDiff (2 ^ g.cqLog) g.cqTail g.cqHead - g.cqRsv

/-- Slots that a reservation may take: the one an entry fetched and not yet decided keeps for its refusal is held back
(R368). -/
def cqOpen (s : State) (p : Nat) : Nat := cqFree (ringsOf s p) - bitAt (partOf s p).fetched.isSome 0

/-- Bytes of the result ring between tail and head, going forward from the tail (R381). -/
def rqUsed (g : RingSet) : Nat := ptrDiff (2 ^ g.rqLog) g.rqTail g.rqHead

/-- A write to a ring set: from the owning port alone (R364), after the gate of its block. -/
def ringGate (r : Requester) (p : Nat) (k : State → State) (s : State) : State :=
  match r with
  | .host h => blockGate r (fun s => if ownerOf (partOf s p) = some h.val then k s else denyAccess r s) s
  | _ => ignWrite r s

/-- A write to the PRT block of a partition: from the owning port, or from the debug port while debug access is enabled
for it (R39, R555). -/
def prtGate (r : Requester) (p : Nat) (k : State → State) (s : State) : State :=
  match r with
  | .host _ => ringGate r p k s
  | .dbg => blockGate r (fun s => if dbgPart s p then k s else ignWrite r s) s
  | .mbx _ => ignWrite r s

/-- SQ_DOORBELL (R365): refused where it would make more than the ring size outstanding. -/
def sqDoorbell (r : Requester) (p v : Nat) (s : State) : State :=
  ringGate r p (fun s =>
    let g := ringsOf s p
    let n := 2 ^ g.sqLog
    let v := v % 8192 % (2 * n)
    if ptrDiff n v g.sqHead ≤ n then setRings p { g with sqTail := v } s else ignWrite r s) s

/-- CQ_DOORBELL (R365): refused where it would move the head past its tail. -/
def cqDoorbell (r : Requester) (p v : Nat) (s : State) : State :=
  ringGate r p (fun s =>
    let g := ringsOf s p
    let n := 2 ^ g.cqLog
    let v := v % 131072 % (2 * n)
    if ptrDiff n v g.cqHead ≤ ptrDiff n g.cqTail g.cqHead then setRings p { g with cqHead := v } s else ignWrite r s) s

/-- RESULT_DOORBELL (R365, R382): also refused where the head is not a multiple of 128. -/
def rqDoorbell (r : Requester) (p v : Nat) (s : State) : State :=
  ringGate r p (fun s =>
    let g := ringsOf s p
    let n := 2 ^ g.rqLog
    let v := v % 134217728
    if v % 128 = 0 ∧ ptrDiff n (v % (2 * n)) g.rqHead ≤ ptrDiff n g.rqTail g.rqHead
    then setRings p { g with rqHead := v % (2 * n) } s else ignWrite r s) s

def execSqDoorbell (r : Requester) (p : Fin 8) (v : Nat) (s : State) : Host.Outcome State Fault Refusal :=
  .next (sqDoorbell r p.val v s)

def execCqDoorbell (r : Requester) (p : Fin 8) (v : Nat) (s : State) : Host.Outcome State Fault Refusal :=
  .next (cqDoorbell r p.val v s)

def execResultDoorbell (r : Requester) (p : Fin 8) (v : Nat) (s : State) : Host.Outcome State Fault Refusal :=
  .next (rqDoorbell r p.val v s)

/-- Jobs of a partition in a state other than FREE. -/
def liveJobs (s : State) (p : Nat) : List (Nat × Job) :=
  s.hst.jobs.filter fun e => e.2.part == p && e.2.st != .free

/-- The fields of `HST_Pp_CTRL` but `EN`. -/
def ctrlFields (v : Nat) (g : RingSet) : RingSet := { g with vec := bits v 8 6, coal := bits v 16 8, coalt := bits v 24 8 }

/-- A write of `EN` = 1 (R366): every pointer 0, phase 1; `RINGERR` clears where the set was disabled before (R386). -/
def ringEnable (r : Requester) (p v : Nat) (s : State) : State :=
  ringGate r p (fun s =>
    let g := ctrlFields v (ringsOf s p)
    let x := partOf s p
    setPart p { x with
      fetched := none,
      rings := { g with en := true, sqTail := 0, sqHead := 0, cqHead := 0, cqTail := 0, rqHead := 0, rqTail := 0,
                        ringErr := g.en && g.ringErr, phase := true, unsig := 0 } } s) s

/-- A write of `EN` = 0 (R366): performed only while the partition has no job in a state other than FREE. -/
def ringDisable (r : Requester) (p v : Nat) (s : State) : State :=
  ringGate r p (fun s =>
    if !(liveJobs s p).isEmpty then ignWrite r s
    else setRings p { ctrlFields v (ringsOf s p) with en := false } s) s

/-- RING_SET_ENABLE (R366): the value written to `HST_Pp_CTRL`, whose bit 0 is 1. -/
def execRingSetEnable (r : Requester) (p : Fin 8) (v : Nat) (s : State) : Host.Outcome State Fault Refusal :=
  .next (ringEnable r p.val v s)

/-- RING_SET_DISABLE (R366). -/
def execRingSetDisable (r : Requester) (p : Fin 8) (v : Nat) (s : State) : Host.Outcome State Fault Refusal :=
  .next (ringDisable r p.val v s)

/-! ### Completion records (R378, R379) -/

/-- What a completion record holds. -/
structure CqRec where
  tag : Nat
  kind : Nat
  status : Nat
  code : Nat
  event : Nat
  ref : Nat
  core : Nat
  attempt : Nat
  count : Nat
  deadline : Nat
  deriving DecidableEq, Repr

/-- The first 60 bytes of a completion record (R378). -/
def cqBody (c : CqRec) (ts : Nat) (ph : Bool) : List Byte :=
  leBytes 4 c.tag ++ leBytes 1 c.kind ++ leBytes 1 c.status ++ leBytes 2 c.code ++ leBytes 8 ts ++ leBytes 8 c.event
    ++ leBytes 4 c.ref ++ leBytes 1 c.core ++ leBytes 1 c.attempt ++ leBytes 2 (if ph then 1 else 0) ++ leBytes 4 c.count
    ++ leBytes 4 0 ++ leBytes 8 c.deadline ++ zeros 12

def cqBytes (c : CqRec) (ts : Nat) (ph : Bool) : List Byte := cqBody c ts ph ++ leBytes 4 (crc32c (cqBody c ts ph))

/-- Raises the ring's vector: every record counts as signalled (R387). -/
def ringSignal (p h : Nat) (s : State) : State :=
  let g := ringsOf s p
  sendMsix h g.vec (setRings p { g with unsig := 0 } s)

/-- Writes one record into the completion ring of a partition (R363, R378, R379, R387), its cause of another island stamped
`cause` (R52); `rsv` where the slot was reserved. Nothing is written while the latch is set (R460) or where no port owns an enabled ring. -/
def postRecord (p : Nat) (rsv : Bool) (cause : Nat) (c : CqRec) (s : State) : State :=
  let g := ringsOf s p
  match ownerOf (partOf s p) with
  | none => s
  | some h =>
    if s.saf.latch || !g.en then s
    else
      let n := 2 ^ g.cqLog
      let ts := stampOf s 21 cause
      let s := emitOut (.hostWrite h (g.cqBase + g.cqTail % n * 64) (cqBytes c ts g.phase)) (keepStamp 21 ts s)
      let tail := (g.cqTail + 1) % (2 * n)
      let g := { g with
        cqTail := tail, phase := if tail % n = 0 then !g.phase else g.phase, cqRsv := if rsv then g.cqRsv - 1 else g.cqRsv,
        unsig := g.unsig + 1, unsigAt := if g.unsig = 0 then s.tb.master else g.unsigAt }
      let s := setRings p g s
      if g.coal = 0 ∨ g.coal ≤ g.unsig then ringSignal p h s else s

/-- MSIX_COALESCE_TIMEOUT (R387). -/
def execMsixCoalesceTimeout (p : Fin 8) (s : State) : Host.Outcome State Fault Refusal :=
  .next (
    let g := ringsOf s p.val
    match ownerOf (partOf s p.val) with
    | some h =>
      if isReady s && g.en && decide (0 < g.unsig) && decide (0 < g.coalt)
          && decide (g.unsigAt + g.coalt * 1000 ≤ s.tb.master)
      then ringSignal p.val h s else s
    | none => s)

/-! ### The PCIe function (R362) -/

/-- Device ID and class code of each port's one function. -/
def pcieDeviceId : Nat := 0x4816
def pcieClass : Nat := 0x120000

/-- Largest payload, largest read request, tag bits. -/
def pciePayload : Nat := 512
def pcieReadReq : Nat := 4096
def pcieTagBits : Nat := 10

/-! ### Fetching entries (R367, R368, R386) -/

/-- A refusal of an entry (R368): counted, on the fault path, and one REFUSAL record. -/
def refuseEntry (p idx tag : Nat) (code : FaultCode) (s : State) : State :=
  let g := ringsOf s p
  let first := g.lastRefCode = 0
  let s := setRings p { g with
    refuse := satAdd 32 g.refuse 1, lastRefCode := if first then code.num else g.lastRefCode,
    lastRefIdx := if first then idx else g.lastRefIdx } s
  let ev := stampOf s 21 0
  let s := raise (plainFault code 21 (some p)) s
  postRecord p false 0 ⟨tag * 256 + p * 0x1000000, 3, 2, code.num, ev, idx, 0xFF, 0, 0, 0⟩ s

/-- The CRC of a job entry (R367). -/
def entryCrc (b : List Byte) : Nat := crc32c (slice b 0 0x3C ++ slice b 0x40 0x40)

/-- `RESTART` with its default (R367). -/
def entryRestart (b : List Byte) : Nat := if field b 6 1 = 0xFF then 1 else field b 6 1

/-- The entry breaks the job entry table, or its reservation exceeds the ring (ENTRY_BAD, R368, R377). -/
def entryBad (s : State) (p : Nat) (b : List Byte) : Bool :=
  let op := field b 0 1
  field b 0x3C 4 != entryCrc b || decide (2 ≤ op) || field b 1 1 != p
    || (op == 0 &&
      (decide (7 < entryRestart b) || decide (4 < field b 7 1) || !(decide (1 ≤ field b 8 2 ∧ field b 8 2 ≤ 4096))
        || field b 0x0A 2 != 0 || field b 0x30 12 != 0
        || field b (0x10 + 8 * field b 7 1) (8 * (4 - field b 7 1)) != 0
        || decide (odNat s 0x4001 (0x18 + p) < field b 0x0C 4)
        || decide (2 ^ (ringsOf s p).cqLog < field b 8 2 * (entryRestart b + 1) + 1)))

/-- ENTRY_FETCH (R368, R386): the next entry is read and its form checked; JOB_SUBMIT or JOB_CANCEL decide the rest. -/
def execEntryFetch (p : Fin 8) (data : HostRead) (s : State) : Host.Outcome State Fault Refusal :=
  .next (
    let x := partOf s p.val
    let g := x.rings
    let n := 2 ^ g.sqLog
    if isReady s && (ownerOf x).isSome && g.en && !g.ringErr && x.fetched.isNone && g.sqTail != g.sqHead
        && decide (0 < cqFree g) then
      match data with
      | .err => raise (plainFault .ringRead 21 (some p.val)) (setRings p.val { g with ringErr := true } s)
      | .ok d =>
        let b := slice d 0 128
        let idx := g.sqHead % n
        let s := setRings p.val { g with sqHead := (g.sqHead + 1) % (2 * n) } s
        if entryBad s p.val b then refuseEntry p.val idx (field b 2 2) .entryBad s
        else setPart p.val { partOf s p.val with fetched := some (idx, b) } s
    else s)

end Sys2Proof.Machine
end

