-- ==== Sys2Proof/Machine/Dram.lean ====
section
/-! DEFINITION. DRAM lines with their ECC, as every agent other than a control core reaches them through the directory
(R396 to R398, R416, R417), and the partition record's fields (R390). -/

namespace Sys2Proof.Machine

/-! ### The partition record (R390) -/

def prEn (r : List Byte) : Bool := field r 0 1 == 1
def prClass (r : List Byte) : Nat := field r 1 1
def prOwner (r : List Byte) : Nat := field r 2 1
def prSigReq (r : List Byte) : Bool := bitOf (field r 3 1) 0
def prCores (r : List Byte) : Nat := field r 4 2
def prSems (r : List Byte) : Nat := field r 8 8
def prTroot (r : List Byte) : Nat := field r 0x30 8

/-- One DRAM region: first byte, bytes, `ECC`, `TBL`. -/
structure DramRegion where
  base : Nat
  size : Nat
  ecc : Bool
  tbl : Bool
  deriving DecidableEq, Repr

def prDram (r : List Byte) (i : Nat) : DramRegion :=
  let w := field r (0x10 + 8 * i) 8
  ⟨bits w 0 16 * 2097152, bits w 16 16 * 2097152, bitOf w 32, bitOf w 33⟩

def prDrams (r : List Byte) : List DramRegion := (List.range 4).map (prDram r)

/-- A region word of a core: `BASE` and `BOUND` in their units. -/
def prBasin (r : List Byte) (c : Nat) : Nat × Nat := let w := field r (0x40 + 16 * c) 4; (bits w 0 12, bits w 16 12)
def prCis (r : List Byte) (c : Nat) : Nat × Nat := let w := field r (0x44 + 16 * c) 4; (bits w 0 9, bits w 16 9)
def prDmem (r : List Byte) (c : Nat) : Nat × Nat := let w := field r (0x48 + 16 * c) 4; (bits w 0 9, bits w 16 9)
def prWwin (r : List Byte) (c : Nat) : Nat × Nat := let w := field r (0x4C + 16 * c) 4; (bits w 0 12, bits w 16 12)

def recOf (s : State) (p : Nat) : List Byte := (partOf s p).record

/-! ### Device addresses (R396) -/

/-- Bytes of DRAM addressed (R6, R40): 0 before training. -/
def dramCap (s : State) : Nat :=
  match s.boot.memcap with
  | 1 => 0x400000000
  | 2 => 0x800000000
  | 3 => 0x1000000000
  | _ => 0

/-- First byte of the carve-out: the top 1/32 (R396). -/
def carveOut (s : State) : Nat := dramCap s - dramCap s / 32

/-- The stream region of OD 0x2100 sub-index 0x04 (R389): first byte and bytes. -/
def streamRegion (s : State) : Nat × Nat :=
  let w := odNat s 0x2100 4
  (bits w 0 16 * 2097152, bits w 16 16 * 2097152)

def inRange (a base size : Nat) : Bool := decide (base ≤ a) && decide (a < base + size)

/-- The enabled partition that holds a device address in one of its regions. -/
def dramOwner (s : State) (a : Nat) : Option Nat :=
  (List.range 8).find? fun p => prEn (recOf s p) && (prDrams (recOf s p)).any fun d => inRange a d.base d.size

/-- The line is stored with a code: a region with `ECC` 1, or the stream region (R398). -/
def dramEcc (s : State) (a : Nat) : Bool :=
  inRange a (streamRegion s).1 (streamRegion s).2 ||
    (List.range 8).any fun p => prEn (recOf s p) && (prDrams (recOf s p)).any fun d => d.ecc && inRange a d.base d.size

/-- Channel of a line (R397). -/
def dramChannel (a : Nat) : Nat := (bits a 8 3) ^^^ (bits a 16 3)

def prtKey (p off : Nat) : Nat := rkey 0 (0x0100000 + p * 0x20000 + off)

/-! ### Tokens (R406) -/

/-- The budget entry of a partition in force (R405). -/
def budgetOf (s : State) (p : Nat) : List Byte := smGet odDefault s.budget (odKey 0x2500 (0x10 + p))

/-- One access of a partition at a channel: it takes a token, or is served spare, or has waited (R406, R420). -/
def memTake (p ch : Nat) (s : State) : State :=
  let x := partOf s p
  let t := vget x.memTok ch 0
  let s := setPart p { x with memLines := wrapAdd 64 x.memLines 1, memTok := vset x.memTok ch (t - 1) } s
  let s := dramCount s
  if 0 < t then s
  else if bitOf (field (budgetOf s p) 8 1) 0 then regCount (prtKey p 0x18) 1 s
  else regCount (prtKey p 0x1C) 1 s

/-- The metadata line of a line under ECC, in the cache of its channel: 512 lines, the one that leaves being free (R398).
Answers whether it was there. -/
def metaFetch (a : Nat) (s : State) : Bool × State :=
  let ch := dramChannel a
  let l := vget s.dram.metaLines ch []
  if l.contains (a / 2048) then (true, s)
  else
    let f := takeFree s
    let l := if l.length < 512 then l else l.eraseIdx (Config.victim f.1 % 512)
    (false, { f.2 with dram := { f.2.dram with metaLines := vset f.2.dram.metaLines ch (l ++ [a / 2048]) } })

/-- One line access of a partition, with the metadata access that it may cost (R398, R406). -/
def memToken (p a : Nat) (s : State) : State :=
  let ch := dramChannel a
  let s := memTake p ch s
  if dramEcc s a then
    let r := metaFetch a s
    if r.1 then r.2 else memTake p ch r.2
  else s

/-- One line access for no partition. -/
def memPlain (a : Nat) (s : State) : State :=
  let s := dramCount s
  if dramEcc s a then
    let r := metaFetch a s
    if r.1 then r.2 else dramCount r.2
  else s

/-- One line injected into FAB by an agent of the partition (R408). -/
def fabToken (p : Nat) (s : State) : State :=
  let x := partOf s p
  let s' := setPart p { x with fabTok := x.fabTok - 1 } s
  if 0 < x.fabTok || bitOf (field (budgetOf s p) 8 1) 1 then s' else regCount (prtKey p 0x20) 1 s'

/-! ### Lines -/

def lineOf (a : Nat) : Nat := a / 64 * 64

def dramLine (s : State) (line : Nat) : List Byte := smGetList byteZero s.dram.mem line 64

def dirOf (s : State) (line : Nat) : Option DirState := smGet (fun _ => none) s.dir.entries line

def setDir (line : Nat) (d : Option DirState) (s : State) : State :=
  { s with dir := { s.dir with entries := smSet (fun _ => none) s.dir.entries line d } }

/-- Stores a line as it is: the code is written with it. -/
def dramStore (line : Nat) (bs : List Byte) (s : State) : State :=
  { s with dram := { s.dram with
      mem := smSetList byteZero s.dram.mem line (slice bs 0 64), upset := smSet (fun _ => 0) s.dram.upset line 0,
      written := if s.dram.fresh.any fun r => inRange line r.1 (r.2 - r.1)
        then smSet (fun _ => false) s.dram.written line true else s.dram.written } }

def coreOf (s : State) (c : Nat) : Core := vget s.kc c {}
def setCore (c : Nat) (x : Core) (s : State) : State := { s with kc := vset s.kc c x }

/-- A line as a data cache or its eviction buffer holds it; an entry of the buffer whose data is gone holds nothing. -/
def dcFind (d : DCache) (line : Nat) : Option DcLine :=
  match d.lines.find? (·.line == line) with
  | some l => some l
  | none => d.evict.find? fun l => l.line == line && l.dirty

/-- The line is in a range that a record write brought under ECC and has not been written since (R398). -/
def freshLine (s : State) (line : Nat) : Bool :=
  (s.dram.fresh.any fun r => inRange line r.1 (r.2 - r.1)) && !smGet (fun _ => false) s.dram.written line

/-- `PRT_DRAM_ECC` of the partition that holds the line. -/
def eccCount (line lo : Nat) (s : State) : State :=
  match dramOwner s line with
  | some p => regCountField (prtKey p 0x24) lo 16 1 s
  | none => s

/-- The stored line with its code checked (R398). -/
def dramCheck (line : Nat) (s : State) : Except FaultCode (List Byte) × State :=
  if !dramEcc s line then (.ok (dramLine s line), s)
  else
    let u := smGet (fun _ => 0) s.dram.upset line
    if u = 1 then
      (.ok (dramLine s line), eccCount line 0 { s with dram := { s.dram with upset := smSet (fun _ => 0) s.dram.upset line 0 } })
    else if 2 ≤ u then (.error .dramUe, eccCount line 16 s)
    else if freshLine s line then
      let f := takeFree s
      if Config.eccFresh f.1 then (.error .dramUe, eccCount line 16 f.2) else (.ok (dramLine s line), f.2)
    else (.ok (dramLine s line), s)

/-- DRAM_PATROL_READ (R398): the next ECC line of the 24 h patrol is read between other accesses; a correction is
rewritten. -/
def execDramPatrolRead (s : State) : Host.Outcome State Fault Refusal :=
  .next (
    if !isReady s then s
    else
      let line := s.dram.patrol
      let next := if line + 64 < carveOut s then line + 64 else 0
      let s := { s with dram := { s.dram with patrol := next } }
      if dramEcc s line then
        match dramCheck line s with
        | (.error e, s) => raise (plainFault e 20 (dramOwner s line)) s
        | (.ok _, s) => s
      else s)

end Sys2Proof.Machine
end

