-- ==== Sys2Proof/Machine/Coherence.lean ====
section
/-! DEFINITION. Faults raised in a core, and the directory protocol between the 16 data caches and every other agent that
reaches DRAM (R331, R416 to R419). -/

namespace Sys2Proof.Machine

/-- Key of a core register at an offset of the core window (R172). -/
def kreg (c off : Nat) : Nat := rkey 0 (0x1000000 + c * 0x100000 + off)

/-! ### The running context -/

def ctxOf (x : Core) : TaskCtx := match x.active with
  | some n => vget x.ctx n {}
  | none => {}

def modCore (c : Nat) (f : Core → Core) (s : State) : State := setCore c (f (coreOf s c)) s

def modRun (c : Nat) (f : CtxRun → CtxRun) (s : State) : State := modCore c (fun x => { x with run := f x.run }) s

/-- The job a context works for. -/
def jobRefOf (t : TaskCtx) : JobRef := ⟨t.slot, t.taggen⟩

/-! ### Raising a fault in a core -/

/-- Peek values of the information registers that the rule of a code records (R463). -/
def coreDetail (c : Nat) (code : FaultCode) (s : State) : List Word :=
  let g (o : Nat) : Word := regGet s (kreg c o)
  match code with
  | .abft => [g 0x1038, g 0x103C, g 0x1040]
  | .skew | .slotUnderrun | .slotOverrun => [g 0x300]
  | .basinUe | .cisternUe => [g 0x3008]
  | .geShape | .sitehashFull | .kmapOverflow | .metaParity => [g 0x2028]
  | .descInvalid | .templateCrc => [g 0x90C]
  | .ccTrap | .ccAbort | .lockstep | .dmemUe | .dcacheUe => [g 0x3810, g 0x3814]
  | _ => []

/-- Raises a fault in core `c` for the running context's job: engine code of R174, 7 for the control core. -/
def coreFault (c eng : Nat) (commit : Option Nat) (code : FaultCode) (s : State) : State :=
  let x := coreOf s c
  let t := ctxOf x
  let s := regPut (kreg c 0x18) (BitVec.ofNat 32 (code.num + 65536 * (x.active.getD 0 % 8) + 524288 * eng)) s
  let s := if code.cls = 3 then regCount (kreg c 0x304) 1 s else s
  let job := if x.active.isSome then some (jobRefOf t) else none
  raise ⟨code, c, 0, job, if x.active.isSome then some t.part else none, commit, some c, eng, coreDetail c code s, 1, false⟩ s


/-- The first stop since the last read: `KC_CC_CAUSE`, `KC_CC_TVAL` (R347). -/
def ccStopRec (c kind cause code tval : Nat) (s : State) : State :=
  let k := kreg c 0x3810
  if bitOf (regGet s k).toNat 31 then s
  else regPut (kreg c 0x3814) (BitVec.ofNat 32 tval)
    (regPut k (BitVec.ofNat 32 (2 ^ 31 + kind * 2 ^ 28 + cause * 2 ^ 16 + code)) s)

/-! ### A cache's lines -/

def modDc (c : Nat) (f : DCache → DCache) (s : State) : State := modCore c (fun x => { x with dc := f x.dc }) s

def modDir (f : Dir → Dir) (s : State) : State := { s with dir := f s.dir }

/-- A snoop removes a line from a core's cache: a reservation on it is cleared (R332), the data of an entry of the eviction
buffer is discarded (R418). -/
def dcDrop (c line : Nat) (s : State) : State :=
  let x := coreOf s c
  let cc := x.run.cc
  setCore c { x with
    dc := { x.dc with lines := x.dc.lines.filter (·.line != line)
                      evict := x.dc.evict.map fun m => if m.line = line then { m with dirty := false } else m }
    run := { x.run with cc := if cc.rsv.bind (·.2) = some line then { cc with rsv := none } else cc } } s

/-- A line of a cache, and of its eviction buffer, is no longer modified. -/
def dcClean (c line : Nat) (s : State) : State :=
  let clean (m : DcLine) : DcLine := if m.line = line then { m with dirty := false } else m
  modDc c (fun d => { d with lines := d.lines.map clean, evict := d.evict.map clean }) s

/-- Decodes words of a line of a core's cache or eviction buffer (R331): a corrected word is counted and written back, an
uncorrectable one counted; `false` where one is uncorrectable. -/
def dcDecode (c line : Nat) (ws : List Nat) (s : State) : Bool × State :=
  match dcFind (coreOf s c).dc line with
  | none => (true, s)
  | some l =>
    let cor := ws.filter fun w => l.up.getD w 0 == 1
    let unc := ws.filter fun w => decide (2 ≤ l.up.getD w 0)
    if cor.isEmpty && unc.isEmpty then (true, s)
    else
      let mend (m : DcLine) : DcLine := if m.line = line then { m with up := cor.foldl (fun u w => u.set w 0) m.up } else m
      let s := modDc c (fun d => { d with lines := d.lines.map mend, evict := d.evict.map mend }) s
      let s := if cor.isEmpty then s else regCountField (kreg c 0x3818) 16 8 cor.length s
      let s := if unc.isEmpty then s else regCountField (kreg c 0x3818) 24 8 unc.length s
      (unc.isEmpty, s)

/-- The words of a line. -/
def lineWords : List Nat := List.range 8

/-- A dirty line of a cache is uncorrectable (R331): dropped, raised for the job whose control core holds it. -/
def dcLost (c line : Nat) (s : State) : State :=
  let s := dcDrop c line s
  let s := modDc c (fun d => { d with evict := d.evict.filter (·.line != line) }) s
  coreFault c 7 none .dcacheUe (ccStopRec c 5 0 0 0 s)

/-- A line arrives in a cache, modified or shared; a line already there keeps its bytes. The miss ends. -/
def dcFill (c line : Nat) (bytes : List Byte) (excl : Bool) (s : State) : State :=
  modDc c (fun d =>
    let miss := match d.miss with
      | some m => if m.1 = line then none else d.miss
      | none => none
    if d.lines.any (·.line == line) then
      { d with miss := miss, lines := d.lines.map fun m => if m.line = line then { m with dirty := m.dirty || excl } else m }
    else { d with miss := miss, lines := ⟨line, excl, bytes, []⟩ :: d.lines }) s

/-! ### Messages -/

def dirSend (c : Nat) (m : DirMsg) (s : State) : State :=
  modDir (fun d => { d with toCache := vmod d.toCache c [] (· ++ [m]) }) s

def dirAnswer (a : DirAns) (s : State) : State := modDir (fun d => { d with toDir := d.toDir ++ [a] }) s

def msgLine : DirMsg → Nat
  | .fwdS l _ | .fwdM l _ | .recallKeep l | .inv l | .putAck l => l

def ansLine : DirAns → Nat
  | .ack l _ _ | .data l _ _ _ => l

def ansTs : DirAns → Nat
  | .ack _ _ t | .data _ _ _ t => t

def reqLine : DirReq → Nat
  | .getS _ l | .getM _ l | .putM _ l _ | .read l | .write l _ => l

/-- The data of a forward or recall, from the cache or its eviction buffer; an uncorrectable line gives none (R331). -/
def cacheData (c line : Nat) (after : State → State) (s : State) : State :=
  match dcFind (coreOf s c).dc line with
  | some l =>
    let r := dcDecode c line lineWords s
    if l.dirty && !r.1 then dirAnswer (.data line c none (replica s c)) (dcLost c line r.2)
    else dirAnswer (.data line c (some l.bytes) (replica s c)) (after r.2)
  | none => dirAnswer (.ack line c (replica s c)) s

/-- What a cache does with one message (R418). -/
def cacheMsg (c : Nat) (m : DirMsg) (s : State) : State :=
  match m with
  | .fwdS l _ | .recallKeep l => cacheData c l (dcClean c l) s
  | .fwdM l _ => cacheData c l (dcDrop c l) s
  | .inv l => dirAnswer (.ack l c (replica s c)) (dcDrop c l s)
  | .putAck l => modDc c (fun d => { d with evict := d.evict.filter (·.line != l) }) s

/-! ### The directory -/

/-- A fault for a job at a core: the control core of that job stops with its access not performed. -/
def missFault (c : Nat) (job : Option JobRef) (code : FaultCode) (s : State) : State :=
  let x := coreOf s c
  let s := modDc c (fun d => { d with miss := none }) s
  if x.active.isSome && job == some (jobRefOf (ctxOf x)) then
    let s := if code = .dcacheUe then ccStopRec c 5 0 0 0 s else s
    coreFault c 7 none code (modRun c (fun r => { r with cc := { r.cc with st := .stopped } }) s)
  else raise ⟨code, c, 0, job, job.map fun r => r.slot / 64, none, some c, 7, [], 1, false⟩ s

/-- A request is not performed. -/
def reqFault (q : DirReq) (job : Option JobRef) (code : FaultCode) (s : State) : State :=
  match q with
  | .getS c _ | .getM c _ => missFault c job code s
  | .putM c _ _ => raise ⟨code, c, 0, job, job.map fun r => r.slot / 64, none, some c, 7, [], 1, false⟩ s
  | _ => raise (plainFault code 20 none) s

def dirOpen (q : DirReq) (job : Option JobRef) (await : List Nat) (s : State) : State :=
  modDir (fun d => { d with txns := d.txns ++ [⟨q, reqLine q, await, job, s.tb.master⟩] }) s

def withSharer (st : Option DirState) (c : Nat) : DirState := match st with
  | some (.s m) => .s (m ||| (1#16 <<< c))
  | _ => .s (1#16 <<< c)

/-- Data from DRAM for a cache (R417). -/
def dirFromDram (q : DirReq) (job : Option JobRef) (c line : Nat) (excl : Bool) (s : State) : State :=
  match dramCheck line s with
  | (.error e, s) => reqFault q job e s
  | (.ok b, s) => dcFill c line b excl (setDir line (some (if excl then .m c else withSharer (dirOf s line) c)) s)

/-- A GetM with no other holder left: a sharer keeps its bytes, any other requester has them from DRAM. -/
def dirGrantM (q : DirReq) (job : Option JobRef) (c line : Nat) (s : State) : State :=
  if (coreOf s c).dc.lines.any (·.line == line) then dcFill c line [] true (setDir line (some (.m c)) s)
  else dirFromDram q job c line true s

/-- Sends to each of a list of caches. -/
def dirSendAll (cs : List Nat) (m : DirMsg) (s : State) : State := cs.foldl (fun s c => dirSend c m s) s

/-- Holders of a line other than core `c` (16 for none). -/
def holders (st : Option DirState) (c : Nat) : List Nat := match st with
  | some (.s m) => (onesFrom m.toNat 0 16).filter (· != c)
  | some (.m o) => if o = c then [] else [o]
  | none => []

/-- An uncorrectable directory entry (R419): its line is recalled from every cache that may hold it. -/
def dirScrub (line : Nat) (s : State) : State :=
  let u := smGet (fun _ => 0) s.dir.upset line
  if u = 0 then s
  else
    let s := modDir (fun d => { d with upset := smSet (fun _ => 0) d.upset line 0 }) s
    if u = 1 then s
    else
      let one (s : State) (c : Nat) : State :=
        match dcFind (coreOf s c).dc line with
        | some l =>
          let r := if l.dirty then dcDecode c line lineWords s else (true, s)
          let s := if !r.1 then dcLost c line r.2 else if l.dirty then dramStore line l.bytes r.2 else r.2
          if (coreOf s c).active.isSome then coreFault c 7 none .dirUe (dcDrop c line s) else dcDrop c line s
        | none => s
      setDir line none ((List.range 16).foldl one s)

/-- The directory's set of a line: 8,192 entries in 16 ways (R416). -/
def dirSetOf (line : Nat) : Nat := Config.dirSet line % 512

/-- The other lines that have an entry in a line's set. -/
def dirSame (s : State) (line : Nat) : List Nat :=
  (s.dir.entries.map (·.1)).filter fun l => l != line && dirSetOf l == dirSetOf line

/-- A line without an entry finds all ways of its set taken. -/
def dirFull (s : State) (line : Nat) : Bool :=
  (dirOf s line).isNone && decide (16 ≤ s.dir.entries.length) && decide (16 ≤ (dirSame s line).length)

/-- A line has a transaction. -/
def lineBusy (s : State) (line : Nat) : Bool := s.dir.txns.any (·.line == line)

/-- Recall-keep: a modified line returns to DRAM, its owner keeps S. `false` where the dirty line was uncorrectable, which
leaves the line in state I (R331). -/
def recallLine (line : Nat) (s : State) : Bool × State :=
  match dirOf s line with
  | some (.m o) =>
    (match dcFind (coreOf s o).dc line with
    | some l =>
      let r := dcDecode o line lineWords s
      if !r.1 then (false, setDir line none (dcLost o line r.2))
      else (true, setDir line (some (.s (1#16 <<< o))) (dramStore line l.bytes (dcClean o line r.2)))
    | none => (true, setDir line (some (.s (1#16 <<< o))) s))
  | _ => (true, s)

/-- Every holder of a line invalidated, as before a whole-line write by another agent. -/
def invalidateLine (line : Nat) (s : State) : State :=
  setDir line none ((List.range 16).foldl (fun s c => dcDrop c line s) s)

/-- A request that needs an entry of its own finds one, or a line of its set that can be recalled (R416). -/
def dirRoom (s : State) (q : DirReq) : Bool :=
  match q with
  | .getS _ l | .getM _ l => !dirFull s l || (dirSame s l).any fun m => !lineBusy s m
  | _ => true

/-- A full set recalls the line of one of its entries, the choice of which is free; entries of lines under a transaction
stay (R416). -/
def dirMakeRoom (line : Nat) (s : State) : State :=
  if !dirFull s line then s
  else
    let idle := (dirSame s line).filter fun l => !lineBusy s l
    let f := takeFree s
    match idle[Config.victim f.1 % idle.length]? with
    | some v => invalidateLine v (recallLine v (dirScrub v f.2)).2
    | none => s

/-- An agent's read of a line from DRAM takes the outcomes of R398. -/
def dirReadDram (line : Nat) (s : State) : State :=
  match dramCheck line s with
  | (.error e, s) => raise (plainFault e 20 (dramOwner s line)) s
  | (.ok _, s) => s

/-- The directory starts a request on a line with no transaction (R417). -/
def dirStart (q : DirReq) (job : Option JobRef) (s : State) : State :=
  let line := reqLine q
  let s := dirScrub line s
  let st := dirOf s line
  match q with
  | .putM c _ b => dirSend c (.putAck line) (if st = some (.m c) then setDir line none (dramStore line b s) else s)
  | _ =>
    if s.dir.poisoned.contains line then reqFault q job .dirTimeout s
    else match q, st with
    | .getS c _, some (.m o) => dirOpen q job [o] (dirSend o (.fwdS line c) s)
    | .getS c _, _ => dirFromDram q job c line false (dirMakeRoom line s)
    | .getM c _, some (.m o) => dirOpen q job [o] (dirSend o (.fwdM line c) s)
    | .getM c _, st =>
      let hs := holders st c
      if hs.isEmpty then dirGrantM q job c line (dirMakeRoom line s) else dirOpen q job hs (dirSendAll hs (.inv line) s)
    | .read _, some (.m o) => dirOpen q job [o] (dirSend o (.recallKeep line) s)
    | .read _, _ => dirReadDram line s
    | .write _ b, st =>
      let hs := holders st 16
      if hs.isEmpty then setDir line none (dramStore line b s) else dirOpen q job hs (dirSendAll hs (.inv line) s)
    | .putM _ _ _, _ => s

/-- The last answer of a transaction is in (R417): `data` is what a forward or recall brought, if anything. -/
def dirFinish (t : DirTxn) (data : Option (Option (List Byte))) (s : State) : State :=
  let line := t.line
  match t.req, data with
  | .putM _ _ _, _ => s
  | .getS c _, some (some b) =>
    let o := match dirOf s line with
      | some (.m o) => [o]
      | _ => []
    let m := (c :: o).foldl (fun m i => m ||| (1#16 <<< i)) (0 : BitVec 16)
    dcFill c line b false (setDir line (some (.s m)) (dramStore line b s))
  | .getM c _, some (some b) => dcFill c line b true (setDir line (some (.m c)) s)
  | .read _, some (some b) =>
    setDir line (match dirOf s line with
      | some (.m o) => some (.s (1#16 <<< o))
      | d => d) (dramStore line b s)
  | .write _ b, _ => setDir line none (dramStore line b s)
  | q, some none => reqFault q t.job .dcacheUe (setDir line none s)
  | .getS c _, none => dirFromDram t.req t.job c line false (setDir line none s)
  | .getM c _, none => dirGrantM t.req t.job c line s
  | .read _, none => dirReadDram line (setDir line none s)

/-- The first waiting request of a line, if it is an agent's, starts by itself once the line is free. -/
def dirWake (line : Nat) : Nat → State → State
  | 0, s => s
  | n + 1, s =>
    if lineBusy s line then s
    else match takeFirst (fun e : DirWait => reqLine e.req == line) s.dir.wait with
    | some (e, rest) =>
      (match e.req with
      | .read _ | .write _ _ => dirWake line n (dirStart e.req e.job (modDir (fun d => { d with wait := rest }) s))
      | _ => s)
    | none => s

/-- A fabric message that carries `ts` is too old at the directory (R57). -/
def dirLate (s : State) (ts : Nat) : Bool := decide (ts + 1000000 < replica s 16)

/-- What has waited at the directory behind a line travels no longer. -/
def waitFresh (line : Nat) (s : State) : State :=
  let ts := replica s 16
  modDir (fun d => { d with wait := d.wait.map fun e => if reqLine e.req = line then { e with ts := ts } else e }) s

/-- One answer at the directory. -/
def dirTake (a : DirAns) (s : State) : State :=
  let line := ansLine a
  match takeFirst (fun t : DirTxn => t.line == line) s.dir.txns with
  | none => s
  | some (t, rest) =>
    let c := match a with
      | .ack _ c _ | .data _ c _ _ => c
    let left := t.await.filter (· != c)
    let data := match a with
      | .ack _ _ _ => none
      | .data _ _ b _ => some b
    if left.isEmpty then dirWake line 64 (waitFresh line (dirFinish t data (modDir (fun d => { d with txns := rest }) s)))
    else modDir (fun d => { d with txns := d.txns.map fun u => if u.line = line then { u with await := left } else u }) s

/-- A message to a cache is lost once its transaction, which sent it, is older than 1 ms (R57). -/
def msgLost (c : Nat) (m : DirMsg) (s : State) : Bool :=
  match m with
  | .putAck _ => false
  | _ => s.dir.txns.any fun t => t.line == msgLine m && decide (t.ts + 1000000 < replica s c)

/-- A transaction on a line has lost a message (R419): its requester faults, the line is poisoned. -/
def dirExpire (line : Nat) (q : DirReq) (job : Option JobRef) (s : State) : State :=
  let s := modDir (fun d => { d with
    txns := d.txns.filter (·.line != line), poisoned := if d.poisoned.contains line then d.poisoned else d.poisoned ++ [line],
    toDir := d.toDir.filter fun a => ansLine a != line,
    toCache := vmap d.toCache [] fun _ q => q.filter fun m => m == .putAck line || msgLine m != line }) s
  dirWake line 64 (waitFresh line (reqFault q job .dirTimeout s))

/-- Serves the first waiting request of a line; one that has travelled for over 1 ms is dropped, and its transaction has lost
a message (R57, R419). -/
def dirServe (e : DirWait) (rest : List DirWait) (s : State) : State :=
  let s := modDir (fun d => { d with wait := rest }) s
  if dirLate s e.ts then dirExpire (reqLine e.req) e.req e.job s
  else dirWake (reqLine e.req) 64 (dirStart e.req e.job s)

/-- One step that the protocol still has to make on a line; `none` where nothing of it is under way. -/
def dirStepLine (line : Nat) (s : State) : Option State :=
  match takeFirst (fun a => ansLine a == line) s.dir.toDir with
  | some (a, rest) =>
    let s' := modDir (fun d => { d with toDir := rest }) s
    some (if dirLate s (ansTs a) then s' else dirTake a s')
  | none =>
    match (List.range 16).findSome? (fun c =>
      (takeFirst (fun m => msgLine m == line) (vget s.dir.toCache c [])).map fun r => (c, r.1, r.2)) with
    | some (c, m, rest) =>
      let s' := modDir (fun d => { d with toCache := vset d.toCache c rest }) s
      some (if msgLost c m s then s' else cacheMsg c m s')
    | none =>
      match s.dir.txns.find? (·.line == line), takeFirst (fun e : DirWait => reqLine e.req == line) s.dir.wait with
      | some t, _ => some (dirExpire line t.req t.job s)
      | none, some (e, rest) => if dirRoom s e.req then some (dirServe e rest s) else none
      | none, none => none

/-- The same, or a step on a line of the same set where the waiting request finds no room. -/
def dirStepSet (line : Nat) (s : State) : Option State :=
  match dirStepLine line s with
  | some t => some t
  | none =>
    if s.dir.wait.any fun e => reqLine e.req == line then (dirSame s line).findSome? fun l => dirStepLine l s else none

/-- What waits on a line is done first, in its order (R416); a transaction with nothing under way any more has lost a message
(R419). -/
def dirSettle (line : Nat) : Nat → State → State
  | 0, s => s
  | n + 1, s => match dirStepSet line s with
    | some s => dirSettle line n s
    | none => s

/-- Steps that settle any line: every request makes at most 40. -/
def settleFuel (s : State) : Nat := 40 * (s.dir.txns.length + s.dir.wait.length + 1)

/-! ### Accesses by other agents (R417) -/

/-- A read of one line by an agent other than a control core (R417, R419). -/
def agentRead (line : Nat) (s : State) : Except FaultCode (List Byte) × State :=
  let s := dirSettle line (settleFuel s) s
  if s.dir.poisoned.contains line then (.error .dirTimeout, s)
  else
    let r := recallLine line (dirScrub line s)
    if r.1 then dramCheck line r.2 else (.error .dcacheUe, r.2)

/-- A write of one whole line by an agent other than a control core (R417). -/
def agentWrite (line : Nat) (bs : List Byte) (s : State) : Except FaultCode Unit × State :=
  let s := dirSettle line (settleFuel s) s
  if s.dir.poisoned.contains line then (.error .dirTimeout, s)
  else (.ok (), dramStore line bs (invalidateLine line (dirScrub line s)))

/-- Reads `n` lines from a device address. -/
def agentReadBytes (a : Nat) : Nat → State → Except FaultCode (List Byte) × State
  | 0, s => (.ok [], s)
  | k + 1, s =>
    match agentRead (lineOf a + 64 * k) s with
    | (.error e, s) => (.error e, s)
    | (.ok bs, s) =>
      match agentReadBytes a k s with
      | (.error e, s) => (.error e, s)
      | (.ok rest, s) => (.ok (rest ++ bs), s)

/-! ### The commands -/

/-- The first waiting request of a kind that the directory can start: no transaction of its line, none before it, room for its
entry. -/
def dirReady (s : State) (p : DirReq → Bool) : Option (DirWait × List DirWait) :=
  takeFirst (fun e : DirWait => p e.req && !lineBusy s (reqLine e.req) && dirRoom s e.req &&
    (s.dir.wait.find? fun x => reqLine x.req == reqLine e.req) == some e) s.dir.wait

def dirServeKind (p : DirReq → Bool) (s : State) : State :=
  if !isReady s then s
  else match dirReady s p with
  | some r => dirServe r.1 r.2 s
  | none => s

/-- DIR_GETS (R417). -/
def execDirGets (core : Fin 16) (s : State) : Host.Outcome State Fault Refusal :=
  .next (dirServeKind (fun q => match q with
    | .getS c _ => c == core.val
    | _ => false) s)

/-- DIR_GETM (R417). -/
def execDirGetm (core : Fin 16) (s : State) : Host.Outcome State Fault Refusal :=
  .next (dirServeKind (fun q => match q with
    | .getM c _ => c == core.val
    | _ => false) s)

/-- DIR_PUTM (R417). -/
def execDirPutm (core : Fin 16) (s : State) : Host.Outcome State Fault Refusal :=
  .next (dirServeKind (fun q => match q with
    | .putM c _ _ => c == core.val
    | _ => false) s)

/-- A request of an agent arrives: it starts, or waits behind its line. -/
def dirArrive (q : DirReq) (s : State) : State :=
  if !isReady s then s
  else if lineBusy s (reqLine q) || s.dir.wait.any (fun e => reqLine e.req == reqLine q) then
    modDir (fun d => { d with wait := d.wait ++ [⟨q, none, replica s 16⟩] }) s
  else dirStart q none s

/-- DIR_AGENT_READ (R417). -/
def execDirAgentRead (line : Nat) (s : State) : Host.Outcome State Fault Refusal := .next (dirArrive (.read (lineOf line)) s)

/-- DIR_AGENT_WRITE (R417): a whole line. -/
def execDirAgentWrite (line : Nat) (data : List Byte) (s : State) : Host.Outcome State Fault Refusal :=
  .next (dirArrive (.write (lineOf line) (slice data 0 64)) s)

/-- DIR_ACK (R57, R417): the oldest answer on its way; one older than 1 ms is dropped. -/
def execDirAck (s : State) : Host.Outcome State Fault Refusal :=
  .next (match s.dir.toDir with
    | a :: rest =>
      let s' := modDir (fun d => { d with toDir := rest }) s
      if !isReady s then s else if dirLate s (ansTs a) then s' else dirTake a s'
    | [] => s)

/-- A snoop for the line that the core has reserved within 64 cycles (KC), 5,120/9k ns at speed k (R332, R528). -/
def snoopWaits (c : Nat) (m : DirMsg) (s : State) : Bool :=
  let cc := (coreOf s c).run.cc
  match m with
  | .putAck _ => false
  | _ => cc.rsv.bind (·.2) == some (msgLine m) && decide ((s.tb.master - cc.rsvAt) * vget s.clk.k c 16 * 9 < 5120)

/-- The oldest message to a cache, where it is of the kind (messages arrive in the order they were sent). -/
def cacheTake (c : Nat) (p : DirMsg → Bool) (s : State) : State :=
  match vget s.dir.toCache c [] with
  | m :: rest =>
    let s' := modDir (fun d => { d with toCache := vset d.toCache c rest }) s
    if !(isReady s && p m) || snoopWaits c m s then s else if msgLost c m s then s' else cacheMsg c m s'
  | [] => s

/-- CACHE_FWD_S (R418). -/
def execCacheFwdS (core : Fin 16) (s : State) : Host.Outcome State Fault Refusal :=
  .next (cacheTake core.val (fun m => match m with
    | .fwdS _ _ => true
    | _ => false) s)

/-- CACHE_FWD_M (R418). -/
def execCacheFwdM (core : Fin 16) (s : State) : Host.Outcome State Fault Refusal :=
  .next (cacheTake core.val (fun m => match m with
    | .fwdM _ _ => true
    | _ => false) s)

/-- CACHE_RECALL_KEEP (R418). -/
def execCacheRecallKeep (core : Fin 16) (s : State) : Host.Outcome State Fault Refusal :=
  .next (cacheTake core.val (fun m => match m with
    | .recallKeep _ => true
    | _ => false) s)

/-- CACHE_INV (R418). -/
def execCacheInv (core : Fin 16) (s : State) : Host.Outcome State Fault Refusal :=
  .next (cacheTake core.val (fun m => match m with
    | .inv _ => true
    | _ => false) s)

/-- CACHE_PUT_ACK (R418). -/
def execCachePutAck (core : Fin 16) (s : State) : Host.Outcome State Fault Refusal :=
  .next (cacheTake core.val (fun m => match m with
    | .putAck _ => true
    | _ => false) s)

/-- DIR_TIMEOUT (R419): a transaction has lost a message. -/
def execDirTimeout (line : Nat) (s : State) : Host.Outcome State Fault Refusal :=
  .next (
    let l := lineOf line
    match s.dir.txns.find? (·.line == l) with
    | some t => if !isReady s || decide (replica s 16 ≤ t.ts + 1000000) then s else dirExpire l t.req t.job s
    | none => s)

end Sys2Proof.Machine
end

