-- ==== Sys2Proof/Machine/Num.lean ====
section
/-! DEFINITION. Numeric formats and their arithmetic (05): exact values, rounding (R136, R137), conversions (R139 to
R141), FP32 operations, KQ8 (R147 to R149), SG16 (R151 to R153, R249). Values travel as their bits, in `Nat`. -/

namespace Sys2Proof.Machine

/-! ### Exact values -/

/-- An exact value: NaN, an infinity with its sign, or `m * 2^e` with its sign (the sign of a zero is kept). -/
inductive FVal where
  | nan
  | inf (neg : Bool)
  | fin (neg : Bool) (m : Nat) (e : Int)
  deriving DecidableEq, Repr

/-- A floating-point format (R133): exponent and fraction widths, bias; E4M3 has no infinity. -/
structure FFmt where
  eb : Nat
  fb : Nat
  bias : Nat
  ieee : Bool
  deriving DecidableEq, Repr

def f32 : FFmt := ⟨8, 23, 127, true⟩
def bf16 : FFmt := ⟨8, 7, 127, true⟩
def f16 : FFmt := ⟨5, 10, 15, true⟩
def e5m2 : FFmt := ⟨5, 2, 15, true⟩
def e4m3 : FFmt := ⟨4, 3, 7, false⟩

/-- Smallest exponent of a unit in the last place. -/
def FFmt.emin (f : FFmt) : Int := 1 - (f.bias : Int) - f.fb

/-- The value of a bit pattern (R133). -/
def fdec (f : FFmt) (x : Nat) : FVal :=
  let s := bitOf x (f.eb + f.fb)
  let e := bits x f.fb f.eb
  let m := x % 2 ^ f.fb
  if f.ieee && e == 2 ^ f.eb - 1 then (if m = 0 then .inf s else .nan)
  else if !f.ieee && e == 2 ^ f.eb - 1 && m == 2 ^ f.fb - 1 then .nan
  else if e = 0 then .fin s m f.emin
  else .fin s (2 ^ f.fb + m) ((e : Int) - f.bias - f.fb)

/-- The canonical NaN of a format (R134). -/
def fnan (f : FFmt) : Nat :=
  if f.ieee then (2 ^ f.eb - 1) * 2 ^ f.fb + (if f.fb = 2 then 3 else 2 ^ (f.fb - 1)) else 2 ^ (f.eb + f.fb) - 1

def finf (f : FFmt) (neg : Bool) : Nat := bitAt neg (f.eb + f.fb) + (2 ^ f.eb - 1) * 2 ^ f.fb

/-- The largest finite magnitude. -/
def fmax (f : FFmt) (neg : Bool) : Nat :=
  bitAt neg (f.eb + f.fb) + (if f.ieee then (2 ^ f.eb - 1) * 2 ^ f.fb - 1 else 2 ^ (f.eb + f.fb) - 2)

/-! ### Rounding -/

/-- `m * 2^e` in units of `2^u`: ties to even (R136), or with the 16-bit random value `r` (R137). -/
def roundAt (m : Nat) (e u : Int) (r : Option Nat) : Nat :=
  if u ≤ e then m * 2 ^ (e - u).toNat
  else
    let k := (u - e).toNat
    let q := m / 2 ^ k
    let d := m % 2 ^ k
    match r with
    | none => if 2 ^ k < 2 * d || (2 * d == 2 ^ k && q % 2 == 1) then q + 1 else q
    | some r => if 65536 ≤ d * 65536 / 2 ^ k + r then q + 1 else q

/-- Overflow outcome of a conversion: an infinity, or for the FP8 formats the rule of R139. -/
inductive Ovf where
  | ieee | sat | nonsat
  deriving DecidableEq, Repr

def fovf (f : FFmt) (o : Ovf) (neg : Bool) : Nat :=
  match o with
  | .sat => fmax f neg
  | _ => if f.ieee then finf f neg else fnan f

/-- The bits of a value in a format, rounded once (R136 to R140). -/
def fenc (f : FFmt) (o : Ovf) (r : Option Nat) (v : FVal) : Nat :=
  match v with
  | .nan => fnan f
  | .inf s => fovf f o s
  | .fin s m e =>
    let u := max (e + Nat.log2 m - f.fb) f.emin
    let q := if m = 0 then 0 else roundAt m e u r
    let q' := if q = 2 ^ (f.fb + 1) then 2 ^ f.fb else q
    let u' := if q = 2 ^ (f.fb + 1) then u + 1 else u
    let sgn := bitAt s (f.eb + f.fb)
    if q' < 2 ^ f.fb then sgn + q'
    else
      let ex := (u' + f.bias + f.fb).toNat
      if 2 ^ f.eb ≤ ex || (f.ieee && ex == 2 ^ f.eb - 1) || (!f.ieee && ex == 2 ^ f.eb - 1 && q' == 2 ^ (f.fb + 1) - 1)
      then fovf f o s
      else sgn + ex * 2 ^ f.fb + (q' - 2 ^ f.fb)

/-- Rounds a value once to FP32. -/
def r32 (v : FVal) : Nat := fenc f32 .ieee none v

def d32 (x : Nat) : FVal := fdec f32 x

/-! ### Exact operations -/

def fneg : FVal → FVal
  | .nan => .nan
  | .inf s => .inf (!s)
  | .fin s m e => .fin (!s) m e

def fabs : FVal → FVal
  | .nan => .nan
  | .inf _ => .inf false
  | .fin _ m e => .fin false m e

/-- The signed integer of a magnitude. -/
def sgnI (s : Bool) (m : Nat) : Int := if s then -(m : Int) else m

def faddX (a b : FVal) : FVal :=
  match a, b with
  | .nan, _ | _, .nan => .nan
  | .inf s, .inf t => if s = t then .inf s else .nan
  | .inf s, _ => .inf s
  | _, .inf t => .inf t
  | .fin s m e, .fin t n d =>
    let u := min e d
    let x := sgnI s (m * 2 ^ (e - u).toNat) + sgnI t (n * 2 ^ (d - u).toNat)
    if x = 0 then .fin (s && t) 0 0 else .fin (decide (x < 0)) x.natAbs u

def fmulX (a b : FVal) : FVal :=
  match a, b with
  | .nan, _ | _, .nan => .nan
  | .inf s, .inf t => .inf (s != t)
  | .inf s, .fin t n _ => if n = 0 then .nan else .inf (s != t)
  | .fin s m _, .inf t => if m = 0 then .nan else .inf (s != t)
  | .fin s m e, .fin t n d => .fin (s != t) (m * n) (e + d)

/-- A quotient with 160 further bits and a sticky bit: rounding to any format gives the correctly rounded quotient. -/
def fdivX (a b : FVal) : FVal :=
  match a, b with
  | .nan, _ | _, .nan => .nan
  | .inf _, .inf _ => .nan
  | .inf s, .fin t _ _ => .inf (s != t)
  | .fin s _ _, .inf t => .fin (s != t) 0 0
  | .fin s m e, .fin t n d =>
    if n = 0 then (if m = 0 then .nan else .inf (s != t))
    else
      let q := m * 2 ^ 160 / n
      .fin (s != t) (2 * q + (if q * n = m * 2 ^ 160 then 0 else 1)) (e - d - 161)

/-- Integer square root by bits, from bit `k` down. -/
def isqrtFrom (x : Nat) : Nat → Nat → Nat
  | 0, r => r
  | k + 1, r => if (r + 2 ^ k) * (r + 2 ^ k) ≤ x then isqrtFrom x k (r + 2 ^ k) else isqrtFrom x k r

def isqrt (x : Nat) : Nat := isqrtFrom x (Nat.log2 x / 2 + 1) 0

/-- A square root with 100 further bits and a sticky bit. -/
def fsqrtX (a : FVal) : FVal :=
  match a with
  | .nan => .nan
  | .inf s => if s then .nan else .inf false
  | .fin s m e =>
    if m = 0 then .fin s 0 0
    else if s then .nan
    else
      let odd := e % 2 = 1
      let x := (if odd then 2 * m else m) * 2 ^ 200
      let q := isqrt x
      .fin false (2 * q + (if q * q = x then 0 else 1)) ((if odd then e - 1 else e) / 2 - 101)

/-! ### FP32 operations, one rounding each (R136) -/

def add32 (a b : Nat) : Nat := r32 (faddX (d32 a) (d32 b))
def sub32 (a b : Nat) : Nat := r32 (faddX (d32 a) (fneg (d32 b)))
def mul32 (a b : Nat) : Nat := r32 (fmulX (d32 a) (d32 b))
def fma32 (a b c : Nat) : Nat := r32 (faddX (fmulX (d32 a) (d32 b)) (d32 c))
def div32 (a b : Nat) : Nat := r32 (fdivX (d32 a) (d32 b))
def sqrt32 (a : Nat) : Nat := r32 (fsqrtX (d32 a))
def abs32 (a : Nat) : Nat := r32 (fabs (d32 a))
def neg32 (a : Nat) : Nat := r32 (fneg (d32 a))

def isNan (a : Nat) : Bool := d32 a == .nan
def isInf (a : Nat) : Bool := match d32 a with
  | .inf _ => true
  | _ => false
def isFinite32 (a : Nat) : Bool := match d32 a with
  | .fin _ _ _ => true
  | _ => false

/-- FP32 zero of either sign. -/
def isZero32 (a : Nat) : Bool := a % 2 ^ 31 == 0

/-- Order of two finite or infinite values: -1, 0, 1; `none` with a NaN. -/
def cmpX (a b : FVal) : Option Int :=
  match a, b with
  | .nan, _ | _, .nan => none
  | .inf s, .inf t => some (if s = t then 0 else if s then -1 else 1)
  | .inf s, _ => some (if s then -1 else 1)
  | _, .inf t => some (if t then 1 else -1)
  | .fin s m e, .fin t n d =>
    let u := min e d
    let x := sgnI s (m * 2 ^ (e - u).toNat)
    let y := sgnI t (n * 2 ^ (d - u).toNat)
    some (if x < y then -1 else if x = y then 0 else 1)

def lt32 (a b : Nat) : Bool := cmpX (d32 a) (d32 b) == some (-1)
def le32 (a b : Nat) : Bool := match cmpX (d32 a) (d32 b) with
  | some c => decide (c ≤ 0)
  | none => false

/-- Maximum of R254: NaN if either is, +0 above −0. -/
def max32 (a b : Nat) : Nat :=
  if isNan a || isNan b then fnan f32
  else if isZero32 a && isZero32 b then (if bitOf a 31 then b else a)
  else if lt32 a b then b else a

def min32 (a b : Nat) : Nat :=
  if isNan a || isNan b then fnan f32
  else if isZero32 a && isZero32 b then (if bitOf a 31 then a else b)
  else if lt32 b a then b else a

/-! ### Integers -/

/-- The exact value of an integer. -/
def ofInt (x : Int) : FVal := .fin (decide (x < 0)) x.natAbs 0

/-- INT32 to FP32 (R141). -/
def itof32 (x : Nat) : Nat := r32 (ofInt (signed 32 x))

/-- Rounds to an integer (R136 or R137). -/
def toInt (r : Option Nat) : FVal → Int
  | .fin s m e => sgnI s (roundAt m e 0 r)
  | _ => 0

/-- Conversion to a two's complement integer of `n` bits from `lo` to `2^(n-1)-1` (R141, R149). -/
def toIntSat (lo hi : Int) (r : Option Nat) (v : FVal) : Int :=
  match v with
  | .nan => 0
  | .inf s => if s then lo else hi
  | v => max lo (min hi (toInt r v))

/-! ### Format codes (R130) -/

/-- The floating-point format of an element code. -/
def fmtOf (code : Nat) : Option FFmt :=
  match code % 16 with
  | 2 => some e4m3
  | 3 => some e5m2
  | 4 => some bf16
  | 5 => some f16
  | 6 => some f32
  | _ => none

/-- Bytes of an element (INT4 counts one). -/
def elemBytes (code : Nat) : Nat :=
  match code % 16 with
  | 4 | 5 => 2
  | 6 | 7 => 4
  | _ => 1

def fmtValid (code : Nat) : Bool := code ≤ 8 || [0x10, 0x12, 0x13, 0x14, 0x15].contains code

def isSg16 (code : Nat) : Bool := bitOf code 4

/-- The exact value of an element (INT8, INT4 in the low nibble, INT32, KQ8 `q`, or floating point). -/
def elemVal (code x : Nat) : FVal :=
  match fmtOf code with
  | some f => fdec f x
  | none =>
    match code % 16 with
    | 1 => ofInt (signed 4 x)
    | 7 => ofInt (signed 32 x)
    | _ => ofInt (signed 8 x)

/-- An element is zero in the sense of R144: integer 0, or bits 0 apart from the sign. -/
def elemZero (code x : Nat) : Bool :=
  match code % 16 with
  | 1 => x % 16 == 0
  | 0 | 8 => x % 256 == 0
  | 7 => x == 0
  | 2 | 3 => x % 128 == 0
  | 6 => x % 2 ^ 31 == 0
  | _ => x % 2 ^ 15 == 0

/-- Conversion of FP32 to an element code other than KQ8 (R139 to R141). -/
def convTo (code : Nat) (r : Option Nat) (nonsat : Bool) (x : Nat) : Nat :=
  let v := d32 x
  match code % 16 with
  | 0 => unsigned 8 (toIntSat (-128) 127 r v)
  | 1 => unsigned 4 (toIntSat (-8) 7 r v)
  | 7 => unsigned 32 (toIntSat (-2147483648) 2147483647 r v)
  | 2 => fenc e4m3 (if nonsat then .nonsat else .sat) r v
  | 3 => fenc e5m2 (if nonsat then .nonsat else .sat) r v
  | 4 => fenc bf16 .ieee r v
  | 5 => fenc f16 .ieee r v
  | _ => r32 v

/-- Widening of an element to FP32. -/
def widen (code x : Nat) : Nat := r32 (elemVal code x)

/-! ### Lane generators (R138) -/

/-- One xorshift step. -/
def xorshift (x : Word) : Word :=
  let x := x ^^^ (x <<< 13)
  let x := x ^^^ (x >>> 17)
  x ^^^ (x <<< 5)

/-- Generator states that a seed gives the 64 lanes (R257). -/
def seedGens (seed : Word) : List Word :=
  (List.range 64).map fun l =>
    let x := seed ^^^ BitVec.ofNat 32 (l * 0x9E3779B9)
    if x = 0 then 1 else x

/-! ### KQ8 (R149) -/

/-- Smallest exponent from `e` upward, at most `n` steps, with `m <= 127 * 2^e`. -/
def kq8Exp (m : FVal) : Nat → Int → Int
  | 0, e => e
  | n + 1, e => if (cmpX m (.fin false 127 e)).getD 0 ≤ 0 then e else kq8Exp m n (e + 1)

/-- The exponent of a group of FP32 values. -/
def kq8Group (xs : List Nat) : Int :=
  let m := xs.foldl (fun a x => if isNan x then a else max32 a (abs32 x)) 0
  if isInf m then 127 else if m = 0 then 0 else kq8Exp (d32 m) 255 (-128)

/-- One KQ8 value under exponent `e`. -/
def kq8Elem (e : Int) (r : Option Nat) (x : Nat) : Nat :=
  unsigned 8 (toIntSat (-127) 127 r (fmulX (d32 x) (.fin false 1 (-e))))

/-! ### SG16 (R151, R152, R249) -/

/-- Little-endian elements of `b` bytes. -/
def elemsLe (b : Nat) (xs : List Nat) : List Byte := xs.flatMap (leBytes b)

/-- Nibbles packed two to a byte, low first. -/
def packNib : List Nat → List Byte
  | [] => []
  | [a] => [BitVec.ofNat 8 (a % 16)]
  | a :: b :: r => BitVec.ofNat 8 (a % 16 + 16 * (b % 16)) :: packNib r

/-- The canonical group of 16 elements (R152). -/
def sg16Enc (code : Nat) (xs : List Nat) : List Byte :=
  let b := elemBytes code
  let nz := (List.range 16).filter fun i => !elemZero code (xs.getD i 0)
  let n := nz.length
  if n = 0 then [0]
  else if n ≤ 8 then
    BitVec.ofNat 8 (1 + 4 * (n - 1)) :: (packNib nz ++ elemsLe b (nz.map fun i => xs.getD i 0))
  else 2 :: elemsLe b ((List.range 16).map fun i => if elemZero code (xs.getD i 0) then 0 else xs.getD i 0)

/-- Length of a group from its control byte (R238). -/
def sg16Len (code : Nat) (ctl : Byte) : Nat :=
  let c := ctl.toNat
  match c % 4 with
  | 1 => let n := bits c 2 3 + 1; 1 + (n + 1) / 2 + n * elemBytes code
  | 2 => 1 + 16 * elemBytes code
  | _ => 1

/-- The 16 elements of a group; bytes past the list read 0 (R249). -/
def sg16Dec (code : Nat) (g : List Byte) : List Nat :=
  let b := elemBytes code
  let c := (g.headD 0).toNat
  match c % 4 with
  | 1 =>
    let n := bits c 2 3 + 1
    (List.range n).foldl (fun a j =>
      let p := bits (field g (1 + j / 2) 1) (4 * (j % 2)) 4
      a.set p (field g (1 + (n + 1) / 2 + j * b) b)) (List.replicate 16 0)
  | 2 => (List.range 16).map fun i => field g (1 + i * b) b
  | _ => List.replicate 16 0

/-! ### Special functions (R254)

The exact value is taken to 2^-1024 of fixed point with the last bit set (no argument but the ones handled apart gives
a value that is a binary fraction), then rounded once. DEDUCED, notes/assumptions/10. -/

/-- Fraction bits. -/
def fxBits : Nat := 1024

/-- A finite value in fixed point, toward zero. -/
def toFx (neg : Bool) (m : Nat) (e : Int) : Int :=
  sgnI neg (if 0 ≤ e + fxBits then m * 2 ^ (e + fxBits).toNat else m / 2 ^ (-(e + fxBits)).toNat)

def fxMul (a b : Int) : Int := a * b / (2 ^ fxBits : Nat)

/-- Terms of the series of exp from term `k`: `t` is `x^k / k!`. -/
def fxExpSum (x : Int) : Nat → Nat → Int → Int → Int
  | 0, _, _, acc => acc
  | n + 1, k, t, acc => fxExpSum x n (k + 1) (fxMul t x / ((k + 1 : Nat) : Int)) (acc + t)

/-- e^x of a fixed-point number of small magnitude: x is halved 16 times and the result squared 16 times. -/
def fxExpSmall (x : Int) : Int :=
  (List.range 16).foldl (fun y _ => fxMul y y) (fxExpSum (x / 65536) 90 0 (2 ^ fxBits : Nat) 0)

/-- e^x: magnitudes up to 256 stand in the fixed point with room to spare. -/
def fxExp (x : Int) : Int := fxExpSmall x

/-- The value of a fixed-point number known to be inexact. -/
def ofFx (x : Int) : FVal := .fin (decide (x < 0)) (2 * x.natAbs + 1) (-(fxBits : Int) - 1)

/-- Terms of the series of erf: `t` is `(-1)^k x^(2k+1) / k!`. -/
def fxErfSum (x2 : Int) : Nat → Nat → Int → Int → Int
  | 0, _, _, acc => acc
  | n + 1, k, t, acc =>
    fxErfSum x2 n (k + 1) (-(fxMul t x2) / ((k + 1 : Nat) : Int)) (acc + t / ((2 * k + 1 : Nat) : Int))

/-- Terms of an arctangent series of 1/q in fixed point. -/
def fxAtanInv (q : Nat) : Nat → Nat → Int → Int → Int
  | 0, _, _, acc => acc
  | n + 1, k, t, acc =>
    fxAtanInv q n (k + 1) (-(t / ((q * q : Nat) : Int))) (acc + t / ((2 * k + 1 : Nat) : Int))

/-- π by Machin's formula. -/
def fxPi : Int :=
  4 * (4 * fxAtanInv 5 500 0 ((2 ^ fxBits : Nat) / 5) 0 - fxAtanInv 239 200 0 ((2 ^ fxBits : Nat) / 239) 0)

/-- 2 ÷ √π. -/
def fxTwoOverSqrtPi : Int :=
  ((2 * 2 ^ (2 * fxBits) : Nat) : Int) / (isqrt (fxPi.toNat * 2 ^ fxBits) : Nat)

/-- erf of a fixed-point number of magnitude at most 16. -/
def fxErf (x : Int) : Int := fxMul fxTwoOverSqrtPi (fxErfSum (fxMul x x) 1400 0 x 0)

/-- Fixed-point one. -/
def fxOne : Int := (2 ^ fxBits : Nat)

/-- A finite FP32 value lies beyond a magnitude. -/
def beyond (m : Nat) (e : Int) (lim : Nat) : Bool := (cmpX (.fin false lim 0) (.fin false m e)).getD 0 < 0

/-- e^x rounded once. -/
def exp32 (x : Nat) : Nat :=
  match d32 x with
  | .nan => fnan f32
  | .inf s => if s then 0 else finf f32 false
  | .fin s m e =>
    if m = 0 then 0x3F800000
    else if beyond m e 128 then (if s then 0 else finf f32 false)
    else r32 (ofFx (fxExp (toFx s m e)))

/-- 1 ÷ (1 + e^-x) in fixed point. -/
def fxSigmoid (x : Int) : Int := fxOne * fxOne / (fxOne + fxExp (-x))

def sigmoid32 (x : Nat) : Nat :=
  match d32 x with
  | .nan => fnan f32
  | .inf s => if s then 0 else 0x3F800000
  | .fin s m e =>
    if m = 0 then 0x3F000000
    else if beyond m e 128 then (if s then 0 else 0x3F800000)
    else r32 (ofFx (fxSigmoid (toFx s m e)))

def silu32 (x : Nat) : Nat :=
  match d32 x with
  | .nan => fnan f32
  | .inf s => if s then 0x80000000 else finf f32 false
  | .fin s m e =>
    if m = 0 then bitAt s 31
    else if beyond m e 160 then (if s then 0x80000000 else x)
    else r32 (fmulX (.fin s m e) (ofFx (fxSigmoid (toFx s m e))))

def gelu32 (x : Nat) : Nat :=
  match d32 x with
  | .nan => fnan f32
  | .inf s => if s then 0x80000000 else finf f32 false
  | .fin s m e =>
    if m = 0 then bitAt s 31
    else if beyond m e 20 then (if s then 0x80000000 else x)
    else
      let t := toFx s m e
      let u := fxMul t fxOne * fxOne / (isqrt (2 * 2 ^ (2 * fxBits)) : Nat)
      r32 (fmulX (.fin s m (e - 1)) (ofFx (fxOne + fxErf u)))

def tanh32 (x : Nat) : Nat :=
  match d32 x with
  | .nan => fnan f32
  | .inf s => bitAt s 31 + 0x3F800000
  | .fin s m e =>
    if m = 0 then bitAt s 31
    else if beyond m e 64 then bitAt s 31 + 0x3F800000
    else
      let y := fxExp (-2 * toFx false m e)
      r32 (fmulX (.fin s 1 0) (ofFx ((fxOne - y) * fxOne / (fxOne + y))))

/-- An activation function of R258; α is the FP32 `ALPHA`. -/
def actFn (code : Nat) (alpha x : Nat) : Nat :=
  match code with
  | 1 => if isNan x then fnan f32 else if bitOf x 31 then 0 else x
  | 2 => if isNan x then fnan f32 else if bitOf x 31 then 0 else if lt32 0x40C00000 x then 0x40C00000 else x
  | 3 => if isNan x then fnan f32 else if bitOf x 31 && !isZero32 x then mul32 x alpha else x
  | 4 => sigmoid32 x
  | 5 => silu32 x
  | 6 => gelu32 x
  | 7 => tanh32 x
  | 8 => exp32 x
  | _ => if isNan x then fnan f32 else x

/-- Reciprocal: ±0 gives an infinity of its sign (R254). -/
def rcp32 (x : Nat) : Nat := r32 (fdivX (.fin false 1 0) (d32 x))

/-- Reciprocal square root; ±0 gives an infinity of its sign, a negative value NaN. -/
def rsqrt32 (x : Nat) : Nat :=
  match d32 x with
  | .fin s m e =>
    if m = 0 then finf f32 s else if s then fnan f32 else
      let q := fdivX (.fin false 1 0) (.fin false m e)
      match q with
      | .fin _ n d => r32 (fsqrtX (.fin false n d))
      | _ => fnan f32
  | .inf s => if s then fnan f32 else 0
  | .nan => fnan f32

end Sys2Proof.Machine
end

