-- ==== Sys2Proof/Machine/CoreMem.lean ====
section
/-! DEFINITION. Accesses of one core's engines to its Basin, Cistern and DMEM (07, R163, R169, R171, R329), and how a
core raises a fault. -/

namespace Sys2Proof.Machine

/-! ### Outcomes of engine work -/

/-- Why an engine's work stops: a fault with the index it was met at, or a wait that leaves it for a later step. -/
inductive Stop where
  | fault (code : FaultCode) (idx : Nat)
  | wait
  deriving DecidableEq, Repr

/-- Engine work: partial effects before a fault stand. -/
abbrev EngM (α : Type) : Type := ExceptT Stop (StateM State) α

def stopF {α : Type} (code : FaultCode) : EngM α := throw (.fault code 0)

/-- Runs engine work. -/
def engRun {α : Type} (m : EngM α) (s : State) : Except Stop α × State := StateT.run (ExceptT.run m) s

/-- Who accesses: core, engine code, descriptor words. -/
structure Acc where
  c : Nat
  eng : Nat
  w : List Word

/-- A field of a descriptor word. -/
def wbits (w : List Word) (i lo len : Nat) : Nat := bits (w.getD i 0).toNat lo len

/-! ### Declared regions (R160, R163, R303) -/

/-- One region word: space, first unit, units; `none` where unused. -/
def regionOf (w : Word) : Option (Bool × Nat × Nat) :=
  let n := bits w.toNat 0 13
  if n = 0 then none
  else some (bitOf w.toNat 31, bits w.toNat 14 17, if bitOf w.toNat 13 then n * 64 else n)

/-- A unit lies in a declared region: write regions admit both, read regions reads only. -/
def declared (w : List Word) (cis : Bool) (u : Nat) (write : Bool) : Bool :=
  ((if write then [7, 8, 9, 10] else [3, 4, 5, 6, 7, 8, 9, 10]) : List Nat).any fun i =>
    match regionOf (w.getD i 0) with
    | some (sp, b, n) => sp == cis && decide (b ≤ u) && decide (u < b + n)
    | none => false

/-! ### Basin: stored words -/

def clsFalse : Nat → Bool := fun _ => false
def upZero : Nat → Nat := fun _ => 0
def wblkDflt : Nat → Nat × Nat := fun _ => (1, 0)

/-- The window that holds a 4 KiB block (R184). -/
def winOf (x : Core) (blk : Nat) : Option WeightWin :=
  (x.ww.toList.filterMap id).find? fun w => decide (w.base ≤ blk) && decide (blk < w.bound)

/-- State and CRC of a block: `KC_WBLK_STATE`, `KC_WBLK_CRC` (R186, R199). -/
def wblkOf (x : Core) (blk : Nat) : Nat × Nat :=
  if (winOf x blk).isSome then smGet wblkDflt x.wblk blk else (0, 0)

def wblkSet (blk : Nat) (v : Nat × Nat) (x : Core) : Core := { x with wblk := smSet wblkDflt x.wblk blk v }

/-- Bits in error that a word's code corrects (R183, R188). -/
def eccReach (weight : Bool) : Nat := if weight then 2 else 1

/-- Words of a line that a read corrects. -/
def lineCor (x : Core) (line : Nat) : List Nat :=
  ((List.range 8).map (line * 8 + ·)).filter fun k =>
    0 < smGet upZero x.basinUp k && smGet upZero x.basinUp k ≤ eccReach (smGet clsFalse x.basinCls k)

/-- `KC_ECC_LAST` (R199). -/
def eccLast (c : Nat) (cis wcls unc : Bool) (line : Nat) (s : State) : State :=
  regFirst (kreg c 0x3008) 31 (2 ^ 31 + bitAt cis 30 + bitAt wcls 29 + bitAt unc 28 + line % 131072) s

/-- One Basin word decoded (R188); `false` where it is uncorrectable. -/
def wordDecode (c k : Nat) (s : State) : Bool × State :=
  let x := coreOf s c
  let u := smGet upZero x.basinUp k
  let w := smGet clsFalse x.basinCls k
  if u = 0 then (true, s)
  else if u ≤ eccReach w then (true, eccLast c false w false (k / 8) (regCountField (kreg c 0x3000) 0 16 1 s))
  else (false, eccLast c false w true (k / 8) (regCountField (kreg c 0x3000) 16 16 1 s))

/-- A read of a physical line decodes each of its words (R188): how many are uncorrectable. -/
def lineDecode (c line : Nat) (s : State) : Nat × State :=
  ((List.range 8).map (line * 8 + ·)).foldl (fun r k =>
    let d := wordDecode c k r.2
    (if d.1 then r.1 else r.1 + 1, d.2)) (0, s)

/-- The same; `false` where a word is uncorrectable. -/
def basinDecode (c line : Nat) (s : State) : Bool × State :=
  let r := lineDecode c line s
  (r.1 == 0, r.2)

def basinBytes (x : Core) (addr n : Nat) : List Byte := smGetList byteZero x.basin addr n

/-- Stores whole words at an 8-byte address, in the class of the position (R183). -/
def basinStore (addr : Nat) (bs : List Byte) (x : Core) : Core :=
  let ks := (List.range (bs.length / 8)).map (addr / 8 + ·)
  { x with
    basin := smSetList byteZero x.basin addr bs
    basinCls := ks.foldl (fun m k => smSet clsFalse m k (winOf x (k / 512)).isSome) x.basinCls
    basinUp := ks.foldl (fun m k => smSet upZero m k 0) x.basinUp }

/-! ### Rings (R169) -/

/-- The ring of the running context that holds a task-relative line, with engine `eng` at the given end. -/
def ringAt (r : CtxRun) (line eng : Nat) (write : Bool) : Option (Nat × Ring) :=
  (List.range 16).findSome? fun i =>
    match vget r.rings i none with
    | some g =>
      if g.base ≤ line ∧ line < g.base + g.slotl * g.full.length ∧ (if write then g.prod else g.cons) = eng
      then some (i, g) else none
    | none => none

/-- `KC_SKEW_INFO` (R174). -/
def skewInfo (c pc reg ring kind : Nat) (s : State) : State :=
  let k := kreg c 0x300
  if bits (regGet s k).toNat 8 2 ≠ 0 then s
  else regPut k (BitVec.ofNat 32 (pc % 4096 * 2 ^ 20 + reg % 64 * 2 ^ 14 + ring * 2 ^ 10 + kind * 256)) s

def setRing (c i : Nat) (g : Ring) (s : State) : State := modRun c (fun r => { r with rings := vset r.rings i (some g) }) s

/-- A slot becomes full, or is released; a released slot of a forward channel returns one credit (R270). -/
def ringMark (c i slot : Nat) (full : Bool) (g : Ring) (s : State) : State :=
  let t := ctxOf (coreOf s c)
  let s := setRing c i { g with full := g.full.set slot full } s
  match full, g.feeder with
  | false, some (src, ch, q) =>
    { s with fab := { s.fab with credit := s.fab.credit ++ [⟨src, ch, t.part, t.taggen, q, replica s c⟩] } }
  | _, _ => s

/-- The state of a slot at an access: checked rings wait, unchecked ones fault (R169). -/
def ringGate1 (c i slot : Nat) (g : Ring) (write : Bool) : EngM Unit := do
  if g.full.getD slot false == write then
    if g.checked then throw .wait
    else
      modify (skewInfo c 0 0 i (if write then 3 else 2))
      stopF (if write then .slotOverrun else .slotUnderrun)

/-- The ring rule around an access to one line by engine `a.eng`. -/
def ringPre (a : Acc) (line : Nat) (write : Bool) : EngM Unit := do
  let s ← get
  match ringAt (coreOf s a.c).run line a.eng write with
  | some (i, g) => ringGate1 a.c i ((line - g.base) / g.slotl) g write
  | none => pure ()

def ringPost (a : Acc) (line : Nat) (write : Bool) : EngM Unit := do
  let s ← get
  match ringAt (coreOf s a.c).run line a.eng write with
  | some (i, g) =>
    if (line - g.base) % g.slotl = g.slotl - 1 then modify (ringMark a.c i ((line - g.base) / g.slotl) write g)
  | none => pure ()

/-! ### Basin accesses of engines -/

/-- Physical line of a task-relative line, bounded (R171). -/
def relocLine (x : Core) (line : Nat) : Option Nat :=
  let t := ctxOf x
  if t.basinBase * 64 + line < t.basinBound * 64 then some (t.basinBase * 64 + line) else none

/-- Class of a partition: 0 D, 1 B, 2 QM (R390). -/
def partClass (s : State) (p : Nat) : Nat := prClass (recOf s p)

/-- A read of one line of a core's Basin by its physical number (R187, R188). -/
def basinPhysRead (c line : Nat) : EngM (List Byte) := do
  let x := coreOf (← get) c
  let b := wblkOf x (line / 64)
  if b.1 ≠ 0 ∧ b.1 ≠ 3 then
    modify (regCountField (kreg c 0x300C) 0 16 1)
    stopF .weightCrc
  let r := basinDecode c line (← get)
  set r.2
  if r.1 then pure (basinBytes x (line * 64) 64) else stopF .basinUe

/-- A read of one task-relative line by an engine; `wt` for port ME-WT (R187). -/
def basinRead (a : Acc) (wt : Bool) (line : Nat) : EngM (List Byte) := do
  let s ← get
  let x := coreOf s a.c
  match relocLine x line with
  | none => stopF .taskBound
  | some l =>
    if !declared a.w false line false then stopF .regionUndeclared
    if wt && decide (partClass s (ctxOf x).part < 2) && (winOf x (l / 64)).isNone then stopF .weightClass
    ringPre a line false
    let d ← basinPhysRead a.c l
    ringPost a line false
    pure d

/-- Consecutive lines. -/
def basinReadLines (a : Acc) (wt : Bool) (line : Nat) : Nat → EngM (List (List Byte))
  | 0 => pure []
  | n + 1 => do
    let l ← basinRead a wt line
    let r ← basinReadLines a wt (line + 1) n
    pure (l :: r)

/-- `n` bytes from a task-relative byte offset, through the lines that hold them. -/
def basinReadBytes (a : Acc) (off n : Nat) : EngM (List Byte) := do
  if n = 0 then pure []
  else
    let ls ← basinReadLines a false (off / 64) ((off + n - 1) / 64 - off / 64 + 1)
    pure ((ls.flatten.drop (off % 64)).take n)

/-- A write of whole words inside one task-relative line: `o` bytes into it (R163, R171, R179, R185). -/
def basinWriteLine (a : Acc) (line o : Nat) (bs : List Byte) : EngM Unit := do
  let x := coreOf (← get) a.c
  match relocLine x line with
  | none => stopF .taskBound
  | some l =>
    if !declared a.w false line true then stopF .regionUndeclared
    if (winOf x (l / 64)).isSome then stopF .weightWrite
    ringPre a line true
    modify (modCore a.c (basinStore (l * 64 + o) bs))
    ringPost a line true

/-- Splits bytes at line boundaries: line, offset in it, bytes. -/
def splitLines (off : Nat) (bs : List Byte) : Nat → List (Nat × Nat × List Byte)
  | 0 => []
  | n + 1 =>
    if bs.isEmpty then []
    else
      let k := 64 - off % 64
      (off / 64, off % 64, bs.take k) :: splitLines (off + k) (bs.drop k) n

/-- A write of bytes at a task-relative byte offset: whole words, with the bytes past the output 0 (R179) and the bytes
of the first word before it kept. -/
def basinWrite (a : Acc) (off : Nat) (bs : List Byte) : EngM Unit := do
  if bs.isEmpty then pure ()
  else
    let x := coreOf (← get) a.c
    let pre := basinBytes x ((ctxOf x).basinBase * 4096 + off / 8 * 8) (off % 8)
    let body := pre ++ bs
    let body := body ++ zeros ((8 - body.length % 8) % 8)
    for p in splitLines (off / 8 * 8) body (body.length / 64 + 2) do
      basinWriteLine a p.1 p.2.1 p.2.2

/-! ### Cistern (R192 to R196) -/

def wordZero : Nat → Word := fun _ => 0

/-- Decodes the entries of a quad that an operation reads, each counted (R196); `false` for a 2-bit error. -/
def cisDecode (c quad : Nat) (es : List Nat) (s : State) : Bool × State :=
  let x := coreOf s c
  es.foldl (fun r e =>
    match smGet upZero x.cisUp e with
    | 0 => r
    | 1 => (r.1, eccLast c true false false quad (regCountField (kreg c 0x3004) 0 16 1 r.2))
    | _ => (false, eccLast c true false true quad (regCountField (kreg c 0x3004) 16 16 1 r.2))) (true, s)

def cisStore (e : Nat) (v : Word) (x : Core) : Core :=
  { x with cis := smSet wordZero x.cis e v, cisUp := smSet upZero x.cisUp e 0 }

/-- Operations of R193. -/
inductive CisOp where
  | read
  | write
  | acc (fp : Bool)
  deriving DecidableEq, Repr

/-- An accumulate (R132, R145). -/
def accWord (fp : Bool) (old v : Word) : Word :=
  if fp then BitVec.ofNat 32 (add32 old.toNat v.toNat) else old + v

/-- One operation on the entries of a physical quad: the entries read, `none` where it is not performed. -/
def cisQuadOp (c : Nat) (op : CisOp) (es : List (Nat × Word)) (s : State) : Option (List Word) × State :=
  let r := if op = .write then (true, s) else cisDecode c ((es.headD (0, 0)).1 / 4) (es.map (·.1)) s
  if !r.1 then (none, r.2)
  else
    let x := coreOf r.2 c
    let old := es.map fun e => smGet wordZero x.cis e.1
    (some old, match op with
      | .read => r.2
      | .write => modCore c (fun x => es.foldl (fun x e => cisStore e.1 e.2 x) x) r.2
      | .acc fp => modCore c (fun x => es.foldl (fun x e => cisStore e.1 (accWord fp (smGet wordZero x.cis e.1) e.2) x) x) r.2)

/-- Groups entries by quad. -/
def groupQuads : List (Nat × Word) → List (List (Nat × Word))
  | [] => []
  | e :: es =>
    match groupQuads es with
    | [] => [[e]]
    | g :: gs => if (g.headD (0, 0)).1 / 4 = e.1 / 4 then (e :: g) :: gs else [e] :: g :: gs

/-- A request on physical entries, quad by quad: no quad is left out because another could not be operated on (R196). -/
def cisQuads (c : Nat) (op : CisOp) : List (List (Nat × Word)) → State → Bool × List Word × State
  | [], s => (true, [], s)
  | g :: gs, s =>
    let r := cisQuadOp c op g s
    let t := cisQuads c op gs r.2
    (r.1.isSome && t.1, r.1.getD [] ++ t.2.1, t.2.2)

def cisPhys (c : Nat) (op : CisOp) (es : List (Nat × Word)) : EngM (List Word) := do
  let r := cisQuads c op (groupQuads es) (← get)
  set r.2.2
  if r.1 then pure r.2.1 else stopF .cisternUe

/-- A request of an engine on task-relative entries from `e` upward (R163, R171). -/
def cisReq (a : Acc) (op : CisOp) (e : Nat) (vals : List Word) : EngM (List Word) := do
  let t := ctxOf (coreOf (← get) a.c)
  let n := vals.length
  if t.cisBound * 1024 < t.cisBase * 1024 + e + n then stopF .taskBound
  let wr := op ≠ .read
  if (List.range n).any fun i => !declared a.w true ((e + i) / 16) wr then stopF .regionUndeclared
  cisPhys a.c op ((List.range n).map fun i => (t.cisBase * 1024 + e + i, vals.getD i 0))

def cisRead (a : Acc) (e n : Nat) : EngM (List Word) := cisReq a .read e (List.replicate n 0)

/-! ### DMEM (R329) -/

/-- A corrected DMEM error is written back and counted; `false` for an uncorrectable word. -/
def dmemDecode (c w : Nat) (s : State) : Bool × State :=
  let x := coreOf s c
  let u := smGet upZero x.dmemUp w
  if u = 0 then (true, s)
  else if u = 1 then
    (true, regCountField (kreg c 0x3818) 0 8 1 (setCore c { x with dmemUp := smSet upZero x.dmemUp w 0 } s))
  else (false, regCountField (kreg c 0x3818) 8 8 1 s)

def dmemBytes (x : Core) (addr n : Nat) : List Byte := smGetList byteZero x.dmem addr n

def dmemStore (addr : Nat) (bs : List Byte) (x : Core) : Core :=
  { x with
    dmem := smSetList byteZero x.dmem addr bs
    dmemUp := (List.range ((addr + bs.length + 3) / 4 - addr / 4)).foldl (fun m i => smSet upZero m (addr / 4 + i) 0) x.dmemUp }

/-- Decodes the words of a physical DMEM range. -/
def dmemDecodeRange (c addr n : Nat) (s : State) : Bool × State :=
  (List.range ((addr + n + 3) / 4 - addr / 4)).foldl (fun r i =>
    if r.1 then dmemDecode c (addr / 4 + i) r.2 else r) (true, s)

/-- Physical DMEM address of a task-relative range (R171). -/
def relocDmem (x : Core) (off n : Nat) : Option Nat :=
  let t := ctxOf x
  if t.dmemBase * 256 + off + n ≤ t.dmemBound * 256 then some (t.dmemBase * 256 + off) else none

end Sys2Proof.Machine
end

