-- ==== Sys2Proof/Machine/Imago.lean ====
section
/-! DEFINITION. Imago triggers and captures (R475 to R477). -/

namespace Sys2Proof.Machine

def imgSources (s : State) : Nat := odNat s 0x4200 1
def imgFaultMask (s : State) : Nat := odNat s 0x4200 2
def imgOverwrite (s : State) : Bool := odNat s 0x4200 3 == 1
def imgReaders (s : State) : Nat := odNat s 0x4200 6

/-- A requester in `READERS` (R475): bits 0-3 host ports, bit 4 the debug port. -/
def imgReader (s : State) : Requester → Bool
  | .host h => bitOf (imgReaders s) h.val
  | .dbg => bitOf (imgReaders s) 4
  | .mbx _ => false

/-- A trigger from source bit `src` (R476, R477): accepted, joined to the pending capture, or ignored and counted. -/
def imgTrigger (src req code : Nat) (s : State) : State :=
  let miss : State := { s with img := { s.img with missed := wrapAdd 32 s.img.missed 1 } }
  let start : State := { s with img := { s.img with
    phase := .pending, capno := wrapAdd 32 s.img.capno 1, trig := s.tb.master, capt := s.tb.master + 40, src := 2 ^ src,
    req := req, code := code, sets := [] } }
  if !bitOf (imgSources s) src then s
  else match s.img.phase with
  | .empty => start
  | .pending =>
    { s with img := { s.img with src := s.img.src ||| 2 ^ src, code := if s.img.code = 0 then code else s.img.code,
                                 req := if s.img.req = 0xFF then req else s.img.req } }
  | .transferring => miss
  | .held => if imgOverwrite s then start else miss

/-- Releases a held capture (R477). -/
def imgRelease (s : State) : State :=
  if s.img.phase = .held then { s with img := { s.img with phase := .empty } } else s

/-- IMAGO_IN_EDGE (R523, R509): accepted at the end of the high microsecond. -/
def execImagoInEdge (s : State) : Host.Outcome State Fault Refusal :=
  .next (if s.fio.supply then imgTrigger 0 0xFF 0 s else s)

/-- IMAGO_TRANSFER_COMPLETE (R477): the capture is held. -/
def execImagoTransferComplete (s : State) : Host.Outcome State Fault Refusal :=
  .next (if s.img.phase = .transferring then { s with img := { s.img with phase := .held } } else s)

/-- A write of `IMG_TRIG` (R476, R481, R560): the key from a reader triggers; the debug port with source bit 3.
DESIGN CHOICE (notes/assumptions/73): a write from a requester outside `READERS` triggers nothing and is counted in
`GLB_IGNWR_CNT`, as R476 counts a write of another value; `GLB_DENY_CNT` takes IMG reads only (R40). -/
def imgTrigWrite (r : Requester) (v : Nat) (s : State) : State :=
  if r = .dbg ∧ !s.dbg.en then ignWrite r s
  else if !imgReader s r then ignWrite r s
  else if v % 65536 = 0x494D then
    match r with
    | .dbg => imgTrigger 3 8 0 s
    | _ => imgTrigger 2 (reqCode r) 0 s
  else ignWrite r s

/-- A write of `IMG_REARM` (R477), by any host port: `READERS` gives a right to IMG reads and to `IMG_TRIG` only (R475);
none of the debug port's (R555). -/
def imgRearmWrite (r : Requester) (v : Nat) (s : State) : State :=
  if r = .dbg then ignWrite r s else if bitOf v 0 then imgRelease s else s

end Sys2Proof.Machine
end

