-- ==== Sys2Proof/Machine/JobOps.lean ====
section
/-! DEFINITION. The job table and what the cores see of it: jobs, items and their records (R369, R375 to R378), semaphores
(R164 to R166), debug halts (R557). -/

namespace Sys2Proof.Machine

def jobDflt : Nat → Job := fun _ => {}

def jobOf (s : State) (slot : Nat) : Job := smGet jobDflt s.hst.jobs slot

def setJob (slot : Nat) (j : Job) (s : State) : State := { s with hst := { s.hst with jobs := smSet jobDflt s.hst.jobs slot j } }

def modJob (slot : Nat) (f : Job → Job) (s : State) : State := setJob slot (f (jobOf s slot)) s

/-- `TAGGEN` of a job. -/
def tagGen (j : Job) : Nat := j.tag * 256 + j.gen

/-- The context's job is still the one of its slot (R369). -/
def ctxLive (s : State) (t : TaskCtx) : Bool :=
  let j := jobOf s t.slot
  j.st != .free && tagGen j == t.taggen && j.part == t.part

/-- One DESC item record (R377, R378); one of a descriptor that drains is held back until the attempt ends
(R430, R431). -/
def descItem (slot c commit status code event : Nat) (s : State) : State :=
  let j := jobOf s slot
  if j.st = .draining ∧ !j.abortTo.contains c then
    let r : ItemRec := { core := c, commit := commit, code := code, ev := event }
    setJob slot (if status = 0 then { j with doneRec := j.doneRec ++ [r] } else { j with failRec := j.failRec ++ [r] }) s
  else if j.silent then s
  else
    let s := setJob slot { j with rsv := j.rsv - 1, itemsAll := j.itemsAll + 1 } s
    postRecord j.part true event ⟨tagGen j + j.part * 0x1000000, 1, status, code, event, commit, c, j.attempt, 0, 0⟩ s

/-- Progress of a job for the watchdog (R435). -/
def jobAlive (slot : Nat) (s : State) : State := modJob slot (fun j => { j with wd := 0 }) s

/-- Progress by a retirement, which is also the job's last (R27, R435). -/
def jobProgress (slot ts : Nat) (s : State) : State := modJob slot (fun j => { j with wd := 0, lastRetire := ts }) s

/-! ### Semaphores -/

/-- Semaphore code of R302: the partition may use it (R166). -/
def semOwned (s : State) (p code : Nat) : Bool := decide (code < 64) || bitOf (prSems (recOf s p)) (code - 64)

def semGet (s : State) (c code : Nat) : Nat :=
  if code < 64 then vget (coreOf s c).run.sems code 0 else vget s.sems (code - 64) 0

def semPut (c code v : Nat) (s : State) : State :=
  if code < 64 then modRun c (fun r => { r with sems := vset r.sems code v }) s
  else { s with sems := vset s.sems (code - 64) v }

/-- Why a semaphore operation is not performed. -/
def semFault (s : State) (c p code add : Nat) : Option FaultCode :=
  if !semOwned s p code then some .semDeny
  else if 65535 < semGet s c code + add then some .semOverflow
  else none

/-! ### Halts (R557) -/

def haltOf (s : State) (c : Nat) : HaltSt := vget s.dbg.cores c {}

def setHalt (c : Nat) (h : HaltSt) (s : State) : State := { s with dbg := { s.dbg with cores := vset s.dbg.cores c h } }

/-- Debug access reaches the running context of a core (R557, R561). -/
def dbgReach (s : State) (c : Nat) : Bool :=
  (coreOf s c).active.isSome && dbgPart s (ctxOf (coreOf s c)).part

def modCc (c : Nat) (f : CcCtx → CcCtx) (s : State) : State := modRun c (fun r => { r with cc := f r.cc }) s

/-- Halts a control core: its reservation is cleared (R332), a stalled commit or wait is abandoned. -/
def haltCore (c cause : Nat) (forced : Bool) (s : State) : State :=
  let s := modCc c (fun x => { x with
    st := .halted, halt := some (cause, forced), rsv := none, pendCommit := none, pendWait := none }) s
  setHalt c { haltOf s c with pending := false, deferred := 0, stepping := false } s

/-- The control core is inside a locked sequence (R558). -/
def ccLocked (x : CcCtx) : Bool := x.seqPc.isSome || x.rsv.isSome

/-- A halt forced inside a locked sequence (R558): staged words discarded, back to the first QPUSH. -/
def haltForce (c cause : Nat) (s : State) : State :=
  haltCore c cause true (modCc c (fun x => match x.seqPc with
    | some pc => { x with leader := { x.leader with pc := pc }, checker := { x.checker with pc := pc }
                          stage := Vector.replicate 16 0, written := 0, seqPc := none }
    | none => x) s)

/-- After an instruction has retired: cycles pass (an amount R343 leaves to the caches and ports), then a step or a pending
halt request takes effect at this boundary, is deferred, or is forced (R557 to R559). -/
def ccAfter (c : Nat) (s : State) : State :=
  let f := takeFree s
  let s := modCc c (fun x => { x with cycle := wrapAdd 64 x.cycle (1 + Config.ccCycles f.1) }) f.2
  let h := haltOf s c
  let x := (coreOf s c).run.cc
  if x.st ≠ .running ∨ !(h.stepping || (h.pending && dbgReach s c)) then s
  else
    let cause := if h.stepping then 6 else 1
    if !ccLocked x then haltCore c cause false s
    else if 31 ≤ h.deferred then haltForce c cause s
    else setHalt c { h with deferred := h.deferred + 1 } s

/-- Every descriptor placed on the core has retired. -/
def coreDrained (x : Core) : Bool := x.run.flight.isEmpty && x.run.runnels.toList.all (·.isEmpty)

/-- A STOP captures once the placed descriptors have retired (R561). -/
def stopCapture (c : Nat) (s : State) : State :=
  let h := haltOf s c
  if h.stopWait && coreDrained (coreOf s c) then imgTrigger 3 8 0 (setHalt c { h with stopWait := false } s) else s

end Sys2Proof.Machine
end

