-- ==== Sys2Proof/Machine/Commit.lean ====
section
/-! DEFINITION. Committing a descriptor: the checks of R307, templates (R321), placement into a Runnel (R155, R316),
items (R377), breaks (R561). -/

namespace Sys2Proof.Machine

/-- Engine of an operation code (R305); 5 for any. -/
def opcEng (opc : Nat) : Option Nat :=
  if opc = 0 then some 5
  else if opc = 1 ∨ opc = 2 then some 0
  else if opc = 0x20 ∨ opc = 0x21 then some 1
  else if 0x40 ≤ opc ∧ opc ≤ 0x46 then some 2
  else if 0x60 ≤ opc ∧ opc ≤ 0x65 then some 3
  else if opc = 0x80 ∨ opc = 0x81 then some 4
  else none

/-- A dependency entry of R302: semaphore, RETIRE, count. -/
structure Dep where
  sem : Nat
  retire : Bool
  num : Nat
  deriving DecidableEq, Repr

def depOf (x : Nat) : Dep := ⟨bits x 0 7, bitOf x 7, bits x 8 8⟩

/-- The used entries of a dependency word. -/
def depsOf (w : Word) : List Dep := ([depOf (bits w.toNat 0 16), depOf (bits w.toNat 16 16)]).filter fun d => d.num != 0

/-- Cause of a refusal under R307 in its order: 1 `ENG`, 2 `OPC`, 3 dependency entry, 4 Cistern `BASE`; 0 none. -/
def descCheck (w : List Word) : Nat :=
  let eng := wbits w 0 8 3
  let opc := wbits w 0 0 8
  let waits := depsOf (w.getD 1 0)
  let sets := depsOf (w.getD 2 0)
  if 5 ≤ eng then 1
  else if opcEng opc ≠ some eng && opcEng opc ≠ some 5 then 2
  else if (waits ++ sets).any (fun d => decide (32 ≤ d.sem ∧ d.sem < 64)) || waits.any (·.retire) then 3
  else if ([3, 4, 5, 6, 7, 8, 9, 10] : List Nat).any fun i =>
      match regionOf (w.getD i 0) with
      | some (sp, b, _) => sp && decide (16383 < b)
      | none => false
  then 4
  else 0

/-- Applies a patch entry (R320, R321) to the descriptor words. -/
def patchWord (preg : Nat → Word) (w : List Word) (p : Word) : List Word :=
  let p := p.toNat
  if !bitOf p 21 then w
  else
    let i := bits p 0 4
    let lsb := bits p 4 5
    let n := bits p 9 5 + 1
    let r := (preg (bits p 14 6)).toNat
    let x := (w.getD i 0).toNat
    let v := if bitOf p 20 then (bits x lsb n + r) % 2 ^ n else r % 2 ^ n
    w.set i (BitVec.ofNat 32 (putBits x lsb n v))

/-- The 96 bytes that a template's CRC covers. -/
def tplBytes (t : Template) : List Byte := (t.words ++ t.patches).flatMap fun w => leBytes 4 w.toNat

/-- Runnel depths (R154). -/
def runnelDepth (eng : Nat) : Nat := match eng with
  | 0 | 1 => 64
  | 2 | 3 => 32
  | _ => 16

/-- Writes a register of both harts; x0 stays 0. -/
def ccSetReg (rd : Nat) (v : Word) (x : CcCtx) : CcCtx :=
  if rd = 0 then x
  else { x with leader := { x.leader with x := vset x.leader.x rd v }, checker := { x.checker with x := vset x.checker.x rd v } }

/-- Moves both harts past an instruction and counts it. -/
def ccRetire (pc : Nat) (x : CcCtx) : CcCtx :=
  { x with leader := { x.leader with pc := pc }, checker := { x.checker with pc := pc }, instret := wrapAdd 64 x.instret 1,
           st := .running, pendCommit := none, pendWait := none }

/-! ### Waits of a descriptor (R302) and who waits for chip-wide semaphores (R165) -/

/-- Entries that name one semaphore act as their sum. -/
def sumDeps : List Dep → List (Nat × Nat)
  | [] => []
  | [a] => [(a.sem, a.num)]
  | a :: b :: _ => if a.sem = b.sem then [(a.sem, a.num + b.num)] else [(a.sem, a.num), (b.sem, b.num)]

def waitsOf (w : List Word) : List (Nat × Nat) := sumDeps (depsOf (w.getD 1 0))

/-- The waits of a core on chip-wide semaphores as they stand: its Runnel heads, and a waiting `SWAIT` (5). -/
def chipWaits (x : Core) : List (Nat × Nat) :=
  if x.active.isNone then []
  else
    (([0, 1, 2, 3, 4] : List Nat).filterMap fun e => match vget x.run.runnels e [] with
      | d :: _ => if (waitsOf d.w).any fun w => decide (64 ≤ w.1) then some (e, d.commit) else none
      | [] => none)
    ++ (match x.run.cc.pendWait with
      | some (code, _) => if 64 ≤ code ∧ x.run.cc.st = .swait then [(5, 0)] else []
      | none => [])

/-- A waiter takes its place in the order of arrival, in the order of core number within one cycle. -/
def semqPut (v : SemWaiter) : List SemWaiter → List SemWaiter
  | [] => [v]
  | u :: us => if u.at_ = v.at_ ∧ v.core < u.core then v :: u :: us else u :: semqPut v us

/-- The waiters of a core arrive at FAB, and those that wait no longer leave. -/
def semArrive (c : Nat) (s : State) : State :=
  let ws := chipWaits (coreOf s c)
  let q := s.fab.semq.filter fun v => v.core != c || ws.contains (v.who, v.commit)
  let new := ws.filter fun w => !(q.any fun v => v.core == c && v.who == w.1 && v.commit == w.2)
  { s with fab := { s.fab with semq := new.foldl (fun q w => semqPut ⟨c, w.1, w.2, s.tb.master⟩ q) q } }

/-! ### Parity of a Runnel entry (R159) -/

/-- Parity of each of the 16 words. -/
def parOf (w : List Word) : BitVec 16 :=
  BitVec.ofNat 16 ((List.range 16).map fun i => popCount 32 (w.getD i 0).toNat % 2 * 2 ^ i).sum

/-- The stored parity does not fit the words. -/
def qBad (d : QDesc) : Bool := d.par != parOf d.w

def stageEmpty : Vector Word 16 := Vector.replicate 16 0

/-- A refused commit (R322): `KC_DESC_FAULT`, then the fault. The control core stops (R325). -/
def commitRefused (c : Nat) (tpl : Option Nat) (w : List Word) (cause : Nat) (s : State) : State :=
  let v := 2 ^ 31 + bitAt tpl.isSome 30 + wbits w 0 8 3 * 2 ^ 27 + cause * 2 ^ 24 + (tpl.getD 0) * 256 + wbits w 0 0 8
  let s := regFirst (kreg c 0x90C) 31 v s
  let s := modCc c (fun x => { x with st := .stopped, pendCommit := none }) s
  coreFault c 7 none (if cause = 6 then .templateCrc else .descInvalid) s

/-- The words of a commit, or the cause of its refusal with the words as far as known. -/
def commitWords (s : State) (c : Nat) (tpl : Option Nat) : Except (Nat × List Word) (List Word) :=
  let x := coreOf s c
  match tpl with
  | none =>
    let w := x.run.cc.stage.toList
    let k := descCheck w
    if k = 0 then .ok w else .error (k, w)
  | some t =>
    match vget x.tpl t none with
    | none => .error (5, [])
    | some e =>
      if e.part ≠ (ctxOf x).part then .error (5, e.words)
      else if crc32c (tplBytes e) ≠ e.crc then .error (6, e.words)
      else
        let w := e.patches.foldl (patchWord fun i => vget x.run.cc.preg i 0) e.words
        let k := descCheck w
        if k = 0 then .ok w else .error (k, w)

/-- A break or stop of R561 halts before the commit it counts to. -/
def brkHit (s : State) (c : Nat) : Bool :=
  let h := haltOf s c
  dbgReach s c && !(coreOf s c).run.cc.passBrk && decide (h.brkMode = 1 ∨ h.brkMode = 2) && (coreOf s c).run.cc.commit == h.brkCnt

/-- QCOMMIT and QCOMMIT.T (R155, R335, R377): breaks, the checks, the item limit, a stall while the Runnel is full, or
the placement whole. -/
def doCommit (c rd : Nat) (tpl : Option Nat) (s : State) : State :=
  let x := coreOf s c
  let cc := x.run.cc
  let t := ctxOf x
  if brkHit s c then
    let h := haltOf s c
    let s := haltCore c (if h.brkMode = 1 then 3 else 4) false s
    let s := modCc c (fun x => { x with passBrk := true }) s
    if h.brkMode = 2 then stopCapture c (setHalt c { haltOf s c with stopWait := true } s) else s
  else match commitWords s c tpl with
  | .error (k, w) => commitRefused c tpl w k s
  | .ok w =>
    let eng := wbits w 0 8 3
    let vis := bitOf (w.getD 0 0).toNat 11
    let j := jobOf s t.slot
    if vis && decide (j.nitem ≤ j.items) then
      coreFault c 7 none .itemLimit (modCc c (fun x => { x with st := .stopped, pendCommit := none }) s)
    else if runnelDepth eng ≤ (vget x.run.runnels eng []).length then
      regCount (kreg c 0x10) 1 (modCc c (fun x => { x with st := .qcommit, pendCommit := some (rd, tpl) }) s)
    else
      let d : QDesc := ⟨w, cc.commit, parOf w⟩
      let cc := { cc with commit := wrapAdd 32 cc.commit 1, stage := stageEmpty, written := 0, seqPc := none, passBrk := false }
      let cc := ccRetire ((cc.leader.pc + 4) % 2 ^ 32) (ccSetReg rd (BitVec.ofNat 32 d.commit) cc)
      let s := modRun c (fun r => { r with cc := cc, runnels := vset r.runnels eng (vget r.runnels eng [] ++ [d]) }) s
      let s := if tpl.isSome then regWrap (kreg c 0x908) 1 s else s
      let s := if vis then setJob t.slot { j with items := j.items + 1 } s else s
      ccAfter c (semArrive c s)

/-- A stalled commit places its descriptor when a slot frees (R155). -/
def commitResume (c : Nat) (s : State) : State :=
  match (coreOf s c).run.cc.pendCommit with
  | some (rd, tpl) => if (coreOf s c).run.cc.st = .qcommit then doCommit c rd tpl s else s
  | none => s

end Sys2Proof.Machine
end

