-- ==== Sys2Proof/Machine/Issue.lean ====
section
/-! DEFINITION. Issue and retirement of descriptors (R156 to R162): waits and sets, the scoreboard, engine work and its
faults, items. -/

namespace Sys2Proof.Machine

/-! ### Semaphore entries of a descriptor (R302) -/

/-- The sets of a descriptor with the given `WHEN`. -/
def setsOf (w : List Word) (retire : Bool) : List (Nat × Nat) :=
  sumDeps ((depsOf (w.getD 2 0)).filter fun d => d.retire == retire)

def waitsOk (s : State) (c : Nat) (w : List Word) : Bool := (waitsOf w).all fun d => decide (d.2 ≤ semGet s c d.1)

/-- The first wait on a semaphore that the partition does not own (R166). -/
def waitDenied (s : State) (p : Nat) (w : List Word) : Bool := (waitsOf w).any fun d => !semOwned s p d.1

def takeWaits (c : Nat) (w : List Word) (s : State) : State :=
  (waitsOf w).foldl (fun s d => semPut c d.1 (semGet s c d.1 - d.2) s) s

/-- Applies sets; one that may not be performed raises its fault and changes nothing (R164, R166). -/
def applySets (c eng commit : Nat) (ds : List (Nat × Nat)) (s : State) : State :=
  ds.foldl (fun s d =>
    match semFault s c (ctxOf (coreOf s c)).part d.1 d.2 with
    | some f => coreFault c eng (some commit) f s
    | none => semPut c d.1 (semGet s c d.1 + d.2) s) s

/-! ### Scoreboard (R160, R161) -/

/-- The entries of a descriptor, relocated (R171). -/
def sbEntries (t : TaskCtx) (eng commit : Nat) (w : List Word) : List SbEntry :=
  ([3, 4, 5, 6, 7, 8, 9, 10] : List Nat).filterMap fun i =>
    match regionOf (w.getD i 0) with
    | some (cis, b, n) =>
      let o := 64 * (if cis then t.cisBase else t.basinBase)
      some ⟨eng, commit, cis, o + b, o + b + n - 1, decide (7 ≤ i)⟩
    | none => none

def sbOverlap (a b : SbEntry) : Bool :=
  a.cis == b.cis && decide (a.lo ≤ b.hi) && decide (b.lo ≤ a.hi)

/-- A head's entries meet an entry of another engine. -/
def hazard (eng : Nat) (es sb : List SbEntry) : Bool :=
  es.any fun x => sb.any fun e => e.eng != eng && sbOverlap x e && (e.write || x.write)

/-! ### Engines and flights -/

def findFlight (r : CtxRun) (eng : Nat) : Option Flight := r.flight.find? (·.eng == eng)

/-- Replaces the flight of a commit number. -/
def putFlight (f : Flight) (r : CtxRun) : CtxRun :=
  { r with flight := r.flight.map fun g => if g.d.commit = f.d.commit then f else g }

def dropFlight (commit : Nat) (r : CtxRun) : CtxRun := { r with flight := r.flight.filter (·.d.commit != commit) }

/-- An XFER out of another core's Basin has lines under way: a later descriptor of the DE could read or write ahead of it. -/
def remoteSource (f : Flight) : Bool := f.eng == 3 && wbits f.d.w 0 0 8 == 0x60 && wbits f.d.w 0 12 3 == 5 && f.outst != 0

/-- An engine can accept: every access of its earlier descriptors is made (R160); the ME accepts the next pass when the
one before has started in the array, and holds two at most (R209, R210). -/
def engineFree (r : CtxRun) (eng : Nat) : Bool :=
  let fs := r.flight.filter (·.eng == eng)
  fs.all (fun f => (f.done || f.selw) && f.failed.isNone && !remoteSource f) && decide (eng = 0 → fs.length < 2)

/-- The core issues: a context runs, and neither a stop nor an abort is in progress (R157, R424). -/
def coreIssues (s : State) (c : Nat) : Bool :=
  let x := coreOf s c
  isReady s && x.active.isSome && (ctxOf x).st == .running && x.stop.isNone

/-- Releases the read entries of a descriptor whose region has had its last read (R158); `more` tells of a space and its
first and last unit, after relocation, whether a read there is still to come. -/
def releaseRead (commit : Nat) (more : Bool → Nat → Nat → Bool) (r : CtxRun) : CtxRun :=
  { r with sb := r.sb.filter fun e => e.commit != commit || e.write || more e.cis e.lo e.hi }

/-- The same at the engine's last read of all. -/
def releaseReads (commit : Nat) (r : CtxRun) : CtxRun := releaseRead commit (fun _ _ _ => false) r

/-- Whether one of some task-relative Basin line ranges, or a line of a ring that the engine consumes, lies in a range of
physical units. -/
def linesMeet (x : Core) (eng : Nat) (ls : List (Nat × Nat)) (cis : Bool) (lo hi : Nat) : Bool :=
  let o := 64 * (ctxOf x).basinBase
  let rs := x.run.rings.toList.filterMap fun g => match g with
    | some g => if g.cons = eng then some (g.base, g.base + g.slotl * g.full.length - 1) else none
    | none => none
  !cis && (ls ++ rs).any fun r => decide (o + r.1 ≤ hi ∧ lo ≤ o + r.2)

def releaseAll (commit : Nat) (r : CtxRun) : CtxRun := { r with sb := r.sb.filter (·.commit != commit) }

/-- `KC_SB_PEAK`. -/
def sbPeak (c : Nat) (s : State) : State :=
  let n := (coreOf s c).run.sb.length
  let k := kreg c 0x0C
  if (regGet s k).toNat < n then regPut k (BitVec.ofNat 32 n) s else s

/-- `GE_FAULT_INFO` (R251). -/
def geFaultInfo (c opc idx : Nat) (s : State) : State :=
  regFirst (kreg c 0x2028) 31 (2 ^ 31 + (opc - 0x3F) * 2 ^ 27 + idx % 2 ^ 20) s

/-- A descriptor in flight meets a fault: it does not retire. -/
def failFlight (c : Nat) (f : Flight) (code : FaultCode) (idx : Nat) (s : State) : State :=
  let s := if f.eng = 2 then geFaultInfo c (wbits f.d.w 0 0 8) idx s else s
  coreFault c f.eng (some f.d.commit) code
    (modRun c (putFlight { f with
      failed := some (code.num, stampOf s c 0), failIsl := c, failOrd := s.saf.raised, loading := false }) s)

/-- Runs a flight's work: a fault stops it with what it did before, a wait leaves everything as it was. -/
def runWork (c : Nat) (f : Flight) (work : Acc → Flight → EngM Flight) (s : State) : State :=
  let r := engRun (work ⟨c, f.eng, f.d.w⟩ f) s
  match r.1 with
  | .ok g => modRun c (putFlight g) r.2
  | .error (.fault code idx) => failFlight c f code idx r.2
  | .error .wait => s

/-- What stands in the way of the head of a Runnel. -/
inductive HeadState where
  | absent
  | blocked
  /-- may not issue: a fault is raised instead -/
  | bad (d : QDesc) (code : FaultCode)
  | ready (d : QDesc)
  deriving DecidableEq, Repr

/-- Requests that SEL holds for a partition, those on their way included (R275). -/
def selHeld (s : State) (p : Nat) : Nat :=
  (s.sel.arr.filter (·.part == p)).length + (vget s.sel.queue p []).length + (match s.sel.done with
    | some r => if r.req.part = p then 1 else 0
    | none => 0)

/-- What the unit behind an engine asks before it accepts: a place in SEL for a SELREQ (R275), the earlier landing writes
of the core for a SETUP (R191), a credit for a SEND (R269). -/
def unitFree (s : State) (c : Nat) (w : List Word) : Bool :=
  match wbits w 0 0 8 with
  | 0x64 => decide (selHeld s (ctxOf (coreOf s c)).part < 4)
  | 0x80 => !(s.fab.landing.any (·.src == c))
  | 0x81 => decide (0 < (vget (coreOf s c).run.fwd (wbits w 11 0 3) {}).credits)
  | _ => true

/-- The head of a Runnel where the four conditions of R157 hold. -/
def readyHead (s : State) (c eng : Nat) : Option QDesc :=
  let x := coreOf s c
  match vget x.run.runnels eng [] with
  | [] => none
  | d :: _ =>
    let es := sbEntries (ctxOf x) eng d.commit d.w
    if coreIssues s c && !qBad d && !waitDenied s (ctxOf x).part d.w && engineFree x.run eng && unitFree s c d.w
        && waitsOk s c d.w && !hazard eng es x.run.sb && decide (x.run.sb.length + es.length ≤ 64)
    then some d else none

/-- What a ready waiter takes of a semaphore. -/
def takesOf (s : State) (v : SemWaiter) (code : Nat) : Nat :=
  if v.who = 5 then
    match (coreOf s v.core).run.cc.pendWait with
    | some (k, n) => if k = code ∧ n ≤ semGet s v.core k then n else 0
    | none => 0
  else match readyHead s v.core v.who with
    | some d => if d.commit = v.commit then (((waitsOf d.w).filter (·.1 == code)).map (·.2)).sum else 0
    | none => 0

/-- The waits of `who` (a Runnel, or 5) on core `c` can be satisfied beside those of other cores that arrived at FAB
before it (R165). -/
def semTurn (s : State) (c who : Nat) (ws : List (Nat × Nat)) : Bool :=
  let before := (s.fab.semq.takeWhile fun v => !(v.core == c && v.who == who)).filter (·.core != c)
  ws.all fun d => decide (d.1 < 64) || decide ((before.map fun v => takesOf s v d.1).sum + d.2 ≤ semGet s c d.1)

/-- Place of a Runnel in the round robin of R157, 0 being next after the one that issued last. -/
def rrPlace (x : Core) (eng : Nat) : Nat := (eng + 4 - x.rr) % 5

/-- A Runnel whose head can issue in this cycle, arbitration apart. -/
def mayIssue (s : State) (c eng : Nat) : Bool :=
  match readyHead s c eng with
  | some d => semTurn s c eng (waitsOf d.w)
  | none => false

/-- The head of a Runnel for an operation code (R157, R159, R165, R166). -/
def headState (s : State) (c eng opc : Nat) : HeadState :=
  let x := coreOf s c
  match vget x.run.runnels eng [] with
  | [] => .absent
  | d :: _ =>
    if wbits d.w 0 0 8 ≠ opc ∨ !coreIssues s c then .absent
    else if x.run.flight.any fun f => f.eng == eng && f.failed.isSome then .blocked
    else if qBad d then .bad d .runnelParity
    else if waitDenied s (ctxOf x).part d.w then .bad d .semDeny
    else if mayIssue s c eng && !(([0, 1, 2, 3, 4] : List Nat).any fun e => decide (rrPlace x e < rrPlace x eng) && mayIssue s c e)
    then .ready d else .blocked

/-- `SWAIT` ranks after the five Runnels: what their ready heads take of the semaphore is theirs (R165). -/
def swaitTurn (s : State) (c code n : Nat) : Bool :=
  let heads := (([0, 1, 2, 3, 4] : List Nat).map fun e => match readyHead s c e with
    | some d => (((waitsOf d.w).filter (·.1 == code)).map (·.2)).sum
    | none => 0).sum
  decide (heads + n ≤ semGet s c code) && semTurn s c 5 [(code, n)]

def popHead (eng : Nat) (r : CtxRun) : CtxRun := { r with runnels := vset r.runnels eng ((vget r.runnels eng []).drop 1) }

/-- `PRT_PRE_MAX`: the first issue of the preempting context (R425, R438). -/
def preMax (c p : Nat) (s : State) : State :=
  match (coreOf s c).pre with
  | none => s
  | some (n, t0) =>
    if (coreOf s c).active ≠ some n then s
    else
    let k := prtKey p 0x204
    let v := min (s.tb.master - t0) 0xFFFF
    let s := modCore c (fun x => { x with pre := none }) s
    if (regGet s k).toNat < v then regPut k (BitVec.ofNat 32 v) s else s

/-- The issue cycle (R157): waits subtracted, entries taken, ISSUE sets applied, `TS32` stamped. -/
def issueCycle (c eng : Nat) (d : QDesc) (s : State) : Flight × State :=
  let t := ctxOf (coreOf s c)
  let ts := stampOf s c 0
  let f : Flight := { eng := eng, d := d, issueTs := ts }
  let s := takeWaits c d.w (keepStamp c ts s)
  let s := modRun c (fun r => { popHead eng r with
    flight := r.flight ++ [f], sb := r.sb ++ sbEntries t eng d.commit d.w }) s
  let s := preMax c t.part (modCore c (fun x => { x with rr := eng }) s)
  (f, applySets c eng d.commit (setsOf d.w false) (sbPeak c s))

/-- A head that may not issue: its fault is raised. -/
def headFail (c eng : Nat) (d : QDesc) (code : FaultCode) (s : State) : State :=
  let f : Flight := { eng := eng, d := d, issueTs := 0 }
  failFlight c f code 0 (modRun c (fun r => { popHead eng r with flight := r.flight ++ [f] }) s)

/-- The parity of a descriptor as it reaches the head (R159). -/
def headCheck (c eng : Nat) (s : State) : State :=
  match vget (coreOf s c).run.runnels eng [] with
  | d :: _ => if qBad d then headFail c eng d .runnelParity s else s
  | [] => s

/-- The head of a Runnel issues and its engine works, where it is ready; a Runnel slot that frees lets a stalled commit
place its descriptor. -/
def issue (c eng opc : Nat) (work : Acc → Flight → EngM Flight) (s : State) : State :=
  match headState s c eng opc with
  | .absent | .blocked => s
  | .bad d code => headFail c eng d code s
  | .ready d =>
    let (f, s) := issueCycle c eng d s
    commitResume c (runWork c f work (headCheck c eng (semArrive c s)))

/-- The end of engine work: every access made, read entries released. -/
def doneWork (a : Acc) (f : Flight) : EngM Flight := do
  modify (modRun a.c (releaseReads f.d.commit))
  pure { f with done := true }

/-! ### Retirement (R158) -/

/-- Counters that a retirement moves. -/
def retireCounters (c : Nat) (f : Flight) (s : State) : State :=
  if f.eng = 0 then regWrap (kreg c 0x1008) 1 s else s

/-- NOP: no work; its read entries stay until it retires (R306). -/
def nopWork (_ : Acc) (f : Flight) : EngM Flight := pure { f with done := true }

/-- Values posted at retirement: the GE value and the reduction registers (R256, R313). -/
def retireValues (c : Nat) (f : Flight) (s : State) : State :=
  modCc c (fun x => { x with
    ge := match f.geVal with
      | some v => BitVec.ofNat 32 (min v 0xFFFFFFFF)
      | none => x.ge
    red := f.reds.foldl (fun v r => vset v r.1 r.2) x.red }) s

/-- One descriptor retires: entries released, values posted, RETIRE sets applied, its item recorded, the watchdog
reset. -/
def retire (c : Nat) (f : Flight) (s : State) : State :=
  let t := ctxOf (coreOf s c)
  let ts := stampOf s c 0
  let s := keepStamp c ts s
  let s := modRun c (fun r => releaseAll f.d.commit (dropFlight f.d.commit r)) s
  let s := retireCounters c f (retireValues c f s)
  let s := applySets c f.eng f.d.commit (setsOf f.d.w true) s
  let s := jobProgress t.slot ts s
  let s := if bitOf (f.d.w.getD 0 0).toNat 11 then descItem t.slot c f.d.commit 0 0 ts s else s
  stopCapture c (commitResume c s)

end Sys2Proof.Machine
end

