-- ==== Sys2Proof/Machine/Epilogue.lean ====
section
/-! DEFINITION. The epilogue (R150, R257 to R260, R264, R266, R309) and the Compressor (R225, R226, R247). -/

namespace Sys2Proof.Machine

/-! ### Pass fields (R308) -/

structure Pass where
  mmp : Bool
  afmt : Nat
  wfmt : Nat
  tile : Nat
  init : Nat
  epi : Bool
  wsrc : Bool
  cisOff : Nat
  cstride : Nat
  k : Nat
  m : Nat
  n : Nat
  a0 : Nat
  a1 : Nat
  wtOff : Nat
  substride : Nat
  paramOff : Nat
  epiOff : Nat
  deriving DecidableEq, Repr

/-- Offsets in entries, lines and bytes as R201 uses them. -/
def passOf (w : List Word) : Pass :=
  { mmp := wbits w 0 0 8 == 2, afmt := wbits w 0 12 5, wfmt := wbits w 0 17 5, tile := wbits w 0 22 2, init := wbits w 0 24 2,
    epi := wbits w 0 26 1 == 1, wsrc := wbits w 0 27 1 == 1,
    cisOff := 4 * wbits w 11 0 16, cstride := 4 * wbits w 11 16 8, k := wbits w 11 24 8,
    a0 := wbits w 12 0 17, m := wbits w 12 17 13, a1 := wbits w 13 0 17, n := wbits w 13 17 7,
    wtOff := wbits w 14 0 17, substride := 4 * wbits w 14 17 15, paramOff := wbits w 15 0 17, epiOff := wbits w 15 17 15 }

/-- Integer pairs of R142. -/
def passInt (p : Pass) : Bool :=
  ((p.afmt == 0 || p.afmt == 0x10) && (p.wfmt == 0 || p.wfmt == 1 || p.wfmt == 8)) || (p.afmt == 1 && p.wfmt == 1)

def passFp8 (p : Pass) : Bool := [2, 3, 0x12, 0x13].contains p.afmt && [2, 3].contains p.wfmt
def passFp16 (p : Pass) : Bool := [4, 5, 0x14, 0x15].contains p.afmt && [4, 5].contains p.wfmt

/-- The pair is one of R142. -/
def passPair (p : Pass) : Bool := passInt p || passFp8 p || passFp16 p

def passInt4 (p : Pass) : Bool := p.afmt == 1

/-- Cycles per site (R208). -/
def passRate (p : Pass) : Nat := (if passFp16 p then 4 else 1) * (if p.mmp then 2 else 1)

/-- Bytes of the check vector (R203). -/
def checkBytes (p : Pass) : Nat := if passInt p && decide (p.k ≤ 64) then 512 else 1024

/-- Entry of column 0 of row `m` of sub-problem `q`. -/
def passRow (p : Pass) (q m : Nat) : Nat := p.cisOff + q * p.substride + m * p.cstride

/-! ### The epilogue record (R309) -/

structure Epi where
  ofmt : Nat
  rnd : Nat
  nonsat : Bool
  fn : Nat
  gfn : Nat
  gate : Bool
  chain : Nat
  pfmt : Nat
  cur : Nat
  cont : Bool
  msken : Bool
  kmsken : Bool
  alpha : Nat
  seed : Word
  gateOff : Nat
  outOff : Nat
  ostride : Nat
  grpOff : Nat
  metaOff : Nat
  maskOff : Nat
  site0 : Nat
  chnOff : Nat
  kmaskOff : Nat
  pOff : Nat
  pstride : Nat
  expOff : Nat
  deriving DecidableEq, Repr

def epiOf (b : List Byte) : Epi :=
  let w (o : Nat) : Nat := field b o 4
  { ofmt := bits (w 0) 0 5, rnd := bits (w 0) 5 2, nonsat := bitOf (w 0) 7, fn := bits (w 0) 8 4, gfn := bits (w 0) 13 4,
    gate := bitOf (w 0) 12, chain := bits (w 0) 17 2, pfmt := bits (w 0) 19 5, cur := bits (w 0) 24 2, cont := bitOf (w 0) 26,
    msken := bitOf (w 0) 27, kmsken := bitOf (w 0) 28, alpha := w 4, seed := BitVec.ofNat 32 (w 8),
    gateOff := bits (w 0x0C) 0 16, outOff := bits (w 0x10) 0 17, ostride := bits (w 0x10) 17 15, grpOff := bits (w 0x14) 0 17,
    metaOff := bits (w 0x18) 0 17, maskOff := bits (w 0x1C) 0 17, site0 := bits (w 0x20) 0 20, chnOff := bits (w 0x24) 0 17,
    kmaskOff := bits (w 0x28) 0 17, pOff := bits (w 0x2C) 0 17, pstride := bits (w 0x30) 0 15, expOff := bits (w 0x34) 0 17 }

/-- Formats that admit stochastic rounding (R137). -/
def stochOk (ofmt : Nat) : Bool := isSg16 ofmt || [0, 2, 3, 4, 5, 8].contains ofmt

/-- The record refuses the pass (R258, R260, R309). -/
def epiBad (p : Pass) (e : Epi) : Bool :=
  !fmtValid e.ofmt || decide (2 ≤ e.rnd) || (e.rnd == 1 && !stochOk e.ofmt) || decide (9 ≤ e.fn) || decide (9 ≤ e.gfn)
    || e.chain == 3 || (e.chain != 0 && (e.fn != 0 || e.gate)) || (e.chain == 1 && !([2, 3, 4, 5].contains e.pfmt))
    || (e.gate && (e.gateOff * 4 + 64 * 4096 - p.cisOff) % 64 != 32)

/-! ### Conversion of a row (step 5 of R150) -/

/-- Draws one random value of a lane (R138). -/
def drawLane (c lane : Nat) : EngM Nat := do
  let r := (coreOf (← get) c).run
  let x := xorshift (r.gens.getD lane 1)
  modify (modRun c fun r => { r with gens := r.gens.set lane x })
  pure (x.toNat / 65536)

/-- Random values for the lanes of a row, where the record selects stochastic rounding. -/
def drawRow (c lane0 : Nat) (e : Epi) (n : Nat) : EngM (List (Option Nat)) := do
  if e.rnd = 1 then (List.range n).mapM fun i => do pure (some (← drawLane c (lane0 + i)))
  else pure (List.replicate n none)

/-- Packs elements of a format into bytes. -/
def packElems (fmt : Nat) (xs : List Nat) : List Byte := if fmt % 16 = 1 then packNib xs else elemsLe (elemBytes fmt) xs

/-- Groups of `k` elements. -/
def chunks {α : Type} (k : Nat) (xs : List α) : List (List α) :=
  (List.range ((xs.length + k - 1) / k)).map fun i => (xs.drop (i * k)).take k

/-- A row converted to the output format: its elements, and the exponents of KQ8. -/
def convRow (e : Epi) (rs : List (Option Nat)) (xs : List Nat) : List Nat × List Byte :=
  if e.ofmt = 8 then
    let gs := (chunks 16 xs).zip (chunks 16 rs)
    let es := gs.map fun g => kq8Group g.1
    (((gs.zip es).map fun g => (g.1.1.zip g.1.2).map fun x => kq8Elem g.2 x.2 x.1).flatten,
      es.map fun k => BitVec.ofNat 8 (unsigned 8 k))
  else ((xs.zip rs).map fun x => convTo e.ofmt x.2 e.nonsat x.1, [])

/-! ### Tiles of the Compressor (R226, R247) -/

/-- XOR of the bits of a number of `n` bits. -/
def parityOf (n x : Nat) : Nat := popCount n x % 2

/-- A `SOFF` entry. -/
def soffEnc (o : Nat) : Nat := o % 16384 + (if parityOf 14 o = 1 then 32768 else 0)

/-- XOR of bytes. -/
def xorBytes (bs : List Byte) : Byte := bs.foldl (· ^^^ ·) 0

/-- A tile metadata record for sites of `ngrp` groups each, as bytes of their groups. -/
def tileRecord (byteOff ngrp : Nat) (sites : List (List (List Byte))) : List Byte :=
  let lens := sites.map fun s => (s.map (·.length)).sum
  let offs := (List.range sites.length).map fun j => (lens.take j).sum
  let band (b : Nat) : Nat := (sites.filter fun s => let c := ((s.getD b []).headD 0).toNat % 4; c == 1 || c == 2).length
  let h := leBytes 4 byteOff ++ leBytes 2 lens.sum ++ leBytes 1 sites.length ++ leBytes 1 ngrp
    ++ ((List.range 4).map fun b => BitVec.ofNat 8 (band b)) ++ zeros 3
  let soff := (List.range 64).flatMap fun j => if j < sites.length then leBytes 2 (soffEnc (offs.getD j 0)) else zeros 2
  h ++ [xorBytes h] ++ soff ++ zeros 48

def setCur (c i : Nat) (v : Nat × Nat) (s : State) : State := modRun c (fun r => { r with cur := vset r.cur i v }) s

/-- Writes one tile: its groups, then its record; both cursors advance. -/
def ceTile (a : Acc) (e : Epi) (ngrp : Nat) (sites : List (List (List Byte))) : EngM Unit := do
  if sites.isEmpty then pure ()
  else
    let cur := vget (coreOf (← get) a.c).run.cur e.cur (0, 0)
    let body := sites.flatten.flatten
    basinWrite a (e.grpOff * 64 + cur.1) body
    basinWrite a (e.metaOff * 64 + 192 * cur.2) (tileRecord cur.1 ngrp sites)
    modify (setCur a.c e.cur ((cur.1 + body.length) % 2 ^ 32, (cur.2 + 1) % 2 ^ 32))
    modify (regWrap (kreg a.c 0x2C30) 1)

/-! ### Rows -/

/-- The scale of a logical column, and the KQ8 factor of its group (steps 2 and 3 of R150). -/
structure Scale where
  scale : List Nat
  kexp : List Int
  deriving DecidableEq, Repr

/-- Reads the epilogue's part of the parameter block (R203). -/
def readScale (a : Acc) (p : Pass) : EngM Scale := do
  let base := p.paramOff + checkBytes p / 64 + 4
  let sc := (← basinReadLines a true base 4).flatten
  let ke ← if p.wfmt = 8 then basinRead a true (base + 4) else pure (zeros 64)
  pure ⟨(List.range 64).map fun i => field sc (4 * i) 4, (List.range 4).map fun i => signed 8 (field ke i 1)⟩

/-- Accumulator to FP32, KQ8 exponent, scale. -/
def step123 (p : Pass) (sc : Scale) (col acc : Nat) : Nat :=
  let t := if passInt p then itof32 acc else r32 (d32 acc)
  let t := if p.wfmt = 8 then r32 (fmulX (d32 t) (.fin false 1 (sc.kexp.getD (col / 16) 0))) else t
  mul32 t (sc.scale.getD col 0)

/-- One row of CHAIN STEP (R264): the new state and the converted row. -/
def chainStep (pfmt : Nat) (first : Bool) (mx sm : Nat) (xs : List Nat) : (Nat × Nat × Nat) × List Nat :=
  let negInf := finf f32 true
  let mOld := if first then negInf else mx
  let sOld := if first then 0 else sm
  let mNew := max32 mOld (xs.foldl max32 negInf)
  let dead := mNew = negInf
  let cr := if dead then 0x3F800000 else if first then 0 else exp32 (sub32 mOld mNew)
  let ps := xs.map fun x => if dead then convTo pfmt none false 0 else convTo pfmt none false (exp32 (sub32 x mNew))
  let s := ps.foldl (fun s q => add32 s (widen pfmt q)) 0
  ((mNew, add32 (mul32 cr sOld) s, cr), ps)

/-- A bit of a bitmap in the Basin. -/
def readBit (a : Acc) (base bit : Nat) : EngM Bool := do
  let b ← basinReadBytes a (base + bit / 8) 1
  pure (bitOf (b.headD 0).toNat (bit % 8))

/-- What the epilogue writes for one output row: nothing yet for a Compressor row, which it answers. -/
def epiRow (a : Acc) (p : Pass) (e : Epi) (sc : Scale) (first : Bool) (q m : Nat) : EngM (List (List Byte)) := do
  let row := if p.mmp then q * p.m + m else m
  let col0 := if p.mmp then 32 * (q % 2) else 0
  let acc ← cisRead a (passRow p q m) p.n
  let xs := (List.range p.n).map fun i => step123 p sc (col0 + i) (acc.getD i 0).toNat
  if e.chain = 1 then
    let mask ← if e.kmsken then basinReadBytes a (e.kmaskOff * 64 + 8 * row) 8 else pure (List.replicate 8 0xFF)
    let xs := (List.range p.n).map fun i => if bitOf (field mask (i / 8) 1) (i % 8) then xs.getD i 0 else finf f32 true
    let st ← basinReadBytes a (e.chnOff * 64 + 16 * row) 16
    let r := chainStep e.pfmt first (field st 0 4) (field st 4 4) xs
    basinWrite a (e.chnOff * 64 + 16 * row) (leBytes 4 r.1.1 ++ leBytes 4 r.1.2.1 ++ leBytes 4 r.1.2.2 ++ slice st 12 4)
    basinWrite a ((e.pOff + row * e.pstride) * 64) (elemsLe (elemBytes e.pfmt) (r.2 ++ List.replicate (64 - p.n) 0))
    pure []
  else
    let ys ← (if e.chain = 2 then do
        let st ← basinReadBytes a (e.chnOff * 64 + 16 * row) 16
        let sm := field st 4 4
        if isZero32 sm then
          modify (regCount (kreg a.c 0x1840) 1)
          pure (xs.map fun _ => 0)
        else pure (xs.map fun x => div32 x sm)
      else do
        let ys := xs.map (actFn e.fn e.alpha)
        if e.gate then
          let gs ← cisRead a (e.gateOff * 4 + q * p.substride + m * p.cstride) p.n
          pure ((ys.zip gs).map fun y =>
            mul32 y.1 (actFn e.gfn e.alpha (if passInt p then itof32 y.2.toNat else r32 (d32 y.2.toNat))))
        else pure ys)
    let rs ← drawRow a.c col0 e p.n
    if isSg16 e.ofmt then
      let keep ← if e.msken then readBit a (e.maskOff * 64) (e.site0 + row) else pure true
      let v := (convRow e rs ys).1
      let v := if keep then v else v.map fun _ => 0
      if !keep then modify (regCount (kreg a.c 0x2C40) 1)
      pure ((List.range ((p.n + 15) / 16)).map fun g => sg16Enc e.ofmt ((v.drop (16 * g)).take 16))
    else
      let v := convRow e rs ys
      basinWrite a ((e.outOff + row * e.ostride) * 64) (packElems e.ofmt v.1)
      if e.ofmt = 8 then basinWrite a (e.expOff * 64 + 8 * row) (slice v.2 0 8)
      pure []

/-- The rows of a pass in the order of R212 and R259. -/
def passRows (p : Pass) : List (Nat × Nat) :=
  (List.range (if p.mmp then 4 else 1)).flatMap fun q => (List.range p.m).map fun m => (q, m)

/-- The epilogue of a pass. -/
def epilogue (a : Acc) (p : Pass) : EngM Unit := do
  let rec0 ← basinReadBytes a (p.epiOff * 256) 64
  let e := epiOf rec0
  if epiBad p e then stopF .veShape
  if e.rnd = 1 then
    modify (modRun a.c fun r => { r with gens := seedGens e.seed })
    modify (regPut (kreg a.c 0x1804) e.seed)
  let first ← (if e.chain = 1 then do
      let f := takeFree (← get)
      set f.2
      pure (Config.chainFirst f.1)
    else pure false)
  let sc ← readScale a p
  if isSg16 e.ofmt && e.chain != 1 then
    if !e.cont then modify (setCur a.c e.cur (0, 0))
    for t in chunks 64 (passRows p) do
      let sites ← t.mapM fun qm => epiRow a p e sc first qm.1 qm.2
      ceTile a e ((p.n + 15) / 16) sites
  else
    for qm in passRows p do
      let _ ← epiRow a p e sc first qm.1 qm.2

end Sys2Proof.Machine
end

