-- ==== Sys2Proof/Machine/Time.lean ====
section
/-! DEFINITION. Device time and its discipline (02), with the pulses that follow the master (R518 to R522). -/

namespace Sys2Proof.Machine

/-! ### The count -/

/-- One SAF cycle of the time base (R44): 4 ns, and one more or one less when the accumulated trim crosses a whole ns. -/
def tbCycle (t : TimeBase) : TimeBase :=
  let a := t.acc + 4 * t.trim
  if a ≥ 16777216 then { t with master := t.master + 5, acc := a - 16777216 }
  else if a ≤ -16777216 then { t with master := t.master + 3, acc := a + 16777216 }
  else { t with master := t.master + 4, acc := a }

/-- The device after one SAF cycle in which nothing is commanded. -/
def tick (s : State) : State :=
  if s.saf.tapHold then s else { s with tb := { tbCycle s.tb with upNs := s.tb.upNs + 4 } }

/-! ### Settings of OD index 0x2400 (R504) -/

def tbSrc (s : State) : Nat := odNat s 0x2400 1
def tbPort (s : State) : Nat := odNat s 0x2400 2
def gmPorts (s : State) : Nat := odNat s 0x2400 3
def holdMax (s : State) : Nat := odNat s 0x2400 6 * 1000000000
def stepThr (s : State) : Nat := odNat s 0x2400 7 * 1000

/-! ### Trigger outputs (R517 to R519) -/

def trigPeriod (s : State) (m : Nat) : Nat := field (odGet s 0x4030 (1 + m)) 0 4
def trigPhase (s : State) (m : Nat) : Nat := field (odGet s 0x4030 (1 + m)) 4 4
def trigWidth (s : State) (m : Nat) : Nat := field (odGet s 0x4030 (1 + m)) 8 4
def trigCtrl (s : State) (m : Nat) : Nat := field (odGet s 0x4030 (1 + m)) 12 1
def trigEn (s : State) (m : Nat) : Bool := bitOf (trigCtrl s m) 0
/-- The inactive level: high where `POL` is 1 (active low). -/
def trigIdle (s : State) (m : Nat) : Bool := bitOf (trigCtrl s m) 1

/-- The output is held: the supply is out of range (R509), or `LOCKREQ` in FREERUN or ACQUIRING (R519). -/
def trigHeld (s : State) (m : Nat) : Bool :=
  !s.fio.supply || (bitOf (trigCtrl s m) 2 && (s.tb.mode == .freerun || s.tb.mode == .acquiring))

/-- The first grid instant at or after `t0` (R518): the smallest `t >= t0` with `(t - PHASE) mod PERIOD = 0`. -/
def gridFrom (period phase t0 : Nat) : Nat :=
  if period = 0 then t0
  else if t0 ≤ phase % period then phase % period
  else t0 + (period - (t0 - phase % period) % period) % period

/-- Drives a level at an output, noting when it changed (R520). -/
def trigLevel (now : Nat) (b : Bool) (t : TrigSt) : TrigSt :=
  if t.drive = b then t else { t with drive := b, changedAt := now }

/-- Ends any pulse in progress; edges up to now are skipped (R519). -/
def trigStop (s : State) (m : Nat) : TrigSt :=
  let t := trigLevel s.tb.master (if s.fio.supply then trigIdle s m else false) (vget s.fio.trig m {})
  { t with until_ := none, notBefore := s.tb.master + 1 }

def trigStopAll (s : State) : State :=
  { s with fio := { s.fio with trig := vmap s.fio.trig {} fun m _ => trigStop s m,
                               ppsOut := false, ppsUntil := none, ppsLast := s.tb.master / 1000000000 } }

/-- Outputs with `LOCKREQ` drop to their inactive level when the time state is FREERUN or ACQUIRING (R519). -/
def trigLockreq (s : State) : State :=
  let low (m : Nat) : Bool := bitOf (trigCtrl s m) 2 && (s.tb.mode == .freerun || s.tb.mode == .acquiring)
  { s with fio := { s.fio with trig := vmap s.fio.trig {} fun m t => if low m then trigStop s m else t } }

/-! ### Time states (R46) -/

def tbModeCode : TbMode → Nat
  | .freerun => 0
  | .acquiring => 1
  | .locked => 2
  | .holdover => 3

/-- Moves the time state; each change writes a journal record (R46, R463). -/
def tbSetMode (m : TbMode) (s : State) : State :=
  if s.tb.mode = m then s
  else trigLockreq (journal 23 2 0 s.tb.master (noJobTag none) (tbModeCode s.tb.mode) (tbModeCode m) 2
    { s with tb := { s.tb with mode := m, holdSince := if m = .holdover then s.tb.master else s.tb.holdSince } })

/-- Some stream context is enabled (R47). -/
def anyCtxEnabled (s : State) : Bool := s.ing.ctx.toList.any (·.en)

/-- An admitted job: one that runs, is preempted, drains after its admission (also from RESTARTING), or restarts. -/
def jobAdmitted (j : Job) : Bool :=
  match j.st with
  | .running | .preempted | .restarting => true
  | .draining => !j.cores.isEmpty || decide (0 < j.restarts)
  | _ => false

def anyJobAdmitted (s : State) : Bool := s.hst.jobs.any fun e => jobAdmitted e.2

/-- Marks every open sweep DEGRADED (R47). -/
def degradeOpen (c : StreamCtx) : StreamCtx := if c.sweepOpen then { c with degraded := true } else c

/-- The next side of the order of records in SAF, at a backward step (R60). -/
def nextSide (back : Bool) (s : State) : State :=
  if back then { s with tb := { s.tb with side := vmod s.tb.side 23 0 (· + 1) } } else s

/-- A step of the master (R47): the TIME_STEP record, `TB_STEP_CNT`, the sweeps of a forward step, and the pulses
of R519. The other islands' replicas follow at their next refresh (R26); after a backward step the order of SAF's
stamps starts anew, the record first on its new side (R60). DESIGN CHOICE (notes/assumptions/72): the accumulated
fraction of a nanosecond is 0 after a step, and the record's own `TS64` is the master after it. -/
def tbStep (new : Nat) (s : State) : State :=
  let old := s.tb.master
  let back := decide (new < old)
  let s := nextSide back { s with tb := { s.tb with
    master := new, acc := 0, steps := satAdd 32 s.tb.steps 1,
    unseen := vmap s.tb.unseen 0 fun i d => if i = 23 then d else d + new - old, last := vmod s.tb.last 23 0 (min new) } }
  let s := nextSide back (journal 23 3 0 new (noJobTag none) old new 0 s)
  let s := if old < new then { s with ing := { s.ing with ctx := vmap s.ing.ctx {} fun _ c => degradeOpen c } } else s
  trigStopAll s

/-- Bound of the trim in units of 2^-24: 200 ppm in ACQUIRING, 10 ppm in LOCKED (R46). -/
def trimBound (m : TbMode) : Int := if m = .locked then 167 else 3355

def clampInt (b x : Int) : Int := if x > b then b else if x < -b then -b else x

/-- Steers the trim: the servo's choice within the bound of the time state (R46; the choice itself is free). -/
def tbSteer (s : State) : State :=
  let f := takeFree s
  let t := clampInt (trimBound s.tb.mode) (Config.servo f.1)
  { f.2 with tb := { f.2.tb with trim := t, trims := (t :: f.2.tb.trims).take 8 } }

/-- Takes one measured offset, source minus master, in ns (R46, R47). DESIGN CHOICE (notes/assumptions/72): a backward
step larger than the master count stops at 0. -/
def tbMeasure (off : Int) (s : State) : State :=
  let s := { s with tb := { s.tb with offset := clampInt 2147483647 off } }
  let s := if s.tb.mode = .freerun ∨ (s.tb.mode = .locked ∧ off.natAbs > 1000)
    then tbSetMode .acquiring { s with tb := { s.tb with good := 0 } } else s
  if s.tb.mode = .acquiring ∧ off.natAbs > stepThr s then
    let s := { s with tb := { s.tb with good := 0 } }
    if off > 0 then tbStep (s.tb.master + off.natAbs) s
    else if !anyCtxEnabled s && !anyJobAdmitted s then tbStep (s.tb.master - off.natAbs) s
    else { s with tb := { s.tb with trim := -3355, trims := ((-3355 : Int) :: s.tb.trims).take 8 } }
  else
    let s := { s with tb := { s.tb with good := if off.natAbs ≤ 100 then s.tb.good + 1 else 0 } }
    let s := if s.tb.good ≥ 8 then tbSetMode .locked s else s
    if s.tb.mode = .holdover then s else tbSteer s

/-! ### gPTP (R45) -/

/-- The end station listens on its one MAC. -/
def gptpSlaveOn (s : State) (mac : Nat) : Bool := tbSrc s == 1 && tbPort s == mac

def gptpMasterOn (s : State) (mac : Nat) : Bool := tbSrc s == 2 && bitOf (gmPorts s) mac

/-- A gPTP frame received (R45). The clock servo sees origin plus correction plus peer delay less the arrival. -/
def gptpRx (mac : Nat) (f : GptpFrame) (s : State) : State :=
  match f with
  | .sync q two origin corr =>
    if gptpSlaveOn s mac then
      if two then { s with tb := { s.tb with sync := some ⟨q, s.tb.master, corr⟩ } }
      else tbMeasure ((origin : Int) + corr + s.tb.pdelay - s.tb.master) s
    else s
  | .followUp q origin corr =>
    if gptpSlaveOn s mac then
      match s.tb.sync with
      | some p =>
        if p.seq = q then
          tbMeasure ((origin : Int) + corr + p.corr + s.tb.pdelay - p.rx) { s with tb := { s.tb with sync := none } }
        else s
      | none => s
    else s
  | .pdelayReq q =>
    if gptpSlaveOn s mac || gptpMasterOn s mac then
      emitOut (.gptp mac 10 q s.tb.master 0) (emitOut (.gptp mac 3 q s.tb.master 0) s)
    else s
  | .pdelayResp q reqRx =>
    match s.tb.pdReq with
    | some (p, _) =>
      if gptpSlaveOn s mac && p == q then { s with tb := { s.tb with pdResp := some (reqRx, s.tb.master) } } else s
    | none => s
  | .pdelayRespFollowUp q respTx =>
    match s.tb.pdReq, s.tb.pdResp with
    | some (p, t1), some (t2, t4) =>
      if gptpSlaveOn s mac && p == q then
        { s with tb := { s.tb with
            pdelay := (((t4 : Int) - t1) - ((respTx : Int) - t2)) / 2, pdReq := none, pdResp := none } }
      else s
    | _, _ => s
  | .announce =>
    if tbSrc s = 2 then { s with tb := { s.tb with foreignAnn := wrapAdd 32 s.tb.foreignAnn 1 } } else s

/-- GPTP_FRAME_RX (R45 to R47): the time base takes part in domain 0 only, and sends in it. -/
def execGptpFrameRx (mac : Fin 8) (f : GptpMsg) (s : State) : Host.Outcome State Fault Refusal :=
  .next (if f.domain = 0 then gptpRx mac.val f.body s else s)

/-- SYNC_MISSING (R46): the trim is held at the mean of the last 8 measurements. -/
def execSyncMissing (s : State) : Host.Outcome State Fault Refusal :=
  .next (
    if (s.tb.mode = .locked ∨ s.tb.mode = .acquiring) ∧ (tbSrc s = 1 ∨ tbSrc s = 3) then
      let m : Int := if s.tb.trims.isEmpty then s.tb.trim else s.tb.trims.sum / (s.tb.trims.length : Int)
      tbSetMode .holdover { s with tb := { s.tb with trim := m, good := 0, sync := none } }
    else s)

/-- HOLDOVER_EXPIRY (R46). -/
def execHoldoverExpiry (s : State) : Host.Outcome State Fault Refusal :=
  .next (if s.tb.mode = .holdover ∧ s.tb.master > s.tb.holdSince + holdMax s then tbSetMode .freerun s else s)

/-- Sends on every MAC of a list. -/
def gptpSendAll (f : Nat → OutEvent) : List Nat → State → State
  | [], s => s
  | m :: ms, s => gptpSendAll f ms (emitOut (f m) s)

/-- GPTP_SYNC_TX (R45): two-step Sync and Follow_Up on every selected MAC. -/
def execGptpSyncTx (s : State) : Host.Outcome State Fault Refusal :=
  .next (
    if tbSrc s = 2 then
      let q := s.tb.txSeq
      let ms := onesFrom (gmPorts s) 0 8
      let s := gptpSendAll (fun m => .gptp m 0 q 0 0) ms s
      let s := gptpSendAll (fun m => .gptp m 8 q s.tb.master 0) ms s
      { s with tb := { s.tb with txSeq := wrapAdd 16 q 1 } }
    else s)

/-- GPTP_ANNOUNCE_TX (R45): Announce with priority1 and clockClass. -/
def execGptpAnnounceTx (s : State) : Host.Outcome State Fault Refusal :=
  .next (
    if tbSrc s = 2 then
      let q := s.tb.txSeq
      let s := gptpSendAll (fun m => .gptp m 11 q (odNat s 0x2400 4) (odNat s 0x2400 5)) (onesFrom (gmPorts s) 0 8) s
      { s with tb := { s.tb with txSeq := wrapAdd 16 q 1 } }
    else s)

/-- PEER_DELAY_TX (R45): the end station's peer-delay request. -/
def execPeerDelayTx (s : State) : Host.Outcome State Fault Refusal :=
  .next (
    if tbSrc s = 1 then
      let q := s.tb.txSeq
      emitOut (.gptp (tbPort s) 2 q s.tb.master 0)
        { s with tb := { s.tb with txSeq := wrapAdd 16 q 1, pdReq := some (q, s.tb.master), pdResp := none } }
    else s)

/-! ### Replicas (R49 to R51) -/

/-- A refresh reaches island `i`, whose replica from then on stands `lag` behind the master (R49, R51): it follows every
step of the master so far (R26), and holds where it would move backwards without one (R50, R60). -/
def refreshReplica (i : Nat) (lag : Int) (s : State) : State :=
  let back := decide (vget s.tb.unseen i 0 < 0)
  { s with tb := { s.tb with
      lag := vset s.tb.lag i lag, unseen := vset s.tb.unseen i 0,
      hold := vset s.tb.hold i (if back then 0 else replica s i),
      last := if back then vmod s.tb.last i 0 (min ((s.tb.master : Int) - lag).toNat) else s.tb.last,
      side := if back then vset s.tb.side i (vget s.tb.side 23 0) else s.tb.side } }

/-- REPLICA_REFRESH (R51): a lag outside 0 to 4 ns sets the island's skew state; 1,024 consecutive passes clear it. -/
def execReplicaRefresh (isl : Fin 24) (lag : Int) (s : State) : Host.Outcome State Fault Refusal :=
  .next (
    let i := isl.val
    if i = 23 then s
    else
    let s := refreshReplica i lag s
    if 0 ≤ lag ∧ lag ≤ 4 then
      let n := vget s.tb.passes i 0 + 1
      if s.tb.skewState.getLsbD i then
        if n ≥ 1024 then
          { s with tb := { s.tb with passes := vset s.tb.passes i 0, skewState := s.tb.skewState &&& ~~~(1#24 <<< i) } }
        else { s with tb := { s.tb with passes := vset s.tb.passes i n } }
      else s
    else
      let fresh := !s.tb.skewState.getLsbD i
      let s := { s with
        tb := { s.tb with
          passes := vset s.tb.passes i 0,
          skewFlt := s.tb.skewFlt ||| (1#24 <<< i), skewState := s.tb.skewState ||| (1#24 <<< i) },
        hst := { s.hst with jobs := s.hst.jobs.map fun e =>
          (e.1, if e.2.st = .running then { e.2 with skewed := true } else e.2) } }
      if fresh then raise { plainFault .replicaSkew 23 none with detail := [BitVec.ofNat 32 s.tb.skewFlt.toNat] } s else s)

/-! ### Pulses that follow the master -/

/-- PPS_OUT_PULSE (R48, R522): a rise as the master passes a whole second, a fall `PPS_WIDTH` later. -/
def execPpsOutPulse (s : State) : Host.Outcome State Fault Refusal :=
  .next (
    if !s.fio.supply || odNat s 0x4030 0x10 == 0 then
      { s with fio := { s.fio with ppsOut := false, ppsUntil := none, ppsLast := s.tb.master / 1000000000 } }
    else match s.fio.ppsUntil with
    | some u =>
      if u ≤ s.tb.master then
        { s with fio := { s.fio with ppsOut := false, ppsUntil := none, ppsChangedAt := s.tb.master } }
      else s
    | none =>
      let sec := s.tb.master / 1000000000
      if s.fio.ppsLast < sec then
        { s with fio := { s.fio with
            ppsOut := true, ppsUntil := some (sec * 1000000000 + odNat s 0x4030 0x11), ppsLast := sec,
            ppsChangedAt := s.tb.master } }
      else s)

/-- TRIG_EDGE (R518, R519): a grid instant starts a pulse, the end of `WIDTH` ends it. -/
def execTrigEdge (m : Fin 8) (s : State) : Host.Outcome State Fault Refusal :=
  .next (
    let i := m.val
    let t := vget s.fio.trig i {}
    let put (x : TrigSt) : State := { s with fio := { s.fio with trig := vset s.fio.trig i x } }
    if trigHeld s i then put (trigStop s i)
    else match t.until_ with
    | some u =>
      if u ≤ s.tb.master then 
        let x := trigLevel s.tb.master (trigIdle s i) t
        put { x with until_ := none }
      else s
    | none =>
      let g := gridFrom (trigPeriod s i) (trigPhase s i) t.notBefore
      if trigEn s i && decide (g ≤ s.tb.master) then
        let x := trigLevel s.tb.master (!trigIdle s i) t
        put { x with
          until_ := some (g + trigWidth s i), notBefore := g + 1, pulses := wrapAdd 32 t.pulses 1 }
      else s)

/-- PPS_IN_EDGE (R521): stamped and passed to the time base, or counted in `FIO_PPSIN_REJ`. The edge marks the TAI
second of `PPS_SEC`; each later edge marks the next one (R45, R504). -/
def execPpsInEdge (wide : Bool) (s : State) : Host.Outcome State Fault Refusal :=
  .next (
    if !s.fio.supply then s
    else if !wide || (s.fio.ppsSeen && decide (s.tb.master < s.fio.ppsInTs + 500000000)) then
      regCount (rkey 0 0x04030C8) 1 s
    else
      let ts := s.tb.master
      let s := { s with fio := { s.fio with ppsInTs := ts, ppsSeen := true } }
      let p : Nat × Nat := match s.tb.ppsWrite with
        | some (v, t) => if t + 100000 ≤ ts then (v, v + 1) else (s.tb.ppsSec, v)
        | none => (s.tb.ppsSec, s.tb.ppsSec + 1)
      let sec : Nat := p.1
      let s := { s with tb := { s.tb with ppsSec := p.2, ppsWrite := none } }
      if tbSrc s = 3 then tbMeasure ((sec : Int) * 1000000000 - ts) s else s)

end Sys2Proof.Machine
end

