-- ==== Sys2Proof/Machine/Field.lean ====
section
/-! DEFINITION. The field bank: two-channel inputs, supply, readback, `FAULT_N` (21). -/

namespace Sys2Proof.Machine

def sinEn (s : State) (n : Nat) : Bool := odNat s (0x4020 + n) 1 == 1
def sinAntiv (s : State) (n : Nat) : Bool := odNat s (0x4020 + n) 2 == 1
def sinTd (s : State) (n : Nat) : Nat := odNat s (0x4020 + n) 3

/-- The state an input starts with (R514). -/
def sinStart (startTest : Bool) (x : SinSt) : SinSt :=
  { x with active := false, armed := !startTest, disc := false, cnt := 0 }

def sinStartN (n : Nat) (s : State) : State :=
  { s with fio := { s.fio with sin := vmod s.fio.sin n {} (sinStart (odNat s (0x4020 + n) 4 == 1)) } }

/-- One sample of one input (R512): the new state, and whether DISCREPANCY is raised. -/
def sinStep (td : Nat) (a b : Bool) (now : Nat) (x : SinSt) : SinSt × Bool :=
  let y := { x with aAct := a, bAct := b }
  if a != b then
    let c := if x.cnt < 100001 then x.cnt + 1 else x.cnt
    ({ y with active := false, disc := true, cnt := c, changed := if x.active then now else x.changed },
      x.cnt < 100001 && c == td * 100 + 1)
  else
    let armed := if a then x.armed else true
    let disc := if a then x.disc else false
    let act := a && armed
    ({ y with cnt := 0, armed := armed, disc := disc, active := act, changed := if act == x.active then x.changed else now },
      false)

/-- An input that a write of `EN` = 0 has disabled (R516). -/
def sinOff (now : Nat) (x : SinSt) : SinSt :=
  { x with active := false, armed := false, disc := false, cnt := 0, changed := if x.active then now else x.changed }

/-- One input at a sample instant, with its fault and its counters (R511 to R513). -/
def sinSample (f : FieldSample) (s : State) (n : Nat) : State :=
  let x := vget s.fio.sin n {}
  let ap := vget f.a n false
  let bp := vget f.b n false
  let now := s.tb.master
  if !sinEn s n then { s with fio := { s.fio with sin := vset s.fio.sin n (sinOff now x) } }
  else
    let x := { x with aPin := ap, bPin := bp }
    let a := ap
    let b := if sinAntiv s n then !bp else bp
    if !s.fio.supply then { s with fio := { s.fio with sin := vset s.fio.sin n { x with active := false } } }
    else
      let r := sinStep (sinTd s n) a b now x
      let s := { s with fio := { s.fio with sin := vset s.fio.sin n r.1 } }
      if r.2 then
        let s := odPut (0x4020 + n) 0x11 (leBytes 4 (wrapAdd 32 (odNat s (0x4020 + n) 0x11) 1)) s
        let s := regCount (rkey 0 (0x0403014 + 0x10 * n)) 1 s
        raiseNoJob .discrepancy 23 s
      else s

/-- The readback of one trigger output (R520). -/
def trigSample (f : FieldSample) (s : State) (m : Nat) : State :=
  let t := vget s.fio.trig m {}
  let rb := vget f.trigRb m false
  let put (x : TrigSt) (s : State) : State := { s with fio := { s.fio with trig := vset s.fio.trig m x } }
  if s.fio.supply && decide (t.changedAt + 1000 ≤ s.tb.master) then
    if rb == t.drive then put { t with rb := rb, rbFail := false } s
    else if t.rbFail then put { t with rb := rb } s
    else regCount (rkey 0 0x04030CC) 1 (raiseNoJob .outReadback 23 (put { t with rb := rb, rbFail := true } s))
  else put { t with rb := rb } s

/-- The readback of `PPS_OUT` (R520). -/
def ppsSample (f : FieldSample) (s : State) : State :=
  let p := { s.fio with ppsRb := f.ppsRb, imagoIn := f.imagoIn, ppsIn := f.ppsIn }
  if s.fio.supply && decide (s.fio.ppsChangedAt + 1000 ≤ s.tb.master) then
    if f.ppsRb == s.fio.ppsOut then { s with fio := { p with ppsRbFail := false } }
    else if s.fio.ppsRbFail then { s with fio := p }
    else regCount (rkey 0 0x04030CC) 1 (raiseNoJob .outReadback 23 { s with fio := { p with ppsRbFail := true } })
  else { s with fio := p }

/-- SIN_SAMPLE (R511 to R516, R520). -/
def execSinSample (f : FieldSample) (s : State) : Host.Outcome State Fault Refusal :=
  .next (ppsSample f ((List.range 8).foldl (trigSample f) ((List.range 4).foldl (sinSample f) s)))

/-- FIELD_SUPPLY_LOSS (R509). -/
def execFieldSupplyLoss (s : State) : Host.Outcome State Fault Refusal :=
  .next (
    if s.fio.supply then
      let s := { s with fio := { s.fio with supply := false } }
      let s := trigStopAll s
      let s := { s with fio := { s.fio with sin := vmap s.fio.sin {} fun _ x => { x with active := false } } }
      raiseNoJob .fieldSupply 23 s
    else s)

/-- FIELD_SUPPLY_RETURN (R509): inputs restart as after `PORST_N`, outputs resume at their next grid instant. -/
def execFieldSupplyReturn (s : State) : Host.Outcome State Fault Refusal :=
  .next (
    if s.fio.supply then s
    else trigStopAll ((List.range 4).foldl (fun s n => sinStartN n s) { s with fio := { s.fio with supply := true } }))

/-- `FAULT_N` as driven (R524). -/
def faultN (s : State) : Bool := !(errReg s != 0 || s.saf.mgtDown || s.node.faultHolding)

/-- FAULT_N_HOLD_EXPIRY (R524): the 1 ms hold ends. -/
def execFaultNHoldExpiry (s : State) : Host.Outcome State Fault Refusal :=
  .next (
    if s.node.faultHolding && decide (s.node.faultHold ≤ s.tb.master) then
      { s with node := { s.node with faultHolding := false } }
    else s)

end Sys2Proof.Machine
end

