-- ==== Sys2Proof/Machine/Journal.lean ====
section
/-! DEFINITION. The journal in SAF: the ring, the nonvolatile banks, compaction, power failure (R462 to R473). -/

namespace Sys2Proof.Machine

/-- The first 60 bytes of a record (R462). -/
def jrecBody (r : JRec) : List Byte :=
  leBytes 4 r.seq ++ leBytes 1 r.isl ++ leBytes 1 r.kind ++ leBytes 2 r.code ++ leBytes 8 r.ts ++ leBytes 4 r.tag
    ++ leBytes 2 r.flags ++ leBytes 2 0 ++ leBytes 8 r.a0 ++ leBytes 8 r.a1 ++ leBytes 8 r.a2 ++ leBytes 4 r.jseq ++ zeros 8

/-- A record as 64 bytes, its CRC last (R462). -/
def jrecBytes (r : JRec) : List Byte := jrecBody r ++ leBytes 4 (crc32c (jrecBody r))

/-- The canonical order of R58, `TS64`, island, sequence in serial order, apart on each side of a backward step (R60). -/
def jrecBefore (a b : JRec) : Bool :=
  decide (a.side < b.side) || a.side == b.side && (decide (a.ts < b.ts) || (a.ts == b.ts && (decide (a.isl < b.isl) ||
    (a.isl == b.isl && (match serialCmp 32 a.seq b.seq with
      | some d => decide (d < 0)
      | none => false)))))

def setFlag (i : Nat) (r : JRec) : JRec := { r with flags := putBit r.flags i true }

/-- The words of a record. -/
def bytesWords : List Byte → List Word
  | a :: b :: c :: d :: rest => BitVec.ofNat 32 (leNat [a, b, c, d]) :: bytesWords rest
  | _ => []

def wordsBytes (ws : List Word) : List Byte := ws.flatMap fun w => leBytes 4 w.toNat

/-- The last-word registers take the newest record (R473). -/
def lastWord (r : JRec) (s : State) : State :=
  let w := bytesWords (jrecBytes r)
  { s with jr := { s.jr with lastw0 := w, lastw1 := w, lastw2 := w } }

/-- Majority of three words. -/
def vote (a b c : Word) : Word := (a &&& b) ||| (a &&& c) ||| (b &&& c)

/-- Voted word `n` of the last-word registers. -/
def lastwWord (s : State) (n : Nat) : Word :=
  vote (s.jr.lastw0.getD n 0) (s.jr.lastw1.getD n 0) (s.jr.lastw2.getD n 0)

/-- Bit `n` is 1 where the three copies of word `n` disagree (R480). -/
def lastwDis (s : State) : Nat :=
  ((List.range 16).map fun n =>
    bitAt (!(s.jr.lastw0.getD n 0 == s.jr.lastw1.getD n 0 && s.jr.lastw1.getD n 0 == s.jr.lastw2.getD n 0)) n).sum

/-- JOURNAL_FAIL (R439, R473): `FAIL` shows the memory, and the fault goes the fault path; its record reaches the last-word
registers as every record does. -/
def journalFail (ring : Bool) (s : State) : State :=
  if (if ring then s.jr.ringFail else s.jr.nvFail) then s
  else raiseNoJob .journalFail 23 { s with jr := { s.jr with
    ringFail := s.jr.ringFail || ring, nvFail := s.jr.nvFail || !ring,
    compact := if ring then s.jr.compact else none, nvPend := if ring then s.jr.nvPend else [] } }

/-! ### The banks -/

def activeBank (s : State) : NvBank := if s.jr.active1 then s.jr.bank1 else s.jr.bank0
def otherBank (s : State) : NvBank := if s.jr.active1 then s.jr.bank0 else s.jr.bank1
def putActive (b : NvBank) (s : State) : State :=
  { s with jr := if s.jr.active1 then { s.jr with bank1 := b } else { s.jr with bank0 := b } }
def putOther (b : NvBank) (s : State) : State :=
  { s with jr := if s.jr.active1 then { s.jr with bank0 := b } else { s.jr with bank1 := b } }

def slotEmpty : Nat → NvSlot := fun _ => .empty

def bankAppend (r : JRec) (b : NvBank) : NvBank :=
  { b with slots := smSet slotEmpty b.slots (b.used + 1) (.full r), used := b.used + 1 }

/-- A record waits for the MRAM, or carries NVLOST (R467). -/
def nvPut (r : JRec) (s : State) : JRec × State :=
  if nvEligible r && !bitOf r.flags 4 then
    if s.jr.nvFail || s.saf.pwrFail || s.jr.nvClosed || 64 ≤ s.jr.nvPend.length then (setFlag 3 r, regCount (rkey 0 0x0402018) 1 s)
    else (r, { s with jr := { s.jr with nvPend := s.jr.nvPend ++ [r] } })
  else (r, s)

/-- JOURNAL_WRITE (R464, R465): the first waiting record in canonical order goes into the ring. `ok` tells whether the
write verifies (R473). -/
def execJournalWrite (ok : Bool) (s : State) : Host.Outcome State Fault Refusal :=
  .next (
    match takeMin jrecBefore s.jr.intake with
    | none => s
    | some (r, rest) =>
      let ooo := decide (r.ts < s.jr.topTs)
      let r := { r with jseq := s.jr.jseq, side := 0 }
      let r := if ooo then setFlag 1 r else r
      let r := if s.jr.dropped then setFlag 2 r else r
      let s := if ooo then regWrap (rkey 0 0x040200C) 1 s else s
      let s := { s with jr := { s.jr with intake := rest, dropped := false, topTs := max s.jr.topTs r.ts,
                                          jseq := wrapAdd 32 s.jr.jseq 1 } }
      let (r, s) := nvPut r s
      let s := lastWord r s
      if s.jr.ringFail then s
      else
        let s := { s with jr := { s.jr with ring := smSet (fun _ => none) s.jr.ring (r.jseq % 8192) (some r) } }
        if ok then s else journalFail true s)

/-- Starts a compaction when the active bank holds 1,792 records (R469): the other bank's header is zeroed and a
SUMMARY record goes into its slot 1. -/
def nvCompactStart (s : State) : State :=
  let b := activeBank s
  if b.used < 1792 ∨ s.jr.compact.isSome ∨ s.jr.nvFail then s
  else
    let drop := b.used - 1024
    let q := vget s.tb.seq 23 0
    let r : JRec := { seq := q, isl := 23, kind := 7, ts := s.tb.master, tag := noJobTag none, a0 := drop,
                      a1 := b.gen.getD 0 }
    let s := { s with tb := { s.tb with seq := vset s.tb.seq 23 (wrapAdd 32 q 1) } }
    let s := putOther (bankAppend r {}) s
    { s with jr := { s.jr with compact := some ⟨drop + 1, 0⟩ } }

/-- NV_RECORD_WRITE (R467, R468): the oldest pending record is appended to the active bank. `ok` tells whether the
read-back verifies; after PWRFAIL each record carries `PWR`, and the last one closes MRAM writing (R471). -/
def execNvRecordWrite (ok : Bool) (s : State) : Host.Outcome State Fault Refusal :=
  .next (
    match s.jr.nvPend with
    | [] => s
    | r :: rest =>
      if s.jr.nvFail || s.jr.nvClosed then s
      else if !ok then journalFail false s
      else
        let b := activeBank s
        if 2047 ≤ b.used then s
        else
          let r := if s.saf.pwrFail then setFlag 4 r else r
          let s := putActive (bankAppend r b) { s with jr := { s.jr with nvPend := rest } }
          let s := if s.saf.pwrFail && rest.isEmpty then { s with jr := { s.jr with nvClosed := true } } else s
          if s.saf.pwrFail then s else nvCompactStart s)

/-- NV_COMPACT_COPY (R469): the next record is copied, or the header with `GEN` plus 1 makes the other bank active.
A pending write goes first. -/
def execNvCompactCopy (ok : Bool) (s : State) : Host.Outcome State Fault Refusal :=
  .next (
    match s.jr.compact with
    | none => s
    | some c =>
      if s.saf.pwrFail || !s.jr.nvPend.isEmpty then s
      else if !ok then journalFail false s
      else
        let a := activeBank s
        let o := otherBank s
        if c.src ≤ a.used then
          let o := { o with slots := smSet slotEmpty o.slots (o.used + 1) (smGet slotEmpty a.slots c.src), used := o.used + 1 }
          let s := putOther o s
          { s with jr := { s.jr with compact := some ⟨c.src + 1, c.copied + 1⟩ } }
        else
          let s := putOther { o with gen := some (a.gen.getD 0 + 1) } s
          { s with jr := { s.jr with compact := none, active1 := !s.jr.active1 } })

/-- Counts the torn slots of a bank. -/
def tornCount (b : NvBank) : Nat := (b.slots.filter fun e => e.2 == .torn).length

def hasRecords (b : NvBank) : Bool := b.slots.any fun e => match e.2 with
  | .full _ => true
  | _ => false

/-- The choice of the active bank at a start (R470). -/
def nvSelect (s : State) : State :=
  let s := { s with jr := { s.jr with
    nvClosed := false, torn := (tornCount s.jr.bank0 + tornCount s.jr.bank1) % 4096, nvPend := [], compact := none } }
  match s.jr.bank0.gen, s.jr.bank1.gen with
  | none, none =>
    if hasRecords s.jr.bank0 || hasRecords s.jr.bank1 then journalFail false { s with jr := { s.jr with nvFail := false } }
    else { s with jr := { s.jr with bank0 := { gen := some 1 }, bank1 := {}, active1 := false, nvFail := false } }
  | g0, g1 =>
    let one := decide (g0.getD 0 < g1.getD 0)
    let s := { s with jr := { s.jr with active1 := one, nvFail := false } }
    if (otherBank s).gen.isNone && hasRecords (otherBank s) then
      nvCompactStart (journal 23 1 0x0D06 s.tb.master (noJobTag none) 0x70FFFFFFFF 0 0 s)
    else s

/-! ### What reads of the journal show (R465, R468, R474) -/

/-- A record as a reader sees it: bytes, or zeros where the ring does not hold `j`. -/
def ringRecord (s : State) (j : Nat) : List Byte :=
  match smGet (fun _ => none) s.jr.ring (j % 8192) with
  | some r => if r.jseq = j then jrecBytes r else zeros 64
  | none => zeros 64

/-- The bytes of slot `n` of the ring window. -/
def ringSlot (s : State) (n : Nat) : List Byte :=
  match smGet (fun _ => none) s.jr.ring n with
  | some r => jrecBytes r
  | none => zeros 64

def nvSlotBytes : NvSlot → List Byte
  | .full r => jrecBytes r
  | _ => zeros 64

/-- Slot 0 of a bank is its header (R468). -/
def nvHeader (b : NvBank) : List Byte :=
  match b.gen with
  | none => zeros 64
  | some g =>
    let h := leBytes 2 0x4E4A ++ leBytes 2 1 ++ leBytes 4 g ++ zeros 52
    h ++ leBytes 4 (crc32c h)

def nvWindow (s : State) (bank1 : Bool) (n : Nat) : List Byte :=
  let b := if bank1 then s.jr.bank1 else s.jr.bank0
  if n = 0 then nvHeader b else nvSlotBytes (smGet slotEmpty b.slots n)

/-- `NV_STATE` (R474): 0 idle, 1 compacting, 2 failed. -/
def nvState (s : State) : Nat := if s.jr.nvFail then 2 else if s.jr.compact.isSome then 1 else 0

end Sys2Proof.Machine
end

