-- ==== Sys2Proof/Machine/OdEntries.lean ====
section
/-! DEFINITION. The management entries of the object dictionary: values that are computed, the ranges of values that
are written, and what a write does (R449, R451, R474, R475, R483, R499 to R506, R510, R517). -/

namespace Sys2Proof.Machine

/-! ### Computed values -/

/-- Capabilities (R500), as the `GLB` registers show them. -/
def widthsNat (s : State) : Nat := ((List.range 16).map fun c => vget s.boot.width c 0xF % 16 * 16 ^ c).sum

/-- Highest junction sensor in 1/16 degree C (R506, R573). -/
def tjMax (s : State) : Int := s.clk.sensors.foldl max (s.clk.sensors.headD 0)

/-- The lowest clock factor in force, in percent of 1.8 GHz (R506). -/
def kcClock (s : State) : Nat := s.clk.k.toList.foldl min 16 * 100 / 16

def sinStateByte (x : SinSt) : Nat :=
  bitAt x.active 0 + bitAt x.armed 1 + bitAt x.disc 2 + bitAt x.aAct 3 + bitAt x.bAct 4

/-- Partitions that reset (R389). -/
def resettingMask (s : State) : Nat := ((List.range 8).map fun p => bitAt (partOf s p).reset.isSome p).sum

/-- The capture's words of an island's set, and how many (R478, R479). -/
def imgSetOf (s : State) (isl : Nat) : Option (List Word) := (s.img.sets.find? (·.isl == isl)).bind (·.words)

/-- Word `w` of page `page` of island `isl` (R475, `CAP_WORD`; R479). -/
def imgWord (s : State) (isl page w : Nat) : Nat := (((imgSetOf s isl).getD []).getD (496 * page + w) 0).toNat

/-- The value of an entry whose content the device computes; `none` for a stored entry. -/
def odComputed (s : State) (req idx sub : Nat) : Option (List Byte) :=
  if 0x2380 ≤ idx ∧ idx ≤ 0x2387 ∧ sub = 0x0A then some (macUnicast s (idx - 0x2380))
  else if 0x4020 ≤ idx ∧ idx ≤ 0x4023 then
    let x := vget s.fio.sin (idx - 0x4020) {}
    match sub with
    | 0x10 => some (leBytes 1 (sinStateByte x))
    | 0x12 => some (leBytes 8 x.changed)
    | _ => none
  else match idx with
  | 0x1001 => some (leBytes 1 (errReg s))
  | 0x1003 => some (if sub = 0 then leBytes 1 s.node.history.length else leBytes 4 (s.node.history.getD (sub - 1) 0))
  | 0x100A => if sub = 0 then some ((List.range 16).map Config.mgtVersion) else none
  | 0x1018 => match sub with
    | 2 => some (leBytes 4 (if s.fuses.aq2m then 0x48160003 else 0x48160002))
    | 3 => some (leBytes 4 (s.fuses.step * 65536 + Config.mgtRevision 0 % 65536))
    | 4 => some (leBytes 4 s.fuses.serial)
    | _ => none
  | 0x2000 => match sub with
    | 1 => some (leBytes 2 s.boot.corePresent.toNat)
    | 2 => some (leBytes 8 (widthsNat s))
    | 3 => some (leBytes 1 s.boot.memcap)
    | 4 => some (leBytes 1 (if s.fuses.aq2m then 1 else 0))
    | 5 => some (leBytes 1 1)
    | _ => none
  | 0x2080 => match sub with
    | 6 => some (leBytes 1 (canSt s.node.can0))
    | 7 => some (leBytes 1 (canSt s.node.can1))
    | 8 => some (leBytes 4 s.node.canErr)
    | _ => none
  | 0x2100 =>
    if sub = 3 then some (leBytes 1 (vget s.node.rej req 0))
    else if sub = 6 then some (leBytes 1 (resettingMask s))
    else if 0x10 ≤ sub ∧ sub < 0x18 then some (partOf s (sub - 0x10)).record
    else none
  | 0x2200 =>
    if 0x11 ≤ sub ∧ sub ≤ 0x14 then
      let p := vget s.hst.ports (sub - 0x11) {}
      some (leBytes 1 (p.speed + 16 * p.width + bitAt p.linkUp 7))
    else none
  | 0x2400 => match sub with
    | 0x10 => some (leBytes 1 (tbModeCode s.tb.mode + 4 * tbSrc s))
    | 0x11 => some (leBytes 4 s.tb.foreignAnn)
    | _ => none
  | 0x2F00 => match sub with
    | 1 => some (slice s.fuses.lot 0 8)
    | 2 => some (leBytes 1 s.fuses.wafer)
    | 3 => some (leBytes 1 s.fuses.dieX)
    | 4 => some (leBytes 1 s.fuses.dieY)
    | 5 => some (leBytes 4 s.fuses.testDate)
    | 6 => some (leBytes 1 s.fuses.speedBin)
    | _ => none
  | 0x4000 => if sub = 6 then some (leBytes 2 s.saf.why.toNat) else none
  | 0x4010 => if sub = 0 then none
    else some (leBytes (if sub = 2 ∨ sub = 4 ∨ 0x11 ≤ sub then 4 else 1) (smGet (fun _ => 0) s.saf.sts sub))
  | 0x4100 => match sub with
    | 1 => some (leBytes 1 (bitAt s.jr.ringFail 0 + bitAt s.jr.nvFail 1))
    | 2 => some (leBytes 4 s.jr.jseq)
    | 3 => some (odGetR s req 0x4100 3)
    | 4 => some (ringRecord s (leNat (odGetR s req 0x4100 3)))
    | 5 => some (leBytes 4 ((activeBank s).gen.getD 0))
    | 6 => some (leBytes 1 (nvState s))
    | 7 => some (odGetR s req 0x4100 7)
    | 8 => some (nvSlotBytes (smGet slotEmpty (activeBank s).slots (leNat (odGetR s req 0x4100 7))))
    | 9 => some (wordsBytes ((List.range 16).map (lastwWord s)))
    | 0x0A => some (leBytes 4 (regGet s (rkey 0 0x0402018)).toNat)
    | _ => none
  | 0x4200 =>
    let sel := leNat (odGetR s req 0x4200 7)
    match sub with
    | 7 => some (leBytes 4 sel)
    | 8 => some (leBytes 4 (imgWord s (bits sel 0 5) (bits sel 8 3) (bits sel 16 9)))
    | 9 => some (leBytes 4 s.img.capno)
    | _ => none
  | 0x5000 => match sub with
    | 1 => some (leBytes 2 (unsigned 16 (tjMax s)))
    | 2 => some (leBytes 2 (Config.vcore (s.tb.master / 1000000)))
    | 3 => some (leBytes 2 (Config.icore (s.tb.master / 1000000)))
    | 4 => some (leBytes 2 s.clk.pAvg)
    | 5 => some (leBytes 1 (kcClock s))
    | 6 => some (leBytes 4 (min (s.tb.upNs / 1000000000) (2 ^ 32 - 1)))
    | 7 => some (leBytes 4 s.hst.results)
    | 8 => some (leBytes 4 s.hst.misses)
    | 9 => some (leBytes 8 s.hst.points)
    | 0x0A => some (leBytes 2 (dramTraffic s))
    | _ => none
  | _ => none

/-- The value that a read of an entry returns (R495). -/
def odValue (s : State) (req idx sub : Nat) : List Byte := (odComputed s req idx sub).getD (odGet s idx sub)

/-! ### Refusals that an entry's own rule adds (R497) -/

def eState : Nat := 0x08000022
def eRange : Nat := 0x06090030
def eSum : Nat := 0x06090031
def eRight : Nat := 0x06010000

def okIf (b : Bool) (e : Nat) : Nat := if b then 0 else e

/-- First code of two checks. -/
def orElse (a b : Nat) : Nat := if a = 0 then b else a

/-- Sum of a budget field over the eight partitions, with `v` in place of partition `p`'s entry (R405). -/
def budgetSum (s : State) (off p : Nat) (v : List Byte) : Nat :=
  ((List.range 8).map fun q => field (if q = p then v else odGet s 0x2500 (0x10 + q)) off 2).sum

/-- A budget entry's own fields (R405). -/
def budgetOk (v : List Byte) : Bool :=
  decide (field v 0 2 ≤ 425) && decide (1 ≤ field v 2 2 ∧ field v 2 2 ≤ 4096) && decide (field v 4 2 ≤ 9600)
    && decide (1 ≤ field v 6 2 ∧ field v 6 2 ≤ 8192) && decide (field v 8 1 ≤ 3) && decide (field v 9 7 = 0)

/-- A trigger entry's own fields (R517). -/
def trigOk (v : List Byte) : Bool :=
  decide (10000 ≤ field v 0 4 ∧ field v 0 4 ≤ 4000000000) && decide (field v 4 4 < field v 0 4)
    && decide (1000 ≤ field v 8 4 ∧ field v 8 4 + 1000 ≤ field v 0 4) && decide (field v 12 4 < 8)

/-- Slot codes are 0x0 to 0x8 (R409). -/
def slotsOk (v : List Byte) : Bool := v.all fun b => decide (b.toNat % 16 ≤ 8) && decide (b.toNat / 16 ≤ 8)

def between (lo hi v : Nat) : Bool := decide (lo ≤ v) && decide (v ≤ hi)

/-- Settings of a stream context, of a group, and who names them. -/
def ctxNat (s : State) (c sub : Nat) : Nat := odNat s (0x2300 + c) sub
def ctxEn (s : State) (c : Nat) : Bool := (vget s.ing.ctx c {}).en
def anyCtx (s : State) (f : Nat → Bool) : Bool := (List.range 128).any fun c => ctxEn s c && f c

/-- Ranges of the settings of a stream context but `ENABLE` (R69, R102). -/
def ctxRange (s : State) (c sub : Nat) (v : List Byte) : Bool :=
  let n := leNat v
  match sub with
  | 2 => decide (n ≤ 7) || between 0x10 0x13 n
  | 3 => between 1 4094 n || n == 0xFFFF
  | 5 => decide (1 ≤ n)
  | 8 | 0x17 | 0x26 => decide (n ≤ 15)
  | 9 => between 1 256 n
  | 0x0A => between 1 4096 n
  | 0x0C | 0x21 => decide (n ≤ 2)
  | 0x0D => decide (n < ctxNat s c 0x0A)
  | 0x0E | 0x10 => between 250000 1900000000 n
  | 0x0F => decide (n < ctxNat s c 0x0E)
  | 0x11 => between 250000 8000000 n && n % 1000 == 0
  | 0x12 => decide (n ≤ ctxNat s c 0x11)
  | 0x13 => decide (n ≤ 2000000)
  | 0x14 | 0x22 => decide (n ≤ 1)
  | 0x16 => between 1000000 1000000000 n
  | 0x20 => between 1 64 n
  | 0x23 | 0x25 => n % 64 == 0
  | 0x24 => between 2 16 n
  | _ => true

/-- Ranges of the settings of a stream group (R101); 0.05 m and 0.8 m as FP32. -/
def groupRange (sub : Nat) (v : List Byte) : Bool :=
  let n := leNat v
  if sub = 1 then between 0x3D4CCCCD 0x3F4CCCCD n
  else if sub ≤ 7 then n / 2 ^ 23 % 256 != 255
  else if sub = 8 then decide (n ≤ 3)
  else decide (n ≤ 0x3FF)

/-- What the management entries refuse: 0, or the SDO abort code. -/
def odOwn (s : State) (idx sub : Nat) (v : List Byte) : Nat :=
  let n := leNat v
  if 0x2300 ≤ idx ∧ idx ≤ 0x237F then
    let c := idx - 0x2300
    orElse (okIf (!ctxEn s c || sub == 0x0B) eState) (okIf (ctxRange s c sub v) eRange)
  else if 0x2380 ≤ idx ∧ idx ≤ 0x2387 then
    orElse (okIf (!anyCtx s fun c => ctxNat s c 2 == idx - 0x2380) eState) (okIf (sub != 1 || decide (n ≤ 4)) eRange)
  else if 0x23A0 ≤ idx ∧ idx ≤ 0x23AF then okIf (!anyCtx s fun c => ctxNat s c 8 == idx - 0x23A0) eState
  else if 0x23C0 ≤ idx ∧ idx ≤ 0x23CF then
    orElse (okIf (!anyCtx s fun c => ctxNat s c 0x17 == idx - 0x23C0) eState) (okIf (groupRange sub v) eRange)
  else if 0x4020 ≤ idx ∧ idx ≤ 0x4023 then
    orElse (okIf (sub == 1 || !sinEn s (idx - 0x4020)) eState)
      (okIf (if sub = 3 then between 1 1000 n else decide (n ≤ 1)) eRange)
  else match idx with
  | 0x1003 => okIf (n == 0) eRange
  | 0x1017 => okIf (n == 0 || decide (10 ≤ n)) eRange
  | 0x2080 => okIf (match sub with
      | 1 | 2 => between 1 127 n
      | 3 => decide (n ≤ 3)
      | 4 => decide (n ≤ 4)
      | _ => decide (n ≤ 3)) eRange
  | 0x2200 => okIf (between 1 5 (n % 8) && between 1 3 (n / 16) && !bitOf n 3) eRange
  | 0x2400 => okIf (match sub with
      | 1 | 9 => decide (n ≤ 3)
      | 2 => decide (n ≤ 7)
      | 6 => between 1 3600 n
      | 7 => between 1 10000000 n
      | 0x0A => between 1 200 n
      | 0x0B => between 5 500 n
      | _ => true) eRange
  | 0x2500 =>
    if sub < 0x18 then
      orElse (okIf (budgetOk v) eRange)
        (okIf (decide (budgetSum s 0 (sub - 0x10) v ≤ 425) && decide (budgetSum s 4 (sub - 0x10) v ≤ 9600)) eSum)
    else if sub < 0x30 then okIf (slotsOk v) eRange
    else okIf (decide (n % 256 < 8 ∧ n / 256 < 2)) eRange
  | 0x4000 => okIf (match sub with
      | 2 => decide (n ≤ 1)
      | 3 => between 1 10000 n
      | _ => decide (sub < 0x10) || decide (n ≤ 3)) eRange
  | 0x4001 =>
    if sub < 0x18 then okIf (between 100 2000000 n && decide (n ≤ odNat s 0x4001 (sub + 8))) eRange
    else if sub < 0x20 then okIf (between 100 2000000 n && decide (odNat s 0x4001 (sub - 8) ≤ n)) eRange
    else okIf (decide (n ≤ 16)) eRange
  | 0x4030 =>
    if sub ≤ 8 then
      let o := odGet s 0x4030 sub
      let change := slice o 0 12 != slice v 0 12 || bitOf (field o 12 1) 1 != bitOf (field v 12 1) 1
      orElse (okIf (!(bitOf (field o 12 1) 0 && bitOf (field v 12 1) 0 && change)) eState) (okIf (trigOk v) eRange)
    else if sub = 0x10 then okIf (decide (n ≤ 1)) eRange
    else okIf (between 1000000 500000000 n) eRange
  | 0x4100 => okIf (sub == 3 || between 1 2047 n) eRange
  | 0x4200 => okIf (match sub with
      | 1 | 6 => decide (n ≤ 0x1F)
      | 2 => decide (n % 2 = 0 ∧ n < 0x4000)
      | 3 => decide (n ≤ 1)
      | 7 => decide (n % 32 < 24 ∧ bits n 5 3 = 0 ∧ bits n 11 5 = 0 ∧ bits n 16 9 ≤ 495 ∧ n < 2 ^ 25)
      | _ => n == 1) eRange
  | _ => 0

/-! ### What a write does -/

/-- A write of `SRC` that changes it deselects the old source (R46, R504). DESIGN CHOICE, notes/assumptions/77: the
measurements taken from it stay. -/
def odWriteSrc (n : Nat) (s : State) : State :=
  let s' := odPut 0x2400 1 (leBytes 1 n) s
  if tbSrc s = n then s'
  else tbSetMode .freerun { s' with tb := { s'.tb with sync := none, pdReq := none, pdResp := none, good := 0 } }

/-- A trigger entry: an output just enabled starts at its first grid instant from now (R518). -/
def odWriteTrig (sub : Nat) (v : List Byte) (s : State) : State :=
  let m := sub - 1
  let was := trigEn s m
  let s := odPut 0x4030 sub v s
  if !was && trigEn s m then
    { s with fio := { s.fio with trig := vmod s.fio.trig m {} fun t => { t with notBefore := s.tb.master + 1 } } }
  else s

/-- Applies a checked write to a management entry. -/
def odEffect (req idx sub : Nat) (v : List Byte) (s : State) : State :=
  let n := leNat v
  if 0x2380 ≤ idx ∧ idx ≤ 0x2387 ∧ sub = 1 then
    odPut idx sub v { s with ing := { s.ing with
      link := if odNat s idx 1 = n then s.ing.link else s.ing.link &&& ~~~(1#8 <<< (idx - 0x2380)) } }
  else if 0x4020 ≤ idx ∧ idx ≤ 0x4023 ∧ sub = 1 ∧ n = 1 then sinStartN (idx - 0x4020) (odPut idx 1 v s)
  else match idx with
  | 0x1003 => { s with node := { s.node with history := [] } }
  | 0x1017 => hbSet n s
  | 0x2400 =>
    if sub = 1 then odWriteSrc n s
    else if sub = 8 then odPut 0x2400 8 v { s with tb := { s.tb with ppsWrite := some (n, s.tb.master) } }
    else odPut idx sub v s
  | 0x4030 => if sub ≤ 8 then odWriteTrig sub v s else odPut idx sub v s
  | 0x4100 => odPutR req idx sub v s
  | 0x4200 =>
    if sub = 4 then imgTrigger 1 0xFF 0 s
    else if sub = 5 then imgRelease s
    else if sub = 7 then odPutR req idx sub v s
    else odPut idx sub v s
  | _ => odPut idx sub v s

end Sys2Proof.Machine
end

