-- ==== Sys2Proof/Machine/Trig.lean ====
section
/-! DEFINITION. Sine, cosine, arctangent and powers of two, taken exactly and rounded once (R136, R254), and the fixed
point in which poses are composed (R91, R92). DEDUCED, notes/assumptions/10. -/

namespace Sys2Proof.Machine

/-! ### Fixed point -/

/-- A finite FP32 value in fixed point; 0 for the others. -/
def fxOf (x : Nat) : Int := match d32 x with
  | .fin s m e => toFx s m e
  | _ => 0

/-- A fixed-point value rounded once to FP32. -/
def fx32 (x : Int) : Nat := r32 (.fin (decide (x < 0)) x.natAbs (-(fxBits : Int)))

def fxDiv (a b : Int) : Int := if b = 0 then 0 else a * fxOne / b

def fxSqrt (a : Int) : Int := (isqrt (a.toNat * 2 ^ fxBits) : Nat)

/-- Terms of the series of sine (from `t = x`, `k = 1`) and cosine (from `t = 1`, `k = 0`). -/
def fxTrigSum (x2 : Int) : Nat → Nat → Int → Int → Int
  | 0, _, _, acc => acc
  | n + 1, k, t, acc => fxTrigSum x2 n (k + 2) (-(fxMul t x2) / (((k + 1) * (k + 2) : Nat) : Int)) (acc + t)

/-- An angle brought into one turn around 0. -/
def fxTurn (x : Int) : Int :=
  let t := 2 * fxPi
  (x + fxPi) % t - fxPi

def fxSin (x : Int) : Int := let y := fxTurn x; fxTrigSum (fxMul y y) 160 1 y 0
def fxCos (x : Int) : Int := let y := fxTurn x; fxTrigSum (fxMul y y) 160 0 fxOne 0

/-- Terms of the arctangent series of a small argument. -/
def fxAtanSum (x2 : Int) : Nat → Nat → Int → Int → Int
  | 0, _, _, acc => acc
  | n + 1, k, t, acc => fxAtanSum x2 n (k + 1) (-(fxMul t x2)) (acc + t / ((2 * k + 1 : Nat) : Int))

/-- Arctangent of `y / x` for `x > 0`, `y ≥ 0`: the angle is halved 12 times. -/
def fxAtanPos (y x : Int) : Int :=
  let half (t : Int) : Int := fxDiv t (fxOne + fxSqrt (fxOne + fxMul t t))
  let t := (List.range 12).foldl (fun t _ => half t) (fxDiv y x)
  4096 * fxAtanSum (fxMul t t) 60 0 t 0

/-- Arctangent of `y / x` in the first quadrant, `y, x ≥ 0`, not both 0. -/
def fxAtanQ (y x : Int) : Int := if y ≤ x then fxAtanPos y x else fxPi / 2 - fxAtanPos x y

/-! ### FP32 functions -/

def sin32 (x : Nat) : Nat := match d32 x with
  | .fin s m _ => if m = 0 then bitAt s 31 else fx32 (fxSin (fxOf x))
  | _ => fnan f32

def cos32 (x : Nat) : Nat := match d32 x with
  | .fin .. => fx32 (fxCos (fxOf x))
  | _ => fnan f32

/-- The sign bit applied to a positive FP32 value. -/
def withSign (s : Bool) (x : Nat) : Nat := bitAt s 31 + x % 2 ^ 31

/-- atan2 of R291, in (−π, π] before rounding. -/
def atan232 (y x : Nat) : Nat :=
  let pi := fx32 fxPi
  let sy := bitOf y 31
  match d32 y, d32 x with
  | .nan, _ | _, .nan => fnan f32
  | .inf _, .inf _ => fnan f32
  | .inf s, _ => withSign s (fx32 (fxPi / 2))
  | .fin _ m _, .inf s => if s then (if m = 0 then pi else withSign sy pi) else bitAt sy 31
  | .fin _ my _, .fin sx mx _ =>
    if my = 0 ∧ mx = 0 then (if sx then (Config.atanNegZero sy).toNat else 0)
    else if my = 0 then (if sx then pi else bitAt sy 31)
    else
      let a := fxAtanQ (fxOf (y % 2 ^ 31)) (fxOf (x % 2 ^ 31))
      let b := if sx then fxPi - a else a
      fx32 (if sy then -b else b)

/-- ln 2 by the series of the hyperbolic arctangent of 1/3. -/
def fxLn2Sum : Nat → Nat → Int → Int → Int
  | 0, _, _, acc => acc
  | n + 1, k, t, acc => fxLn2Sum n (k + 1) (t / 9) (acc + t / ((2 * k + 1 : Nat) : Int))

def fxLn2 : Int := 2 * fxLn2Sum 340 0 (fxOne / 3) 0

/-- 2^x (R291). -/
def exp232 (x : Nat) : Nat := match d32 x with
  | .nan => fnan f32
  | .inf s => if s then 0 else finf f32 false
  | .fin s m e =>
    if m = 0 then 0x3F800000
    else if beyond m e 200 then (if s then 0 else finf f32 false)
    else
      let v := toFx s m e
      let n := v / fxOne
      let f := v % fxOne
      if f = 0 then r32 (.fin false 1 n)
      else
        let y := fxExp (fxMul f fxLn2)
        r32 (.fin false (2 * y.natAbs + 1) (n - (fxBits : Int) - 1))

/-! ### Quaternions, in fixed point: w, x, y, z -/

abbrev Fx4 := Int × Int × Int × Int

def quatOf (q : List Nat) : Fx4 := (fxOf (q.getD 0 0), fxOf (q.getD 1 0), fxOf (q.getD 2 0), fxOf (q.getD 3 0))
def vecOf (v : List Nat) : Int × Int × Int := (fxOf (v.getD 0 0), fxOf (v.getD 1 0), fxOf (v.getD 2 0))

def quatMul (a b : Fx4) : Fx4 :=
  let (aw, ax, ay, az) := a
  let (bw, bx, by_, bz) := b
  (fxMul aw bw - fxMul ax bx - fxMul ay by_ - fxMul az bz, fxMul aw bx + fxMul ax bw + fxMul ay bz - fxMul az by_,
    fxMul aw by_ - fxMul ax bz + fxMul ay bw + fxMul az bx, fxMul aw bz + fxMul ax by_ - fxMul ay bx + fxMul az bw)

def quatConj (a : Fx4) : Fx4 := (a.1, -a.2.1, -a.2.2.1, -a.2.2.2)

def quatScale (k : Int) (a : Fx4) : Fx4 := (fxMul k a.1, fxMul k a.2.1, fxMul k a.2.2.1, fxMul k a.2.2.2)

def quatAdd (a b : Fx4) : Fx4 := (a.1 + b.1, a.2.1 + b.2.1, a.2.2.1 + b.2.2.1, a.2.2.2 + b.2.2.2)

def quatDot (a b : Fx4) : Int := fxMul a.1 b.1 + fxMul a.2.1 b.2.1 + fxMul a.2.2.1 b.2.2.1 + fxMul a.2.2.2 b.2.2.2

def quatNorm (a : Fx4) : Fx4 :=
  let n := fxSqrt (quatDot a a)
  (fxDiv a.1 n, fxDiv a.2.1 n, fxDiv a.2.2.1 n, fxDiv a.2.2.2 n)

/-- The rotation matrix of a unit quaternion, row by row. -/
def quatMat (q : Fx4) : List Int :=
  let (w, x, y, z) := q
  let d (a b : Int) : Int := 2 * fxMul a b
  [fxOne - d y y - d z z, d x y - d w z, d x z + d w y,
   d x y + d w z, fxOne - d x x - d z z, d y z - d w x,
   d x z - d w y, d y z + d w x, fxOne - d x x - d y y]

/-- A 3 by 3 matrix, row by row, times a vector. -/
def matVec (m : List Int) (v : Int × Int × Int) : Int × Int × Int :=
  let r (i : Nat) : Int :=
    fxMul (m.getD (3 * i) 0) v.1 + fxMul (m.getD (3 * i + 1) 0) v.2.1 + fxMul (m.getD (3 * i + 2) 0) v.2.2
  (r 0, r 1, r 2)

/-- Spherical interpolation along the shorter arc, normalised linear where the dot product exceeds 0.9995 (R91). -/
def slerp (a b : Fx4) (u : Int) : Fx4 :=
  let d := quatDot a b
  let b := if d < 0 then quatScale (-fxOne) b else b
  let d := if d < 0 then -d else d
  if 9995 * fxOne / 10000 < d then quatNorm (quatAdd (quatScale (fxOne - u) a) (quatScale u b))
  else
    let th := fxAtanQ (fxSqrt (fxOne - fxMul d d)) d
    let sn := fxSin th
    quatAdd (quatScale (fxDiv (fxSin (fxMul (fxOne - u) th)) sn) a) (quatScale (fxDiv (fxSin (fxMul u th)) sn) b)

/-- The rotation through |w| × dt about w; the identity where |w| is 0. -/
def axisAngle (w : Int × Int × Int) (dt : Int) : Fx4 :=
  let n := fxSqrt (fxMul w.1 w.1 + fxMul w.2.1 w.2.1 + fxMul w.2.2 w.2.2)
  if n = 0 then (fxOne, 0, 0, 0)
  else
    let h := fxMul n dt / 2
    let s := fxSin h
    (fxCos h, fxMul s (fxDiv w.1 n), fxMul s (fxDiv w.2.1 n), fxMul s (fxDiv w.2.2 n))

end Sys2Proof.Machine
end

