-- ==== Sys2Proof/Machine/Pose.lean ====
section
/-! DEFINITION. The pose ring and its evaluation (R87 to R93). -/

namespace Sys2Proof.Machine

/-! ### Committing a pose -/

def ingReg (off : Nat) : Nat := rkey 0 (0x0200000 + off)

/-- The 64 bytes of the staged record. -/
def poseStaged (s : State) : List Byte := (List.range 16).flatMap fun k => leBytes 4 (regGet s (ingReg (0x100 + 4 * k))).toNat

def poseWords (b : List Byte) (off n : Nat) : List Nat := (List.range n).map fun i => field b (off + 4 * i) 4

/-- An FP32 value exceeds a bound in magnitude; NaN does not. -/
def beyondAbs (x lim : Nat) : Bool := match d32 x with
  | .nan => false
  | .inf _ => true
  | .fin _ m e => beyond m e lim

/-- |q|² differs from 1 by more than 2^-10, exactly. -/
def quatBad (q : List Nat) : Bool :=
  if q.any isInf then true
  else if q.any isNan then false
  else
    let n := (q.map fun x => fxOf x * fxOf x).sum
    let one := fxOne * fxOne
    decide (one < 1024 * (n - one).natAbs)

/-- The reason a commit is refused (R88), the first that holds; 0 for none. -/
def poseReject (s : State) (b : List Byte) : Nat :=
  let e := field b 0x3C 1
  if (s.ing.poses.filter (·.epoch == e)).any fun p => decide (field b 0 8 ≤ p.ts) then 1
  else if quatBad (poseWords b 8 4) then 2
  else if (poseWords b 0x18 3).any fun x => beyondAbs x 8192 then 3
  else if (poseWords b 8 13).any fun x => !isFinite32 x then 4
  else 0

/-- The record as the ring holds it, its quaternion normalised. -/
def poseOf (b : List Byte) : Pose :=
  let q := quatNorm (quatOf (poseWords b 8 4))
  { ts := field b 0 8, q := [fx32 q.1, fx32 q.2.1, fx32 q.2.2.1, fx32 q.2.2.2], p := poseWords b 0x18 3, v := poseWords b 0x24 3,
    w := poseWords b 0x30 3, epoch := field b 0x3C 1, velValid := bitOf (field b 0x3C 4) 8 }

/-- Keeps the newest `n` elements of a list whose newest is last. -/
def keepLast {α : Type} (n : Nat) (l : List α) : List α := l.drop (l.length - n)

/-- A pose write of a requester other than `POSE_PORT` (R88): ignored and counted in `GLB_DENY_CNT`; the debug port's also in
`GLB_IGNWR_CNT`, where R555 counts its ignored writes (notes/assumptions/75). -/
def poseDenied (r : Requester) (s : State) : State := if r = .dbg then denyAccess r (ignWrite r s) else denyAccess r s

/-- POSE_COMMIT (R88): word 15 is written, the staged record is checked, the staging returns to zero. -/
def poseCommit (r : Requester) (v : Nat) (s : State) : State :=
  blockGate r (fun s =>
    if (match r with
        | .host h => decide (h.val = odNat s 0x2400 9)
        | _ => false) then
      let b := poseStaged (regPut (ingReg 0x13C) (BitVec.ofNat 32 v) s)
      let s := (List.range 16).foldl (fun s k => regPut (ingReg (0x100 + 4 * k)) 0 s) s
      let k := poseReject s b
      if k = 0 then { s with ing := { s.ing with poses := keepLast 64 (s.ing.poses ++ [poseOf b]) } }
      else
        raiseLimited 10000000 (plainFault .poseReject 17 none)
          (regCount (ingReg 0x30) 1 { s with ing := { s.ing with poseRej := k } })
    else poseDenied r s) s

def execPoseCommit (r : Requester) (v : Nat) (s : State) : Host.Outcome State Fault Refusal := .next (poseCommit r v s)

/-! ### Evaluation (R91) -/

/-- A pose as evaluated: quaternion and translation, in FP32. -/
abbrev EvPose := List Nat × List Nat

/-- A quaternion rounded to FP32, component by component. -/
def quat32 (q : Fx4) : List Nat := [fx32 q.1, fx32 q.2.1, fx32 q.2.2.1, fx32 q.2.2.2]

/-- Linear interpolation `a + u × (b − a)` in FP32 (notes/assumptions/10). -/
def lerp32 (u a b : Nat) : Nat := add32 a (mul32 u (sub32 b a))

/-- The product of two quaternions in FP32, each operation rounded, the terms taken from left to right. -/
def quatMul32 (a b : List Nat) : List Nat :=
  let p (i j : Nat) : Nat := mul32 (a.getD i 0) (b.getD j 0)
  [sub32 (sub32 (sub32 (p 0 0) (p 1 1)) (p 2 2)) (p 3 3), sub32 (add32 (add32 (p 0 1) (p 1 0)) (p 2 3)) (p 3 2),
   add32 (add32 (sub32 (p 0 2) (p 1 3)) (p 2 0)) (p 3 1), add32 (sub32 (add32 (p 0 3) (p 1 2)) (p 2 1)) (p 3 0)]

/-- A quotient of integers rounded to FP32. -/
def ratio32 (a b : Nat) : Nat := r32 (fdivX (ofInt a) (ofInt b))

/-- Interpolation between two adjacent poses that are not too far apart: the operations of the pseudocode in FP32, each
rounded (R24, R136), the spherical interpolation rounded once per component (DEDUCED, notes/assumptions/10). -/
def poseBetween (t gap : Nat) : List Pose → Option (Option EvPose)
  | a :: b :: rest =>
    if a.ts ≤ t ∧ t ≤ b.ts then
      if gap < b.ts - a.ts then some none
      else
        let u := ratio32 (t - a.ts) (b.ts - a.ts)
        some (some (quat32 (slerp (quatOf a.q) (quatOf b.q) (fxOf u)),
          (List.range 3).map fun i => lerp32 u (a.p.getD i 0) (b.p.getD i 0)))
    else poseBetween t gap (b :: rest)
  | _ => none

/-- Extrapolation at constant velocity from the newest pose. -/
def poseAfter (t age : Nat) (n : Pose) : Option EvPose :=
  if n.ts ≤ t ∧ t - n.ts ≤ age ∧ n.velValid then
    let dt := ratio32 (t - n.ts) 1000000000
    some (quatMul32 n.q (quat32 (axisAngle (vecOf n.w) (fxOf dt))),
      (List.range 3).map fun i => add32 (n.p.getD i 0) (mul32 (n.v.getD i 0) dt))
  else none

/-- The pose at a time in an epoch. A pose stamped exactly at `t` is used as it stands. -/
def poseAt (s : State) (t : Nat) (epoch : Option Nat) : Option EvPose :=
  match epoch with
  | none => none
  | some e =>
    let ps := s.ing.poses.filter (·.epoch == e)
    match ps.find? (·.ts == t) with
    | some p => some (p.q, p.p)
    | none =>
      match poseBetween t (odNat s 0x2400 0x0B * 1000000) ps with
      | some r => r
      | none =>
        match ps.getLast? with
        | some n => poseAfter t (odNat s 0x2400 0x0A * 1000000) n
        | none => none

/-! ### The transform of a slice (R92, R93) -/

/-- Twelve FP32 coefficients of `[R | t]`, row by row. -/
def xfRows (m : List Int) (t : Int × Int × Int) : List Nat :=
  let g (i : Nat) : Nat := fx32 (m.getD i 0)
  [g 0, g 1, g 2, fx32 t.1, g 3, g 4, g 5, fx32 t.2.1, g 6, g 7, g 8, fx32 t.2.2]

/-- Product of two 3 by 3 matrices, row by row. -/
def matMul (a b : List Int) : List Int :=
  (List.range 9).map fun i =>
    ((List.range 3).map fun k => fxMul (a.getD (i / 3 * 3 + k) 0) (b.getD (3 * k + i % 3) 0)).sum

/-- The extrinsics alone: their values as written. -/
def xfExt (ext : List Nat) : List Nat :=
  let g (i : Nat) : Nat := ext.getD i 0
  [g 0, g 1, g 2, g 9, g 3, g 4, g 5, g 10, g 6, g 7, g 8, g 11]

/-- The transform of R92: composed exactly from the evaluated poses and rounded once to FP32 (DEDUCED,
notes/assumptions/10). -/
def xfOf (ref mid : EvPose) (ext : List Nat) : List Nat :=
  let qc := quatConj (quatOf ref.1)
  let m := quatMat (quatMul qc (quatOf mid.1))
  let p := vecOf ref.2
  let q := vecOf mid.2
  let d := (q.1 - p.1, q.2.1 - p.2.1, q.2.2 - p.2.2)
  let t := matVec (quatMat qc) d
  let te := matVec m (vecOf (ext.drop 9))
  xfRows (matMul m ((ext.take 9).map fxOf)) (te.1 + t.1, te.2.1 + t.2.1, te.2.2 + t.2.2)

/-- One coordinate: `((a0 x + a1 y) + a2 z) + a3`. -/
def xfRow (a : List Nat) (i x y z : Nat) : Nat :=
  let g (j : Nat) : Nat := a.getD (4 * i + j) 0
  add32 (add32 (add32 (mul32 (g 0) x) (mul32 (g 1) y)) (mul32 (g 2) z)) (g 3)

end Sys2Proof.Machine
end

