-- ==== Sys2Proof/Machine/Ingress.lean ====
section
/-! DEFINITION. Sweep ingress (03): frames, injected blocks, the Packet Layout Descriptor, sweeps, slices, deskew. -/

namespace Sys2Proof.Machine

/-- Island number of ING (R54). -/
def islIng : Nat := 17

def ingCtx (s : State) (c : Nat) : StreamCtx := vget s.ing.ctx c {}

def setIngCtx (c : Nat) (x : StreamCtx) (s : State) : State := { s with ing := { s.ing with ctx := vset s.ing.ctx c x } }

def modIngCtx (c : Nat) (f : StreamCtx → StreamCtx) (s : State) : State := setIngCtx c (f (ingCtx s c)) s

def ingCtxReg (c off : Nat) : Nat := ingReg (0x1000 + 0x40 * c + off)

def ingMacReg (m off : Nat) : Nat := ingReg (0x400 + 0x20 * m + off)

/-- The context works: it is enabled, or a block of it is still being read or parsed (R70). -/
def ctxRuns (x : StreamCtx) : Bool := x.en || x.closing

def ctxGet (s : State) (c sub : Nat) : List Byte := odGet s (0x2300 + c) sub

/-- Raises a class 0x08 code of ING for a context. -/
def ingCode (code : FaultCode) (_c : Nat) (s : State) : State := raise (plainFault code islIng none) s

/-- A dropped packet of an open sweep: the first one is journaled (R93). -/
def dropPacket (c : Nat) (s : State) : State :=
  let x := ingCtx s c
  if x.sweepOpen && !x.dropSeen then ingCode .ingressDrop c (setIngCtx c { x with dropSeen := true } s) else s

def degradeCtx (c : Nat) (s : State) : State := modIngCtx c degradeOpen s

/-! ### Frames at a sensor MAC (R63, R64) -/

/-- A UDP packet as the match fields see it. -/
structure UdpPkt where
  vid : Option Nat
  src : List Byte
  sport : Nat
  dport : Nat
  payload : List Byte
  deriving DecidableEq, Repr

/-- What a frame is. -/
inductive FrameKind where
  | err
  | pause
  | gptp
  | udp (p : UdpPkt)
  deriving DecidableEq, Repr

/-- One's complement sum of 16-bit big-endian words. -/
def ocSum : List Byte → Nat → Nat
  | [], n => n
  | [a], n => n + a.toNat * 256
  | a :: b :: r, n => ocSum r (n + a.toNat * 256 + b.toNat)

/-- A sum folded to 16 bits. -/
def ocFold (n : Nat) : Nat :=
  let a := n / 65536 + n % 65536
  a / 65536 + a % 65536

/-- The UDP datagram of an IP payload: its checksum over the pseudo header; `zeroOk` where 0 means none. -/
def udpParse (zeroOk : Bool) (pseudo : List Byte) (vid : Option Nat) (src d : List Byte) : FrameKind :=
  let len := beNat (slice d 4 2)
  let sum := beNat (slice d 6 2)
  if d.length < 8 ∨ len < 8 ∨ d.length < len then .err
  else
    let u := d.take len
    let ok := if sum = 0 then zeroOk
      else ocFold (ocFold (ocSum (pseudo ++ (leBytes 2 len).reverse) (ocSum u 17))) == 0xFFFF
    if ok then .udp ⟨vid, src, beNat (slice d 0 2), beNat (slice d 2 2), u.drop 8⟩ else .err

/-- An IPv4 or IPv6 packet of a frame without its FCS. -/
def ipParse (v6 : Bool) (vid : Option Nat) (d : List Byte) : FrameKind :=
  let b0 := (d.getD 0 0).toNat
  if v6 then
    let len := beNat (slice d 4 2)
    if b0 / 16 ≠ 6 ∨ d.length < 40 + len ∨ (d.getD 6 0).toNat ≠ 17 then .err
    else udpParse false (slice d 8 32) vid (slice d 8 16) ((d.drop 40).take len)
  else
    let hl := 4 * (b0 % 16)
    let tl := beNat (slice d 2 2)
    let frag := beNat (slice d 6 2)
    if b0 / 16 ≠ 4 ∨ hl < 20 ∨ tl < hl ∨ d.length < tl ∨ frag % 16384 ≠ 0 ∨ (d.getD 9 0).toNat ≠ 17 then .err
    else
      let src := zeros 10 ++ [0xFF, 0xFF] ++ slice d 12 4
      udpParse true (slice d 12 8) vid src ((d.take tl).drop hl)

def macAllOnes : List Byte := List.replicate 6 0xFF

/-- The destination is the port's, broadcast, or a configured multicast address. -/
def dstOk (s : State) (m : Nat) (d : List Byte) : Bool :=
  d == macUnicast s m || d == macAllOnes
    || (List.range 8).any fun k => let a := odGet s (0x2380 + m) (2 + k); a != zeros 6 && d == a

/-- A frame, its FCS included (R63). -/
def frameKind (s : State) (m : Nat) (f : List Byte) (fcsOk : Bool) : FrameKind :=
  if f.length < 64 ∨ 9216 < f.length ∨ !fcsOk then .err
  else
    let b := f.take (f.length - 4)
    let ty := beNat (slice b 12 2)
    let tagged := ty = 0x8100
    let ty2 := if tagged then beNat (slice b 16 2) else ty
    let vid := if tagged then beNat (slice b 14 2) % 4096 else 0
    let body := b.drop (if tagged then 18 else 14)
    if ty2 = 0x8808 ∧ beNat (slice body 0 2) = 1 then .pause
    else if ty2 = 0x88F7 then .gptp
    else if !dstOk s m (slice b 0 6) then .err
    else if ty2 = 0x0800 then ipParse false (if vid = 0 then none else some vid) body
    else if ty2 = 0x86DD then ipParse true (if vid = 0 then none else some vid) body
    else .err

/-- The context takes the packet (R64). -/
def ctxMatches (s : State) (m : Nat) (p : UdpPkt) (c : Nat) : Bool :=
  let vlan := ctxNat s c 3
  let sp := ctxNat s c 6
  ctxEn s c && ctxNat s c 2 == m && (match p.vid with
      | some v => vlan == v
      | none => vlan == 0xFFFF)
    && ctxGet s c 4 == p.src && ctxNat s c 5 == p.dport && (sp == 0 || sp == p.sport)

/-- Bytes of a receive buffer (R65). -/
def rxRoom : Nat := 262144

/-- A packet finds no room: it is dropped whole (R65). -/
def rxOverflow (m : Nat) (s : State) : State :=
  (List.range 128).foldl (fun s c =>
    if ctxNat s c 2 = m ∧ (ingCtx s c).sweepOpen then dropPacket c (degradeCtx c s) else s) (regCount (ingMacReg m 0x0C) 1 s)

/-- FRAME_RX (R63 to R65). DESIGN CHOICE, notes/assumptions/76: the room a packet takes is its whole frame. -/
def frameRx (m : Nat) (f : List Byte) (fcsOk : Bool) (s : State) : State :=
  if !isReady s then s
  else
    let s := regWrap (ingMacReg m 0) 1 s
    match frameKind s m f fcsOk with
    | .err => regCount (ingMacReg m 4) 1 s
    | .pause => regCount (ingMacReg m 0x14) 1 s
    | .gptp => s
    | .udp p =>
      match (List.range 128).find? (ctxMatches s m p) with
      | none => regCount (ingMacReg m 8) 1 s
      | some c =>
        let q := vget s.ing.macs m []
        if rxRoom < (q.map (·.room)).sum + f.length then rxOverflow m s
        else
          let t := stampOf s islIng 0
          let k : Pkt := ⟨c, t, p.payload, f.length⟩
          keepStamp islIng t { s with ing := { s.ing with macs := vset s.ing.macs m (q ++ [k]) } }

def execFrameRx (mac : Fin 8) (frame : List Byte) (fcsOk : Bool) (s : State) : Host.Outcome State Fault Refusal :=
  .next (frameRx mac.val frame fcsOk s)

/-! ### Sweeps (R79 to R83) -/

/-- The summary of a sweep that closes now. -/
def sweepSumOf (c : Nat) (x : StreamCtx) (close : Nat) : SweepSum :=
  { ctx := c, seq := x.seq, tref := x.tref, openAt := x.openAt, close := close, pts := x.pts, drops := x.drops,
    slices := x.slices, nopSlices := x.nopSlices, nopose := x.nopose, degraded := x.degraded, gap := false }

/-- The Weir to VOX takes an entry: it holds 8 (R531). -/
def voxRoom (s : State) : Bool := decide (s.vox.weir.length < 8)

def voxPut (v : VoxIn) (s : State) : State := { s with vox := { s.vox with weir := s.vox.weir ++ [v] } }

/-- Summaries at the front of the deskew queue go on to VOX while its Weir takes them. -/
def flushSums : List IngItem → State → State
  | .sum x :: rest, s =>
    if voxRoom s then flushSums rest (voxPut (.sum x) { s with ing := { s.ing with deskew := rest } }) else s
  | _, s => s

def ingPut (i : IngItem) (s : State) : State :=
  let s := { s with ing := { s.ing with deskew := s.ing.deskew ++ [i] } }
  flushSums s.ing.deskew s

/-- The open slice of a context closes: its close is stamped (R53). -/
def sliceClose (c : Nat) (s : State) : State :=
  let x := ingCtx s c
  match x.slice with
  | some sl =>
    let t := stampOf s islIng 0
    keepStamp islIng t (setIngCtx c { x with slice := none, sliceTs := (sl.openTs, t) } s)
  | none => s

/-- The open sweep closes, with its slice, and its summary follows its points. -/
def sweepClose (c : Nat) (deg : Bool) (s : State) : State :=
  if (ingCtx s c).sweepOpen then
    let s := sliceClose c s
    let x := ingCtx s c
    let t := stampOf s islIng 0
    let x := { x with degraded := x.degraded || deg }
    ingPut (.sum (sweepSumOf c x t))
      (keepStamp islIng t (setIngCtx c { x with sweepOpen := false, gapFrom := replica s islIng,
                                                degraded := false, nopose := false } s))
  else s

/-- A close at `MAX_SWEEP` (R80). -/
def sweepForced (c : Nat) (s : State) : State :=
  ingCode .sweepForced c (regCountField (ingCtxReg c 0x1C) 16 16 1 (sweepClose c true s))

/-- The replica has reached `Tref + MAX_SWEEP`. -/
def sweepExpired (s : State) (c : Nat) : Bool :=
  let x := ingCtx s c
  x.sweepOpen && decide (x.tref + ctxNat s c 0x10 ≤ replica s islIng)

/-- A sweep opens with a point at time `t` (R79). DESIGN CHOICE, notes/assumptions/76: its epoch is that of the pose
committed last (R89). -/
def sweepOpen (c t : Nat) (s : State) : State :=
  let x := ingCtx s c
  let ep := s.ing.poses.getLast?.map (·.epoch)
  let now := stampOf s islIng 0
  keepStamp islIng now (setIngCtx c { x with
    sweepOpen := true, degraded := false, nopose := false, seq := x.nextSeq, nextSeq := wrapAdd 32 x.nextSeq 1, tref := t,
    openAt := now, pts := 0, drops := 0, slices := 0, nopSlices := 0, slice := none, lastIdx := 0, first := 0, epoch := ep,
    pref := none, ext := poseWords (ctxGet s c 0x0B) 0 12, dropSeen := false, ptimeSeen := false } s)

/-! ### Slices (R84 to R86, R92, R93) -/

def sliceLen (s : State) (c : Nat) : Nat := ctxNat s c 0x11

/-- Opens the slice that holds `t`, an open one closing first: the transform of its mid-time (R92), or `NOPOSE` (R93). -/
def sliceOpen (c t : Nat) (s : State) : State :=
  let s := sliceClose c s
  let x := ingCtx s c
  let now := stampOf s islIng 0
  let len := sliceLen s c
  let start := t / len * len
  let isFirst := x.slices == 0
  let first := if isFirst then start else x.first
  let ref := poseAt s x.tref x.epoch
  let refHere := if isFirst then ref else x.pref
  let idx := (((start : Int) - first) / len % 256).toNat
  let xf : Option (List Nat) := match refHere, poseAt s (start + len / 2) x.epoch with
    | some r, some m => some (xfOf r m x.ext)
    | _, _ => none
  let nop := xf.isNone
  let sl : SliceSt := ⟨start, idx, xf.getD (xfExt x.ext), nop, now⟩
  let s := keepStamp islIng now (setIngCtx c { x with
    slice := some sl, lastIdx := idx, first := first, pref := refHere, slices := x.slices + 1,
    nopSlices := x.nopSlices + (if nop then 1 else 0), nopose := x.nopose || nop } s)
  let s := if nop then regCount (ingCtxReg c 0x18) 1 s else s
  if nop && !x.nopose then ingCode .noposeSlice c s else s

/-- A slice's end. -/
def sliceEnd (s : State) (c : Nat) (sl : SliceSt) : Nat := sl.start + sliceLen s c

/-- Brings the slice of a point at time `t` into being: `none` for a point too late for the open slice, else whether it
is late (R84, R85). DESIGN CHOICE, notes/assumptions/76: after a close by grace a slice may open again in its interval. -/
def slicePlace (c t : Nat) (s : State) : Option Bool × State :=
  match (ingCtx s c).slice with
  | none => (some false, sliceOpen c t s)
  | some sl =>
    if sliceEnd s c sl ≤ t then (some false, sliceOpen c t s)
    else if sl.start ≤ t then (some false, s)
    else if sl.start ≤ t + ctxNat s c 0x12 then (some true, s)
    else (none, s)

/-! ### Points (R74 to R76, R80) -/

/-- A decoded point (R74) with its time (R76). -/
structure Decoded where
  t : Nat
  row : Nat
  col : Nat
  range : Nat
  int : Nat
  ret : Nat
  deriving DecidableEq, Repr

/-- A dropped point of a context (R74, R76, R85, R93). -/
def dropPoint (c : Nat) (s : State) : State :=
  modIngCtx c (fun x => if x.sweepOpen then { x with drops := x.drops + 1 } else x) (regCount (ingCtxReg c 0x14) 1 s)

/-- `u` of a column (R80). -/
def colU (s : State) (c col : Nat) : Nat :=
  let n := ctxNat s c 0x0A
  (col + n - ctxNat s c 0x0D % n) % n

/-- Grid period of a time (R80, time rule). -/
def periodOf (s : State) (c t : Nat) : Int := ((t : Int) - ctxNat s c 0x0F) / (ctxNat s c 0x0E : Int)

/-- The point meets the context's boundary rule (R80); `mark` for the first point of a marked packet. -/
def boundaryMet (s : State) (c : Nat) (mark : Bool) (d : Decoded) : Bool :=
  let x := ingCtx s c
  match ctxNat s c 0x0C with
  | 0 => decide (colU s c d.col + ctxNat s c 0x0A / 2 < x.uprev)
  | 1 => mark
  | _ => decide (periodOf s c x.tref < periodOf s c d.t)

/-- Closes the open sweep before a point, as its boundary or `MAX_SWEEP` states (R80, R81). -/
def boundaryStep (c : Nat) (mark : Bool) (d : Decoded) (s : State) : State :=
  let x := ingCtx s c
  if !x.sweepOpen then s
  else if boundaryMet s c mark d then
    if d.t < x.tref + 250000 then regCountField (ingCtxReg c 0x1C) 0 16 1 s else sweepClose c false s
  else if sweepExpired s c then sweepForced c s
  else s

/-- One decoded point of a context: boundary, sweep, slice, pose policy; it waits for the deskew unit or is dropped. DESIGN
CHOICE, notes/assumptions/76: a point that the pose policy drops counts as accepted for the sweep. -/
def pointIn (c : Nat) (mark : Bool) (d : Decoded) (s : State) : State :=
  let s := boundaryStep c mark d s
  let s := if (ingCtx s c).sweepOpen then s else sweepOpen c d.t s
  match slicePlace c d.t s with
  | (none, s) => dropPoint c s
  | (some late, s) =>
    let x := ingCtx s c
    let x := { x with uprev := colU s c d.col, silent := false }
    match x.slice with
    | none => s
    | some sl =>
      if sl.nopose ∧ ctxNat s c 0x14 = 1 then dropPoint c (setIngCtx c x s)
      else
        let p : RawPt := ⟨c, d.row, d.col, d.range, d.int, d.ret, late, sl.nopose, sl.idx, sl.xf, d.t % 2 ^ 32⟩
        let s := setIngCtx c { x with pts := x.pts + 1 } s
        ingPut (.pt p) { s with hst := { s.hst with points := satAdd 64 s.hst.points 1 } }

/-! ### The Packet Layout Descriptor (R71 to R73) -/

/-- A field descriptor (R72). -/
structure FieldD where
  level : Nat
  be : Bool
  signed : Bool
  width : Nat
  shift : Nat
  nbits : Nat
  off : Nat
  deriving DecidableEq, Repr

/-- Bytes of a `WIDTH` code; 0 for a reserved one. -/
def widthOf (c : Nat) : Nat := if 1 ≤ c ∧ c ≤ 4 then c else if c = 5 then 8 else 0

def fieldD (w : Nat) : FieldD :=
  let n := widthOf (bits w 25 3)
  ⟨bits w 30 2, bitOf w 29, bitOf w 28, n, bits w 20 5, if bits w 14 6 = 0 then n * 8 else bits w 14 6, bits w 0 14⟩

/-- The PLD. -/
structure Pld where
  b : List Byte
  deriving DecidableEq, Repr

def Pld.w (p : Pld) (off : Nat) : Nat := field p.b off 4
def Pld.minLen (p : Pld) : Nat := field p.b 0 2
def Pld.nblk (p : Pld) : Nat := field p.b 2 1
def Pld.npt (p : Pld) : Nat := field p.b 3 1 + 1
def Pld.f (p : Pld) (off : Nat) : FieldD := fieldD (p.w off)
def Pld.ptmode (p : Pld) : Nat := bits (p.w 0x3C) 16 4

/-- Offset of a field in block `b`, point `i`. -/
def Pld.at_ (p : Pld) (f : FieldD) (b i : Nat) : Nat :=
  let blk := field p.b 4 2 + b * field p.b 6 2
  f.off + (match f.level with
    | 2 => blk
    | 3 => blk + field p.b 8 2 + i * field p.b 0x0A 2
    | _ => 0)

/-- Offsets of the field descriptors, `F_RANGE` to `F_MARK`. -/
def pldFields : List Nat := [0x0C, 0x10, 0x14, 0x18, 0x1C, 0x20, 0x24, 0x28]

/-- The checks of R73; a field's last byte is looked for in block `NBLK` − 1 (0 for an `NBLK` of 0). -/
def pldOk (p : Pld) (boundary : Nat) : Bool :=
  let present (o : Nat) : Bool := (p.f o).level != 0
  present 0x0C && present 0x10 && !(boundary == 1 && (p.f 0x28).level != 1)
    && (present 0x20 == (p.ptmode != 0)) && decide (p.ptmode ≤ 3)
    && (pldFields.all fun o => !present o || ((p.f o).width != 0 && decide ((p.f o).shift + (p.f o).nbits ≤ (p.f o).width * 8)
        && decide (p.at_ (p.f o) (p.nblk - 1) (p.npt - 1) + (p.f o).width ≤ p.minLen)))
    && isFinite32 (p.w 0x2C) && lt32 0 (p.w 0x2C) && lt32 (p.w 0x30) (p.w 0x34)
    && bits (p.w 0x3C) 20 4 != 0 && bits (p.w 0x3C) 24 8 == 0 && (p.b.drop 0x54).all (· == 0)

/-- Reads a field of a payload (R72). -/
def fieldAt (p : Pld) (pay : List Byte) (f : FieldD) (b i : Nat) : Int :=
  let raw := slice pay (p.at_ f b i) f.width
  let v := (if f.be then beNat raw else leNat raw) / 2 ^ f.shift % 2 ^ f.nbits
  if f.signed then signed f.nbits v else v

/-- Packet time of a field value, before R75 checks it. -/
def pktTime (p : Pld) (at_ : Nat) (v : Int) : Int :=
  match p.ptmode with
  | 0 => (at_ : Int) - p.w 0x4C
  | 1 => v
  | 2 => (at_ : Int) + signed 32 (unsigned 32 (v - at_))
  | _ => v * 1000

/-- The packet time, replaced where it is out of bounds (R75): the time, and whether it was replaced. -/
def pktTimeOk (p : Pld) (at_ tskew : Nat) (v : Int) : Int × Bool :=
  let t := pktTime p at_ v
  if t > at_ ∨ (at_ : Int) - t > tskew then ((at_ : Int) - p.w 0x4C, true) else (t, false)

/-- A point decoded: `none` for no return, `some none` for a drop (R74, R76). -/
def decodePoint (s : State) (c : Nat) (p : Pld) (pay : List Byte) (at_ : Nat) (tp : Int) (b i : Nat) : Option (Option Decoded) :=
  let get (o : Nat) : Int := fieldAt p pay (p.f o) b i
  let has (o : Nat) : Bool := (p.f o).level != 0
  let rv := get 0x0C
  if rv = 0 then none
  else
    let row : Int := (if has 0x14 then get 0x14 else (i : Int)) + bits (p.w 0x3C) 8 8
    let cv := get 0x10
    let col := cv.toNat * p.w 0x38 % 2 ^ 64 / 2 ^ (bits (p.w 0x3C) 0 5)
    let r := r32 (fmulX (ofInt rv) (d32 (p.w 0x2C)))
    let iv : Int := if has 0x18 then get 0x18 else 0
    let ret : Int := if has 0x1C then get 0x1C else 0
    let t := tp + b * p.w 0x48 + i * p.w 0x44 + (if has 0x24 then get 0x24 else 0) * p.w 0x40
    if row < 0 ∨ row ≥ ctxNat s c 9 ∨ cv < 0 ∨ ctxNat s c 0x0A ≤ col ∨ rv < 0 ∨ lt32 r (p.w 0x30) ∨ lt32 (p.w 0x34) r
        ∨ ret < 0 ∨ ret > 3 ∨ !bitOf (bits (p.w 0x3C) 20 4) ret.toNat ∨ t > at_ ∨ t < 0 then some none
    else some (some ⟨t.toNat, row.toNat, col, r, (min 65535 (max 0 iv)).toNat, ret.toNat⟩)

/-- A replaced packet time (R75). -/
def ptimeBad (c : Nat) (s : State) : State :=
  let x := ingCtx s c
  let s := regCount (ingCtxReg c 0x20) 1 (degradeCtx c s)
  if x.sweepOpen && !x.ptimeSeen then
    ingCode .ptimeBad c (modIngCtx c (fun x => { x with ptimeSeen := true }) s) else s

/-- What the parser carries from point to point: the packet time, and whether the marker still waits for a point. -/
structure ParseSt where
  tp : Int
  mark : Bool

/-- One point position of a payload. -/
def parsePoint (c : Nat) (p : Pld) (pay : List Byte) (at_ b i : Nat) (r : ParseSt × State) : ParseSt × State :=
  let lvl := (p.f 0x20).level
  let s := r.2
  let fresh := (b = 0 ∧ i = 0) ∨ (lvl = 2 ∧ i = 0) ∨ lvl = 3
  let t := if fresh then pktTimeOk p at_ (ctxNat s c 0x16) (if lvl = 0 then 0 else fieldAt p pay (p.f 0x20) b i) else (r.1.tp, false)
  let s := if t.2 then ptimeBad c s else s
  match decodePoint s c p pay at_ t.1 b i with
  | none => (⟨t.1, r.1.mark⟩, s)
  | some none => (⟨t.1, r.1.mark⟩, dropPoint c s)
  | some (some d) => (⟨t.1, false⟩, pointIn c r.1.mark d s)

/-- Every block and point of a payload, in order. -/
def parsePayload (c : Nat) (p : Pld) (pay : List Byte) (at_ : Nat) (s : State) : State :=
  let mark := (p.f 0x28).level == 1 && fieldAt p pay (p.f 0x28) 0 0 == (p.w 0x50 : Int)
  ((List.range p.nblk).foldl (fun r b => (List.range p.npt).foldl (fun r i => parsePoint c p pay at_ b i r) r) (⟨0, mark⟩, s)).2

/-- A context that was disabled while a block of it was in hand closes once none is left (R70). -/
def ctxSettle (c : Nat) (s : State) : State :=
  let x := ingCtx s c
  let heads := (s.ing.inj.toList.filterMap (·.head?)).any (·.ctx == c)
  if x.closing && !heads && !(s.ing.blocks.any (·.ctx == c)) then
    modIngCtx c (fun x => { x with closing := false }) (sweepClose c true s)
  else s

/-- One packet or block through the parser (R71, R74). -/
def parsePkt (mac : Option Nat) (k : Pkt) (s : State) : State :=
  if !ctxRuns (ingCtx s k.ctx) then s
  else
    let p : Pld := ⟨slice (ctxGet s k.ctx 7) 0 128⟩
    if k.payload.length < p.minLen then
      dropPacket k.ctx (match mac with
        | some m => regCount (ingMacReg m 0x10) 1 s
        | none => s)
    else parsePayload k.ctx p k.payload k.at_ s

/-- PACKET_PARSE (R74): the oldest packet of a MAC, or (8) the oldest injected block. -/
def packetParse (m : Nat) (s : State) : State :=
  if !isReady s then s
  else if m < 8 then
    match vget s.ing.macs m [] with
    | [] => s
    | k :: rest => parsePkt (some m) k { s with ing := { s.ing with macs := vset s.ing.macs m rest } }
  else
    match s.ing.blocks with
    | [] => s
    | k :: rest => ctxSettle k.ctx (parsePkt none k { s with ing := { s.ing with blocks := rest } })

def execPacketParse (mac : Fin 9) (s : State) : Host.Outcome State Fault Refusal := .next (packetParse mac.val s)

/-! ### Deskew (R78, R92, R96) -/

/-- FP32 sine and cosine of a row's elevation or a column's azimuth (R77, R503). -/
def geomPair (s : State) (g sub i : Nat) : Nat × Nat :=
  let b := odGet s (0x23A0 + g) sub
  (field b (8 * i) 4, field b (8 * i + 4) 4)

/-- The record of a point (R78, R92, R96). -/
def deskewRec (s : State) (p : RawPt) : PointRec :=
  let g := ctxNat s p.ctx 8
  let el := geomPair s g 1 p.row
  let az := geomPair s g 2 p.col
  let h := mul32 p.range el.2
  let xs := mul32 h az.2
  let ys := mul32 h az.1
  let zs := mul32 p.range el.1
  { ctx := p.ctx, x := xfRow p.xf 0 xs ys zs, y := xfRow p.xf 1 xs ys zs, z := xfRow p.xf 2 xs ys zs, int := p.int,
    colw := p.col % 4096 + p.ret * 4096 + bitAt p.nopose 14 + bitAt p.late 15, row := p.row, slice := p.slice }

/-- DESKEW_POINT (R92): the unit stalls while the Weir to VOX is full (R531). -/
def deskewPoint (s : State) : State :=
  if !isReady s || !voxRoom s then s
  else match s.ing.deskew with
  | .pt p :: rest =>
    let t := stampOf s islIng 0
    let s := keepStamp islIng t (voxPut (.pt { deskewRec s p with ts := t }) { s with ing := { s.ing with deskew := rest } })
    flushSums s.ing.deskew s
  | _ => s

def execDeskewPoint (s : State) : Host.Outcome State Fault Refusal := .next (deskewPoint s)

/-! ### Events of the replica -/

/-- SWEEP_MAX_EXPIRY (R80). -/
def execSweepMaxExpiry (ctx : Fin 128) (s : State) : Host.Outcome State Fault Refusal :=
  .next (if isReady s && sweepExpired s ctx.val then sweepForced ctx.val s else s)

/-- STREAM_GAP (R82): the sequence advances and VOX receives a summary that marks a gap. -/
def streamGap (c : Nat) (s : State) : State :=
  let x := ingCtx s c
  let tg := x.gapFrom + ctxNat s c 0x10
  if isReady s && x.en && !x.sweepOpen && decide (tg ≤ replica s islIng) then
    let y := { x with seq := x.nextSeq, nextSeq := wrapAdd 32 x.nextSeq 1, tref := tg, gapFrom := tg, silent := true, pts := 0 }
    let g : SweepSum := { sweepSumOf c { y with degraded := true } tg with
      openAt := tg, drops := 0, slices := 0, nopSlices := 0, nopose := false, gap := true }
    let s := regCountField (ingCtxReg c 0x1C) 16 16 1 (ingPut (.sum g) (setIngCtx c y s))
    if x.silent then { s with saf := { s.saf with lost := addLost islIng FaultCode.streamSilent.num 1 s.saf.lost } }
    else ingCode .streamSilent c s
  else s

def execStreamGap (ctx : Fin 128) (s : State) : Host.Outcome State Fault Refusal := .next (streamGap ctx.val s)

/-- SLICE_GRACE_EXPIRY (R84). -/
def execSliceGraceExpiry (ctx : Fin 128) (s : State) : Host.Outcome State Fault Refusal :=
  .next (
    let x := ingCtx s ctx.val
    match x.slice with
    | some sl =>
      if isReady s && decide (sliceEnd s ctx.val sl + ctxNat s ctx.val 0x13 ≤ replica s islIng)
      then sliceClose ctx.val s else s
    | none => s)

/-! ### Host injection (R66 to R68) -/

/-- Key of an injection register, kept for each port. -/
def injReg (h off : Nat) : Nat := rkey (1 + h) (0x0200000 + off)

/-- INJ_ENQUEUE (R66). -/
def injEnqueue (r : Requester) (v : Nat) (s : State) : State :=
  match r with
  | .host h =>
    blockGate r (fun s =>
      let c := v % 128
      let q := vget s.ing.inj h.val []
      let addr := (regGet s (injReg h.val 0x200)).toNat + 2 ^ 32 * (regGet s (injReg h.val 0x204)).toNat
      let len := (regGet s (injReg h.val 0x208)).toNat
      if 16 ≤ q.length ∨ !ctxEn s c ∨ ctxNat s c 2 ≠ 0x10 + h.val ∨ addr % 64 ≠ 0 ∨ len < 1 ∨ 16384 < len then
        regCountField (injReg h.val 0x218) 0 16 1 s
      else { s with ing := { s.ing with inj := vset s.ing.inj h.val (q ++ [⟨c, addr, len⟩]) } }) s
  | _ => ignWrite r s

def execInjEnqueue (r : Requester) (v : Nat) (s : State) : Host.Outcome State Fault Refusal := .next (injEnqueue r v s)

/-- INJ_BLOCK_READ_DONE (R67): the block at the head of a queue has been read, or has failed. -/
def injRead (h : Nat) (data : HostRead) (s : State) : State :=
  match vget s.ing.inj h [] with
  | [] => s
  | b :: rest =>
    if !isReady s then s
    else
      let s := regWrap (injReg h 0x214) 1 { s with ing := { s.ing with inj := vset s.ing.inj h rest } }
      match data with
      | .err => ctxSettle b.ctx (dropPacket b.ctx (degradeCtx b.ctx (regCountField (injReg h 0x218) 16 16 1 s)))
      | .ok d =>
        let t := stampOf s islIng 0
        keepStamp islIng t { s with ing := { s.ing with blocks := s.ing.blocks ++ [⟨b.ctx, t, slice d 0 b.len, 0⟩] } }

def execInjBlockReadDone (h : Fin 4) (data : HostRead) (s : State) : Host.Outcome State Fault Refusal :=
  .next (injRead h.val data s)

/-- A hot reset of a port in ING (R68). -/
def ingPortReset (h : Nat) (s : State) : State :=
  let s := { s with ing := { s.ing with inj := vset s.ing.inj h [] } }
  (List.range 128).foldl (fun s c => ctxSettle c (if ctxNat s c 2 = 0x10 + h then degradeCtx c s else s)) s

/-- BLOCK_LOCK (R99, R502). -/
def execBlockLock (mac : Fin 8) (lock : Bool) (s : State) : Host.Outcome State Fault Refusal :=
  .next { s with ing := { s.ing with
      link := if lock then s.ing.link ||| (1#8 <<< mac.val) else s.ing.link &&& ~~~(1#8 <<< mac.val) } }

end Sys2Proof.Machine
end

