-- ==== Sys2Proof/Machine/JobCtl.lean ====
section
/-! DEFINITION. The life of a job: states, final records, the deadline monitor's view, contexts on the cores, the start of
a drain (R369 to R380, R421 to R434, R452 to R454). -/

namespace Sys2Proof.Machine

/-- Island number of HST (R54). -/
def islHst : Nat := 21

/-- Moves a job to a state, stamped in the job table after the event of another island that caused it, 0 for none (R52,
R375). -/
def jobTo (slot : Nat) (st : JobState) (cause : Nat) (s : State) : State :=
  let t := stampOf s islHst cause
  modJob slot (fun j => { j with st := st, ts := t }) (keepStamp islHst t s)

/-! ### The deadline monitor (R452 to R454) -/

def monDflt : Nat → Option MonEntry := fun _ => none

def monGet (s : State) (slot : Nat) : Option MonEntry := smGet monDflt s.saf.mon slot

def monPut (slot : Nat) (e : Option MonEntry) (s : State) : State :=
  { s with saf := { s.saf with mon := smSet monDflt s.saf.mon slot e } }

/-- An entry is armed at acceptance, but for an `EXPECT` of 0 (R452). -/
def monArm (slot : Nat) (j : Job) (s : State) : State :=
  let n := odNat s 0x4001 (0x20 + j.part)
  if n = 0 then modJob slot (fun j => { j with met := true }) s else monPut slot (some ⟨tagGen j, j.part, n, none, 0⟩) s

/-- The entry takes its deadline once (R452). -/
def monFix (slot d : Nat) (s : State) : State :=
  match monGet s slot with
  | some e => if e.deadline.isNone then monPut slot (some { e with deadline := some d }) s else s
  | none => s

/-- A MISS of an entry (R453): counted, put on the fault path stamped `ts`, its reason set where R448 allows. -/
def monMiss (slot : Nat) (e : MonEntry) (ts : Nat) (atEnd : Bool) (s : State) : State :=
  let s := monPut slot none s
  let s := regFirst (rkey 0 0x040100C) 31 (2 ^ 31 + bitAt atEnd 30 + e.part % 8 * 2 ^ 27 + e.taggen % 2 ^ 24)
    (regCount (rkey 0 0x0401008) 1 s)
  let s := { s with
    hst := { s.hst with misses := wrapAdd 32 s.hst.misses 1 },
    saf := { s.saf with missAt := vset s.saf.missAt e.part ts, onTime := vset s.saf.onTime e.part false } }
  let s := weirPut ⟨.miss, 23, ts, some ⟨slot, e.taggen⟩, some e.part, none, none, 7, [BitVec.ofNat 32 e.count], 1, false⟩ s
  if bitOf (odNat s 0x4000 1) e.part && decide (partClass s e.part < 2) then setReason e.part 0x0701 ts s else s

/-- The end of a job at the monitor (R453): `quiet` where the end releases the entry without a MISS. A deadline already
passed gives the one MISS, stamped with the deadline (R457). -/
def monEnd (slot ts : Nat) (quiet : Bool) (s : State) : State :=
  match monGet s slot with
  | none => s
  | some e =>
    match e.deadline with
    | some d => if d ≤ ts then monMiss slot e d false s else if quiet then monPut slot none s else monMiss slot e ts true s
    | none => if quiet then monPut slot none s else monMiss slot e ts true s

/-- The commit falls after the job's deadline (R298, `LATE`). -/
def commitLate (s : State) (slot commit : Nat) : Bool :=
  match (jobOf s slot).deadline with
  | some d => decide (d < commit)
  | none => false

/-- The result carries the miss (R454). -/
def monCarries (s : State) (slot commit : Nat) : Bool := commitLate s slot commit && !(jobOf s slot).met

/-- One commit at the monitor (R453, R455). -/
def monCommit (slot commit : Nat) (s : State) : State :=
  match monGet s slot with
  | some e =>
    match e.deadline with
    | some d =>
      if d < commit then s
      else
        let s := { s with saf := { s.saf with onTime := vset s.saf.onTime e.part true } }
        if e.count + 1 < e.expect then monPut slot (some { e with count := e.count + 1 }) s
        else monPut slot none (modJob slot (fun j => { j with met := true })
          { s with saf := { s.saf with slack := min s.saf.slack (d - commit) } })
    | none => s
  | none => s

/-! ### Rank and contexts (R421 to R423) -/

/-- `x` ranks strictly above `y`. -/
def rankAbove (x y : Job) : Bool := decide (x.cls < y.cls) || (x.cls == y.cls && decide (y.prio < x.prio))

/-- The order in which a core runs its waiting contexts (R422). -/
def runsBefore (x y : Job) : Bool :=
  rankAbove x y || (!rankAbove y x && (decide (x.admitTs < y.admitTs) || (x.admitTs == y.admitTs && decide (x.part < y.part))))

def tctx (x : Core) (n : Nat) : TaskCtx := vget x.ctx n {}

def setCtx (c n : Nat) (t : TaskCtx) (s : State) : State := modCore c (fun x => { x with ctx := vset x.ctx n t }) s

/-- The ADMITTED or PREEMPTED context that the core would run next. -/
def bestCtx (s : State) (c : Nat) : Option Nat :=
  let x := coreOf s c
  let waits := (List.range 8).filter fun n => (tctx x n).st == .admitted || (tctx x n).st == .preempted
  (takeMin (fun a b => runsBefore (jobOf s (tctx x a).slot) (jobOf s (tctx x b).slot)) waits).map (·.1)

/-- State of a control core whose context starts or resumes: ended and halted ones stay so (R559). -/
def ccResumed (x : CcCtx) : CcState := if x.st = .ended then .ended else if x.halt.isSome then .halted else .running

/-- Control cores keep a data cache; a fresh context starts with the state of R328 in `saved`. What a stopped descriptor
had still to send goes out again. -/
def startCtx (c n : Nat) (s : State) : State :=
  let x := coreOf s c
  let t := tctx x n
  let run := t.saved.getD {}
  let ts := replica s c
  let s := { s with fab := { s.fab with
    remote := s.fab.remote ++ run.rem.map fun r => { r with ts := ts }
    landing := s.fab.landing ++ run.land.map fun r => { r with ts := ts } } }
  semArrive c (setCore c { x with
    ctx := vset x.ctx n { t with st := .running, saved := none, hdr := none }, active := some n,
    run := { run with cc := { run.cc with st := ccResumed run.cc }, rem := [], land := [] } } s)

/-- The core has no context running: the best ADMITTED one starts; a PREEMPTED one waits for its restore (R428). -/
def coreNext (c : Nat) (s : State) : State :=
  let x := coreOf s c
  if x.active.isSome || x.stop.isSome then s
  else match bestCtx s c with
  | some n => if (tctx x n).st = .admitted then startCtx c n s else s
  | none => s

/-- A waiting context of strictly higher rank asks the core to stop (R423, R424). -/
def corePreempt (c : Nat) (s : State) : State :=
  let x := coreOf s c
  match x.active, bestCtx s c with
  | some y, some n =>
    let jx := jobOf s (tctx x n).slot
    let jy := jobOf s (tctx x y).slot
    if x.stop.isNone && (tctx x y).st == .running && rankAbove jx jy && !jx.nopre then
      let cc := x.run.cc
      let cc := { cc with st := if cc.st = .ended then .ended else .stopped, rsv := none, pendCommit := none, pendWait := none }
      setCore c { x with
        stop := some ⟨n, s.tb.master, false⟩, pre := some (n, s.tb.master), run := { x.run with cc := cc, stopTs := stampOf s c 0 } } s
    else s
  | _, _ => s

def coreSchedule (c : Nat) (s : State) : State := corePreempt c (coreNext c s)

/-- A job's contexts are PREEMPTED or not: its state follows (R375); a job that runs again while a skew state is set is
marked (R51). -/
def jobPreSync (slot : Nat) (s : State) : State :=
  let j := jobOf s slot
  let pre := j.cores.any fun e => (tctx (coreOf s e.1) e.2).st == .preempted
  match j.st with
  | .running => if pre then jobTo slot .preempted 0 s else s
  | .preempted =>
    if pre then s
    else jobTo slot .running 0 (setJob slot { j with skewed := j.skewed || s.tb.skewState != 0 } s)
  | _ => s

/-- Weight windows that waited for the contexts of their partitions take effect once those are FREE (R184). -/
def wwSettle (c : Nat) (s : State) : State :=
  let x := coreOf s c
  match x.wwNext with
  | none => s
  | some w =>
    let parts := ((x.ww.toList ++ w.toList).filterMap id).map (·.part)
    if x.ctx.toList.any fun t => t.st != .free && parts.contains t.part then s
    else
      let y := { x with ww := w, wwNext := none }
      setCore c { y with wblk := y.wblk.filter fun e =>
        (winOf y e.1).isSome && (winOf y e.1).map (·.part) == (winOf x e.1).map (·.part) } s

/-- A context becomes FREE; the core runs the next one. -/
def ctxFree (c n : Nat) (s : State) : State :=
  let x := coreOf s c
  let here := x.active = some n
  let s := setCore c { x with
    ctx := vset x.ctx n {}, active := if here then none else x.active, run := if here then {} else x.run,
    stop := if here then none else x.stop, pre := x.pre.filter (·.1 != n) } s
  coreSchedule c (wwSettle c s)

/-- Every context of a job becomes FREE. -/
def jobFreeCtx (slot : Nat) (s : State) : State :=
  let j := jobOf s slot
  let s := setJob slot { j with cores := [], live := [] } s
  j.cores.foldl (fun s e => if (tctx (coreOf s e.1) e.2).slot = slot then ctxFree e.1 e.2 s else s) s

/-! ### Final records (R378, R380, R385) -/

/-- A job becomes FREE, stamped in the job table (R375). -/
def jobFree (slot : Nat) (s : State) : State :=
  let t := stampOf s islHst 0
  setJob slot { ts := t } (keepStamp islHst t s)

/-- The pause of a partition reset counts from the last final record (R395, step 4). -/
def resetSince (p ts : Nat) (s : State) : State :=
  match (partOf s p).reset with
  | some r => setPart p { partOf s p with reset := some ⟨max r.since ts⟩ } s
  | none => s

/-- The final record of a job (R377, R378, R380, R385), whose cause of another island is stamped `cause`: its unused slots
are released, and the monitor sees the end. -/
def finalRecord (slot status code event cause : Nat) (s : State) : State :=
  let s := jobFreeCtx slot s
  let j := jobOf s slot
  if j.silent then
    let ts := stampOf s islHst cause
    let s := journal islHst 4 0x0B03 ts (jobTag (tagGen j) j.part) ((j.itemsPrev + j.items) % 65536 + j.attempt % 256 * 65536) 0 0
      (keepStamp islHst ts s)
    jobFree slot (monEnd slot ts (code == 0x0D08) (resetSince j.part ts s))
  else
    let g := ringsOf s j.part
    let s := setRings j.part { g with cqRsv := g.cqRsv - (j.rsv - 1) } s
    let s := postRecord j.part true cause ⟨tagGen j + j.part * 0x1000000, 0, status, code, event, j.entryIdx, 0xFF, j.attempt, j.itemsAll,
      j.deadline.getD 0⟩ s
    let ts := stampOf s islHst cause
    let s := resetSince j.part ts (keepStamp islHst ts s)
    let s := monEnd slot ts ((status == 3 && code == 0x0B0A) || code == 0x0D08) s
    let st := if status < 2 then JobState.done else .failed
    setJob slot { j with st := st, ts := ts, finalTs := ts, rsv := 0 } s

/-- A job that ends before any attempt (R371, R372, R380): the code is journaled. -/
def failBefore (slot : Nat) (code : FaultCode) (s : State) : State :=
  let j := jobOf s slot
  let ts := stampOf s islHst 0
  let s := raise ⟨code, islHst, 0, some ⟨slot, tagGen j⟩, some j.part, none, none, 7, [], 1, false⟩ s
  finalRecord slot 2 code.num ts 0 s

/-! ### The start of a drain (R375, R429) -/

/-- The canonical order of R58 between two causes. -/
def causeBefore (a b : EndCause) : Bool :=
  decide (a.ts < b.ts) || (a.ts == b.ts && (decide (a.isl < b.isl) || (a.isl == b.isl && (match serialCmp 32 a.seq b.seq with
    | some d => decide (d < 0)
    | none => false))))

/-- The stamp of a cause that crossed a Weir to HST. -/
def EndCause.crossTs (c : EndCause) : Nat := if c.isl = islHst then 0 else c.ts

/-- Units that an abort has still to reach: the job's cores, SEL (32), HST (33). -/
def abortUnits (j : Job) : List Nat := j.cores.map (·.1) ++ [32, 33]

/-- A fault or a cancel takes a job to DRAINING; of several faults the first in canonical order gives the code (R429). -/
def drainJob (slot : Nat) (c : EndCause) (s : State) : State :=
  let j := jobOf s slot
  match j.st with
  | .running | .preempted =>
    jobTo slot .draining c.crossTs (setJob slot { j with cause := some c, abortTo := abortUnits j } s)
  | .queued | .restarting => jobTo slot .draining c.crossTs (setJob slot { j with cause := some c, abortTo := [] } s)
  | .draining =>
    (match j.cause with
    | some d => if causeBefore c d then setJob slot { j with cause := some c } s else s
    | none => setJob slot { j with cause := some c } s)
  | _ => s

/-- A job that a port or partition reset ends (R385, R395): DRAINING at once, with its fault raised; `f` marks it. -/
def resetJob (code : FaultCode) (f : Job → Job) (e : Nat × Job) (s : State) : State :=
  if e.2.st = .done ∨ e.2.st = .failed then s
  else
    let ts := stampOf s islHst 0
    let q := vget s.tb.seq islHst 0
    let s := raise ⟨code, islHst, 0, some ⟨e.1, tagGen e.2⟩, some e.2.part, none, none, 7, [], 1, false⟩ (modJob e.1 f s)
    drainJob e.1 ⟨code.num, ts, islHst, q, false, false⟩ s

/-! ### What an attempt still has in hand -/

/-- Nothing of a descriptor is left in a run. -/
def runEmpty (r : CtxRun) : Bool := r.flight.isEmpty && r.runnels.toList.all (·.isEmpty)

/-- A SEL request of the job is on its way, queued, or its result is not committed. -/
def selBusy (s : State) (slot taggen : Nat) : Bool :=
  let mine (r : SelReq) : Bool := r.slot == slot && r.taggen == taggen
  s.sel.arr.any mine || s.sel.queue.toList.any (·.any mine) || (match s.sel.done with
    | some r => mine r.req
    | none => false) || s.sel.handed.any fun r => mine r.req

/-- The run of a job's context on a core: the running one, or the saved one. -/
def ctxRunOf (s : State) (c n : Nat) : CtxRun :=
  let x := coreOf s c
  if x.active = some n then x.run else (tctx x n).saved.getD {}

/-- Every control core of a job has ended and every descriptor has retired (R342). -/
def jobEnded (s : State) (slot : Nat) : Bool :=
  let j := jobOf s slot
  (j.st == .running || j.st == .preempted) && !j.cores.isEmpty && j.live.isEmpty
    && (j.cores.all fun e => runEmpty (ctxRunOf s e.1 e.2)) && !selBusy s slot (tagGen j)

/-- A RUNNING job completes (R342, R375). -/
def jobComplete (s : State) (slot : Nat) : Bool := (jobOf s slot).st == .running && jobEnded s slot

/-- Event of a final record that no fault gave: the last retirement, or the last END. -/
def lastEvent (j : Job) : Nat := if j.lastRetire = 0 then j.endTs else j.lastRetire

end Sys2Proof.Machine
end

