-- ==== Sys2Proof/Machine/Voxelizer.lean ====
section
/-! DEFINITION. The voxelizer and the Pond (04): insertion, auto-coarsening, the hold buffer, emission. -/

namespace Sys2Proof.Machine

/-- Island number of VOX (R54). -/
def islVox : Nat := 18

def voxCtx (s : State) (c : Nat) : VoxCtx := vget s.vox.ctx c {}

def setVoxCtx (c : Nat) (x : VoxCtx) (s : State) : State := { s with vox := { s.vox with ctx := vset s.vox.ctx c x } }

def modVoxCtx (c : Nat) (f : VoxCtx → VoxCtx) (s : State) : State := setVoxCtx c (f (voxCtx s c)) s

def voxReg (off : Nat) : Nat := rkey 0 (0x0280000 + off)

def voxCtxReg (c off : Nat) : Nat := voxReg (0x1000 + 0x40 * c + off)

/-- Raises a code of VOX; no job runs in it. -/
def voxCode (code : FaultCode) (d : List Word) (s : State) : State := raise { plainFault code islVox none with detail := d } s

/-! ### Settings (R101, R102) -/

def grpOf (s : State) (c : Nat) : Nat := 0x23C0 + ctxNat s c 0x17

def baseEdge (s : State) (c : Nat) : Nat := odNat s (grpOf s c) 1
def roiMin (s : State) (c a : Nat) : Nat := odNat s (grpOf s c) (2 + a)
def roiMax (s : State) (c a : Nat) : Nat := odNat s (grpOf s c) (5 + a)
def startLevel (s : State) (c : Nat) : Nat := odNat s (grpOf s c) 8

def pondCap (x : VoxCtx) : Nat := x.pages * 4096
def pondHigh (x : VoxCtx) : Nat := x.pages * 3584

/-! ### Voxel keys (R105 to R107) -/

/-- Floor of a finite FP32 value. -/
def floor32 (x : Nat) : Int := match d32 x with
  | .fin s m e => if 0 ≤ e then sgnI s (m * 2 ^ e.toNat) else sgnI s m / ((2 ^ (-e).toNat : Nat) : Int)
  | _ => 0

/-- One level-0 index; `none` where the coordinate is outside the region. -/
def voxIdx (lo hi inv top x : Nat) : Option Nat :=
  if !isFinite32 x || lt32 x lo || !lt32 x hi then none
  else
    let i := floor32 (mul32 (sub32 x lo) inv)
    if i < 0 ∨ i > top then none else some i.toNat

/-- Level-0 indices of a point (R105). -/
def voxIndices (s : State) (p : PointRec) : Option (Nat × Nat × Nat) :=
  let c := p.ctx
  let inv := (voxCtx s c).inv
  match voxIdx (roiMin s c 0) (roiMax s c 0) inv 65535 p.x, voxIdx (roiMin s c 1) (roiMax s c 1) inv 65535 p.y,
      voxIdx (roiMin s c 2) (roiMax s c 2) inv 4095 p.z with
  | some a, some b, some d => some (a, b, d)
  | _, _, _ => none

/-- The voxel key (R106). -/
def voxKey (ix iy iz level : Nat) : Nat := ix % 65536 + iy % 65536 * 2 ^ 16 + iz % 4096 * 2 ^ 32 + level % 16 * 2 ^ 44

def keyLevel (k : Nat) : Nat := bits k 44 4

/-- A key one level up. -/
def keyUp (k : Nat) : Nat := voxKey (bits k 0 16 / 2) (bits k 16 16 / 2) (bits k 32 12 / 2) (keyLevel k + 1)

/-- FP32 of 2^n for small n. -/
def pow32 (n : Int) : Nat := ((n + 127).toNat % 256) * 2 ^ 23

/-- Centre of a voxel on one axis (R107). -/
def keyCentre (s : State) (c axis k : Nat) : Nat :=
  let i := if axis = 2 then bits k 32 12 else bits k (16 * axis) 16
  add32 (roiMin s c axis) (mul32 (mul32 (add32 (itof32 i) 0x3F000000) (baseEdge s c)) (pow32 (keyLevel k)))

/-- Squared distance of a sample to the centre of a voxel (R111). -/
def voxDist (s : State) (c k x y z : Nat) : Nat :=
  let dx := sub32 x (keyCentre s c 0 k)
  let dy := sub32 y (keyCentre s c 1 k)
  let dz := sub32 z (keyCentre s c 2 k)
  add32 (add32 (mul32 dx dx) (mul32 dy dy)) (mul32 dz dz)

/-- Home slot of a key (R109). -/
def pondHome (k cap : Nat) : Nat := k * 0xD6E8FEB86659FD93 % 2 ^ 64 / 2 ^ 32 * cap / 2 ^ 32

/-! ### Pond slots -/

def slotDflt : Nat → PondSlot := fun _ => .empty

def pondPut (c j : Nat) (v : PondSlot) (s : State) : State :=
  modVoxCtx c (fun x => { x with table := smSet slotDflt x.table j v }) s

/-- The code words of a slot: the four of its entry and the one that holds its state (R127). -/
def pondWords (j : Nat) : List Nat := [8 * j, 8 * j + 1, 8 * j + 2, 8 * j + 3, 256 * (j / 32) + 4]

/-- Reads a slot through the codes of its words (R127): each word in error is counted, an uncorrectable one discards the
entry. -/
def pondAt (c j : Nat) (s : State) : PondSlot × State :=
  let x := voxCtx s c
  let v := smGet slotDflt x.table j
  let errs := (pondWords j).map (smGet upZero x.up)
  let one := (errs.filter (· == 1)).length
  let more := (errs.filter fun e => decide (2 ≤ e)).length
  if one + more = 0 then (v, s)
  else
    let up := (pondWords j).foldl (fun m k => smSet upZero m k 0) x.up
    let s := regCountField (voxReg 0x0C) 0 16 one s
    if more = 0 then (v, setVoxCtx c { x with up := up } s)
    else
      let lost := match v with
        | .live _ => 1
        | _ => 0
      (.empty, voxCode .pondUe [] (regCountField (voxReg 0x0C) 16 16 more
        (setVoxCtx c { x with up := up, table := smSet slotDflt x.table j .empty, live := x.live - lost,
                              partial_ := true, degraded := true } s)))

/-- Where the place procedure of R109 ends. -/
inductive ProbeEnd where
  | found (j : Nat) (e : PondEntry)
  | free (j : Nat)
  | noroom
  deriving DecidableEq, Repr

/-- The probe sequence: `n` probes left, the first TOMB seen. -/
def pondProbe (c key cap home : Nat) : Nat → Nat → Option Nat → State → ProbeEnd × State
  | 0, _, free, s => (match free with
    | some j => .free j
    | none => .noroom, s)
  | n + 1, i, free, s =>
    let j := (home + i) % cap
    match pondAt c j s with
    | (.live e, s) => if e.key = key then (.found j e, s) else pondProbe c key cap home n (i + 1) free s
    | (.tomb, s) => pondProbe c key cap home n (i + 1) (some (free.getD j)) s
    | (.empty, s) => (.free (free.getD j), s)

/-- The new sample is preferred (R111): FIRST compares `TS32`, which the fold alone can find earlier. -/
def samplePref (s : State) (c : Nat) (fold : Bool) (old new : PondEntry) : Bool :=
  match ctxNat s c 0x21 with
  | 0 => fold && serialCmp 32 new.ts old.ts == some (-1)
  | 1 => lt32 (voxDist s c old.key new.x new.y new.z) (voxDist s c old.key old.x old.y old.z)
  | _ => decide (old.int < new.int)

/-- Two entries of one key: a point leaves `TS32` unchanged (R111), a folded entry the earlier one (R114). -/
def pondMerge (s : State) (c : Nat) (fold : Bool) (old new : PondEntry) : PondEntry :=
  let e := { old with count := satAdd 16 old.count new.count, meta_ := old.meta_ ||| new.meta_,
                      ts := if fold && serialCmp 32 new.ts old.ts == some (-1) then new.ts else old.ts }
  if samplePref s c fold old new then
    { e with x := new.x, y := new.y, z := new.z, int := new.int, colw := new.colw, row := new.row, slice := new.slice }
  else e

/-- Places an entry (R109): merged, new, or no room. -/
def pondPlace (c : Nat) (fold : Bool) (new : PondEntry) (s : State) : Bool × State :=
  let x := voxCtx s c
  let cap := pondCap x
  match pondProbe c new.key cap (pondHome new.key cap) 8 0 none s with
  | (.found j e, s) => (true, pondPut c j (.live (pondMerge s c fold e new)) s)
  | (.free j, s) =>
    let x := voxCtx s c
    let s := pondPut c j (.live { new with born := x.born }) s
    (true, modVoxCtx c (fun x => { x with live := x.live + 1, born := x.born + 1, high := max x.high (x.live + 1) }) s)
  | (.noroom, s) => (false, s)

/-! ### Points (R105, R111 to R114) -/

/-- A coarsening request is set (R113, R115). -/
def coarsenReq (c slice : Nat) (s : State) : State :=
  modVoxCtx c (fun x => if x.level < 3 ∧ !x.folding ∧ x.req.isNone then { x with req := some slice } else x) s

/-- A request takes effect (R114): the level rises and the fold starts. -/
def coarsenStart (c : Nat) (s : State) : State :=
  let x := voxCtx s c
  let s := regWrap (voxCtxReg c 0x20) 1 (setVoxCtx c { x with level := x.level + 1, req := none, folding := true } s)
  voxCode .pondCoarsen [BitVec.ofNat 32 (x.level + 1)] s

/-- A point without room (R112). -/
def pondNoroom (c n : Nat) (s : State) : State :=
  let x := voxCtx s c
  let s := regCount (voxCtxReg c 0x14) n (setVoxCtx c { x with noroom := satAdd 32 x.noroom n, partial_ := true, noroomSeen := true } s)
  if x.noroomSeen then s else voxCode .pondNoroom [] s

/-- One point of an open sweep is keyed and placed. -/
def voxInsert (p : PointRec) (s : State) : State :=
  let c := p.ctx
  match voxIndices s p with
  | none => regCount (voxCtxReg c 0x10) 1 (modVoxCtx c (fun x => { x with inserting := true }) s)
  | some (ix, iy, iz) =>
    let s := match (voxCtx s c).req with
      | some sl => if sl = p.slice then s else coarsenStart c s
      | none => s
    let l := (voxCtx s c).level
    let t := stampOf s islVox p.ts
    let s := keepStamp islVox t (modVoxCtx c (fun x => { x with inserting := true, lastSlice := p.slice }) s)
    let e : PondEntry := { key := voxKey (ix / 2 ^ l) (iy / 2 ^ l) (iz / 2 ^ l) l, count := 1, x := p.x, y := p.y, z := p.z,
                           int := p.int, colw := p.colw, row := p.row, slice := p.slice,
                           meta_ := bitAt (bitOf p.colw 15) 0 + bitAt (bitOf p.colw 14) 1, ts := t % 2 ^ 32, born := 0 }
    match pondPlace c false e s with
    | (true, s) => if pondHigh (voxCtx s c) ≤ (voxCtx s c).live then coarsenReq c p.slice s else s
    | (false, s) => coarsenReq c p.slice (pondNoroom c 1 s)

/-! ### The hold buffer (R118) -/

def isHeldPt : VoxIn → Bool
  | .pt _ => true
  | .sum _ => false

def inCtx : VoxIn → Nat
  | .pt p => p.ctx
  | .sum x => x.ctx

/-- `TS64` that an entry of the Weir carries (R52). -/
def inTs : VoxIn → Nat
  | .pt p => p.ts
  | .sum x => x.close

def holdLevel (s : State) : Nat := (s.vox.hold.filter isHeldPt).length

/-- Summaries of sweeps of a context in the hold buffer, gaps apart: a point that comes now belongs to the sweep after them. -/
def heldSums (s : State) (c : Nat) : Nat := (s.vox.hold.filter fun v => match v with
  | .sum x => !x.gap && x.ctx == c
  | .pt _ => false).length

/-- An item waits behind the closed sweep of its context; a point without room is lost, the first of its sweep journaled. -/
def holdPut (v : VoxIn) (s : State) : State :=
  if isHeldPt v && decide (131072 ≤ holdLevel s) then
    let c := inCtx v
    let x := voxCtx s c
    let n := heldSums s c
    let s := regCount (voxCtxReg c 0x18) 1 s
    if x.holdLost.contains n then s else voxCode .holdDrop [] (setVoxCtx c { x with holdLost := x.holdLost ++ [n] } s)
  else
    let s := { s with vox := { s.vox with hold := s.vox.hold ++ [v] } }
    if (regGet s (voxReg 8)).toNat < holdLevel s then regPut (voxReg 8) (BitVec.ofNat 32 (holdLevel s)) s else s

/-- Binding `i` still waits for a sweep of a context. -/
def boundOpen (c : Nat) (j : Job) (i : Nat) : Bool :=
  (j.res.getD i none).isNone && (match j.binds.getD i .none with
    | .stream d _ _ => d == c
    | _ => false)

/-- Binding `i` of a job waits for a sweep of a context. -/
def bindWaits (c seq : Nat) (j : Job) (i : Nat) : Bool :=
  boundOpen c j i && (match j.binds.getD i .none with
    | .stream _ next q => next || q == seq
    | _ => false)

/-- The QUEUED jobs that wait for a sweep. -/
def sweepRefs (c seq : Nat) (s : State) : List JobRef :=
  (s.hst.jobs.filter fun e => e.2.st == .queued && (List.range e.2.binds.length).any (bindWaits c seq e.2)).map fun e =>
    ⟨e.1, tagGen e.2⟩

/-- A sweep-ready leaves for the job table. -/
def readyPut (c seq : Nat) (skipped : Bool) (s : State) : State :=
  modVoxCtx c (fun x => { x with seq := seq, anySeq := true })
    { s with vox := { s.vox with ready := s.vox.ready ++ [⟨c, seq, skipped, sweepRefs c seq s⟩] } }

/-- A summary reaches a context with no closed sweep: the sweep is sealed, a gap ends at once (R82, R117). -/
def voxSeal (x : SweepSum) (s : State) : State :=
  if x.gap then readyPut x.ctx x.seq true s
  else modVoxCtx x.ctx (fun v => { v with sealed := some x, req := none }) s

/-- One item in order: it waits behind a closed sweep, or takes effect. -/
def voxTake (v : VoxIn) (s : State) : State :=
  if (voxCtx s (inCtx v)).sealed.isSome then holdPut v s
  else match v with
  | .pt p => voxInsert p s
  | .sum x => voxSeal x s

/-- Items of a context leave the hold buffer in order until a summary seals the next sweep. -/
def holdDrain (c : Nat) : List VoxIn → List VoxIn → State → State
  | [], kept, s => { s with vox := { s.vox with hold := kept.reverse } }
  | v :: r, kept, s =>
    if inCtx v = c ∧ (voxCtx s c).sealed.isNone then holdDrain c r kept (match v with
      | .pt p => voxInsert p s
      | .sum x => voxSeal x s)
    else holdDrain c r (v :: kept) s

/-- Nothing of the context is under way in ING or VOX. -/
def voxQuiet (s : State) (c : Nat) : Bool :=
  let x := voxCtx s c
  x.sealed.isNone && !x.folding && x.table.isEmpty && !(s.vox.weir.any fun v => inCtx v == c) && !(s.vox.hold.any fun v => inCtx v == c)
    && !(s.ing.deskew.any fun i => match i with
      | .pt p => p.ctx == c
      | .sum x => x.ctx == c)

/-- Pages that a context holds: its allotment, and the new one where it was enabled again meanwhile; none once it is
disabled and its last sweep has been emitted or skipped (R104). -/
def heldPages (s : State) (c : Nat) : Nat :=
  if !ctxRuns (ingCtx s c) && voxQuiet s c then 0
  else (voxCtx s c).pages + if (voxCtx s c).renew then ctxNat s c 0x20 else 0

/-- Free Pond pages (R104). -/
def freePages (s : State) : Nat := 128 - ((List.range 128).map (heldPages s)).sum

/-- The pages of a disabled context return once its last sweep has been emitted or skipped (R104). -/
def voxSettle (c : Nat) (s : State) : State :=
  if !ctxRuns (ingCtx s c) && voxQuiet s c then modVoxCtx c (fun x => { x with pages := 0, renew := false, inserting := false }) s
  else s

/-- The entry at the front of the Weir from ING, where it is of the kind asked and its crossing is over (R52, R531); the
source that stalled puts in what waits. -/
def voxStep (pt : Bool) (s : State) : State :=
  match s.vox.weir with
  | v :: r =>
    if isReady s && isHeldPt v == pt && crossed s islVox (inTs v) then
      let s := voxSettle (inCtx v) (voxTake v { s with vox := { s.vox with weir := r } })
      flushSums s.ing.deskew s
    else s
  | [] => s

/-- VOX_POINT_INSERT (R109). -/
def execVoxPointInsert (s : State) : Host.Outcome State Fault Refusal := .next (voxStep true s)

/-- SWEEP_SUMMARY (R83). -/
def execSweepSummary (s : State) : Host.Outcome State Fault Refusal := .next (voxStep false s)

/-! ### The fold (R114 to R117) -/

/-- LIVE entries in the order of their creation. -/
def liveEntries (x : VoxCtx) : List (Nat × PondEntry) :=
  (x.table.filterMap fun e => match e.2 with
    | .live v => some (e.1, v)
    | _ => none).mergeSort fun a b => decide (a.2.born ≤ b.2.born)

/-- One folded entry. -/
def foldOne (c : Nat) (s : State) (e : Nat × PondEntry) : State :=
  match pondAt c e.1 s with
  | (.live v, s) =>
    if v.key ≠ e.2.key then s
    else
      let s := pondPut c e.1 .tomb (modVoxCtx c (fun x => { x with live := x.live - 1 }) s)
      match pondPlace c true { v with key := keyUp v.key } s with
      | (true, s) => s
      | (false, s) => pondNoroomFold c v.count s
  | (_, s) => s
where
  /-- A folded entry without room is lost (R114). -/
  pondNoroomFold (c n : Nat) (s : State) : State :=
    regCount (voxCtxReg c 0x14) n (modVoxCtx c (fun x => { x with noroom := satAdd 32 x.noroom n, partial_ := true }) s)

/-- FOLD_COMPLETE (R114, R115): every entry of the level below, then one comparison with the high-water mark. -/
def foldComplete (c : Nat) (s : State) : State :=
  let x := voxCtx s c
  if isReady s && x.folding then
    let es := (liveEntries x).filter fun e => keyLevel e.2.key + 1 == x.level
    let s := modVoxCtx c (fun x => { x with folding := false }) (es.foldl (foldOne c) s)
    let x := voxCtx s c
    if pondHigh x ≤ x.live ∧ x.sealed.isNone then coarsenReq c x.lastSlice s else s
  else s

def execFoldComplete (ctx : Fin 128) (s : State) : Host.Outcome State Fault Refusal := .next (foldComplete ctx.val s)

/-! ### Emission (R119 to R124) -/

def alignUp (n a : Nat) : Nat := (n + a - 1) / a * a

/-- Bytes of the largest tensor of `c` sites (R123, R153, R228). -/
def slotReq (cap : Nat) : Nat := alignUp (64 + 8 * cap) 64 + alignUp (33 * cap) 64 + 192 * ((cap + 63) / 64)

/-- Code of the current slot of a window string (R409). -/
def slotCode (s : State) (sub : Nat) : Nat :=
  let w := smGet odDefault s.budget (odKey 0x2500 sub)
  let b := field w (s.slotNo % 64 / 2) 1
  if s.slotNo % 2 = 0 then b % 16 else b / 16

/-- A slot code admits a partition. -/
def codeAdmits (code p : Nat) : Bool := code == 8 || code == p

/-- Place of a partition in the round robin of an OPEN slot: `u` is 0 VOX, 1 SEL, 2 host DMA (R409). -/
def openPlace (s : State) (u p : Nat) : Nat := (p + 7 - vget s.openLast u 7) % 8

/-- In an OPEN slot no waiting partition comes before this one. -/
def openTurn (s : State) (u p : Nat) (waits : Nat → Bool) : Bool :=
  slotCode s (0x20 + u) != 8 || !((List.range 8).any fun q => waits q && decide (openPlace s u q < openPlace s u p))

/-- The unit has served a partition. -/
def openServe (u p : Nat) (s : State) : State :=
  if slotCode s (0x20 + u) = 8 then { s with openLast := vset s.openLast u p } else s

/-- FP32 features of an entry, FP16 once rounded (R122). -/
def voxFeatures (s : State) (c close : Nat) (e : PondEntry) : List Nat :=
  let x := voxCtx s c
  let l := keyLevel e.key
  let d (v a : Nat) : Nat := mul32 (mul32 (sub32 v (keyCentre s c a e.key)) x.inv) (pow32 (-(l : Int)))
  let sq (v : Nat) : Nat := mul32 v v
  let age : Int := signed 32 ((close + 2 ^ 32 - e.ts) % 2 ^ 32)
  let vals := [d e.x 0, d e.y 1, d e.z 2, mul32 (itof32 e.int) 0x3B800000,
    sqrt32 (add32 (add32 (sq e.x) (sq e.y)) (sq e.z)), itof32 (min e.count 2048), itof32 (bits e.colw 12 2),
    div32 (r32 (ofInt age)) 0x49742400, if bitOf e.meta_ 1 then 0x3F800000 else 0, if bitOf e.meta_ 0 then 0x3F800000 else 0]
  (List.range 16).map fun i => if bitOf x.feat i then convTo 5 none false (vals.getD i 0) else 0

/-- What an emission writes after the header: coordinate list, features, tile metadata (R119, R121, R122, R228). -/
def voxBody (s : State) (c close : Nat) (es : List PondEntry) : List Byte :=
  let n := es.length
  let coords := es.flatMap fun e => leBytes 6 e.key ++ leBytes 2 e.count
  let groups := es.map fun e => [sg16Enc 0x15 (voxFeatures s c close e)]
  let feats := groups.flatten.flatten
  let tiles := chunks 64 groups
  let lens := tiles.map fun t => (t.flatten.map (·.length)).sum
  let recs := ((List.range tiles.length).map fun i => tileRecord ((lens.take i).sum) 1 (tiles.getD i [])).flatten
  coords ++ zeros (alignUp (8 * n) 64 - 8 * n) ++ feats ++ zeros (alignUp feats.length 64 - feats.length) ++ recs

/-- Flags of the tensor (R125). -/
def voxFlags (s : State) (c : Nat) (x : VoxCtx) (m : SweepSum) : Nat :=
  bitAt (startLevel s c < x.level) 0 + bitAt x.partial_ 1 + bitAt m.nopose 2 + bitAt (m.degraded || x.degraded) 3

/-- The tensor header (R120). -/
def voxHeader (s : State) (c emit n : Nat) (x : VoxCtx) (m : SweepSum) : List Byte :=
  let h := leBytes 2 0x5658 ++ leBytes 1 c ++ leBytes 1 (ctxNat s c 0x17) ++ leBytes 4 m.seq ++ leBytes 8 m.tref
    ++ leBytes 8 m.close ++ leBytes 8 emit ++ leBytes 4 n ++ leBytes 1 (x.level + 16 * startLevel s c)
    ++ leBytes 1 (voxFlags s c x m) ++ leBytes 2 x.feat ++ leBytes 4 (mul32 (baseEdge s c) (pow32 x.level))
    ++ leBytes 4 (roiMin s c 0) ++ leBytes 4 (roiMin s c 1) ++ leBytes 4 (roiMin s c 2) ++ leBytes 4 x.noroom
  h ++ leBytes 4 (crc32c h)

/-- Writes whole lines of DRAM from a device address, as VOX and the copies of R403 do. -/
def dramWrite (isl : Nat) : Nat → List (List Byte) → State → State
  | _, [], s => s
  | a, l :: ls, s =>
    match agentWrite a (slice l 0 64) (memPlain a s) with
    | (.ok _, s) => dramWrite isl (a + 64) ls s
    | (.error f, s) => dramWrite isl (a + 64) ls (raise (plainFault f isl none) s)

/-- Writes lines into a Basin by physical offset; a line inside a weight window is not written (R185). -/
def basinWritePhys (isl core : Nat) : Nat → List (List Byte) → State → State
  | _, [], s => s
  | a, l :: ls, s =>
    let x := coreOf s core
    if (winOf x (a / 4096)).isSome then basinWritePhys isl core (a + 64) ls (raise (plainFault .weightWrite isl none) s)
    else basinWritePhys isl core (a + 64) ls (setCore core (basinStore a (slice l 0 64) x) s)

/-- Writes bytes of a tensor into its slot, at an offset that is a multiple of 64. DESIGN CHOICE, notes/assumptions/78: where
the settings come from for a context disabled meanwhile. -/
def emitWrite (c off : Nat) (b : List Byte) (s : State) : State :=
  let slot := (voxCtx s c).sealed.elim 0 fun m => m.seq % ctxNat s c 0x24
  let a := ctxNat s c 0x23 + slot * ctxNat s c 0x25 + off
  if ctxNat s c 0x22 = 1 then basinWritePhys islVox (ctxNat s c 0x26) a (chunks 64 b) s
  else dramWrite islVox a (chunks 64 b) s

/-- The sweep that a slot holds is named by an admitted job (R123). -/
def slotBusy (s : State) (c seq : Nat) : Bool :=
  s.hst.jobs.any fun e => jobAdmitted e.2 && e.2.res.any fun r => match r with
    | some b => b.slot.isSome && b.ctx == c && b.seq == seq
    | none => false

/-- A sweep that finds its slot busy is not written (R123). -/
def emitSkip (c : Nat) (m : SweepSum) (s : State) : State :=
  voxCode .emitSkip [] (regCount (voxCtxReg c 0x1C) 1 (readyPut c m.seq true (modVoxCtx c (fun x => { x with clearing := true }) s)))

/-- QUEUED jobs whose binding can never resolve end FAILED with SWEEP_GONE (R371). -/
def sweepGone (gone : Job → Nat → Bool) (s : State) : State :=
  let dead := s.hst.jobs.filter fun e => e.2.st == .queued && (List.range e.2.binds.length).any (gone e.2)
  dead.foldl (fun s e => failBefore e.1 .sweepGone s) s

/-- Binding `i` was resolved to the sweep that a slot holds. -/
def boundSlot (c n : Nat) (j : Job) (i : Nat) : Bool :=
  match j.res.getD i none with
  | some b => b.ctx == c && (match b.slot with
    | some p => p.1 == n
    | none => false)
  | none => false

/-- A sealed sweep waits for its emission. -/
def emitReady (x : VoxCtx) : Bool := x.sealed.isSome && !x.folding && !x.emitting && !x.clearing

/-- The reader of a context that the current slot admits, first in the round robin (R409, R410). -/
def emitReader (s : State) (c : Nat) : Option Nat :=
  (takeMin (fun p q => decide (openPlace s 0 p < openPlace s 0 q))
    ((List.range 8).filter fun p => bitOf (ctxNat s c 0x15) p && codeAdmits (slotCode s 0x20) p)).map (·.1)

/-- Partitions whose emissions wait. -/
def emitWaits (s : State) (p : Nat) : Bool :=
  (List.range 128).any fun d => emitReady (voxCtx s d) && bitOf (ctxNat s d 0x15) p

/-- EMISSION_START (R119, R123, R409, R410). -/
def emissionStart (c : Nat) (s : State) : State :=
  let x := voxCtx s c
  match x.sealed, emitReader s c with
  | some m, some p =>
    if !isReady s || !emitReady x || !openTurn s 0 p (emitWaits s) then s
    else
      let s := openServe 0 p s
      let n := m.seq % ctxNat s c 0x24
      if (match vget x.slots n none with
          | some i => slotBusy s c i.seq
          | none => false) then emitSkip c m s
      else
        let s := modVoxCtx c (fun x => { x with emitting := true, slots := vset x.slots n none }) (sweepGone (boundSlot c n) s)
        let r := (liveEntries x).foldl (fun (r : List PondEntry × State) e => match pondAt c e.1 r.2 with
          | (.live v, s) => (r.1 ++ [v], s)
          | (_, s) => (r.1, s)) ([], s)
        emitWrite c 64 (voxBody r.2 c m.close (r.1.filter fun e => keyLevel e.key == x.level)) r.2
  | _, _ => s

def execEmissionStart (ctx : Fin 128) (s : State) : Host.Outcome State Fault Refusal := .next (emissionStart ctx.val s)

/-- EMISSION_COMPLETE (R119, R124): header, sweep-ready, and the allotment starts to clear. -/
def emissionComplete (c : Nat) (s : State) : State :=
  let x := voxCtx s c
  match x.sealed with
  | some m =>
    if isReady s && x.emitting then
      let t := stampOf s islVox m.close
      let n := ((liveEntries x).filter fun e => keyLevel e.2.key == x.level).length
      let s := emitWrite c 0 (voxHeader s c t n x m) (keepStamp islVox t s)
      let info : EmitInfo := ⟨m.seq, n, x.level + 16 * startLevel s c, voxFlags s c x m, m.tref, x.noroom⟩
      readyPut c m.seq false (modVoxCtx c (fun x => { x with
        emitting := false, clearing := true, peak := x.high, slots := vset x.slots (m.seq % ctxNat s c 0x24) (some info) }) s)
    else s
  | none => s

def execEmissionComplete (ctx : Fin 128) (s : State) : Host.Outcome State Fault Refusal := .next (emissionComplete ctx.val s)

/-- A context's allotment empty, ready for a sweep (R104). -/
def voxEmpty (s : State) (c : Nat) (x : VoxCtx) : VoxCtx :=
  { x with table := [], up := [], live := 0, high := 0, born := 0, inserting := false, level := startLevel s c, req := none, folding := false,
           partial_ := x.holdLost.contains 0, holdLost := (x.holdLost.filter (0 < ·)).map (· - 1), degraded := false, noroom := 0,
           noroomSeen := false, sealed := none, emitting := false, clearing := false }

/-- The pages, the reciprocal of the base edge (R105) and the feature mask that a context takes at `ENABLE`. -/
def voxReserve (s : State) (c : Nat) (x : VoxCtx) : VoxCtx :=
  { x with pages := ctxNat s c 0x20, renew := false, inv := div32 0x3F800000 (baseEdge s c), feat := odNat s (grpOf s c) 9,
           level := startLevel s c }

/-- ALLOTMENT_CLEARED (R118). -/
def allotmentCleared (c : Nat) (s : State) : State :=
  let x := voxCtx s c
  if isReady s && x.clearing then
    let s := setVoxCtx c (voxEmpty s c x) s
    let s := if x.renew then modVoxCtx c (voxReserve s c) s else s
    voxSettle c (holdDrain c s.vox.hold [] s)
  else s

def execAllotmentCleared (ctx : Fin 128) (s : State) : Host.Outcome State Fault Refusal := .next (allotmentCleared ctx.val s)

end Sys2Proof.Machine
end

