-- ==== Sys2Proof/Machine/Contexts.lean ====
section
/-! DEFINITION. Enabling and disabling a stream context (R70, R103, R104). -/

namespace Sys2Proof.Machine

/-- A product of an FP32 edge with a count, as an exact value. -/
def edgeTimes (n edge : Nat) : FVal := fmulX (.fin false n 0) (d32 edge)

/-- The region of one axis is empty, or longer than `n` edges. -/
def roiBad (s : State) (c a n : Nat) : Bool :=
  let lo := roiMin s c a
  let hi := roiMax s c a
  !lt32 lo hi || cmpX (edgeTimes n (baseEdge s c)) (faddX (d32 hi) (fneg (d32 lo))) == some (-1)

/-- Bytes of the ring of a context. -/
def emitBytes (s : State) (c : Nat) : Nat := ctxNat s c 0x24 * ctxNat s c 0x25

/-- A Basin-mode ring lies in the region of its one reader, on a core that is present (R103, reason 4). -/
def emitBasinOk (s : State) (c : Nat) : Bool :=
  let core := ctxNat s c 0x26
  match onesFrom (ctxNat s c 0x15) 0 8 with
  | [p] =>
    let r := recOf s p
    let b := prBasin r core
    prEn r && decide (b.1 * 4096 ≤ ctxNat s c 0x23) && decide (ctxNat s c 0x23 + emitBytes s c ≤ b.2 * 4096)
      && s.boot.corePresent.getLsbD core
  | _ => false

/-- A DRAM-mode ring lies in the stream region (R103, reason 5). -/
def emitDramOk (s : State) (c : Nat) : Bool :=
  let r := streamRegion s
  decide (r.1 ≤ ctxNat s c 0x23) && decide (ctxNat s c 0x23 + emitBytes s c ≤ r.1 + r.2)

/-- The reason of R103 for a refusal, in its order; 0 where none holds. -/
def voxReason (s : State) (c : Nat) : Nat :=
  if roiBad s c 0 65536 || roiBad s c 1 65536 || roiBad s c 2 4096 then 1
  else if freePages s < ctxNat s c 0x20 then 2
  else if ctxNat s c 0x25 < slotReq (ctxNat s c 0x20 * 4096) then 3
  else if ctxNat s c 0x22 = 1 then (if emitBasinOk s c then 0 else 4)
  else if emitDramOk s c then 0 else 5

/-- R70: a PLD that fails a check, or `MAX_SWEEP` below `SLICE`. -/
def ingReject (s : State) (c : Nat) : Bool :=
  !pldOk ⟨slice (ctxGet s c 7) 0 128⟩ (ctxNat s c 0x0C) || decide (ctxNat s c 0x10 < ctxNat s c 0x11)

/-- A write of `ENABLE` = 1: the abort code with the state (R70, R103), or the context accepts packets. -/
def contextOn (c : Nat) (s : State) : Nat × State :=
  if ctxEn s c then (0, s)
  else if ingReject s c then (0x06090030, s)
  else
    let k := voxReason s c
    if k ≠ 0 then (0x06090030, { s with vox := { s.vox with lastRej := k } })
    else
      let held := heldPages s c
      let s := modIngCtx c (fun x => { x with en := true, gapFrom := replica s islIng, silent := false }) s
      let s := modVoxCtx c (fun x => if held = 0 then voxReserve s c x else { x with renew := true }) s
      (0, odPut (0x2300 + c) 1 [1] s)

/-- Blocks of a context that are queued and not being read leave their queue; each increments `ING_INJ_DONE` (R70). -/
def injDiscard (c : Nat) (s : State) (h : Nat) : State :=
  match vget s.ing.inj h [] with
  | [] => s
  | b :: rest =>
    let gone := (rest.filter (·.ctx == c)).length
    regWrap (injReg h 0x214) gone { s with ing := { s.ing with inj := vset s.ing.inj h (b :: rest.filter (·.ctx != c)) } }

/-- A write of `ENABLE` = 0 (R70, R371). -/
def contextOff (c : Nat) (s : State) : State :=
  if !ctxEn s c then s
  else
    let s := odPut (0x2300 + c) 1 [0] ((List.range 4).foldl (injDiscard c) s)
    let s := { s with ing := { s.ing with macs := vmap s.ing.macs [] fun _ q => q.filter (·.ctx != c) } }
    let s := modIngCtx c (fun x => { x with en := false, closing := true }) s
    sweepGone (boundOpen c) (voxSettle c (ctxSettle c s))

end Sys2Proof.Machine
end

