-- ==== Sys2Proof/Machine/MatrixEngine.lean ====
section
/-! DEFINITION. The matrix engine (08, R142 to R146, R240 to R243): passes, the array and matrix-vector path, ABFT. -/

namespace Sys2Proof.Machine

/-! ### Shapes (R212, R213, R215, R217, R240) -/

/-- Working columns of a core (R216). -/
def coreWidth (s : State) (c : Nat) : Nat := let k := vget s.boot.width c 0xF; if k = 0xF then 0 else 64 - 4 * k

/-- Largest `K` of a pass (R208). -/
def passKMax (p : Pass) : Nat := (if passInt4 p then 128 else 64) / (if p.mmp then 2 else 1)

/-- Why a pass is not performed: class and width first, then the shape. -/
def passFault (s : State) (c : Nat) (p : Pass) : Option FaultCode :=
  let part := (ctxOf (coreOf s c)).part
  if p.mmp && partClass s part != 2 then some .packClass
  else if (p.mmp && coreWidth s c != 64) || (!p.mmp && decide (coreWidth s c < p.n)) then some .meWidth
  else if !passPair p || decide (4096 < p.m * passRate p) || decide (passKMax p < p.k) || (p.mmp && decide (32 < p.n))
      || decide (p.cstride < p.n) || (p.mmp && p.init == 1) || p.init == 3 || p.tile == 3
      || (p.tile != 0 && p.mmp) || (p.tile == 0) == isSg16 p.afmt
  then some .meShape
  else none

/-- A pass with no access at all (R215). -/
def passEmpty (p : Pass) : Bool := p.m == 0 || p.n == 0

/-- The pass runs on the matrix-vector path (R214). -/
def passMvp (p : Pass) : Bool := !p.mmp && decide (p.m ≤ 4)

/-- Weight lines of a tile (R208). -/
def weightLines (p : Pass) : Nat := if passFp16 p then 128 else if p.wfmt = 1 && p.afmt != 1 then 32 else 64

/-! ### Issue: the tile load -/

/-- Line ranges of the SG16 tiles of a pass from record `i` and site `m` on, as the records stand (R227): the records and
their groups. -/
def tileSpans (x : Core) (p : Pass) : Nat → Nat → Nat → List (Nat × Nat)
  | 0, _, _ => []
  | n + 1, i, m =>
    if p.m ≤ m then []
    else
      let o := p.a0 * 64 + 192 * i
      let h := basinBytes x ((ctxOf x).basinBase * 4096 + o) 16
      let g := p.a1 * 64 + field h 0 4
      let k := field h 6 1 % 128
      (o / 64, o / 64 + 2) :: (g / 64, (g + field h 4 2) / 64) :: tileSpans x p n (i + 1) (m + (if k = 0 then 64 else k))

/-- Line ranges of the activations (R202, R212, R240). -/
def actLines (x : Core) (p : Pass) : List (Nat × Nat) :=
  if p.k = 0 then []
  else if p.tile = 0 then
    (List.range (p.m * (if p.mmp then 2 else 1))).map fun i =>
      let o := p.a0 + i * (p.a1 % 2048) + p.a1 / 2048 % 64
      (o, if passFp16 p then o + 1 else o)
  else tileSpans x p p.m 0 0

/-- Line ranges that the epilogue reads, as its record stands (R203, R260, R264, R309). -/
def epiLines (x : Core) (p : Pass) : List (Nat × Nat) :=
  let e := epiOf (basinBytes x ((ctxOf x).basinBase * 4096 + p.epiOff * 256) 64)
  let rows := p.m * (if p.mmp then 4 else 1)
  let b := p.paramOff + checkBytes p / 64 + 4
  [(p.epiOff * 4, p.epiOff * 4), (b, if p.wfmt = 8 then b + 4 else b + 3)]
    ++ (if e.chain = 0 then [] else [(e.chnOff, e.chnOff + rows / 4)])
    ++ (if e.kmsken then [(e.kmaskOff, e.kmaskOff + rows / 8)] else [])
    ++ (if e.msken then [(e.maskOff + e.site0 / 512, e.maskOff + (e.site0 + rows) / 512)] else [])

/-- What a pass with its tile loaded has still to read of the Basin (R158). -/
def passLater (x : Core) (p : Pass) : List (Nat × Nat) := actLines x p ++ (if p.epi then epiLines x p else [])

/-- An MM or MMP pass at issue (R200 to R203, R208, R215): refused, empty, or its tile loaded through ME-WT. -/
def mePassLoad (a : Acc) (f : Flight) : EngM Flight := do
  let p := passOf f.d.w
  match passFault (← get) a.c p with
  | some e => stopF e
  | none => pure ()
  if passEmpty p then
    if p.wsrc then pure { f with loading := true } else doneWork a f
  else
    let tile ← (if p.k = 0 ∨ p.wsrc then pure [] else do
      let ws ← basinReadLines a true p.wtOff (weightLines p)
      let cs ← basinReadLines a true p.paramOff (checkBytes p / 64)
      pure (ws ++ cs))
    let bias ← if p.init = 1 then basinReadLines a true (p.paramOff + checkBytes p / 64) 4 else pure []
    let x := coreOf (← get) a.c
    modify (modRun a.c (releaseRead f.d.commit fun cis lo hi => (cis && p.epi) || linesMeet x 0 (passLater x p) cis lo hi))
    pure { f with loading := true, tile := tile ++ bias }

/-! ### Operands -/

/-- Element `i` of a row of bytes in a format. -/
def elemAt (fmt : Nat) (row : List Byte) (i : Nat) : Nat :=
  match fmt % 16 with
  | 1 => bits (field row (i / 2) 1) (4 * (i % 2)) 4
  | k => let b := elemBytes k; field row (i * b) b

/-- Weight of array row `k`, logical column `n` (R202). -/
def weightAt (p : Pass) (tile : List (List Byte)) (k n : Nat) : Nat :=
  if passFp16 p then field (tile.getD (2 * k + n / 32) []) (2 * (n % 32)) 2
  else if p.wfmt = 1 then bits (field (tile.getD (k / 2) []) (32 * (k % 2) + n / 2) 1) (4 * (n % 2)) 4
  else field (tile.getD k []) n 1

/-- Word `j` of the check vector's row `k` (R218): `C0`, `C1`, `M0`, `M1`. A packed INT4 pass has array rows that the
`C` bytes of R203 do not reach: their words are free values (notes/assumptions/70). -/
def checkAt (p : Pass) (tile : List (List Byte)) (k j : Nat) : Nat :=
  let b := if passInt p then 8 else 16
  let o := k * b + 4 * j
  if checkBytes p ≤ o then (Config.checkBeyond k j).toNat
  else field (tile.getD (weightLines p + o / 64) []) (o % 64) 4

/-- Bias of a logical column. -/
def biasAt (bias : List (List Byte)) (n : Nat) : Nat := field (bias.getD (n / 16) []) (4 * (n % 16)) 4

/-- Sum of column weights of a half, as the tile link forms the check lines (R218, R262). -/
def linkCheck (p : Pass) (ws : List (List Byte)) (k j : Nat) : Nat :=
  let h := j % 2
  let cols := (List.range (if p.mmp then p.n else min 32 (p.n - 32 * h))).map (32 * h + ·)
  if passInt p then
    unsigned 32 ((cols.map fun n => (if p.wfmt = 1 then signed 4 (weightAt p ws k n) else signed 8 (weightAt p ws k n))).sum)
  else r32 ((cols.map fun n => let v := elemVal p.wfmt (weightAt p ws k n); if 2 ≤ j then fabs v else v).foldl faddX
    (.fin false 0 0))

/-- The check lines that the link computes from the weight lines of a tile. -/
def linkCheckLines (p : Pass) (ws : List (List Byte)) : List (List Byte) :=
  let per := if passInt p then 2 else 4
  let bytes := (List.range (checkBytes p / (4 * per))).flatMap fun k =>
    (List.range per).flatMap fun j => leBytes 4 (if k < p.k ∨ p.mmp then linkCheck p ws k j else 0)
  chunks 64 bytes

/-! ### One site -/

/-- What a site brings: rows with a contributing element, ascending, with their elements (R144). -/
def contrib (p : Pass) (row0 : Nat) (els : List Nat) : List (Nat × Nat) :=
  ((List.range p.k).map fun i => (row0 + i, els.getD i 0)).filter fun e => !elemZero p.afmt e.2

/-- One product (R132, R143). -/
def product (p : Pass) (a w : Nat) : Nat :=
  if passInt p then
    unsigned 32 ((if p.afmt = 1 then signed 4 a else signed 8 a) * (if p.wfmt = 1 then signed 4 w else signed 8 w))
  else r32 (fmulX (elemVal p.afmt a) (elemVal p.wfmt w))

def accAdd (int : Bool) (x y : Nat) : Nat := if int then (x + y) % 2 ^ 32 else add32 x y

/-- A sum in ascending order that starts with its first term (R145); `none` for no term. -/
def sumUp (int : Bool) : List Nat → Option Nat
  | [] => none
  | x :: xs => some (xs.foldl (accAdd int) x)

/-- The pass sum of a column (R145). -/
def passSum (p : Pass) (tile : List (List Byte)) (rows : List (Nat × Nat)) (col : Nat) : Option Nat :=
  sumUp (passInt p) (rows.map fun r => product p r.2 (weightAt p tile r.1 col))

/-- Values of R219 for one half: `S`, `P`, `A`, contributing rows, unmasked columns. -/
structure Abft where
  s : Nat
  p : Nat
  a : Nat
  ka : Nat
  na : Nat
  deriving DecidableEq, Repr

/-- An activation's product with a check value: exact modulo 2^32, or rounded (R219). -/
def checkProd (p : Pass) (a c : Nat) : Nat :=
  if passInt p then unsigned 32 ((if p.afmt = 1 then signed 4 a else signed 8 a) * signed 32 c)
  else r32 (fmulX (elemVal p.afmt a) (d32 c))

def abftOf (p : Pass) (tile : List (List Byte)) (rows : List (Nat × Nat)) (half : Nat) (sums : List Nat) : Abft :=
  let int := passInt p
  { s := (sumUp int sums).getD 0
    p := (sumUp int (rows.map fun r => checkProd p r.2 (checkAt p tile r.1 half))).getD 0
    a := if int then 0 else
      (sumUp false (rows.map fun r => r32 (fmulX (fabs (elemVal p.afmt r.2)) (d32 (checkAt p tile r.1 (2 + half)))))).getD 0
    ka := rows.length
    na := sums.length }

/-- Outcome of a comparison (R220, R221). -/
inductive AbftRes where
  | pass | skip | fail (nonfin : Bool)
  deriving DecidableEq, Repr

def abftCheck (int : Bool) (v : Abft) : AbftRes :=
  if int then (if v.s = v.p then .pass else .fail false)
  else if !isFinite32 v.a || !isFinite32 v.p || lt32 0x7F000000 v.a then .skip
  else if !isFinite32 v.s then .fail true
  else
    let tau := mul32 (r32 (ofInt (3 * v.ka + v.na + 4))) (add32 (mul32 0x34000000 v.a) 2)
    let d := fabs (faddX (d32 v.s) (fneg (d32 v.p)))
    if (cmpX d (d32 tau)).getD 0 ≤ 0 then .pass else .fail false

/-- `ME_BUSY_CYC`: cycles in which a wavefront enters the array or the MVP is active. -/
def meBusy (c n : Nat) (s : State) : State := regCount (kreg c 0x1018) n s

/-- `ME_FEED_PEAK` (R206): the sites that ME-ACT has read ahead. -/
def feedPeak (c n : Nat) (s : State) : State :=
  if (regGet s (kreg c 0x1024)).toNat < n then regPut (kreg c 0x1024) (BitVec.ofNat 32 n) s else s

/-- A 64-bit counter in two registers, wrapping. -/
def regWrap64 (lo hi d : Nat) (s : State) : State :=
  let v := ((regGet s hi).toNat * 2 ^ 32 + (regGet s lo).toNat + d) % 2 ^ 64
  regPut hi (BitVec.ofNat 32 (v / 2 ^ 32)) (regPut lo (BitVec.ofNat 32 v) s)

/-- Compares the halves of one site, both in one cycle; the lower failing half is recorded (R219 to R222). -/
def abftSite (a : Acc) (p : Pass) (q m : Nat) (vs : List (Nat × Abft)) : EngM Unit := do
  let rs := (vs.filter fun hv => hv.2.ka != 0 && hv.2.na != 0).map fun hv => (hv, abftCheck (passInt p) hv.2)
  modify (regWrap (kreg a.c 0x1030) (rs.filter fun r => r.2 != .skip).length)
  modify (regCount (kreg a.c 0x1034) (rs.filter fun r => r.2 == .skip).length)
  for r in rs do
    let hv := r.1
    match r.2 with
      | .fail nf =>
        let info := 2 ^ 31 + bitAt (!passInt p) 30 + bitAt nf 29 + bitAt (passMvp p) 28 + q % 4 * 2 ^ 26 + hv.1 * 2 ^ 25 + m % 4096
        let fresh := !bitOf (regGet (← get) (kreg a.c 0x1038)).toNat 31
        modify (regFirst (kreg a.c 0x1038) 31 info)
        if fresh then
          modify (regPut (kreg a.c 0x103C) (BitVec.ofNat 32 hv.2.s))
          modify (regPut (kreg a.c 0x1040) (BitVec.ofNat 32 hv.2.p))
        throw (.fault .abft m)
      | _ => pure ()

/-- One site of a sub-problem: its parity at the feeder queues (R207), its sums into the Cistern (R204), then its comparisons. -/
def meSite (a : Acc) (p : Pass) (tile bias : List (List Byte)) (q m : Nat) (els : List Nat) : EngM Unit := do
  let int := passInt p
  if !passMvp p && decide ((coreOf (← get) a.c).feedBad = some m) then
    modify (modCore a.c fun x => { x with feedBad := none })
    modify (regCount (kreg a.c 0x1028) 1)
    throw (.fault .feederParity m)
  let krows := if passInt4 p then 64 else 32
  let rows := contrib p (if p.mmp then krows * (q / 2) else 0) els
  let col0 := if p.mmp then 32 * (q % 2) else 0
  let sums := (List.range p.n).map fun n => passSum p tile rows (col0 + n)
  let w (f : Nat → Nat) : List Word := (List.range p.n).map fun n => BitVec.ofNat 32 (f n)
  let e := passRow p q m
  if rows.isEmpty then
    if p.init = 1 then let _ ← cisReq a .write e (w fun n => biasAt bias (col0 + n))
    else if p.init = 2 then let _ ← cisReq a .write e (w fun _ => 0)
  else
    let sum (n : Nat) : Nat := (sums.getD n none).getD 0
    if p.init = 0 then let _ ← cisReq a (.acc !int) e (w sum)
    else
      let start (n : Nat) : Nat := if p.init = 1 then biasAt bias (col0 + n) else 0
      let _ ← cisReq a .write e (w fun n => accAdd int (start n) (sum n))
    modify (regWrap64 (kreg a.c 0x1010) (kreg a.c 0x1014) (rows.length * p.n))
    let half (h : Nat) : List Nat := ((List.range p.n).filter fun n => (col0 + n) / 32 == h).map sum
    abftSite a p q m (([0, 1] : List Nat).map fun h => (h, abftOf p tile rows h (half h)))

/-! ### SG16 tiles (R225 to R227, R240 to R242, R249) -/

/-- A metadata record as its reader takes it. -/
structure TileMeta where
  byteOff : Nat
  byteLen : Nat
  nsite : Nat
  ngrp : Nat
  bands : Nat
  raw : List Byte
  deriving DecidableEq, Repr

def tileMetaOf (r : List Byte) : TileMeta :=
  let ns := field r 6 1 % 128
  let ng := field r 7 1 % 8
  { byteOff := field r 0 4, byteLen := field r 4 2, nsite := if ns = 0 ∨ 64 < ns then 64 else ns,
    ngrp := if ng = 0 ∨ 4 < ng then 4 else ng,
    bands := field r 8 1 + field r 9 1 + field r 10 1 + field r 11 1, raw := r }

/-- A parity failure of metadata (R227). -/
def metaBad {α : Type} (c : Nat) (idx : Nat) : EngM α := do
  modify (regCount (kreg c 0x2C3C) 1)
  throw (.fault .metaParity idx)

/-- Reads and checks the header of a record. -/
def readMeta (a : Acc) (off idx : Nat) : EngM TileMeta := do
  let r ← basinReadBytes a off 192
  if xorBytes (r.take 16) ≠ 0 then metaBad a.c idx
  pure (tileMetaOf r)

/-- `SOFF` of a site, checked when it is used. -/
def soffOf (a : Acc) (t : TileMeta) (j idx : Nat) : EngM Nat := do
  let v := field t.raw (0x10 + 2 * j) 2
  if parityOf 16 v = 1 then metaBad a.c idx
  pure (v % 16384)

/-- The last line read, which a reader of groups keeps: no line is read twice in a row. -/
abbrev LastLine : Type := Option (Nat × List Byte)

/-- `n` bytes of groups from a byte address; bytes at or past the tile's end read 0 without an access (R249). -/
def grpBytes (a : Acc) (hi : Nat) : Nat → Nat → LastLine → EngM (List Byte × LastLine)
  | 0, _, k => pure ([], k)
  | n + 1, o, k => do
    if hi ≤ o then
      let r ← grpBytes a hi n (o + 1) k
      pure (0 :: r.1, r.2)
    else
      let held := match k with
        | some l => if l.1 = o / 64 then some l.2 else none
        | none => none
      let b ← match held with
        | some b => pure b
        | none => basinRead a false (o / 64)
      let r ← grpBytes a hi n (o + 1) (some (o / 64, b))
      pure (b.getD (o % 64) 0 :: r.1, r.2)

/-- `n` groups from a byte address: a group's control byte gives its length (R151, R238). -/
def grpWalk (a : Acc) (code hi : Nat) : Nat → Nat → LastLine → EngM (List (List Byte) × LastLine)
  | 0, _, k => pure ([], k)
  | n + 1, o, k => do
    let h ← grpBytes a hi 1 o k
    let len := sg16Len code (h.1.headD 0)
    let g ← grpBytes a hi (len - 1) (o + 1) h.2
    let r ← grpWalk a code hi n (o + len) g.2
    pure ((h.1 ++ g.1) :: r.1, r.2)

/-- The groups of one site, one list of bytes each: only the lines that they span are read. -/
def siteGroups (a : Acc) (code grpOff : Nat) (t : TileMeta) (j idx : Nat) (k : LastLine) :
    EngM (List (List Byte) × LastLine) := do
  let o ← soffOf a t j idx
  grpWalk a code (grpOff + t.byteOff + t.byteLen) t.ngrp (grpOff + t.byteOff + o) k

/-- The 64 elements of a site in array row order (R242). -/
def expand (code : Nat) (gs : List (List Byte)) : List Nat := gs.flatMap (sg16Dec code)

/-- Sparse mode of a tile (R240, R241). -/
def tileSparse (p : Pass) (dcut : Nat) (t : TileMeta) : Bool :=
  !passMvp p && (p.tile == 1 || decide (100 * t.bands < dcut * t.nsite * t.ngrp))

/-- Steps in which a site advances the bands (R242, R243): its bands with a non-zero element in an unmasked row. -/
def bandStep (p : Pass) (els f : List Nat) : List Nat :=
  let on (b : Nat) : Nat :=
    bitAt ((List.range 16).any fun i => decide (16 * b + i < p.k) && !elemZero p.afmt (els.getD (16 * b + i) 0)) 0
  let f0 := f.getD 0 0 + on 0
  let f1 := max f0 (f.getD 1 0) + on 1
  let f2 := max f1 (f.getD 2 0) + on 2
  [f0, f1, f2, max f2 (f.getD 3 0) + on 3]

/-- Runs `k` sites of a tile from site `j` on: the bands' steps and the last line read. -/
def tileSites (a : Acc) (p : Pass) (tile bias : List (List Byte)) (t : TileMeta) (m : Nat) :
    Nat → Nat → List Nat → LastLine → EngM (List Nat × LastLine)
  | 0, _, f, k => pure (f, k)
  | n + 1, j, f, k => do
    let g ← siteGroups a p.afmt (p.a1 * 64) t j (m + j) k
    let els := expand p.afmt g.1
    meSite a p tile bias 0 (m + j) els
    tileSites a p tile bias t m n (j + 1) (bandStep p els f) g.2

/-- Runs the sites of SG16 tiles from record `i` and site `m` on, at most `n` records. -/
def meTiles (a : Acc) (p : Pass) (tile bias : List (List Byte)) (dcut : Nat) : Nat → Nat → Nat → LastLine → EngM Unit
  | 0, _, _, _ => pure ()
  | n + 1, i, m, l => do
    if p.m ≤ m then pure ()
    else
      let t ← readMeta a (p.a0 * 64 + 192 * i) m
      let k := min t.nsite (p.m - m)
      let sparse := tileSparse p dcut t
      modify (regCount (kreg a.c (if sparse then 0x2C38 else 0x2C34)) 1)
      let r ← tileSites a p tile bias t m k 0 [0, 0, 0, 0] l
      if !passMvp p then modify (meBusy a.c (passRate p * (if sparse then r.1.getD 3 0 else k)))
      meTiles a p tile bias dcut n (i + 1) (m + k) r.2

/-! ### Dense rows (R202, R212) -/

/-- The row of dense line index `i`, with the line's elements. -/
def denseRow (a : Acc) (p : Pass) (i : Nat) : EngM (List Byte) := do
  let off := p.a0 + i * (p.a1 % 2048) + p.a1 / 2048 % 64
  let ls ← basinReadLines a false off (if passFp16 p then 2 else 1)
  pure ls.flatten

/-- Runs the dense sites of a pass in order: in MMP, line 2m carries site m of quadrants 0 and 2, line 2m + 1 that of
quadrants 1 and 3. -/
def meDense (a : Acc) (p : Pass) (tile bias : List (List Byte)) : EngM Unit := do
  for m in List.range p.m do
    if p.mmp then
      for o in [0, 1] do
        let row ← denseRow a p (2 * m + o)
        modify (meBusy a.c (passRate p / 2))
        for h in [0, 1] do
          let q := o + 2 * h
          let part := (row.drop (h * row.length / 2)).take (row.length / 2)
          meSite a p tile bias q m ((List.range p.k).map fun i => elemAt p.afmt part i)
    else
      let row ← denseRow a p m
      if !passMvp p then modify (meBusy a.c (passRate p))
      meSite a p tile bias 0 m ((List.range p.k).map fun i => elemAt p.afmt row i)

/-! ### The pass -/

/-- One tile of `n` lines out of the link, and the link after it: a closed tile of more lines leaves the rest to the next
pass, one of fewer is a whole tile, and an open one must hold them all (R262). -/
def linkTake (n : Nat) (r : CtxRun) : Option (List LinkLine × CtxRun) :=
  match r.link with
  | t :: rest => some (t.take n, { r with link := (if t.length ≤ n then [] else [t.drop n]) ++ rest })
  | [] => if n ≤ r.linkPart.length then some (r.linkPart.take n, { r with linkPart := r.linkPart.drop n }) else none

/-- Takes a tile from the tile link for a pass with `WSRC` 1 (R261 to R263). -/
def takeLink (a : Acc) (p : Pass) : EngM (List (List Byte)) := do
  let n := weightLines p
  match linkTake n (coreOf (← get) a.c).run with
  | none => throw .wait
  | some (t, r) =>
    modify (modRun a.c fun _ => r)
    if t.any (·.bad) then
      modify (regCount (kreg a.c 0x1848) 1)
      stopF .tilelinkParity
    let ws := (List.range n).map fun i => match t[i]? with
      | some l => l.bytes
      | none => zeros 64
    pure (ws ++ linkCheckLines p ws)

/-- The sites of a pass, in order. -/
def meStream (a : Acc) (p : Pass) (tile bias : List (List Byte)) : EngM Unit := do
  if p.k = 0 then
    for qm in passRows p do
      if !passMvp p then modify (meBusy a.c (passRate p / (if p.mmp then 4 else 1)))
      meSite a p tile bias qm.1 qm.2 []
  else if p.tile = 0 then meDense a p tile bias
  else meTiles a p tile bias (ctxOf (coreOf (← get) a.c)).dcut p.m 0 0 none

/-- A comparison of site `m` fails (R207, R222): a wavefront with a parity error that enters the array up to the cycle of
the comparison, 132 cycles after site `m`, raises its own code first. -/
def parityToo (a : Acc) (commit : Nat) (p : Pass) (m : Nat) (s : State) : State :=
  match (coreOf s a.c).feedBad with
  | some b =>
    if m < b ∧ b < p.m ∧ b * passRate p ≤ m * passRate p + 132 ∧ passMvp p = false then
      coreFault a.c a.eng (some commit) .feederParity
        (regCount (kreg a.c 0x1028) 1 (modCore a.c (fun x => { x with feedBad := none }) s))
    else s
  | none => s

/-- PASS_START (R200 to R215, R219 to R222, R240 to R247): the sites stream, the epilogue follows, every access is made. -/
def mePassRun (a : Acc) (f : Flight) : EngM Flight := do
  let p := passOf f.d.w
  let nb := if p.init = 1 then 4 else 0
  let bias := f.tile.drop (f.tile.length - nb)
  let tile ← (if p.wsrc then takeLink a p else pure (f.tile.take (f.tile.length - nb)))
  if passEmpty p then doneWork a { f with loading := false, tile := [] }
  else
    if passMvp p then
      modify (meBusy a.c ((if p.k = 0 then 0 else weightLines p + checkBytes p / 64) + nb + 6))
    else if p.k != 0 then modify (feedPeak a.c (min 16 p.m))
    tryCatch (meStream a p tile bias) fun e => do
      match e with
      | .fault .abft m => modify (parityToo a f.d.commit p m)
      | _ => pure ()
      throw e
    if p.epi then epilogue a p
    doneWork a { f with loading := false, tile := [] }

/-- MM (R200, R209). -/
def execMm (core : Fin 16) (s : State) : Host.Outcome State Fault Refusal := .next (issue core.val 0 1 mePassLoad s)

/-- MMP (R212, R213). -/
def execMmp (core : Fin 16) (s : State) : Host.Outcome State Fault Refusal := .next (issue core.val 0 2 mePassLoad s)

/-- The loading pass starts once no earlier pass of the ME has still to start. -/
def passStart (c : Nat) (s : State) : State :=
  let x := coreOf s c
  match x.run.flight.find? fun f => f.eng == 0 && f.loading with
  | some f =>
    if isReady s && x.active.isSome && f.failed.isNone && ((ctxOf x).st == .running) then runWork c f mePassRun s else s
  | none => s

/-- PASS_START (R209). A stop in progress lets every issued pass run to retirement (R210). -/
def execPassStart (core : Fin 16) (s : State) : Host.Outcome State Fault Refusal := .next (passStart core.val s)

end Sys2Proof.Machine
end

