-- ==== Sys2Proof/Machine/Latch.lean ====
section
/-! DEFINITION. The recovery latch (R460): what sets it and what stops with it. -/

namespace Sys2Proof.Machine

/-- A core with nothing in hand: every context FREE. -/
def coreIdle (x : Core) : Core := { x with ctx := Vector.replicate 8 {}, active := none, run := {}, stop := none, pre := none }

/-- Every engine, SEL, VOX and ING stops; jobs in flight end without records (R460). Memories and the deadline monitor
stand. -/
def stopWork (s : State) : State :=
  let s := { s with kc := vmap s.kc {} fun _ x => coreIdle x, fab := {}, sel := {}, hst := { s.hst with jobs := [] } }
  (List.range 16).foldl (fun s c => wwSettle c s) s

/-- The latch is set: reason `LATCH`, LATCH_SET journaled and sent, work stopped (R460). -/
def setLatch (s : State) : State :=
  if s.saf.latch then s
  else
    let ts := s.tb.master
    let s := setReason 14 0x0D03 ts { s with saf := { s.saf with latch := true } }
    emcyEvent 0x0D03 0 ts (stopWork (journal 23 1 0x0D03 ts (noJobTag none) 0x70FFFFFFFF 0 0 s))

/-- SEQ_WATCHDOG_EXPIRY (R460): the watchdog of the primary or of the shadow. -/
def execSeqWatchdogExpiry (shadow : Bool) (s : State) : Host.Outcome State Fault Refusal :=
  .next (
    let s := { s with saf := { s.saf with
      seqShadow := s.saf.seqShadow && !shadow, seqPrimary := s.saf.seqPrimary && shadow } }
    setLatch (raiseNoJob .seqWatchdog 23 s))

end Sys2Proof.Machine
end

