-- ==== Sys2Proof/Machine/Faults.lean ====
section
/-! DEFINITION. A fault at SAF, the abort of a job at its units, and the end of an attempt (R27, R429 to R434, R459 to
R463). -/

namespace Sys2Proof.Machine

/-! ### Arrival at SAF (R459) -/

/-- Class 0x08 codes whose records are limited in rate (R463). -/
def limitedCode (c : Nat) : Bool := [0x0801, 0x0802, 0x0803, 0x0805, 0x0806, 0x0808, 0x080A].contains c

/-- An arrival with a generation that does not match (R369). -/
def staleArrival (p : Nat) (s : State) : State :=
  let s := match ownerOf (partOf s p) with
    | some h =>
      let x := vget s.hst.ports h {}
      { s with hst := { s.hst with ports := vset s.hst.ports h { x with staleCnt := satAdd 32 x.staleCnt 1 } } }
    | none => s
  raiseLimited 1000000 (plainFault .stale islHst (some p)) s

/-- Counts lost at a full Weir, to be added to this record (R533). -/
def takeLost (isl code : Nat) (s : State) : Nat × State :=
  match takeFirst (fun e : Nat × Nat × Nat => e.1 == isl && e.2.1 == code) s.saf.lost with
  | some (e, r) => (e.2.2, { s with saf := { s.saf with lost := r } })
  | none => (0, s)

def detailPair (l : List Word) (i : Nat) : Nat := (l.getD i 0).toNat + (l.getD (i + 1) 0).toNat * 2 ^ 32

/-- The record of an arriving fault (R463). -/
def faultRecord (f : FaultRec) (s : State) : State :=
  let (lost, s) := takeLost f.isl f.code.num s
  let tag := match f.job with
    | some r => jobTag r.taggen (f.part.getD 0)
    | none => noJobTag f.part
  if f.code == .stale || limitedCode f.code.num || decide (0 < lost) then
    journal f.isl 5 f.code.num f.ts tag (f.count + lost) 0 0 s
  else
    let a0 := f.commit.getD 0xFFFFFFFF + f.core.getD 0 * 2 ^ 32 + f.eng * 2 ^ 36
    journal f.isl 1 f.code.num f.ts tag a0 (detailPair f.detail 0) (detailPair f.detail 2) s

/-- The codes of a reset, which has taken its jobs to DRAINING already (R385, R395). -/
def resetCode (c : FaultCode) : Bool := c == .hostReset || c == .partReset

/-- The action on the job of a fault (R27, R429, R434). -/
def faultJob (f : FaultRec) (seq : Nat) (s : State) : State :=
  match f.job with
  | none => s
  | some r =>
    let j := jobOf s r.slot
    if resetCode f.code || j.st == .queued || j.st == .restarting || decide (f.ts < j.startTs) then s
    else if jobEnded s r.slot && decide (lastEvent j < f.ts) then s
    else drainJob r.slot ⟨f.code.num, f.ts, f.isl, seq, f.code.job == .restartable, false⟩ s

/-- The actions of the primary sequencer (R459): record, message, reasons, Imago trigger, abort. -/
def faultAct (f : FaultRec) (s : State) : State :=
  let seq := vget s.tb.seq f.isl 0
  let s := faultRecord f s
  let s := match codeReason f.code with
    | some b => setReason b f.code.num (stampOf s 23 f.ts) s
    | none => s
  let s := if emcyCode f.code.num then emcyEvent f.code.num (match f.part with
    | some p => 2 ^ p
    | none => 0) f.ts s else s
  let s := if bitOf (imgFaultMask s) f.code.cls then imgTrigger 4 0xFF f.code.num s else s
  if abortsJob f then faultJob f seq s else s

/-- The job a fault names has another generation, or none (R369, R434); a reset's own fault is journaled whatever has become
of the job. -/
def faultStale (s : State) (f : FaultRec) : Bool :=
  abortsJob f && !resetCode f.code && !s.saf.latch && (match f.job with
    | some r => (jobOf s r.slot).st == .free || tagGen (jobOf s r.slot) != r.taggen
    | none => false)

/-- FAULT_ARRIVAL (R52, R429, R459, R460): the oldest fault of an island's Weir. `agree` tells whether the shadow's action word
equals the primary's. -/
def execFaultArrival (isl : Fin 24) (agree : Bool) (s : State) : Host.Outcome State Fault Refusal :=
  .next (
    match vget s.saf.weirs isl.val [] with
    | [] => s
    | f :: rest =>
      if !crossed s 23 f.ts then s
      else
      let s := weirPop isl.val rest { s with saf := { s.saf with seqCnt := wrapAdd 32 s.saf.seqCnt 1 } }
      let s := if faultStale s f then staleArrival (f.part.getD 0) s else faultAct f s
      if agree then s
      else setLatch (raiseNoJob .seqDisagree 23 { s with saf := { s.saf with seqAgree := false } }))

/-! ### The abort at a core (R430) -/

/-- Lines that a descriptor of DE or PEER has left (R314, R430); SEND moves one slot of its channel. -/
def flightLines (r : CtxRun) (f : Flight) : Nat :=
  let g (i lo len : Nat) : Nat := wbits f.d.w i lo len
  match g 0 0 8 with
  | 0x60 => (g 11 0 32 + 63) / 64 - f.pos * 64
  | 0x61 => g 12 0 18
  | 0x62 => g 13 0 18
  | 0x63 => g 12 16 12 * 64
  | 0x81 => (vget r.fwd (g 11 0 3) {}).slotl
  | _ => 0

/-- Steps that a waiting descriptor of GE has left: sites of KMAP, offsets of SORT, keys or pairs of GATHER and SCATTER,
rows of MASK (R424, R430). -/
def flightSteps (f : Flight) : Nat :=
  let g (i lo len : Nat) : Nat := wbits f.d.w i lo len
  match g 0 0 8 with
  | 0x42 => g 11 11 17
  | 0x43 => g 12 17 7
  | 0x44 => g 0 12 17
  | 0x45 => g 15 0 17
  | 0x46 => g 13 17 13
  | _ => 1025

/-- Lines or steps that a descriptor has left: its work, where that is still to do, and what it has under way with other
cores. -/
def flightLeft (r : CtxRun) (f : Flight) : Nat :=
  (if f.done then 0 else if f.eng = 2 then flightSteps f else flightLines r f) + f.outst

/-- A descriptor that the abort lets drain: in GE, DE or PEER, with little left (R430). -/
def drains (r : CtxRun) (f : Flight) : Bool :=
  f.failed.isNone && decide (2 ≤ f.eng) && (f.selw || decide (flightLeft r f ≤ if f.eng = 2 then 1024 else 256))

def descVis (d : QDesc) : Bool := bitOf (d.w.getD 0 0).toNat 11

def failRecs (c : Nat) (fs : List Flight) : List ItemRec :=
  fs.filterMap fun f => match f.failed with
    | some (code, ts) => if descVis f.d then some ⟨c, f.d.commit, code, ts, f.failIsl, f.failOrd⟩ else none
    | none => none

def abortRecs (c : Nat) (ds : List QDesc) : List ItemRec := (ds.filter descVis).map fun d => { core := c, commit := d.commit, code := 0, ev := 0 }

/-- The context of a job on a core. -/
def jobCtxAt (j : Job) (c : Nat) : Option Nat := (j.cores.find? (·.1 == c)).map (·.2)

/-- The control core stops at once; the staging buffer is cleared (R344). -/
def ccAbort (x : CcCtx) : CcCtx :=
  { x with
    st := .stopped, stage := stageEmpty, written := 0, seqPc := none, rsv := none, halt := none, pendCommit := none, pendWait := none }

/-- Accesses between cores that a stopped descriptor still had under way do not take place. -/
def fabDrop (c : Nat) (keep : List Nat) (s : State) : State :=
  { s with fab := { s.fab with
      remote := s.fab.remote.filter fun r => r.src != c || keep.contains r.commit
      landing := s.fab.landing.filter fun r => r.src != c || keep.contains r.commit } }

/-- The same for one descriptor. -/
def fabForget (c commit : Nat) (s : State) : State :=
  { s with fab := { s.fab with
      remote := s.fab.remote.filter fun r => r.src != c || r.commit != commit
      landing := s.fab.landing.filter fun r => r.src != c || r.commit != commit } }

/-- The abort at a core whose context runs. -/
def abortRunning (slot c n : Nat) (s : State) : State :=
  let x := coreOf s c
  let j := jobOf s slot
  let keep := x.run.flight.filter (drains x.run)
  let gone := x.run.flight.filter fun f => !drains x.run f
  let queued := x.run.runnels.toList.flatten
  let j := { j with
    failRec := j.failRec ++ failRecs c gone
    abortRec := j.abortRec ++ abortRecs c ((gone.filter (·.failed.isNone)).map (·.d) ++ queued)
    draining := j.draining ++ keep.map fun f => (c, f.d.commit, s.tb.master + 2000) }
  let s := fabDrop c (keep.map (·.d.commit)) (setJob slot j s)
  let run := { x.run with
    cc := ccAbort x.run.cc, runnels := Vector.replicate 5 [], flight := keep
    sb := x.run.sb.filter fun e => keep.any fun f => f.d.commit == e.commit }
  let s := setCore c { x with ctx := vset x.ctx n { tctx x n with st := .draining }, run := run, stop := none } s
  if keep.isEmpty then ctxFree c n s else s

/-- The abort at a core whose context does not run: saved descriptors are ABORTED, and the context becomes FREE without
restore (R434). -/
def abortSaved (slot c n : Nat) (s : State) : State :=
  let r := (tctx (coreOf s c) n).saved.getD {}
  let s := modJob slot (fun j => { j with
    failRec := j.failRec ++ failRecs c r.flight
    abortRec := j.abortRec ++ abortRecs c ((r.flight.filter (·.failed.isNone)).map (·.d) ++ r.runnels.toList.flatten) }) s
  ctxFree c n s

/-! ### The abort at SEL (R280, R384) -/

def selMine (slot taggen : Nat) (r : SelReq) : Bool := r.slot == slot && r.taggen == taggen

/-- Queued requests are discarded and the running one stops: a BOXES item gets an ABORTED RESULT record. -/
def abortSel (slot : Nat) (s : State) : State :=
  let j := jobOf s slot
  let mine := selMine slot (tagGen j)
  let run := match s.sel.done with
    | some r => if mine r.req then [r.req] else []
    | none => []
  let gone := run ++ s.sel.queue.toList.flatten.filter mine ++ s.sel.arr.filter mine
  let recs := (gone.filter fun r => field r.blk 0 1 == 1).map fun r => ({ core := r.core, commit := r.commit, code := 0, ev := 0 } : ItemRec)
  let s := { s with sel := { s.sel with
    arr := s.sel.arr.filter fun r => !mine r, queue := vmap s.sel.queue [] fun _ q => q.filter fun r => !mine r,
    done := match s.sel.done with
      | some r => if mine r.req then none else some r
      | none => none } }
  modJob slot (fun j => { j with resRec := j.resRec ++ recs }) s

/-- JOB_ABORT (R429, R430): the abort reaches a core (0 to 15), SEL (32) or HST (33). -/
def execJobAbort (slot : Fin 512) (unit : Nat) (s : State) : Host.Outcome State Fault Refusal :=
  .next (
    let j := jobOf s slot.val
    if j.st = .draining ∧ j.abortTo.contains unit then
      let s := setJob slot.val { j with abortTo := j.abortTo.filter (· != unit) } s
      if unit = 32 then abortSel slot.val s
      else match jobCtxAt j unit with
      | some n => if (coreOf s unit).active = some n then abortRunning slot.val unit n s else abortSaved slot.val unit n s
      | none => s
    else s)

/-! ### The end of the drain -/

/-- A drained descriptor has retired: the context becomes FREE with its last one. -/
def drainCheck (slot c commit : Nat) (s : State) : State :=
  let j := jobOf s slot
  if j.st = .draining ∧ j.draining.any (fun e => e.1 == c && e.2.1 == commit) then
    let s := setJob slot { j with draining := j.draining.filter fun e => !(e.1 == c && e.2.1 == commit) } s
    let x := coreOf s c
    match x.active with
    | some n => if (tctx x n).st == .draining && x.run.flight.isEmpty then ctxFree c n s else s
    | none => s
  else s

/-- One descriptor that has not retired within 2 us is stopped. -/
def drainStop (slot : Nat) (s : State) (e : Nat × Nat × Nat) : State :=
  let x := coreOf s e.1
  let fs := x.run.flight.filter (·.d.commit == e.2.1)
  let s := modJob slot (fun j => { j with
    failRec := j.failRec ++ failRecs e.1 fs
    abortRec := j.abortRec ++ abortRecs e.1 ((fs.filter (·.failed.isNone)).map (·.d)) }) s
  let s := fabForget e.1 e.2.1 (modRun e.1 (fun r => releaseAll e.2.1 (dropFlight e.2.1 r)) s)
  drainCheck slot e.1 e.2.1 s

/-- DRAIN_TIMEOUT (R430): what has drained for 2 us at its core is stopped. -/
def execDrainTimeout (slot : Fin 512) (s : State) : Host.Outcome State Fault Refusal :=
  .next (
    let j := jobOf s slot.val
    if j.st = .draining then (j.draining.filter fun e => decide (e.2.2 ≤ s.tb.master)).foldl (drainStop slot.val) s else s)

/-! ### The end of an attempt (R431, R432) -/

/-- An order by three keys, the first the most significant. -/
def keyBefore (a b : Nat × Nat × Nat) : Bool :=
  decide (a.1 < b.1) || (a.1 == b.1 && (decide (a.2.1 < b.2.1) || (a.2.1 == b.2.1 && decide (a.2.2 < b.2.2))))

/-- Inserts by a key; equal keys keep their order. -/
def insKey (key : ItemRec → Nat × Nat × Nat) (x : ItemRec) : List ItemRec → List ItemRec
  | [] => [x]
  | y :: ys => if keyBefore (key x) (key y) then x :: y :: ys else y :: insKey key x ys

def sortKey (key : ItemRec → Nat × Nat × Nat) (l : List ItemRec) : List ItemRec := l.foldl (fun a x => insKey key x a) []

/-- One held-back item record. -/
def itemOut (slot kind status : Nat) (s : State) (r : ItemRec) : State :=
  let j := jobOf s slot
  if j.silent then s
  else
    let s := setJob slot { j with rsv := j.rsv - 1, itemsAll := j.itemsAll + 1 } s
    postRecord j.part true r.ev ⟨tagGen j + j.part * 0x1000000, kind, status, r.code, r.ev,
      if kind = 2 then 0xFFFFFFFF else r.commit, if kind = 2 then 0xFF else r.core, j.attempt, 0, 0⟩ s

/-- An ABORTED record carries the code and the `TS64` of the fault that ended the attempt (R430). -/
def withCause (c : EndCause) (r : ItemRec) : ItemRec := { r with code := c.code, ev := c.ts }

/-- The records of an aborted attempt in the order of R431. -/
def attemptRecords (slot : Nat) (c : EndCause) (s : State) : State :=
  let j := jobOf s slot
  let s := (sortKey (fun r => (r.ev, r.isl, r.ord)) j.failRec).foldl (itemOut slot 1 2) s
  let s := j.doneRec.foldl (itemOut slot 1 0) s
  let s := (sortKey (fun r => (r.core, r.commit, 0)) j.abortRec).foldl (fun s r => itemOut slot 1 3 s (withCause c r)) s
  (sortKey (fun r => (r.commit, 0, 0)) j.resRec).foldl
    (fun s r => if r.code = 0 then itemOut slot 2 3 s (withCause c r) else itemOut slot 2 2 s r) s

/-- `PRT_FLT_INFO` and `PRT_FLT_CODE` (R438). -/
def fltInfo (p taggen code : Nat) (rst : Bool) (s : State) : State :=
  if bitOf (regGet s (prtKey p 0x20C)).toNat 31 then s
  else
    setPart p { partOf s p with fltCode := code }
      (regPut (prtKey p 0x20C) (BitVec.ofNat 32 (2 ^ 31 + bitAt rst 30 + taggen % 2 ^ 24)) s)

/-- The job may run again (R432). -/
def mayRestart (s : State) (j : Job) (c : EndCause) : Bool :=
  c.restart && decide (j.restarts < j.restart) && !j.cancelled && !j.silent && !j.noRestart && (match j.deadline with
    | some d => decide (stampOf s islHst 0 < d)
    | none => true)

/-- A restart (R432): journaled, counted, and the job waits for admission with the state of R328. -/
def jobRestart (slot : Nat) (s : State) : State :=
  let s := jobFreeCtx slot s
  let j := jobOf s slot
  let ts := stampOf s islHst 0
  let s := journal islHst 4 0x0D07 ts (jobTag (tagGen j) j.part) (j.items % 65536 + j.attempt % 256 * 65536) 0 0 s
  let s := setPart j.part { partOf s j.part with restartCnt := wrapAdd 32 (partOf s j.part).restartCnt 1 } s
  jobTo slot .restarting 0 (setJob slot { j with
    lastCause := j.cause, attempt := j.attempt + 1, restarts := j.restarts + 1, itemsPrev := j.itemsPrev + j.items, items := 0, cause := none
    failRec := [], doneRec := [], abortRec := [], resRec := [], predicted := false, invalid := false, wd := 0, lastRetire := 0
    endTs := 0 } s)

/-- ATTEMPT_END (R431, R432, R376). -/
def execAttemptEnd (slot : Fin 512) (s : State) : Host.Outcome State Fault Refusal :=
  .next (
    let j := jobOf s slot.val
    match j.cause with
    | none => s
    | some c =>
      if j.st = .draining ∧ j.abortTo = [] ∧ j.draining = [] ∧ (j.failRec ++ j.resRec).all (fun r => crossed s islHst r.ev) ∧ !s.sel.handed.any (fun r => selMine slot.val (tagGen j) r.req)
      then
        let s := attemptRecords slot.val c s
        let j := jobOf s slot.val
        let rst := mayRestart s j c
        let s := if c.cancel || j.cores.isEmpty then s else fltInfo j.part (tagGen j) c.code rst s
        if rst then jobRestart slot.val s
        else if j.cancelled then finalRecord slot.val 3 0x0B0A c.ts c.crossTs s
        else finalRecord slot.val 2 c.code c.ts c.crossTs s
      else s)

end Sys2Proof.Machine
end

