-- ==== Sys2Proof/Machine/Preempt.lean ====
section
/-! DEFINITION. Preemption (R424 to R428) and power failure (R471). -/

namespace Sys2Proof.Machine

/-- Raises a fault of the job of a context, met by the save or the restore. -/
def ctxFault (c n : Nat) (code : FaultCode) (s : State) : State :=
  let t := tctx (coreOf s c) n
  let s := regCount (prtKey t.part 0x21C) 1 s
  raise ⟨code, c, 0, some (jobRefOf t), some t.part, none, some c, 7, [], 1, false⟩ s

/-- A RUN stands at the end of a trip, its landings written. -/
def runParked (f : Flight) : Bool :=
  match f.ve with
  | some p => p.k % (wbits f.d.w 11 0 12 + 1) == 0 && p.land.isEmpty
  | none => true

/-- A descriptor stands at its stopping point (R424): a pass has left the ME; a RUN is at the end of a trip; SETUP and RINGSET
have completed; of an XFER every line of the pieces begun is moved, of a SEND or a SCATTER each line or row is one step. -/
def atStop (f : Flight) : Bool :=
  let opc := wbits f.d.w 0 0 8
  f.eng != 0 && (!([0x65, 0x80] : List Nat).contains opc || f.done) && (opc != 0x20 || runParked f)
    && (f.eng != 3 || ((wbits f.d.w 11 0 32 + 63) / 64 - f.outst) % 64 == 0 || f.outst == 0)

/-- Every engine of a core has reached its stopping point (R424). -/
def stopped (r : CtxRun) : Bool := r.flight.all atStop

/-- A fault or a cancel has reached a job, or a fault of it is on its way to SAF: no image of it is written (R434). -/
def jobFaulted (s : State) (slot : Nat) : Bool :=
  let j := jobOf s slot
  j.st == .draining || (List.range 24).any fun i => (weirAll s i).any fun f =>
    f.job == some ⟨slot, tagGen j⟩ && abortsJob f && decide (j.startTs ≤ f.ts)

/-! ### The Chrysalis area (R426, R427) -/

/-- `C0` for the capacity of the part. -/
def chryBase (s : State) : Nat := dramCap s - dramCap s / 32 + dramCap s / 1024 * 31

/-- Device address of the image of context `n` of core `c`: 64 KiB each. -/
def chryAddr (s : State) (c n : Nat) : Nat := chryBase s + (8 * c + n) * 0x10000

/-- The header that ends a save. -/
def chryHdr (t : TaskCtx) (r : CtxRun) (crc : Word) : ChryHdr :=
  { magic := 0x4843, taggen := t.taggen, stopTs := r.stopTs, commit := r.cc.commit, crc := crc }

/-- A header whose `MAGIC` and `TAGGEN` are the context's. -/
def chryHdrOk (t : TaskCtx) : Bool :=
  match t.hdr with
  | some h => h.magic == 0x4843 && h.taggen == t.taggen
  | none => false

/-- PREEMPT_STOPPED (R425, R434): the save starts. -/
def execPreemptStopped (core : Fin 16) (s : State) : Host.Outcome State Fault Refusal :=
  .next (
    let x := coreOf s core.val
    match x.stop, x.active with
    | some r, some y =>
      if isReady s && !r.saving && (tctx x y).st == .running && stopped x.run && !jobFaulted s (tctx x y).slot then
        setCore core.val { x with stop := some { r with saving := true } } s
      else s
    | _, _ => s)

/-- A message of a context that leaves its core. -/
def remOf (c : Nat) (t : TaskCtx) (r : RemReq) : Bool := r.src == c && r.taggen == t.taggen && r.part == t.part
def landOf (c : Nat) (t : TaskCtx) (r : Landing) : Bool := r.src == c && r.taggen == t.taggen && r.part == t.part

/-- The core leaves a context with its run saved: what its stopped descriptors had still to send is part of their
progress (R424). -/
def leaveCtx (c y : Nat) (st : TcState) (hdr : Option ChryHdr) (s : State) : State :=
  let x := coreOf s c
  let t := tctx x y
  let run := { x.run with rem := s.fab.remote.filter (remOf c t), land := s.fab.landing.filter (landOf c t) }
  setCore c { x with ctx := vset x.ctx y { t with st := st, saved := some run, hdr := hdr }, active := none, run := {}, stop := none }
    { s with fab := { s.fab with
        remote := s.fab.remote.filter fun r => !remOf c t r
        landing := s.fab.landing.filter fun r => !landOf c t r } }

/-- CHRYSALIS_SAVE_COMPLETE (R425, R428): `ok` is 0 where the save met an uncorrectable error or a lost message. Where a fault
has met the job meanwhile, no image is written and the context waits for its abort (R434). -/
def execChrysalisSaveComplete (core : Fin 16) (ok : Bool) (s : State) : Host.Outcome State Fault Refusal :=
  .next (
    let c := core.val
    let x := coreOf s c
    match x.stop, x.active with
    | some r, some y =>
      if isReady s && r.saving then
        let t := tctx x y
        if jobFaulted s t.slot then coreNext c (leaveCtx c y .draining none s)
        else if ok then
          let f := takeFree s
          let s := leaveCtx c y .preempted (some (chryHdr t x.run (Config.chryCrc f.1))) f.2
          let p := partOf s t.part
          let s := setPart t.part { p with preCnt := wrapAdd 32 p.preCnt 1 } s
          coreNext c (jobPreSync t.slot s)
        else coreNext c (leaveCtx c y .draining none (ctxFault c y .saveFault s))
      else s
    | _, _ => s)

/-- STOP_TIMEOUT (R425): an engine has not reached its stopping point 28,800 cycles after the request, 16 us at k = 16
(R528). -/
def execStopTimeout (core : Fin 16) (s : State) : Host.Outcome State Fault Refusal :=
  .next (
    let c := core.val
    let x := coreOf s c
    match x.stop, x.active with
    | some r, some y =>
      if isReady s && !r.saving && (tctx x y).st == .running && !stopped x.run
          && decide (r.since * vget s.clk.k c 16 + 256000 ≤ s.tb.master * vget s.clk.k c 16) then
        let s := ctxFault c y .stopTimeout s
        modCore c (fun x => { x with ctx := vset x.ctx y { tctx x y with st := .draining }, stop := none }) s
      else s
    | _, _ => s)

/-- CHRYSALIS_RESTORE (R422, R428): the PREEMPTED context of highest rank is checked and runs again; `ok` is 0 where its CRC or
a read of it fails. -/
def execChrysalisRestore (core : Fin 16) (ok : Bool) (s : State) : Host.Outcome State Fault Refusal :=
  .next (
    let c := core.val
    let x := coreOf s c
    match bestCtx s c with
    | some n =>
      let t := tctx x n
      if isReady s && x.active.isNone && x.stop.isNone && t.st == .preempted then
        if ok && chryHdrOk t then jobPreSync t.slot (startCtx c n s)
        else
          let s := ctxFault c n .restoreFault s
          let s := modCore c (fun x => { x with ctx := vset x.ctx n { tctx x n with st := .draining } }) s
          coreNext c (jobPreSync t.slot s)
      else s
    | none => s)

/-- PWRFAIL (R471): stamped, reason `PWR`, the pending queue cut to its 8 newest records, the PWRFAIL record among
them, each to carry `PWR`. -/
def execPwrfail (s : State) : Host.Outcome State Fault Refusal :=
  .next (
    if s.saf.pwrFail then s
    else
      let s := { s with saf := { s.saf with pwrFail := true } }
      let s := setReason 12 0x0A08 s.tb.master s
      let ts := s.tb.master
      let q := vget s.tb.seq 23 0
      let r : JRec := { seq := q, isl := 23, kind := 1, code := 0x0A08, ts := ts, tag := noJobTag none, flags := 17,
                        a0 := 0x70FFFFFFFF }
      let s := { s with tb := { s.tb with seq := vset s.tb.seq 23 (wrapAdd 32 q 1) } }
      let s := intakePut r s
      let l := s.jr.nvPend ++ [r]
      let s := { s with jr := { s.jr with nvPend := if s.jr.nvFail then [] else l.drop (l.length - 8) } }
      let s := if bitOf (imgFaultMask s) 10 then imgTrigger 4 0xFF 0x0A08 s else s
      emcyEvent 0x0A08 0 ts s)


end Sys2Proof.Machine
end

