-- ==== Sys2Proof/Machine/Translate.lean ====
section
/-! DEFINITION. Translation: I/O virtual addresses of a partition to device addresses (R399 to R404), and the accesses that
follow it. -/

namespace Sys2Proof.Machine

/-- Agents of `MMU_FAULT_INFO` (R420). -/
def agentCc (c : Nat) : Nat := c
def agentDe (c : Nat) : Nat := 16 + c
def agentHst : Nat := 32

/-! ### Refusals (R401) -/

/-- The first refusal is recorded in `MMU_FAULT_INFO` and `MMU_FAULT_VA`. -/
def mmuFault (agent p iova : Nat) (code : FaultCode) (s : State) : State :=
  if code.cls != 1 || bitOf (regGet s (prtKey p 0x11C)).toNat 31 then s
  else
    regPut (prtKey p 0x11C) (BitVec.ofNat 32 (2 ^ 31 + agent % 64 * 2 ^ 24 + code.num))
      (regPut (prtKey p 0x120) (BitVec.ofNat 32 iova) (regPut (prtKey p 0x124) (BitVec.ofNat 32 (iova / 2 ^ 32)) s))

/-- The range lies wholly in one region of the record, with `TBL` as stated. -/
def inRegion (r : List Byte) (tbl : Bool) (a n : Nat) : Bool :=
  (prDrams r).any fun d => d.tbl == tbl && decide (0 < d.size) && decide (d.base ≤ a) && decide (a + n ≤ d.base + d.size)

/-- Two ranges meet. -/
def meets (a n b m : Nat) : Bool := decide (a < b + m) && decide (b < a + n)

/-- A table version's bytes. -/
def verMeets (v : Option TblVer) (a n : Nat) : Bool := match v with
  | some v => meets a n v.addr v.len
  | none => false

/-- The range that a load protects (R349). -/
def protLoad (x : Part) (iova : Nat) : Bool := match x.ld.req with
  | some r => r.prot && meets iova 64 r.dst r.len
  | none => false

/-- The range that a table copy protects (R413). -/
def protTable (x : Part) (iova : Nat) : Bool := match x.tblOp with
  | some o => o.op == 1 && decide (0 < o.copied) && meets iova 64 o.dst o.len
  | none => false

/-- Programs and table versions of a partition (R349, R413, R414). -/
def protHeld (s : State) (p iova : Nat) : Bool :=
  (s.hst.progs.toList.any fun g => match g with
    | some g => g.part == p && meets iova 64 g.dst g.len
    | none => false)
    || (partOf s p).tables.toList.any fun t => verMeets t.cur iova 64 || verMeets t.standby iova 64

/-- The 64 bytes at an I/O virtual address meet a protected range. -/
def iovaProtected (s : State) (p iova : Nat) : Bool :=
  protHeld s p iova || protLoad (partOf s p) iova || protTable (partOf s p) iova

/-! ### The walk (R400, R404) -/

/-- One table entry of 8 bytes, read through one DRAM line. -/
def walkEntry (p a : Nat) (s : State) : Except FaultCode Nat × State :=
  let s := memToken p (lineOf a) (fabToken p s)
  match agentRead (lineOf a) s with
  | (.ok b, s) => (.ok (field b (a % 64) 8), s)
  | (.error .dramUe, s) => (.error .xlateWalk, s)
  | (.error e, s) => (.error e, s)

/-- The leaf of an I/O virtual address: page size, `W`, page. -/
def walkTables (p iova : Nat) (s : State) : Except FaultCode (Bool × Bool × Nat) × State :=
  let r := recOf s p
  match walkEntry p (prTroot r + 8 * (iova / 2 ^ 32)) s with
  | (.error e, s) => (.error e, s)
  | (.ok e, s) =>
    let big := bitOf e 1
    let t := bits e 14 34 * 2 ^ 14
    if !bitOf e 0 then (.error .xlateMiss, s)
    else if bits e 2 12 ≠ 0 ∨ bits e 48 16 ≠ 0 ∨ (!big ∧ bits e 14 5 ≠ 0) then (.error .xlateWalk, s)
    else if !inRegion r true t (if big then 16384 else 524288) then (.error .xlateWalk, s)
    else
      let i := if big then iova % 2 ^ 32 / 2 ^ 21 else iova % 2 ^ 32 / 2 ^ 16
      match walkEntry p (t + 8 * i) s with
      | (.error e, s) => (.error e, s)
      | (.ok l, s) =>
        let page := bits l 16 32 * 2 ^ 16
        if !bitOf l 0 then (.error .xlateMiss, s)
        else if bits l 2 14 ≠ 0 ∨ bits l 48 16 ≠ 0 ∨ (big ∧ bits l 16 5 ≠ 0) then (.error .xlateWalk, s)
        else if !inRegion r false page (if big then 2097152 else 65536) then (.error .xlateWalk, s)
        else (.ok (big, bitOf l 1, page), s)

/-! ### Translation caches (R404) -/

def pageShift (big : Bool) : Nat := if big then 21 else 16

def tcSetOf (e : TcEntry) : Nat := Config.tcSet e.vpn e.big % 64

def tcHit (agent p iova : Nat) (e : TcEntry) : Bool :=
  e.agent == agent && e.part == p && e.vpn == iova / 2 ^ pageShift e.big

/-- A leaf enters its cache as the most recently used; the fifth of a set leaves. -/
def tcFill (e : TcEntry) (l : List TcEntry) : List TcEntry :=
  let same := l.filter fun x => x.agent == e.agent && tcSetOf x == tcSetOf e
  if same.length < 4 then e :: l
  else match same.getLast? with
    | some v => e :: l.filter (· != v)
    | none => e :: l

/-- Invalidates every entry of a partition (R393, R395, R403, R420). -/
def tcInval (p : Nat) (s : State) : State := { s with tc := s.tc.filter (·.part != p) }

/-- The leaf of an address through the agent's cache; an entry with a parity error is invalidated, and the tables are walked
again. -/
def leafOf (agent p iova : Nat) (s : State) : Except FaultCode (Bool × Bool × Nat) × State :=
  let s := { s with tc := s.tc.filter fun e => !(tcHit agent p iova e && e.bad) }
  match s.tc.find? (tcHit agent p iova) with
  | some e => (.ok (e.big, e.w, e.page), { s with tc := e :: s.tc.filter (· != e) })
  | none =>
    match walkTables p iova (regCount (prtKey p 0x128) 1 s) with
    | (.error f, s) => (.error f, s)
    | (.ok (big, w, page), s) =>
      (.ok (big, w, page), { s with tc := tcFill ⟨agent, p, big, iova / 2 ^ pageShift big, w, page, false⟩ s.tc })

/-! ### Addresses (R399, R402) -/

/-- A read in the stream aperture (R402). -/
def streamAddr (s : State) (p iova : Nat) : Option Nat :=
  let c := bits iova 32 7
  let o := iova % 2 ^ 32
  if ctxEn s c && ctxNat s c 0x22 == 0 && bitOf (ctxNat s c 0x15) p && decide (o < ctxNat s c 0x24 * ctxNat s c 0x25)
  then some (ctxNat s c 0x23 + o) else none

/-- The device address of an I/O virtual address, for a read or a write of its line. -/
def xlate (agent p iova : Nat) (write : Bool) (s : State) : Except FaultCode Nat × State :=
  let r : Except FaultCode Nat × State :=
    if iova / 2 ^ 39 = 0x1FE then
      if write then (.error .xlatePerm, s)
      else match streamAddr s p iova with
        | some a => (.ok a, s)
        | none => (.error .streamDeny, s)
    else if iova / 2 ^ 40 = 0xFF then (.error .xlateMiss, s)
    else match leafOf agent p iova s with
      | (.error e, s) => (.error e, s)
      | (.ok (big, w, page), s) =>
        if write && (!w || iovaProtected s p (lineOf iova)) then (.error .xlatePerm, s)
        else (.ok (page + iova % 2 ^ pageShift big), s)
  match r with
  | (.error e, s) => (.error e, mmuFault agent p iova e s)
  | x => x

/-- A translation for a copy, `tbl` for that of a table: its own protection does not hold it back (R349, R413). -/
def xlateCopy (tbl : Bool) (p iova : Nat) (s : State) : Except FaultCode Nat × State :=
  let prot := protHeld s p iova || (if tbl then protLoad (partOf s p) iova else protTable (partOf s p) iova)
  if iova / 2 ^ 39 = 0x1FE then (.error .xlatePerm, mmuFault agentHst p iova .xlatePerm s)
  else if iova / 2 ^ 40 = 0xFF then (.error .xlateMiss, mmuFault agentHst p iova .xlateMiss s)
  else match leafOf agentHst p iova s with
    | (.error e, s) => (.error e, mmuFault agentHst p iova e s)
    | (.ok (big, w, page), s) =>
      if w && !prot then (.ok (page + iova % 2 ^ pageShift big), s) else (.error .xlatePerm, mmuFault agentHst p iova .xlatePerm s)

/-! ### Accesses by I/O virtual address -/

/-- Reads one line. -/
def iovaRead (agent p iova : Nat) (s : State) : Except FaultCode (List Byte) × State :=
  match xlate agent p iova false s with
  | (.error e, s) => (.error e, s)
  | (.ok a, s) => agentRead (lineOf a) (memToken p (lineOf a) (fabToken p s))

/-- Writes one line. -/
def iovaWrite (agent p iova : Nat) (bs : List Byte) (s : State) : Except FaultCode Unit × State :=
  match xlate agent p iova true s with
  | (.error e, s) => (.error e, s)
  | (.ok a, s) => agentWrite (lineOf a) bs (memToken p (lineOf a) (fabToken p s))

/-- Reads `n` lines. -/
def iovaReadLines (agent p iova : Nat) : Nat → State → Except FaultCode (List Byte) × State
  | 0, s => (.ok [], s)
  | n + 1, s =>
    match iovaRead agent p iova s with
    | (.error e, s) => (.error e, s)
    | (.ok b, s) =>
      match iovaReadLines agent p (iova + 64) n s with
      | (.error e, s) => (.error e, s)
      | (.ok r, s) => (.ok (b ++ r), s)

/-- Reads `n` bytes from any address, through the lines that hold them. -/
def iovaReadBytes (agent p iova n : Nat) (s : State) : Except FaultCode (List Byte) × State :=
  match iovaReadLines agent p (lineOf iova) ((iova % 64 + n + 63) / 64) s with
  | (.error e, s) => (.error e, s)
  | (.ok b, s) => (.ok ((b.drop (iova % 64)).take n), s)

/-- Writes lines by the copy of a load or of a table. -/
def copyLines (tbl : Bool) (p iova : Nat) : List (List Byte) → State → Except FaultCode Unit × State
  | [], s => (.ok (), s)
  | l :: ls, s =>
    match xlateCopy tbl p iova s with
    | (.error e, s) => (.error e, s)
    | (.ok a, s) =>
      match agentWrite (lineOf a) (slice l 0 64) (memToken p (lineOf a) (fabToken p s)) with
      | (.error e, s) => (.error e, s)
      | (.ok _, s) => copyLines tbl p (iova + 64) ls s

end Sys2Proof.Machine
end

