-- ==== Sys2Proof/Machine/Jobs.lean ====
section
/-! DEFINITION. Jobs from acceptance to their final record: bindings, admission, completion, cancels, port resets, the
deadline (R367 to R376, R380, R385, R451 to R457). -/

namespace Sys2Proof.Machine

/-! ### Bindings (R370, R371) -/

/-- A binding word, `none` where it breaks R370. -/
def bindOf (w : Nat) : Option Binding :=
  match bits w 0 2 with
  | 0 => some .none
  | 1 => if bits w 3 5 = 0 ∧ bits w 16 16 = 0 then some (.stream (bits w 8 8) (bitOf w 2) (bits w 32 32)) else none
  | 2 => if bits w 2 4 = 0 ∧ bits w 48 16 = 0 then some (.hostbuf (bits w 6 42 * 64)) else none
  | _ => none

/-- A binding is accepted for a partition (R370). -/
def bindOk (s : State) (p : Nat) : Binding → Bool
  | .stream c next q =>
    ctxEn s c && bitOf (ctxNat s c 0x15) p
      && (next || (let d := serialDiff 32 q (voxCtx s c).seq
                   decide (-((ctxNat s c 0x24 : Int) - 1) ≤ d) && decide (d ≤ 16)))
  | _ => true

/-- The bindings of an entry, or `none` where one is refused. -/
def bindsOf (s : State) (p : Nat) (b : List Byte) : Option (List Binding) :=
  (List.range (field b 7 1)).foldl (fun r i => match r, bindOf (field b (0x10 + 8 * i) 8) with
    | some l, some x => if bindOk s p x then some (l ++ [x]) else none
    | _, _ => none) (some [])

/-- What a stream binding resolves to: the tensor that a slot holds (R374, R402). -/
def streamRes (s : State) (p c : Nat) (i : EmitInfo) : Resolved :=
  let n := i.seq % ctxNat s c 0x24
  let off := n * ctxNat s c 0x25
  let core := ctxNat s c 0x26
  let basin := ctxNat s c 0x22 == 1
  { addr := if basin then ctxNat s c 0x23 + off - (prBasin (recOf s p) core).1 * 4096 else 0xFF0000000000 + c * 2 ^ 32 + off,
    space := if basin then 1 else 0, core := if basin then core else 0, flags := i.flags, levels := i.levels, nsites := i.nsites,
    tref := i.tref, noroom := i.noroom, ctx := c, seq := i.seq, slot := some (n, i.seq) }

/-- The slot that still holds a sweep. -/
def heldSweep (s : State) (c q : Nat) : Option EmitInfo :=
  match vget (voxCtx s c).slots (q % ctxNat s c 0x24) none with
  | some i => if i.seq = q then some i else none
  | none => none

/-- A sweep has been emitted or skipped already (R371). -/
def sweepPast (s : State) (c q : Nat) : Bool := (voxCtx s c).anySeq && decide (serialDiff 32 q (voxCtx s c).seq ≤ 0)

/-- The first binding that names an input (R373). -/
def firstBind (j : Job) : Option Nat := (List.range j.binds.length).find? fun i => j.binds.getD i .none != .none

/-- A binding resolves: the first one gives the deadline (R373, R452). -/
def bindSet (slot i : Nat) (r : Resolved) (s : State) : State :=
  let j := jobOf s slot
  let s := setJob slot { j with res := j.res.set i (some r) } s
  if firstBind j = some i then monFix slot (r.tref + j.budget * 1000) s else s

/-- Resolution at acceptance (R371): a sweep that is past and not held can never resolve. -/
def bindAccept (slot : Nat) (s : State) (i : Nat) : State :=
  let j := jobOf s slot
  match j.binds.getD i .none with
  | .stream c false q =>
    (match sweepPast s c q, heldSweep s c q with
    | true, some e => bindSet slot i (streamRes s j.part c e) s
    | _, _ => s)
  | _ => s

/-- Binding `i` names a sweep that is past and was not resolved. -/
def bindLost (s : State) (j : Job) (i : Nat) : Bool :=
  (j.res.getD i none).isNone && (match j.binds.getD i .none with
    | .stream c false q => sweepPast s c q
    | _ => false)

/-- The job that a message names is no longer the one of its slot (R369). -/
def refStale (s : State) (r : JobRef) : Bool := (jobOf s r.slot).st == .free || tagGen (jobOf s r.slot) != r.taggen

/-- SWEEP_READY (R369, R371): each binding of a QUEUED job that waits for the sweep resolves, or ends its job. -/
def execSweepReady (s : State) : Host.Outcome State Fault Refusal :=
  .next (
    match s.vox.ready with
    | [] => s
    | x :: rest =>
      if !isReady s then s
      else
        let s := (x.refs.filter (refStale s)).foldl (fun s r => staleArrival (r.slot / 64) s) { s with vox := { s.vox with ready := rest } }
        let waits (j : Job) (i : Nat) : Bool := bindWaits x.ctx x.seq j i
        match x.skipped, heldSweep s x.ctx x.seq with
        | false, some e =>
          (s.hst.jobs.filter (·.2.st == .queued)).foldl (fun s y =>
            ((List.range y.2.binds.length).filter (waits y.2)).foldl (fun s i =>
              bindSet y.1 i (streamRes s y.2.part x.ctx e) s) s) s
        | _, _ => sweepGone waits s)

/-! ### Acceptance (R368, R369) -/

/-- The program of a handle, where the partition holds it (R358). -/
def progOf (s : State) (p handle : Nat) : Option Program :=
  match vget s.hst.progs (handle % 64) none with
  | some g => if g.part = p ∧ bits handle 6 2 = 0 ∧ g.gen % 256 = bits handle 8 8 then some g else none
  | none => none

/-- The job of a partition under a tag. -/
def jobByTag (s : State) (p tag : Nat) : Option (Nat × Job) := (liveJobs s p).find? (·.2.tag == tag)

/-- The lowest free entry of a partition's part of the job table. -/
def jobSlot (s : State) (p : Nat) : Option Nat :=
  ((List.range 64).map (64 * p + ·)).find? fun k => (jobOf s k).st == .free

def genDflt : Nat → Nat := fun _ => 0

/-- An accepted SUBMIT (R368, R369): slot, generation, QUEUED, the monitor's entry. -/
def jobAccept (p slot idx : Nat) (b : List Byte) (binds : List Binding) (s : State) : State :=
  let x := partOf s p
  let tag := field b 2 2
  let gen := (smGet genDflt x.gens tag + 1) % 256
  let g := { x.rings with cqRsv := x.rings.cqRsv + 1, accept := wrapAdd 32 x.rings.accept 1 }
  let s := setPart p { x with fetched := none, gens := smSet genDflt x.gens tag gen, rings := g } s
  let ts := stampOf s islHst 0
  let budget := if field b 0x0C 4 = 0 then odNat s 0x4001 (0x10 + p) else field b 0x0C 4
  let j : Job := {
    st := .queued, part := p, tag := tag, gen := gen, handle := field b 4 2, restart := entryRestart b, nitem := field b 8 2,
    budget := budget, binds := binds, res := List.replicate binds.length none, args := slice b 0x40 64, entryIdx := idx,
    port := (ownerOf x).getD 0, ts := ts, order := s.hst.nextOrder, rsv := 1 }
  let s := keepStamp islHst ts { s with hst := { s.hst with nextOrder := s.hst.nextOrder + 1 } }
  let s := monArm slot j (setJob slot j s)
  let s := (List.range binds.length).foldl (bindAccept slot) s
  if (List.range binds.length).any (bindLost s (jobOf s slot)) then failBefore slot .sweepGone s else s

/-- A fetched entry is refused (R368). -/
def dropEntry (p idx tag : Nat) (code : FaultCode) (s : State) : State :=
  refuseEntry p idx tag code (setPart p { partOf s p with fetched := none } s)

/-- JOB_SUBMIT (R368): the checks in their order. -/
def execJobSubmit (p : Fin 8) (s : State) : Host.Outcome State Fault Refusal :=
  .next (
    match (partOf s p.val).fetched with
    | none => s
    | some (idx, b) =>
      if !isReady s || field b 0 1 != 0 then s
      else
        let tag := field b 2 2
        match progOf s p.val (field b 4 2), jobSlot s p.val, jobByTag s p.val tag, bindsOf s p.val b with
        | none, _, _, _ => dropEntry p.val idx tag .handleBad s
        | _, none, _, _ => dropEntry p.val idx tag .jobFull s
        | _, _, some _, _ => dropEntry p.val idx tag .tagBusy s
        | _, _, _, none => dropEntry p.val idx tag .bindBad s
        | some _, some slot, none, some binds => jobAccept p.val slot idx b binds s)

/-- JOB_CANCEL (R368, R376). A job that a reset of its port drains cannot be cancelled (R385): TAG_UNKNOWN. -/
def execJobCancel (p : Fin 8) (s : State) : Host.Outcome State Fault Refusal :=
  .next (
    match (partOf s p.val).fetched with
    | none => s
    | some (idx, b) =>
      if !isReady s || field b 0 1 != 1 then s
      else
        let tag := field b 2 2
        match (liveJobs s p.val).find? (fun e => e.2.tag == tag && e.2.st != .done && e.2.st != .failed && !e.2.silent) with
        | none => dropEntry p.val idx tag .tagUnknown s
        | some (slot, j) =>
          let x := partOf s p.val
          let s := setPart p.val { x with fetched := none, rings := { x.rings with accept := wrapAdd 32 x.rings.accept 1 } } s
          let ts := stampOf s islHst 0
          let s := setJob slot { j with cancelled := true } (keepStamp islHst ts s)
          match j.st with
          | .queued => finalRecord slot 3 0x0B0A ts 0 s
          | .draining => s
          | _ => drainJob slot ⟨0x0B0A, ts, islHst, vget s.tb.seq islHst 0, false, true⟩ s)

/-! ### Admission (R372 to R374, R411, R421) -/

/-- The target cores of a program fit the partition's record and the cores' widths (R372 step 3, R411). -/
def progFits (s : State) (p : Nat) (g : Program) : Bool :=
  let r := recOf s p
  let room (a : Nat × Nat) : Nat := a.2 - a.1
  decide (2 ≤ g.dmem) && g.cores.all fun c =>
    bitOf (prCores r) c && decide (g.basin ≤ room (prBasin r c)) && decide (g.cis ≤ room (prCis r c))
      && decide (g.dmem ≤ room (prDmem r c)) && decide (g.width ≤ coreWidth s c) && (match vget (coreOf s c).ww p none with
        | some w => decide (g.wwin ≤ w.bound - w.base)
        | none => g.wwin == 0)

/-- The free context with the lowest number on each target core. -/
def freeCtxs (s : State) (cores : List Nat) : Option (List (Nat × Nat)) :=
  cores.foldr (fun c r => match r, (List.range 8).find? (fun n => (tctx (coreOf s c) n).st == .free) with
    | some l, some n => some ((c, n) :: l)
    | _, _ => none) (some [])

/-- One record of the binding area (R374). -/
def bindRecord : Option Resolved → List Byte
  | some r => leBytes 8 r.addr ++ leBytes 1 r.space ++ leBytes 1 r.core ++ leBytes 1 r.flags ++ leBytes 1 r.levels
      ++ leBytes 4 r.nsites
  | none => zeros 8 ++ leBytes 1 0xFF ++ zeros 7

/-- One entry of the table snapshot (R411). -/
def tblRecord (e : TblEntry) : List Byte :=
  match e.cur with
  | some v => leBytes 8 v.addr ++ leBytes 4 v.shstride ++ leBytes 2 e.ver ++ leBytes 1 v.shards ++ leBytes 1 1
  | none => zeros 12 ++ leBytes 2 e.ver ++ zeros 2

/-- What admission writes into the DMEM of each target core, from offset 0 (R374, R411). -/
def dmemImage (j : Job) : List Byte :=
  slice j.args 0 64 ++ ((List.range 4).flatMap fun i => bindRecord (j.res.getD i none)) ++ j.tsnap.flatMap fun e => tblRecord e.2

/-- The state of a fresh start (R328, R248, R257). -/
def freshRun (g : Program) (idx ncore bytes : Nat) (brk : Bool) : CtxRun :=
  let x : Vector Word 32 := Vector.replicate 32 0
  let x := vset (vset (vset x 2 (BitVec.ofNat 32 bytes)) 10 (BitVec.ofNat 32 idx)) 11 (BitVec.ofNat 32 ncore)
  let h : Hart := { pc := g.entries.getD idx 0, x := x }
  { cc := { leader := h, checker := h, kdwin := g.kdwin, halt := if brk then some (5, false) else none } }

/-- A break by tag meets the job (R555, R561). -/
def tagBreak (s : State) (j : Job) : Bool :=
  let b := s.dbg.brkTag
  dbgPart s j.part && bitOf b 28 && bits b 24 3 == j.part
    && (if bitOf b 27 then bits b 0 24 == tagGen j else bits b 8 16 == j.tag)

/-- One target core: its task context is loaded (R170) and its DMEM written; what it stamps follows the admission (R52). -/
def admitCore (slot : Nat) (g : Program) (image : List Byte) (ncore : Nat) (s : State) (e : Nat × Nat × Nat) : State :=
  let j := jobOf s slot
  let r := recOf s j.part
  let c := e.2.1
  let b := prBasin r c
  let k := prCis r c
  let d := prDmem r c
  let t : TaskCtx := {
    st := .admitted, part := j.part, taggen := tagGen j, slot := slot, idx := e.1, ncore := ncore, basinBase := b.1,
    basinBound := b.2, cisBase := k.1, cisBound := k.2, dmemBase := d.1, dmemBound := d.2, dcut := g.dcut,
    saved := some (freshRun g e.1 ncore ((d.2 - d.1) * 256) (tagBreak s j)) }
  arrive c j.admitTs (modCore c (fun x => dmemStore (d.1 * 256) image { x with ctx := vset x.ctx e.2.2 t }) s)

/-- The admission itself; `first` where the job was QUEUED, with the settings it keeps from then on. -/
def jobAdmit (slot : Nat) (g : Program) (ctxs : List (Nat × Nat)) (s : State) : State :=
  let j := jobOf s slot
  let p := j.part
  let first := j.st == .queued
  let ts := stampOf s islHst 0
  let n := j.nitem * (j.restart + 1)
  let rings := ringsOf s p
  let s := if first then setRings p { rings with cqRsv := rings.cqRsv + n } s else s
  let pre := odNat s 0x2500 (0x30 + p)
  let tref := match (firstBind j).bind (fun i => j.res.getD i none) with
    | some r => r.tref
    | none => ts
  let j := if first then { j with
    rsv := j.rsv + n, tref := tref, deadline := some (tref + j.budget * 1000), cls := partClass s p, prio := pre % 8,
    nopre := bitOf pre 8, tsnap := (List.range 16).map fun i => (i, vget (partOf s p).tables i {}) } else j
  let j := { j with
    st := .running, ts := ts, admitTs := ts, startTs := ts, cores := ctxs, live := ctxs.map (·.1), wd := 0, lastRetire := 0
    endTs := 0, skewed := j.skewed || s.tb.skewState != 0, dcut := g.dcut, width := g.width, cause := none }
  let s := setJob slot j (keepStamp islHst ts s)
  let s := monFix slot (j.deadline.getD 0) s
  let image := dmemImage j
  let s := ((List.range ctxs.length).zip ctxs).foldl (admitCore slot g image ctxs.length) s
  ctxs.foldl (fun s e => coreSchedule e.1 s) s

/-- The header of a HOSTBUF binding (R371). -/
def hostbufRes (p addr : Nat) (s : State) : Option Resolved × State :=
  match iovaRead agentHst p addr s with
  | (.error _, s) => (none, s)
  | (.ok b, s) =>
    if field b 0 2 = 0x5658 ∧ field b 60 4 = crc32c (slice b 0 60) then
      (some { addr := addr, space := 0, core := 0, flags := field b 37 1, levels := field b 36 1, nsites := field b 32 4,
              tref := field b 8 8, noroom := field b 56 4, ctx := field b 2 1, seq := field b 4 4, slot := none }, s)
    else (none, s)

/-- Reads every HOSTBUF header; `false` where one fails. -/
def hostbufs (slot : Nat) : List Nat → State → Bool × State
  | [], s => (true, s)
  | i :: r, s =>
    let j := jobOf s slot
    match j.binds.getD i .none with
    | .hostbuf a =>
      (match hostbufRes j.part a s with
      | (some x, s) => hostbufs slot r (bindSet slot i x s)
      | (none, s) => (false, s))
    | _ => hostbufs slot r s

/-- Every STREAM binding has resolved (R372 step 1). -/
def streamsResolved (j : Job) : Bool :=
  (List.range j.binds.length).all fun i => match j.binds.getD i .none with
    | .stream _ _ _ => (j.res.getD i none).isSome
    | _ => true

/-- The job that admission considers: the first runnable one in acceptance order (R372); a pause holds back first
admissions (R414, R432). -/
def admitNext (s : State) (p : Nat) : Option Nat :=
  let c := (liveJobs s p).filter fun e =>
    e.2.st == .restarting || (e.2.st == .queued && !(partOf s p).tblPause && streamsResolved e.2)
  (takeMin (fun a b : Nat × Job => decide (a.2.order < b.2.order)) c).map (·.1.1)

/-- A program that is gone or does not fit (R372 step 3): ADMIT_FIT is raised. A job that has had attempts ends with the code
of the fault that ended the last one (R380). -/
def admitUnfit (slot : Nat) (s : State) : State :=
  let j := jobOf s slot
  match j.lastCause with
  | none => failBefore slot .admitFit s
  | some c =>
    finalRecord slot 2 c.code c.ts c.crossTs
      (raise ⟨.admitFit, islHst, 0, some ⟨slot, tagGen j⟩, some j.part, none, none, 7, [], 1, false⟩ s)

/-- JOB_ADMIT (R372). -/
def execJobAdmit (p : Fin 8) (s : State) : Host.Outcome State Fault Refusal :=
  .next (
    match admitNext s p.val with
    | none => s
    | some slot =>
      if !isReady s || (partOf s p.val).reset.isSome then s
      else
        let j := jobOf s slot
        match progOf s p.val j.handle with
        | none => admitUnfit slot s
        | some g =>
          if !progFits s p.val g then admitUnfit slot s
          else if j.st = .queued ∧ cqOpen s p.val < j.nitem * (j.restart + 1) then s
          else match freeCtxs s g.cores with
          | none => s
          | some ctxs =>
            if j.st = .restarting then jobAdmit slot g ctxs s
            else match hostbufs slot (List.range j.binds.length) s with
            | (true, s) => jobAdmit slot g ctxs s
            | (false, s) => failBefore slot .bindBad s)

/-! ### Completion and release -/

/-- A fault of the job is on its way whose stamp the last event of the job does not precede (R27). -/
def faultWins (s : State) (slot : Nat) : Bool :=
  let j := jobOf s slot
  (List.range 24).any fun i => (weirAll s i).any fun f =>
    f.job == some ⟨slot, tagGen j⟩ && abortsJob f && decide (f.ts ≤ lastEvent j)

/-- JOB_COMPLETE (R342, R375, R380), once the message of the last event has crossed to HST (R52). -/
def execJobComplete (slot : Fin 512) (s : State) : Host.Outcome State Fault Refusal :=
  .next (
    if isReady s && jobComplete s slot.val && !faultWins s slot.val && crossed s islHst (lastEvent (jobOf s slot.val)) then
      let j := jobOf s slot.val
      finalRecord slot.val (if j.invalid then 1 else 0) 0 (lastEvent j) (lastEvent j) s
    else s)

/-- TAG_RELEASE (R369): 4 us after the final record. -/
def execTagRelease (slot : Fin 512) (s : State) : Host.Outcome State Fault Refusal :=
  .next (
    let j := jobOf s slot.val
    if (j.st = .done ∨ j.st = .failed) ∧ j.finalTs + 4000 ≤ s.tb.master then jobFree slot.val s else s)

/-- DEADLINE_EXPIRY (R453, R455): the master has passed `D`, and every commit stamped `D` or earlier has arrived. -/
def execDeadlineExpiry (slot : Fin 512) (s : State) : Host.Outcome State Fault Refusal :=
  .next (
    match monGet s slot.val with
    | some e =>
      (match e.deadline with
      | some d => if d + 16 ≤ s.tb.master then monMiss slot.val e d false s else s
      | none => s)
    | none => s)

/-! ### Host ports (R385, R491, R545) -/

/-- Partitions that a port owns. -/
def ownedBy (s : State) (h : Nat) : List Nat := (List.range 8).filter fun p => ownerOf (partOf s p) == some h

/-- One job of a port that is reset: it goes to DRAINING with HOST_RESET, and no record is written for it. -/
def hostResetJob (s : State) (e : Nat × Job) : State := resetJob .hostReset (fun j => { j with silent := true }) e s

/-- A load in its copy stage, or waiting for the loader, ends with LOAD_IO (R348, R359). -/
def loadIo (p : Nat) (s : State) : State :=
  let x := partOf s p
  match x.ld.req with
  | some r =>
    if r.unload || r.stage == 2 then s
    else
      let s := { s with hst := { s.hst with ldQueue := s.hst.ldQueue.filter (· != p) } }
      let ld := { x.ld with req := none, state := 6, rej := 0x0613, rejOff := 0xFFFFFFFF }
      raise (plainFault (.load 0x13) islHst (some p)) (setPart p { x with ld := ld } s)
  | none => s

/-- A table LOAD ends FAILED and leaves no standby version (R413); a SWAP or DROP goes on without a record (R415). -/
def tblPortReset (x : Part) : Part :=
  match x.tblOp with
  | some o =>
    if o.op = 1 then
      { x with tblOp := none, tblState := 5, tblCode := 0x0613,
               tables := vset x.tables o.id { vget x.tables o.id {} with standby := none } }
    else { x with tblOp := some { o with silent := true } }
  | none => x

/-- One partition of a port that is reset. -/
def portPart (p : Nat) (s : State) : State :=
  let s := (liveJobs s p).foldl hostResetJob s
  let s := { s with sel := { s.sel with queue := vset s.sel.queue p [], arr := s.sel.arr.filter (·.part != p) } }
  let s := loadIo p s
  let x := tblPortReset (partOf s p)
  setPart p { x with rings := {}, fetched := none } s

/-- The mailbox of a port in reset: a transfer in progress ends without a result, a write that MGT holds takes effect
(R491). -/
def mbxReset (h : Nat) (s : State) : State :=
  mbxPut h {} (odqMute (2 + h) s)

/-- PORT_HOT_RESET (R385, R359, R68): hot reset, `PERSTh_N`, link down or FLR. -/
def execPortHotReset (h : Fin 4) (s : State) : Host.Outcome State Fault Refusal :=
  .next (
    let s := (ownedBy s h.val).foldl (fun s p => portPart p s) s
    let s := mbxReset h.val (ingPortReset h.val s)
    { s with hst := { s.hst with ports := vset s.hst.ports h.val {} } })

/-- PORT_LINK_UP (R545): a port trains once MGT has booted, within the settings of OD index 0x2200. -/
def execPortLinkUp (h : Fin 4) (speed width : Nat) (s : State) : Host.Outcome State Fault Refusal :=
  .next (
    let m := odNat s 0x2200 (1 + h.val)
    let p := vget s.hst.ports h.val {}
    if s.saf.mgtUp && !p.linkUp && decide (1 ≤ speed ∧ speed ≤ m % 8) && decide (1 ≤ width ∧ width ≤ m / 16) then
      { s with hst := { s.hst with
          ports := vset s.hst.ports h.val { p with linkUp := true, speed := speed, width := width, perst := false } } }
    else s)

end Sys2Proof.Machine
end

