-- ==== Sys2Proof/Machine/DescFields.lean ====
section
/-! DEFINITION. The operand fields of descriptors as the verifier and the engines see them: bits that are reserved
(R304, R308 to R314) and ranges of fields (R201, R215, R250, R308 to R314). -/

namespace Sys2Proof.Machine

/-- Ones in bits `[lo+len-1:lo]`. -/
def maskBits (lo len : Nat) : Nat := (2 ^ len - 1) * 2 ^ lo

/-- The bits of words 0 and 11 to 15 that an operation defines. -/
def opMasks (opc gmode : Nat) : List Nat :=
  let hd : Nat := 0xFFF
  let all : Nat := 0xFFFFFFFF
  let ln := maskBits 0 17
  match opc with
  | 0x01 | 0x02 => [maskBits 0 28, all, maskBits 0 30, maskBits 0 24, all, all]
  | 0x20 => [maskBits 0 24, maskBits 0 28, all, ln, 0, 0]
  | 0x21 => [hd, maskBits 0 24, maskBits 0 30, maskBits 17 7, 0, 0]
  | 0x40 => [hd, 0, ln, 0, 0, 0]
  | 0x41 => [hd, maskBits 0 11, ln, ln, 0, 0]
  | 0x42 => [all, maskBits 0 28, ln, ln, ln, ln]
  | 0x43 => [all, all, maskBits 0 25, maskBits 0 28, all, ln]
  | 0x44 => if gmode = 2 then [maskBits 0 31, 0, all, ln, 0, ln] else [maskBits 0 31, maskBits 0 29, all, ln, ln, ln]
  | 0x45 => [all, all, all, maskBits 0 24, maskBits 0 24, ln]
  | 0x46 => [all, all, all, maskBits 0 30, 0, 0]
  | 0x60 => [maskBits 0 26, all, all, all, all, 0]
  | 0x61 => [maskBits 0 13, ln, maskBits 0 18, all, all, 0]
  | 0x62 => [hd, ln, ln, maskBits 0 18, 0, 0]
  | 0x63 => [hd, all, maskBits 0 28, all, maskBits 0 27, 0]
  | 0x64 => [hd, ln, 0, 0, 0, 0]
  | 0x65 => [hd, maskBits 0 28, maskBits 0 19, 0, 0, 0]
  | 0x80 => [hd, maskBits 0 11, 0, 0, 0, 0]
  | 0x81 => [hd, maskBits 0 3, ln, 0, 0, 0]
  | _ => [hd, 0, 0, 0, 0, 0]

/-- A reserved operand bit is 1 (R304). -/
def opReserved (w : List Word) : Bool :=
  let ms := opMasks (wbits w 0 0 8) (wbits w 0 29 2)
  (([0, 11, 12, 13, 14, 15] : List Nat).zip ms).any fun e => (w.getD e.1 0).toNat &&& (0xFFFFFFFF - e.2) != 0

/-- The shape of a pass for an array of the given width (R215); what its pair decides is asked where the pair is one of
R142. -/
def passShapeOk (width : Nat) (p : Pass) : Bool :=
  (!passPair p || (decide (p.m * passRate p ≤ 4096) && decide (p.k ≤ passKMax p))) && decide (p.n ≤ width)
    && decide (p.n ≤ p.cstride) && !(p.mmp && p.init == 1)

/-- Every field lies in its range (R215, R250, R308 to R314). -/
def opRangeOk (width : Nat) (w : List Word) : Bool :=
  let g (i lo len : Nat) : Nat := wbits w i lo len
  match g 0 0 8 with
  | 0x01 | 0x02 =>
    let p := passOf w
    p.tile != 3 && p.init != 3 && decide (p.k ≤ 128) && decide (p.m ≤ 4096) && decide (p.n ≤ 64)
      && passShapeOk width p
  | 0x20 => decide (g 0 12 12 + g 11 0 12 + 1 ≤ 4096)
  | 0x41 => g 11 6 2 != 3
  | 0x42 => g 11 6 2 != 3 && decide (g 11 11 17 ≤ 65536)
  | 0x43 => decide (1 ≤ g 12 17 7 ∧ g 12 17 7 ≤ 125) && decide (g 13 17 11 ≤ 1024)
  | 0x44 => g 0 29 2 != 3
  | 0x45 => decide (g 12 17 11 ≤ 1024)
  | 0x60 => decide (g 0 12 3 ≤ 5) && decide (g 0 19 3 ≤ 5) && g 11 0 6 == 0 && g 12 0 6 == 0 && g 14 0 6 == 0
  | 0x63 => decide (1 ≤ g 12 16 12 ∧ g 12 16 12 ≤ 2048)
  | 0x65 => decide (1 ≤ g 11 17 11) && decide (1 ≤ g 12 0 8) && decide (g 12 12 3 ≤ 4) && decide (g 12 15 3 ≤ 4)
  | _ => true

end Sys2Proof.Machine
end

