-- ==== Sys2Proof/Machine/GatherEngine.lean ====
section
/-! DEFINITION. The gather engine (09, R272, R273, R311 to R313): site hashes, kernel maps, sorting, gathers, scatters,
masks. -/

namespace Sys2Proof.Machine

/-- A fault of a GE operation at an index (R251). -/
def geStop {α : Type} (code : FaultCode) (idx : Nat) : EngM α := throw (.fault code idx)

/-- Runs a part of an operation whose faults carry this index. -/
def atIdx {α : Type} (idx : Nat) (m : EngM α) : EngM α :=
  tryCatch m fun e => match e with
    | .fault code 0 => throw (.fault code idx)
    | e => throw e

/-! ### Site blocks (R311) and keys -/

structure SiteBlock where
  list : Nat
  s : Nat
  hash : Nat
  lines : Nat
  cap : Nat
  deriving DecidableEq, Repr

def readBlock (a : Acc) (line : Nat) : EngM SiteBlock := do
  let b ← basinRead a false line
  pure ⟨field b 0 4 % 131072 * 64, field b 4 4 % 1048576, field b 8 4 % 131072, field b 12 4, field b 16 4 % 1048576⟩

/-- Coordinates of a key (R106, R224). -/
structure Coord where
  x : Int
  y : Int
  z : Int
  deriving DecidableEq, Repr

def coordOf (k : Nat) : Coord := ⟨bits k 0 16, bits k 16 16, bits k 32 12⟩

/-- In range (R231). -/
def coordOk (c : Coord) : Bool :=
  decide (0 ≤ c.x ∧ c.x < 65536) && decide (0 ≤ c.y ∧ c.y < 65536) && decide (0 ≤ c.z ∧ c.z < 4096)

def coordKey (c : Coord) : Nat := c.x.toNat + c.y.toNat * 65536 + c.z.toNat * 2 ^ 32

/-! ### Site hash (R229, R273) -/

def hashMul (k : Nat) : Nat := k * 0xD6E8FEB86659FD93 % 2 ^ 64

def hashHome (k lines : Nat) : Nat := hashMul k / 2 ^ 32 * lines / 2 ^ 32

/-- Where a search ended: a slot holding the key, the first empty slot (line and slot), or nothing within 4 lines. -/
inductive HashRes where
  | found (v : Nat)
  | empty (line slot : Nat)
  | full
  deriving DecidableEq, Repr

/-- Scans the slots of a line; `kb` key bits. -/
def scanSlots (kb key line : Nat) (b : List Byte) : List Nat → Option HashRes
  | [] => none
  | j :: js =>
    let v := field b (8 * j) 8
    if v = 0 then some (.empty line j)
    else if v % 2 ^ kb = key then some (.found (v / 2 ^ kb - 1))
    else scanSlots kb key line b js

/-- A search over at most `n` lines from the `i`-th; answers the lines read as well. -/
def hashWalk (a : Acc) (kb base lines key : Nat) : Nat → Nat → EngM (HashRes × Nat)
  | 0, i => pure (.full, i)
  | n + 1, i => do
    let line := base + (hashHome key lines + i) % lines
    let b ← basinRead a false line
    match scanSlots kb key line b (List.range 8) with
    | some r => pure (r, i + 1)
    | none => hashWalk a kb base lines key n (i + 1)

/-- `GE_PROBE_PEAK`. -/
def probePeak (c n : Nat) (s : State) : State :=
  if (regGet s (kreg c 0x2010)).toNat < n then regPut (kreg c 0x2010) (BitVec.ofNat 32 n) s else s

def hashFind (a : Acc) (kb base lines key : Nat) : EngM HashRes := do
  let r ← hashWalk a kb base lines key 4 0
  modify (probePeak a.c r.2)
  pure r.1

/-- Inserts a site under its coordinates; answers whether it was new. -/
def hashInsert (a : Acc) (b : SiteBlock) (key site idx : Nat) : EngM Bool := do
  match ← hashFind a 44 b.hash b.lines key with
  | .found _ => pure false
  | .empty line slot =>
    basinWrite a (line * 64 + 8 * slot) (leBytes 8 (key + (site + 1) * 2 ^ 44))
    pure true
  | .full => geStop .sitehashFull idx

/-- Coordinates and level of a site record. -/
def readSite (a : Acc) (list j : Nat) : EngM Nat := do
  let b ← basinReadBytes a (list + 8 * j) 8
  pure (leNat b % 2 ^ 48)

def linesOk (b : SiteBlock) : Bool := decide (1 ≤ b.lines ∧ b.lines ≤ 65536)

/-- HASH_BUILD (R229). -/
def geHashBuild (a : Acc) (f : Flight) : EngM Flight := do
  let b ← readBlock a (wbits a.w 12 0 17)
  if !linesOk b then stopF .geShape
  for i in List.range b.lines do basinWriteLine a (b.hash + i) 0 (zeros 64)
  let mut dup := 0
  for j in List.range b.s do
    let k ← atIdx j (readSite a b.list j)
    let new ← atIdx j (hashInsert a b (k % 2 ^ 44) j j)
    if !new then
      dup := dup + 1
      modify (regCount (kreg a.c 0x2014) 1)
  doneWork a { f with geVal := some dup }

/-! ### Offsets (R230, R231, R311) -/

structure Geom where
  kx : Nat
  ky : Nat
  kz : Nat
  mode : Nat
  sx : Nat
  sy : Nat
  sz : Nat
  deriving DecidableEq, Repr

def kSize (c : Nat) : Nat := match c with
  | 0 => 1
  | 1 => 2
  | 2 => 3
  | _ => 5

def geomOf (g : Nat) : Geom :=
  ⟨kSize (bits g 0 2), kSize (bits g 2 2), kSize (bits g 4 2), bits g 6 2, 1 + bits g 8 1, 1 + bits g 9 1, 1 + bits g 10 1⟩

/-- Offset `e` of an axis of size `k`. -/
def axisOff (k e : Nat) : Int := (e : Int) - (if k = 3 then 1 else if k = 5 then 2 else 0)

/-- The offsets in ascending index `u` (R230). -/
def offsets (g : Geom) : List Coord :=
  (List.range (g.kx * g.ky * g.kz)).map fun u =>
    ⟨axisOff g.kx (u % g.kx), axisOff g.ky (u / g.kx % g.ky), axisOff g.kz (u / (g.kx * g.ky))⟩

/-- OUTSITES (R231, R232). -/
def geOutsites (a : Acc) (f : Flight) : EngM Flight := do
  let g := geomOf (wbits a.w 11 0 11)
  if g.mode ≠ 1 ∧ g.mode ≠ 2 then stopF .geShape
  let ib ← readBlock a (wbits a.w 12 0 17)
  let ob ← readBlock a (wbits a.w 13 0 17)
  if !linesOk ob then stopF .geShape
  let mut n := 0
  for j in List.range ib.s do
    let k ← atIdx j (readSite a ib.list j)
    let c := coordOf k
    let cands : List Coord :=
      if g.mode = 1 then (offsets g).map fun d => ⟨c.x - d.x, c.y - d.y, c.z - d.z⟩
      else [⟨c.x / g.sx, c.y / g.sy, c.z / g.sz⟩]
    for q in cands do
      if !coordOk q then modify (regCount (kreg a.c 0x2018) 1)
      else
        match ← atIdx j (hashFind a 44 ob.hash ob.lines (coordKey q)) with
        | .found _ => pure ()
        | _ =>
          if ob.cap ≤ n then geStop .kmapOverflow j
          let _ ← atIdx j (hashInsert a ob (coordKey q) n j)
          atIdx j (basinWrite a (ob.list + 8 * n) (leBytes 8 (coordKey q + bits k 44 4 * 2 ^ 44)))
          n := n + 1
  let sOff := wbits a.w 13 0 17 * 64 + 4
  let rest ← basinReadBytes a (wbits a.w 13 0 17 * 64) 4
  basinWrite a (sOff - 4) (rest ++ leBytes 4 n)
  doneWork a { f with geVal := some n }

/-- The kernel-map cache after a use of an entry: it leads, and a full set of 8 ways gives up its least recent one
(R234). -/
def kmcUse (e : Nat × Option Nat) (l : List (Nat × Option Nat)) : List (Nat × Option Nat) :=
  let l := l.filter (·.1 != e.1)
  let ways := l.filter fun x => Config.kmcSet x.1 % 512 == Config.kmcSet e.1 % 512
  e :: (match ways.getLast? with
    | some old => if ways.length < 8 then l else l.filter (·.1 != old.1)
    | none => l)

/-- A lookup of KMAP: in the cache, or in the site hash. -/
def kmapLook (a : Acc) (b : SiteBlock) (key : Nat) : EngM (Option Nat) := do
  let use (e : Nat × Option Nat) : EngM Unit := modify (modCore a.c fun x => { x with kmc := kmcUse e x.kmc })
  match (coreOf (← get) a.c).kmc.find? (·.1 == key) with
  | some e =>
    modify (regCount (kreg a.c 0x2004) 1)
    use e
    pure e.2
  | none =>
    modify (regCount (kreg a.c 0x2008) 1)
    let v := match ← hashFind a 44 b.hash b.lines key with
      | .found v => some v
      | _ => none
    use (key, v)
    pure v

/-- KMAP (R233, R234). -/
def geKmap (a : Acc) (f : Flight) : EngM Flight := do
  modify (modCore a.c fun x => { x with kmc := [] })
  let g := geomOf (wbits a.w 11 0 11)
  let obeg := wbits a.w 0 12 20
  let ocnt := wbits a.w 11 11 17
  if g.mode = 3 ∨ 65536 < ocnt then stopF .geShape
  let ib ← readBlock a (wbits a.w 12 0 17)
  let ob ← readBlock a (wbits a.w 13 0 17)
  if !linesOk ib then stopF .geShape
  let pairOff := wbits a.w 14 0 17 * 64
  let offs := offsets g
  let mut count : List Nat := List.replicate offs.length 0
  for i in List.range ocnt do
    let o := obeg + i
    let c := coordOf (← atIdx i (readSite a ob.list o))
    let b : Coord := if g.mode = 2 then ⟨c.x * g.sx, c.y * g.sy, c.z * g.sz⟩ else c
    for u in List.range offs.length do
      let d := offs.getD u ⟨0, 0, 0⟩
      let q : Coord := ⟨b.x + d.x, b.y + d.y, b.z + d.z⟩
      if coordOk q then
        match ← atIdx i (kmapLook a ib (coordKey q)) with
        | some site =>
          let n := count.getD u 0
          atIdx i (basinWrite a (pairOff + (u * ocnt + n) * 8) (leBytes 4 site ++ leBytes 4 o))
          modify (regWrap (kreg a.c 0x200C) 1)
          count := count.set u (n + 1)
        | none => pure ()
  let tab := (List.range offs.length).flatMap fun u => leBytes 4 (count.getD u 0) ++ leBytes 4 (u * ocnt)
  basinWrite a (wbits a.w 15 0 17 * 64) tab
  doneWork a { f with geVal := some count.sum }

/-! ### SORT (R236, R237) -/

structure Chunk where
  ofs : Nat
  part : Nat
  pairs : List (Nat × Nat)
  deriving DecidableEq, Repr

/-- Cuts pairs wherever `OUT` crosses a multiple of `own`. -/
def cutAt (own : Nat) : List (Nat × Nat) → List (List (Nat × Nat))
  | [] => []
  | p :: ps =>
    match cutAt own ps with
    | [] => [[p]]
    | g :: gs => if (g.headD (0, 0)).2 / own = p.2 / own then (p :: g) :: gs else [p] :: g :: gs

/-- `n` parts of consecutive pairs: the first `Q mod n` hold one more. -/
def equalParts (ps : List (Nat × Nat)) (n : Nat) : List (List (Nat × Nat)) :=
  let q := ps.length / n
  let r := ps.length % n
  (List.range n).map fun i => (ps.drop (i * q + min i r)).take (if i < r then q + 1 else q)

/-- The chunks of one offset's remaining pairs. -/
def chunkOffset (cut own u : Nat) (ps : List (Nat × Nat)) : List Chunk :=
  if ps.isEmpty then []
  else
    let pieces := if cut < ps.length && own != 0 then cutAt own ps else [ps]
    let parts := pieces.flatMap fun q => equalParts q ((q.length + cut - 1) / cut)
    (List.range parts.length).map fun i => ⟨u, i, parts.getD i []⟩

/-- Work-list order: descending count, then offset, then part. -/
def chunkBefore (x y : Chunk) : Bool :=
  decide (y.pairs.length < x.pairs.length) || (x.pairs.length == y.pairs.length &&
    (decide (x.ofs < y.ofs) || (x.ofs == y.ofs && decide (x.part < y.part))))

def insertChunk (x : Chunk) : List Chunk → List Chunk
  | [] => [x]
  | y :: ys => if chunkBefore x y then x :: y :: ys else y :: insertChunk x ys

def readPair (a : Acc) (base i : Nat) : EngM (Nat × Nat) := do
  let b ← basinReadBytes a (base + 8 * i) 8
  pure (field b 0 4, field b 4 4)

def geSort (a : Acc) (f : Flight) : EngM Flight := do
  let obeg := wbits a.w 0 12 20
  let sc := wbits a.w 11 0 16
  let wcap := wbits a.w 11 16 16
  let tab := wbits a.w 12 0 17 * 64
  let ko := wbits a.w 12 17 7
  let own := 64 * wbits a.w 13 17 11
  if ko = 0 ∨ 125 < ko ∨ (0 < sc ∧ sc < 64) ∨ 65536 < own then stopF .geShape
  let cut := if sc = 0 then 4096 else sc
  let mut chunksL : List Chunk := []
  let mut nomit := 0
  let mut seen := 0
  for u in List.range ko do
    let e ← atIdx seen (basinReadBytes a (tab + 8 * u) 8)
    let mut ps : List (Nat × Nat) := []
    for i in List.range (field e 0 4) do
      let p ← atIdx seen (readPair a (wbits a.w 13 0 17 * 64) (field e 4 4 + i))
      let keep ← (if wbits a.w 12 24 1 = 1 then atIdx seen (readBit a (wbits a.w 14 17 15 * 256) p.2) else pure true)
      seen := seen + 1
      if keep then ps := ps ++ [p] else nomit := nomit + 1
    if cut < ps.length then modify (regCount (kreg a.c 0x201C) 1)
    chunksL := (chunkOffset cut own u ps).foldl (fun l x => insertChunk x l) chunksL
  let wl := wbits a.w 14 0 17 * 64
  let spa := wbits a.w 15 0 17 * 64
  let total := (chunksL.map (·.pairs.length)).sum
  basinWrite a wl (leBytes 4 chunksL.length ++ leBytes 4 total ++ leBytes 4 nomit ++ zeros 4)
  let mut first := 0
  let mut i := 0
  for x in chunksL do
    if wcap ≤ i then geStop .kmapOverflow first
    let o := (x.pairs.headD (0, 0)).2
    let owner := if own = 0 then 0xFFFF else (o - obeg) / own
    atIdx first (basinWrite a (wl + 16 + 16 * i) (leBytes 4 first ++ leBytes 2 x.pairs.length ++ leBytes 2 x.part
      ++ leBytes 1 x.ofs ++ zeros 1 ++ leBytes 2 owner ++ leBytes 4 o))
    atIdx first (basinWrite a (spa + 8 * first) (x.pairs.flatMap fun p => leBytes 4 p.1 ++ leBytes 4 p.2))
    first := first + x.pairs.length
    i := i + 1
  doneWork a { f with geVal := some chunksL.length }

/-! ### GATHER (R238, R244, R273) -/

/-- Element format of a GATHER's groups: free among the formats of SG16 (notes/assumptions/13). -/
def gatherFmt (w : List Word) : Nat := ([0, 2, 3, 4, 5] : List Nat).getD (Config.gatherFmt w % 5) 0

/-- Groups of one source site; a slot past `NSITE` gives channels +0 (R249). -/
def sourceGroups (a : Acc) (smeta sgrp site idx : Nat) : EngM (Nat × List (List Byte)) := do
  let t ← readMeta a (smeta + 192 * (site / 64)) idx
  if t.nsite ≤ site % 64 then pure (t.ngrp, List.replicate t.ngrp [0])
  else do
    let g ← siteGroups a (gatherFmt a.w) sgrp t (site % 64) idx none
    pure (t.ngrp, g.1)

/-- PLAIN: tiles of 64 gathered rows, each with its record. -/
def gatherPlain (a : Acc) (count : Nat) : EngM Nat := do
  let first := wbits a.w 11 0 24
  let spa := wbits a.w 12 0 17 * 64
  let mut byte := 0
  for t in chunks 64 (List.range count) do
    let mut sites : List (List (List Byte)) := []
    let mut ngrp := 0
    let mut cur := byte
    for r in t do
      let p ← atIdx r (readPair a spa (first + r))
      let g ← atIdx r (sourceGroups a (wbits a.w 13 0 17 * 64) (wbits a.w 14 0 17 * 64) p.1 r)
      if sites.isEmpty then ngrp := g.1
      sites := sites ++ [g.2]
      atIdx r (basinWrite a (wbits a.w 15 0 17 * 64 + cur) g.2.flatten)
      cur := cur + g.2.flatten.length
    basinWrite a (wbits a.w 12 17 15 * 256 + 192 * (t.headD 0 / 64)) (tileRecord byte ngrp sites)
    byte := cur
  pure byte

/-- The INT4 element of R244. -/
def predElem (fmt psh x : Nat) : Nat :=
  unsigned 4 (toIntSat (-8) 7 none (fmulX (elemVal fmt x) (.fin false 1 (-(psh : Int)))))

def gatherPred (a : Acc) (count : Nat) : EngM Nat := do
  let first := wbits a.w 11 0 24
  let psh := wbits a.w 11 24 4
  let spa := wbits a.w 12 0 17 * 64
  let smeta := wbits a.w 13 0 17 * 64
  let fmt := gatherFmt a.w
  for r in List.range count do
    let p ← atIdx r (readPair a spa (first + r))
    let g0 ← atIdx r (sourceGroups a smeta (wbits a.w 14 0 17 * 64) p.1 r)
    let g1 ← (if wbits a.w 11 28 1 = 1 then
        atIdx r (sourceGroups a (smeta + 192 * wbits a.w 12 17 15) (wbits a.w 14 0 17 * 64) p.1 r)
      else pure (0, []))
    let pad (xs : List Nat) : List Nat := (List.range 64).map fun i => xs.getD i 0
    let els := (pad (expand fmt g0.2) ++ pad (expand fmt g1.2)).map (predElem fmt psh)
    atIdx r (basinWrite a (wbits a.w 15 0 17 * 64 + 64 * r) (packNib els))
  pure (64 * count)

/-- A table header (R272). -/
structure TblHead where
  mode : Nat
  shards : Nat
  shard : Nat
  rowb : Nat
  nrow : Nat
  lines : Nat
  defrow : Nat
  rowsOff : Nat
  hashOff : Nat
  tgen : Nat
  deriving DecidableEq, Repr

def tblHeadOf (b : List Byte) : TblHead :=
  ⟨field b 2 1, field b 3 1, field b 4 1, field b 8 4, field b 12 4, field b 16 4, field b 20 4, field b 24 4, field b 28 4,
    field b 32 4⟩

/-- The ranges of R272. -/
def tblHeadOk (b : List Byte) : Bool :=
  let h := tblHeadOf b
  field b 0 2 == 0x4254 && decide (h.mode ≤ 1) && decide (1 ≤ h.shards ∧ h.shards ≤ 16) && decide (h.shard < h.shards)
    && decide (64 ≤ h.rowb ∧ h.rowb ≤ 4096 ∧ h.rowb % 64 = 0) && decide (1 ≤ h.nrow ∧ h.nrow ≤ 65535)
    && (h.mode == 0 || decide (1 ≤ h.lines ∧ h.lines ≤ 65536)) && h.rowsOff % 64 == 0 && (h.mode == 0 || h.hashOff % 64 == 0)

def gatherTbl (a : Acc) (n : Nat) : EngM Nat := do
  let tbl := wbits a.w 13 0 17 * 64
  let hb ← basinReadBytes a tbl 64
  if !tblHeadOk hb then stopF .geShape
  let h := tblHeadOf hb
  let dst := wbits a.w 15 0 17 * 64
  let hitOff := wbits a.w 12 17 15 * 256
  let mut hits : List Bool := []
  for r in List.range n do
    let kw := if h.mode = 0 then 4 else 8
    let kb ← atIdx r (basinReadBytes a (wbits a.w 12 0 17 * 64 + kw * r) kw)
    let row : Option Nat × Bool ← (if h.mode = 0 then
        (if leNat kb < h.nrow then pure (some (leNat kb), true) else pure (some h.defrow, false))
      else do
        let k := leNat kb % 2 ^ 48
        if hashMul k % 2 ^ 32 * h.shards / 2 ^ 32 ≠ h.shard then pure (none, false)
        else
          match ← atIdx r (hashFind a 48 ((tbl + h.hashOff) / 64) h.lines k) with
          | .found v => pure (some v, true)
          | _ => pure (some h.defrow, false))
    match row.1 with
    | some v =>
      let d ← atIdx r (basinReadBytes a (tbl + h.rowsOff + v * h.rowb) h.rowb)
      atIdx r (basinWrite a (dst + r * h.rowb) d)
    | none => pure ()
    hits := hits ++ [row.2]
  let bm := (List.range ((n + 7) / 8)).map fun i =>
    BitVec.ofNat 8 ((List.range 8).map fun j => bitAt (hits.getD (8 * i + j) false) j).sum
  basinWrite a hitOff bm
  pure (hits.filter id).length

def geGather (a : Acc) (f : Flight) : EngM Flight := do
  let count := wbits a.w 0 12 17
  let gm := wbits a.w 0 29 2
  if gm = 3 then stopF .geShape
  if count = 0 then doneWork a { f with geVal := some 0 }
  else
    let v ← (if gm = 0 then gatherPlain a count else if gm = 1 then gatherPred a count else gatherTbl a count)
    doneWork a { f with geVal := some v }

/-! ### SCATTER (R239) and MASK (R245) -/

/-- Sends a remote access of a descriptor (R190, R191). -/
def sendRemote (a : Acc) (commit dst idx : Nat) (op : RemOp) : EngM Unit := do
  let t := ctxOf (coreOf (← get) a.c)
  modify (fabToken t.part)
  modify fun s => { s with fab := { s.fab with
    remote := s.fab.remote ++ [⟨a.c, a.eng, commit, t.taggen, t.part, dst, op, replica s a.c, s.fab.next, idx⟩]
    next := s.fab.next + 1 } }

def geScatter (a : Acc) (f : Flight) : EngM Flight := do
  let obeg := wbits a.w 0 12 20
  let first := wbits a.w 11 0 24
  let n := wbits a.w 11 24 7
  let fp := wbits a.w 11 31 1 = 1
  let own := 64 * wbits a.w 12 17 11
  let core0 := wbits a.w 12 28 4
  let count := wbits a.w 15 0 17
  if 65536 < own ∨ 64 < n then stopF .geShape
  let mut outst := 0
  for r in List.range count do
    let vals ← atIdx r (cisRead a (4 * (wbits a.w 13 0 16 + r * wbits a.w 13 16 8)) n)
    let p ← atIdx r (readPair a (wbits a.w 12 0 17 * 64) (first + r))
    let o := (p.2 + 2 ^ 32 - obeg) % 2 ^ 32
    let core := core0 + (if own = 0 then 0 else o / own)
    if 15 < core then geStop .geShape r
    let row := if own = 0 then o else o % own
    let e := 4 * (wbits a.w 14 0 16 + row * wbits a.w 14 16 8)
    if core = a.c then let _ ← atIdx r (cisReq a (.acc fp) e vals)
    else
      let s ← get
      let rg := prCis (recOf s (ctxOf (coreOf s a.c)).part) core
      if rg.2 ≤ rg.1 then geStop .remoteDeny r
      sendRemote a f.d.commit core r (.acc e fp vals)
      outst := outst + 1
  doneWork a { f with geVal := some 0, outst := outst }

/-- The score of a row (R245). -/
def maskScore (es : List Word) : Nat := es.foldl (fun m e => max m (signed 32 e.toNat).natAbs) 0

def geMask (a : Acc) (f : Flight) : EngM Flight := do
  let bit0 := wbits a.w 0 12 20
  let n := wbits a.w 11 24 7
  let orOld := wbits a.w 11 31 1 = 1
  let thr := (a.w.getD 12 0).toNat
  let m := wbits a.w 13 17 13
  let base := wbits a.w 13 0 17 * 64
  if 4096 < m ∨ 64 < n then stopF .geShape
  if m = 0 then doneWork a { f with geVal := some 0 }
  else
    let b0 := bit0 / 8
    let nb := (bit0 + m - 1) / 8 - b0 + 1
    let old ← basinReadBytes a (base + b0) nb
    let mut v := leNat old
    let mut ones := 0
    for r in List.range m do
      let es ← atIdx r (cisRead a (4 * (wbits a.w 11 0 16 + r * wbits a.w 11 16 8)) n)
      let i := bit0 % 8 + r
      let new := decide (thr ≤ maskScore es) || (orOld && bitOf v i)
      v := putBit v i new
      if new then ones := ones + 1
    basinWrite a (base + b0) (leBytes nb v)
    modify (regCount (kreg a.c 0x2020) ones)
    modify (regCount (kreg a.c 0x2024) (m - ones))
    if ones < m then
      let slot := (ctxOf (coreOf (← get) a.c)).slot
      modify (modJob slot fun j => { j with predicted := true })
    doneWork a { f with geVal := some ones }

/-! ### The commands -/

/-- HASH_BUILD (R229). -/
def execHashBuild (core : Fin 16) (s : State) : Host.Outcome State Fault Refusal := .next (issue core.val 2 0x40 geHashBuild s)

/-- OUTSITES (R232). -/
def execOutsites (core : Fin 16) (s : State) : Host.Outcome State Fault Refusal := .next (issue core.val 2 0x41 geOutsites s)

/-- KMAP (R233). -/
def execKmap (core : Fin 16) (s : State) : Host.Outcome State Fault Refusal := .next (issue core.val 2 0x42 geKmap s)

/-- SORT (R236, R237). -/
def execSort (core : Fin 16) (s : State) : Host.Outcome State Fault Refusal := .next (issue core.val 2 0x43 geSort s)

/-- GATHER (R238, R244, R273). -/
def execGather (core : Fin 16) (s : State) : Host.Outcome State Fault Refusal := .next (issue core.val 2 0x44 geGather s)

/-- SCATTER (R239). -/
def execScatter (core : Fin 16) (s : State) : Host.Outcome State Fault Refusal := .next (issue core.val 2 0x45 geScatter s)

/-- MASK (R245). -/
def execMask (core : Fin 16) (s : State) : Host.Outcome State Fault Refusal := .next (issue core.val 2 0x46 geMask s)

end Sys2Proof.Machine
end

