-- ==== Sys2Proof/Machine/Verifier.lean ====
section
/-! DEFINITION. The image format and the verifier's checks (R350 to R356), in ascending order of their codes. -/

namespace Sys2Proof.Machine

/-! ### The image (R350 to R352) -/

/-- A section table entry: its image offset and its fields. -/
structure Sect where
  e : Nat
  type : Nat
  form : Nat
  core : Nat
  rsv : Nat
  off : Nat
  len : Nat
  crc : Nat
  deriving DecidableEq, Repr

def imgNsec (b : List Byte) : Nat := field b 6 2
def imgWidth (b : List Byte) : Nat := field b 0x0C 1
def imgNcore (b : List Byte) : Nat := field b 0x0D 1
def imgForms (b : List Byte) : Nat := field b 0x0F 1
def imgBasin (b : List Byte) : Nat := field b 0x10 2
def imgCis (b : List Byte) : Nat := field b 0x12 2
def imgDmem (b : List Byte) : Nat := field b 0x14 2
def imgWwin (b : List Byte) : Nat := field b 0x16 2
def imgKeysel (b : List Byte) : Nat := field b 0x18 1

/-- `DENSITY_CUT` (R241): 0xFF selects 40. -/
def imgDcut (b : List Byte) : Nat := let d := field b 0x0E 1; if d = 0xFF then 40 else d

def sectAt (b : List Byte) (e : Nat) : Sect :=
  ⟨e, field b e 1, field b (e + 1) 1, field b (e + 2) 1, field b (e + 3) 1, field b (e + 4) 4, field b (e + 8) 4,
    field b (e + 12) 4⟩

def sectsOf (b : List Byte) : List Sect := (List.range (min (imgNsec b) 32)).map fun i => sectAt b (0x40 + 16 * i)

/-- What a check runs on: the image, the request, the target cores by core index. -/
structure Chk where
  b : List Byte
  r : LoadReq
  part : Nat
  tc : List Nat

/-- Sections that the selected form loads (R351). -/
def Chk.loaded (k : Chk) : List Sect := (sectsOf k.b).filter fun s => s.form == 0 || s.form == k.r.form + 1

def Chk.of (k : Chk) (t : Nat) : List Sect := k.loaded.filter (·.type == t)

/-- Core indices that a section serves. -/
def Chk.ix (k : Chk) (s : Sect) : List Nat := if s.core = 0xFF then List.range (imgNcore k.b) else [s.core]

def Chk.codeOf (k : Chk) (i : Nat) : Option Sect := (k.of 1).find? fun s => (k.ix s).contains i

/-- The least of the offsets at which a check fails. -/
def leastOf : List Nat → Option Nat
  | [] => none
  | x :: xs => some (xs.foldl min x)

/-- No offset applies (R353). -/
def noOff : Nat := 0xFFFFFFFF

/-! ### IMG_FORMAT, IMG_CRC, IMG_SIG, IMG_FORM (R350 to R352, R355) -/

def headerOk (b : List Byte) (len : Nat) : Bool :=
  field b 0 4 == 0x31585A49 && field b 4 2 == 1 && decide (1 ≤ imgNsec b ∧ imgNsec b ≤ 32)
    && field b 8 4 % 64 == 0 && decide (field b 8 4 ≤ 2 ^ 30) && field b 8 4 == len
    && decide (48 ≤ imgWidth b ∧ imgWidth b ≤ 64 ∧ imgWidth b % 4 = 0) && decide (1 ≤ imgNcore b ∧ imgNcore b ≤ 16)
    && (decide (field b 0x0E 1 ≤ 100) || field b 0x0E 1 == 0xFF) && decide (1 ≤ imgForms b ∧ imgForms b ≤ 7)
    && decide (imgBasin b ≤ 2048) && decide (imgCis b ≤ 256) && decide (1 ≤ imgDmem b ∧ imgDmem b ≤ 256)
    && decide (imgWwin b ≤ 2048) && (decide (imgKeysel b ≤ 3) || imgKeysel b == 0xFF)
    && field b 0x19 7 == 0 && field b 0x28 20 == 0 && field b 0x3C 4 == crc32c (slice b 0 0x3C)
    && decide (0x40 + 16 * imgNsec b ≤ len)

def sectType (t : Nat) : Bool := decide (1 ≤ t ∧ t ≤ 10) || t == 0x0F

/-- A section entry is well formed, after a section that ended at `prev`. -/
def sectOk (b : List Byte) (size : Nat) (last : Bool) (prev : Nat) (s : Sect) : Bool :=
  sectType s.type && decide (s.form ≤ 3) && s.rsv == 0 && (decide (s.core < imgNcore b) || s.core == 0xFF)
    && s.off % 64 == 0 && decide (prev ≤ s.off) && decide (s.off + s.len ≤ size)
    && (s.type != 0x0F || (last && s.len == 256 && s.off + s.len == size && field b (s.off + 193) 63 == 0))

/-- The first entry of the section table that breaks R351 or R352. -/
def sectsBad (b : List Byte) (size prev : Nat) : List Sect → Option Nat
  | [] => none
  | s :: r => if sectOk b size r.isEmpty prev s then sectsBad b size (s.off + s.len) r else some s.e

def chkFormat (k : Chk) : Option Nat :=
  if !headerOk k.b k.r.len || (imgKeysel k.b == 0xFF && (sectsOf k.b).any (·.type == 0x0F)) then some 0
  else sectsBad k.b k.r.len (0x40 + 16 * imgNsec k.b) (sectsOf k.b)

def chkCrc (k : Chk) : Option Nat :=
  leastOf (((sectsOf k.b).filter fun s => crc32c (slice k.b s.off s.len) != s.crc).map (·.e))

/-- The key hash in a slot of the partition's entry (R355). -/
def keyHashOf (s : State) (p j : Nat) : List Byte := odGet s 0x2100 (0x20 + 4 * p + j)

def chkSig (s : State) (k : Chk) : Option Nat :=
  let need := decide (partClass s k.part < 2) || prSigReq (recOf s k.part)
  match (sectsOf k.b).find? (·.type == 0x0F) with
  | none => if need || imgKeysel k.b != 0xFF then some noOff else none
  | some g =>
    let key := slice k.b g.off 97
    if sha384 key == keyHashOf s k.part (imgKeysel k.b)
        && p384Verify key (sha384 (slice k.b 0 g.off)) (slice k.b (g.off + 97) 96)
    then none else some g.off

/-- Entry address of a core index. -/
def Chk.entry (k : Chk) (i : Nat) : Nat := field k.b (((k.of 2).head?.map (·.off)).getD 0 + 4 * i) 4

def chkForm (k : Chk) : Option Nat :=
  if !bitOf (imgForms k.b) k.r.form then some 0
  else match (k.of 2).head? with
  | none => some noOff
  | some ent =>
    if (k.of 1).isEmpty || (k.r.form == 2 && (k.of 4).isEmpty) then some noOff
    else leastOf ((List.range (imgNcore k.b)).filterMap fun i =>
      match k.codeOf i with
      | none => some noOff
      | some c =>
        let a := k.entry i
        if 4 * i + 4 ≤ ent.len ∧ 0x10000000 ≤ a ∧ a < 0x10000000 + c.len then none else some (ent.off + 4 * i))

/-! ### CORE_WIDTH, CORE_FIT -/

def chkWidth (s : State) (k : Chk) : Option Nat :=
  if k.tc.length = imgNcore k.b ∧ k.tc.all (fun c => decide (imgWidth k.b ≤ coreWidth s c) && coreWidth s c != 0)
  then none else some 0

def chkFit (s : State) (k : Chk) : Option Nat :=
  let r := recOf s k.part
  let room (a : Nat × Nat) : Nat := a.2 - a.1
  let ok (c : Nat) : Bool :=
    decide (imgBasin k.b ≤ room (prBasin r c)) && decide (imgCis k.b ≤ room (prCis r c))
      && decide (imgDmem k.b ≤ room (prDmem r c)) && (match vget (coreOf s c).ww k.part none with
        | some w => decide (imgWwin k.b ≤ w.bound - w.base)
        | none => imgWwin k.b == 0)
  if k.tc.all ok then none else some 0

/-! ### Descriptors (R318, R352) -/

/-- A descriptor of the image: its offset, its words, the core indices it serves. -/
structure ImgDesc where
  off : Nat
  w : List Word
  ix : List Nat
  deriving DecidableEq, Repr

def wordsAt (b : List Byte) (off n : Nat) : List Word := (List.range n).map fun i => BitVec.ofNat 32 (field b (off + 4 * i) 4)

/-- What a bundled section holds: descriptors by offset, the first broken slot, offsets of the words present. -/
structure Bundle where
  descs : List (Nat × List Word) := []
  bad : Option Nat := none
  present : List Nat := []
  deriving DecidableEq, Repr

/-- The canonical words of a bundled descriptor whose words start at an offset. -/
def bundleWords (b : List Byte) (off pres : Nat) : List Word :=
  (List.range 16).map fun i => if bitOf pres i then BitVec.ofNat 32 (field b (off + 4 * popCount i pres) 4) else 0

/-- Walks the slots of a bundled section of `n` slots at `base` from slot `i` (R318). -/
def bundleGo (b : List Byte) (base n i : Nat) : Nat → Bundle → Bundle
  | 0, g => g
  | fuel + 1, g =>
    if n ≤ i then g
    else
      let o := base + 4 * i
      let p := field b o 4
      let pres := p % 65536
      if p = 0xFFFF0000 then
        let stop := min n ((i / 8 + 1) * 8)
        match (List.range (stop - i - 1)).find? fun j => field b (o + 4 + 4 * j) 4 != 0 with
        | some j => { g with bad := some (o + 4 + 4 * j) }
        | none => bundleGo b base n stop fuel g
      else
        let cnt := popCount 16 pres
        if p / 65536 ≠ 65535 - pres ∨ pres % 2 = 0 ∨ n < i + 1 + cnt then { g with bad := some o }
        else bundleGo b base n (i + 1 + cnt) fuel
          { g with descs := g.descs ++ [(o, bundleWords b (o + 4) pres)]
                   present := g.present ++ (List.range cnt).map fun j => o + 4 + 4 * j }

def bundleOf (b : List Byte) (s : Sect) : Bundle := bundleGo b s.off (s.len / 4) 0 (s.len / 4) {}

/-- Bundled sections of the selected form. -/
def Chk.bundles (k : Chk) : List Sect := (k.of 3).filter (·.form == 2)

/-- Template records: offset, number, core indices. -/
def Chk.tpls (k : Chk) : List (Nat × Nat × List Nat) :=
  (k.of 4).flatMap fun s => (List.range (s.len / 128)).map fun j => (s.off + 128 * j, field k.b (s.off + 128 * j) 1, k.ix s)

/-- Every descriptor and template descriptor of the form. -/
def Chk.descs (k : Chk) : List ImgDesc :=
  ((k.of 3).flatMap fun s =>
    if s.form = 2 then (bundleOf k.b s).descs.map fun d => ⟨d.1, d.2, k.ix s⟩
    else (List.range (s.len / 64)).map fun j => ⟨s.off + 64 * j, wordsAt k.b (s.off + 64 * j) 16, k.ix s⟩)
  ++ k.tpls.map fun t => ⟨t.1 + 0x20, wordsAt k.b (t.1 + 0x20) 16, t.2.2⟩

def Chk.badDesc (k : Chk) (bad : ImgDesc → Bool) : Option Nat := leastOf ((k.descs.filter bad).map (·.off))

/-! ### DESC_FIELD to BUNDLE -/

def chkDescField (k : Chk) : Option Nat :=
  k.badDesc fun d => descCheck d.w != 0 || opReserved d.w || !opRangeOk (imgWidth k.b) d.w

def isPass (d : ImgDesc) : Bool := wbits d.w 0 0 8 == 1 || wbits d.w 0 0 8 == 2

def chkDescFormat (k : Chk) : Option Nat := k.badDesc fun d => isPass d && !passPair (passOf d.w)

/-- Used regions of a descriptor: write, Cistern, first unit, units. -/
def regionsOf (w : List Word) : List (Bool × Bool × Nat × Nat) :=
  ([3, 4, 5, 6, 7, 8, 9, 10] : List Nat).filterMap fun i =>
    (regionOf (w.getD i 0)).map fun r => (decide (7 ≤ i), r.1, r.2.1, r.2.2)

def chkDescRegion (k : Chk) : Option Nat :=
  k.badDesc fun d =>
    (regionsOf d.w).any (fun r => decide ((if r.2.1 then imgCis k.b * 256 else imgBasin k.b * 64) < r.2.2.1 + r.2.2.2))
      || (wbits d.w 0 0 8 == 0x65 &&
        (let lo := wbits d.w 11 0 17
         let n := wbits d.w 11 17 11 * (wbits d.w 12 0 8 + 1)
         !(regionsOf d.w).any fun r => r.1 && !r.2.1 && decide (r.2.2.1 ≤ lo) && decide (lo + n ≤ r.2.2.1 + r.2.2.2)))

def chkDescClass (s : State) (k : Chk) : Option Nat :=
  if partClass s k.part = 2 then none else k.badDesc fun d => wbits d.w 0 0 8 == 2

def chkBundle (k : Chk) : Option Nat := leastOf (k.bundles.filterMap fun s => (bundleOf k.b s).bad)

/-! ### TEMPLATE, UKERN -/

/-- A valid patch entry that the verifier refuses. -/
def patchBad (p : Nat) : Bool :=
  bitOf p 21 && (decide (bits p 0 4 ≤ 2) || decide (32 < bits p 4 5 + bits p 9 5 + 1) || bits p 22 10 != 0)

/-- Offsets of the elements of a list that meet an earlier one. -/
def repeats {α : Type} (key : α → α → Bool) (off : α → Nat) : List α → List α → List Nat
  | _, [] => []
  | seen, x :: xs => (if seen.any (key x) then [off x] else []) ++ repeats key off (x :: seen) xs

def chkTemplate (k : Chk) : Option Nat :=
  leastOf ((k.tpls.filter fun t => decide (63 < t.2.1)).map (·.1)
    ++ repeats (fun a c => a.2.1 == c.2.1 && a.2.2.any c.2.2.contains) (·.1) [] k.tpls
    ++ k.tpls.flatMap fun t => ((List.range 8).map fun j => t.1 + 0x60 + 4 * j).filter fun o => patchBad (field k.b o 4))

/-- Microkernel sections: offset, first index, words, length, core indices. -/
structure ImgUkern where
  off : Nat
  first : Nat
  cnt : Nat
  len : Nat
  ix : List Nat
  deriving DecidableEq, Repr

def Chk.ukerns (k : Chk) : List ImgUkern := (k.of 5).map fun s => ⟨s.off, field k.b s.off 2, field k.b (s.off + 2) 2, s.len, k.ix s⟩

def ukMeets (a b : ImgUkern) : Bool :=
  a.ix.any b.ix.contains && decide (a.first < b.first + b.cnt) && decide (b.first < a.first + a.cnt)

/-- Every word of a RUN is one of a microkernel of the core index. -/
def ukHolds (us : List ImgUkern) (i lo hi : Nat) : Bool :=
  (List.range (hi + 1 - lo)).all fun j =>
    us.any fun u => u.ix.contains i && decide (u.first ≤ lo + j) && decide (lo + j < u.first + u.cnt)

def chkUkern (k : Chk) : Option Nat :=
  let us := k.ukerns
  leastOf ((us.filter fun u => decide (4096 < u.first + u.cnt) || us.any (fun v => v.off != u.off && ukMeets u v)).map (·.off)
    ++ (k.descs.filter fun d => wbits d.w 0 0 8 == 0x20 &&
      !d.ix.all fun i => ukHolds us i (wbits d.w 0 12 12) (wbits d.w 0 12 12 + wbits d.w 11 0 12)).map (·.off))

/-! ### TABLE_HDR (R147, R152, R226, R272) -/

/-- A range lies wholly in one DATA section. -/
def Chk.inData (k : Chk) (a n : Nat) : Bool := (k.of 6).any fun s => decide (s.off ≤ a) && decide (a + n ≤ s.off + s.len)

def kq8HdrOk (k : Chk) (o : Nat) : Bool :=
  let ax := field k.b (o + 2) 1
  let nch := field k.b (o + 4) 4
  let nrow := field k.b (o + 8) 4
  let eo := field k.b (o + 12) 4
  k.inData o 16 && field k.b o 2 == 0x384B && decide (ax ≤ 1) && field k.b (o + 3) 1 == 0
    && decide (16 ≤ nch ∧ nch ≤ 65536 ∧ nch % 16 = 0) && decide (1 ≤ nrow ∧ nrow ≤ 2 ^ 24) && eo % 64 == 0
    && decide (0x40 + nrow * nch ≤ eo) && k.inData o (eo + (if ax = 1 then nch / 16 else nrow * nch / 16))

def tblObjOk (k : Chk) (o : Nat) : Bool :=
  let hb := slice k.b o 64
  let h := tblHeadOf hb
  k.inData o 64 && tblHeadOk hb && field hb 5 3 == 0 && field hb 0x24 28 == 0
    && k.inData (o + h.rowsOff) (h.nrow * h.rowb) && (h.mode == 0 || k.inData (o + h.hashOff) (h.lines * 64))

/-- `n` groups from an offset are canonical and end by `hi` (R152). -/
def groupsOk (b : List Byte) (fmt hi : Nat) : Nat → Nat → Bool
  | 0, _ => true
  | n + 1, o =>
    let g := slice b o 64
    let len := sg16Len fmt (g.headD 0)
    decide (o + len ≤ hi) && sg16Enc fmt (sg16Dec fmt g) == g.take len && groupsOk b fmt hi n (o + len)

/-- One tile record and its groups. -/
def tileOk (k : Chk) (fmt goff o : Nat) : Bool :=
  let lo := goff + field k.b o 4
  let len := field k.b (o + 4) 2
  let nsite := min (field k.b (o + 6) 1 % 128) 64
  let ngrp := field k.b (o + 7) 1 % 8
  xorBytes (slice k.b o 16) == 0 && k.inData lo len
    && (List.range nsite).all fun j =>
      let so := field k.b (o + 16 + 2 * j) 2
      popCount 16 so % 2 == 0 && groupsOk k.b fmt (lo + len) ngrp (lo + so % 16384)

def chkTableHdr (k : Chk) : Option Nat :=
  leastOf ((k.of 7).flatMap fun s => (List.range (s.len / 16)).filterMap fun j =>
    let e := s.off + 16 * j
    let o := field k.b e 4
    let fmt := field k.b (e + 5) 1
    let nrec := field k.b (e + 8) 4
    match field k.b (e + 4) 1 with
    | 1 => if kq8HdrOk k o then none else some o
    | 2 =>
      if !(fmtValid fmt && isSg16 fmt) then some e
      else if !k.inData o (192 * nrec) then some o
      else ((List.range nrec).find? fun t => !tileOk k fmt (field k.b (e + 12) 4) (o + 192 * t)).map (o + 192 * ·)
    | 3 => if tblObjOk k o then none else some o
    | _ => some e)

/-! ### RELOC (R357) -/

/-- A relocation of the form: entry offset, kind, word offset, offset of the high half-word. -/
structure Reloc where
  e : Nat
  kind : Nat
  off : Nat
  hi : Int
  deriving DecidableEq, Repr

def Chk.relocs (k : Chk) : List Reloc :=
  (k.of 8).flatMap fun s => ((List.range (s.len / 8)).map fun j =>
    let e := s.off + 8 * j
    (⟨e, field k.b (e + 6) 1, field k.b e 4, (field k.b e 4 : Int) + signed 16 (field k.b (e + 4) 2)⟩ : Reloc)).filter
      fun r => field k.b (r.e + 7) 1 == 0 || field k.b (r.e + 7) 1 == k.r.form + 1

/-- A place that a relocation writes: inside a loaded section, and a word that is present in bundled form. -/
def Chk.placeOk (k : Chk) (a n : Nat) : Bool :=
  k.loaded.any (fun s => decide (s.off ≤ a) && decide (a + n ≤ s.off + s.len))
    && !(k.r.form == 1 && k.bundles.any fun s =>
      decide (s.off ≤ a) && decide (a < s.off + s.len) && !(bundleOf k.b s).present.contains (a / 4 * 4))

/-- The value that a relocation gives. -/
def Chk.relocVal (k : Chk) (r : Reloc) : Nat :=
  if r.kind = 1 then field k.b r.off 4 + field k.b r.hi.toNat 2 * 2 ^ 32 + k.r.dst else field k.b r.off 4 + k.r.dst % 2 ^ 31

def Chk.relocOk (k : Chk) (r : Reloc) : Bool :=
  let v := k.relocVal r
  r.off % 4 == 0 && k.placeOk r.off 4 &&
    (if r.kind = 1 then
      decide (0 ≤ r.hi) && k.placeOk r.hi.toNat 2 && decide (k.r.dst ≤ v) && decide (v < k.r.dst + k.r.len)
    else r.kind == 2 && decide (2 ^ 31 + k.r.dst % 2 ^ 31 ≤ v) && decide (v < 2 ^ 31 + k.r.dst % 2 ^ 31 + k.r.len))

def chkReloc (k : Chk) : Option Nat := leastOf ((k.relocs.filter fun r => !k.relocOk r).map (·.e))

/-! ### RING_PAIR -/

/-- Ring declarations: offset, ring, `PROD`, `CONS`, `CHECKED`, core indices. -/
structure RingDecl where
  off : Nat
  ring : Nat
  prod : Nat
  cons : Nat
  chk : Nat
  ix : List Nat
  deriving DecidableEq, Repr

def Chk.rings (k : Chk) : List RingDecl :=
  (k.of 10).flatMap fun s => (List.range (s.len / 4)).map fun j =>
    let o := s.off + 4 * j
    ⟨o, field k.b o 1, field k.b (o + 1) 1, field k.b (o + 2) 1, field k.b (o + 3) 1 % 2, k.ix s⟩

/-- A RINGSET agrees with the declaration of its ring for a core index. -/
def ringAgrees (ds : List RingDecl) (w : List Word) (i : Nat) : Bool :=
  ds.any fun d => d.ix.contains i && d.ring == wbits w 12 8 4 && d.prod == wbits w 12 12 3 && d.cons == wbits w 12 15 3
    && d.chk == wbits w 12 18 1

def chkRingPair (k : Chk) : Option Nat :=
  let ds := k.rings
  leastOf ((ds.filter fun d => d.prod == d.cons || d.prod == 0 || d.cons == 4).map (·.off)
    ++ repeats (fun a c => a.ring == c.ring && a.ix.any c.ix.contains) (·.off) [] ds
    ++ (k.descs.filter fun d => wbits d.w 0 0 8 == 0x65 && !d.ix.all (ringAgrees ds d.w)).map (·.off))

/-! ### WAIT_CYCLE (R356) -/

/-- An entry of a block: its offset and what it does; `none` where it names no descriptor or has no known kind. -/
inductive WaitAct where
  | desc (eng : Nat) (waits sets : List (Nat × Nat))
  | swait (sem n : Nat)
  | sset (sem n : Nat)
  | unknown
  deriving DecidableEq, Repr

structure WaitEntry where
  off : Nat
  act : WaitAct
  deriving DecidableEq, Repr

/-- The simulation of R356: values of the local semaphores, queues by engine, entries left. -/
structure WaitSim where
  sem : List Nat
  q : List (List WaitEntry)
  rest : List WaitEntry
  deriving DecidableEq, Repr

def semsOk (ds : List (Nat × Nat)) (sem : List Nat) : Bool := ds.all fun d => decide (32 ≤ d.1) || decide (d.2 ≤ sem.getD d.1 0)

def semsSub (ds : List (Nat × Nat)) (sem : List Nat) : List Nat :=
  ds.foldl (fun s d => if d.1 < 32 then s.set d.1 (s.getD d.1 0 - d.2) else s) sem

def semsAdd (ds : List (Nat × Nat)) (sem : List Nat) : List Nat :=
  ds.foldl (fun s d => if d.1 < 32 then s.set d.1 (s.getD d.1 0 + d.2) else s) sem

/-- The control core runs on until it is held. -/
def waitCc (sem : List Nat) (q : List (List WaitEntry)) : List WaitEntry → WaitSim
  | [] => ⟨sem, q, []⟩
  | x :: r =>
    match x.act with
    | .desc e _ _ => waitCc sem (q.modify e (· ++ [x])) r
    | .sset s n => waitCc (semsAdd [(s, n)] sem) q r
    | .swait s n => if semsOk [(s, n)] sem then waitCc (semsSub [(s, n)] sem) q r else ⟨sem, q, x :: r⟩
    | .unknown => ⟨sem, q, x :: r⟩

/-- The heads of one queue issue as long as their waits allow. -/
def waitQueue (sem : List Nat) : List WaitEntry → List Nat × List WaitEntry
  | [] => (sem, [])
  | x :: r =>
    match x.act with
    | .desc _ ws ss => if semsOk ws sem then waitQueue (semsAdd ss (semsSub ws sem)) r else (sem, x :: r)
    | _ => (sem, x :: r)

def waitRound (g : WaitSim) : WaitSim :=
  let g := waitCc g.sem g.q g.rest
  (List.range 5).foldl (fun g e => let r := waitQueue g.sem (g.q.getD e []); { g with sem := r.1, q := g.q.set e r.2 }) g

def waitRun : Nat → WaitSim → WaitSim
  | 0, g => g
  | n + 1, g => waitRun n (waitRound g)

/-- Where a block fails: the first entry in commit order that never issues, or the header. -/
def waitBad (hdr : Nat) (es : List WaitEntry) : Option Nat :=
  let g := waitRun (2 * es.length + 1) ⟨List.replicate 32 0, List.replicate 5 [], es⟩
  match leastOf ((g.rest ++ g.q.flatten).map (·.off)) with
  | some o => some o
  | none => if g.sem.any (· != 0) then some hdr else none

/-- The words of the descriptor or of the template record at an image offset. -/
def Chk.descAt (k : Chk) (o : Nat) : Option (List Word) :=
  match k.tpls.find? (·.1 == o) with
  | some t => some (wordsAt k.b (t.1 + 0x20) 16)
  | none => (k.descs.find? (·.off == o)).map (·.w)

def Chk.waitEntry (k : Chk) (e : Nat) : WaitEntry :=
  let sem := field k.b (e + 1) 1
  let n := field k.b (e + 2) 2
  match field k.b e 1 with
  | 0 => (match k.descAt (field k.b (e + 4) 4) with
    | some w => ⟨e, .desc (wbits w 0 8 3) (waitsOf w) (setsOf w false ++ setsOf w true)⟩
    | none => ⟨e, .unknown⟩)
  | 1 => ⟨e, .swait sem n⟩
  | 2 => ⟨e, .sset sem n⟩
  | _ => ⟨e, .unknown⟩

/-- The blocks of a section from an offset to its end. -/
def Chk.waitBlocks (k : Chk) (hi : Nat) : Nat → Nat → Option Nat
  | 0, _ => none
  | fuel + 1, o =>
    if hi < o + 8 then none
    else
      let n := field k.b (o + 2) 2
      if hi < o + 8 + 8 * n then some o
      else match waitBad o ((List.range n).map fun j => k.waitEntry (o + 8 + 8 * j)) with
      | some x => some x
      | none => k.waitBlocks hi fuel (o + 8 + 8 * n)

def chkWait (k : Chk) : Option Nat := leastOf ((k.of 9).filterMap fun s => k.waitBlocks (s.off + s.len) (s.len / 8) s.off)

/-! ### NORES -/

/-- A microkernel index of a core is held by a loaded program. -/
def ukernUsed (s : State) (c first cnt : Nat) : Bool :=
  s.hst.progs.toList.any fun g => match g with
    | some g => g.ukerns.any fun u => u.1 == c && decide (u.2.1 < first + cnt) && decide (first < u.2.1 + u.2.2)
    | none => false

def chkNores (s : State) (k : Chk) : Option Nat :=
  if s.hst.progs.toList.all (·.isSome) then some noOff
  else
    let core (i : Nat) : Nat := k.tc.getD i 0
    leastOf ((k.tpls.filter fun t => t.2.2.any fun i => (vget (coreOf s (core i)).tpl t.2.1 none).isSome).map (·.1)
      ++ (k.ukerns.filter fun u => u.ix.any fun i => ukernUsed s (core i) u.first u.cnt).map (·.off))

/-! ### The verifier (R353) -/

/-- The next check, where the earlier ones pass. -/
def thenChk (n : Nat) (x : Option Nat) (k : Unit → Option (Nat × Nat)) : Option (Nat × Nat) :=
  match x with
  | some o => some (n, o)
  | none => k ()

/-- The checks in ascending code order: the first failure, with its offset. -/
def imageCheck (s : State) (k : Chk) : Option (Nat × Nat) :=
  thenChk 1 (chkFormat k) fun _ => thenChk 2 (chkCrc k) fun _ => thenChk 3 (chkSig s k) fun _ =>
  thenChk 4 (chkForm k) fun _ => thenChk 5 (chkWidth s k) fun _ => thenChk 6 (chkFit s k) fun _ =>
  thenChk 7 (chkDescField k) fun _ => thenChk 8 (chkDescFormat k) fun _ => thenChk 9 (chkDescRegion k) fun _ =>
  thenChk 10 (chkDescClass s k) fun _ => thenChk 11 (chkBundle k) fun _ => thenChk 12 (chkTemplate k) fun _ =>
  thenChk 13 (chkUkern k) fun _ => thenChk 14 (chkTableHdr k) fun _ => thenChk 15 (chkReloc k) fun _ =>
  thenChk 16 (chkRingPair k) fun _ => thenChk 17 (chkWait k) fun _ => thenChk 18 (chkNores s k) fun _ => none

end Sys2Proof.Machine
end

