-- ==== Sys2Proof/Machine/Loader.lean ====
section
/-! DEFINITION. The loader: load channels, the copy, installation, unloading (R348, R349, R354, R357 to R359). -/

namespace Sys2Proof.Machine

def modPart (p : Nat) (f : Part → Part) (s : State) : State := setPart p (f (partOf s p)) s

def modLd (p : Nat) (f : LoadCh → LoadCh) (s : State) : State := modPart p (fun x => { x with ld := f x.ld }) s

/-! ### Requests (R348) -/

/-- A register of the load channel (R361), by its offset from the channel. -/
def ldReg (s : State) (p off : Nat) : Nat := (regGet s (prtKey p (0x10000 + off))).toNat

/-- The channel is busy: a request waits or is served. -/
def ldBusy (s : State) (p : Nat) : Bool := (partOf s p).ld.req.isSome

/-- A write of `PRT_LD_CMD` (R348, R361): reserved codes and a busy channel are ignored and counted. -/
def ldCmd (r : Requester) (p v : Nat) (s : State) : State :=
  prtGate r p (fun s =>
    let op := v % 4
    if (op ≠ 1 ∧ op ≠ 2) ∨ ldBusy s p then ignWrite r s
    else
      let cores := ldReg s p 0x14
      let q : LoadReq := {
        unload := op == 2, handle := bits v 8 16, src := ldReg s p 0 + ldReg s p 4 * 2 ^ 32,
        dst := ldReg s p 8 + ldReg s p 0x0C * 2 ^ 32, len := ldReg s p 0x10, cores := BitVec.ofNat 16 cores,
        form := bits cores 16 2, stage := 0, prot := false }
      let s := modLd p (fun x => { x with req := some q, state := if op = 1 then 1 else 4 }) s
      { s with hst := { s.hst with ldQueue := s.hst.ldQueue ++ [p] } }) s

/-- LOAD (R348, R349). -/
def execLoad (r : Requester) (p : Fin 8) (v : Nat) (s : State) : Host.Outcome State Fault Refusal := .next (ldCmd r p.val v s)

/-- UNLOAD (R348, R358). -/
def execUnload (r : Requester) (p : Fin 8) (v : Nat) (s : State) : Host.Outcome State Fault Refusal := .next (ldCmd r p.val v s)

/-- A request ends (R348, R357, R358). -/
def ldDone (p handle : Nat) (s : State) : State :=
  modLd p (fun x => { x with req := none, state := 5, handle := handle, doneCnt := wrapAdd 32 x.doneCnt 1 }) s

/-- A rejection (R353, R354): nothing is installed, the protection ends, the code is journaled. -/
def ldReject (p : Nat) (n : Fin 32) (off : Nat) (s : State) : State :=
  raise (plainFault (.load n) islHst (some p))
    (modLd p (fun x => { x with req := none, state := 6, rej := 0x0600 + n.val, rejOff := off }) s)

/-! ### Unloading (R358) -/

/-- An admitted job names the program. -/
def progNamed (s : State) (p handle : Nat) : Bool :=
  s.hst.jobs.any fun e => e.2.part == p && e.2.handle == handle && jobAdmitted e.2

/-- A program leaves its slot: templates, microkernel words and instruction-cache lines go, the protection ends. -/
def progFree (slot : Nat) (s : State) : State :=
  match vget s.hst.progs slot none with
  | none => s
  | some g =>
    let s := { s with hst := { s.hst with progs := vset s.hst.progs slot none } }
    let s := g.ukerns.foldl (fun s u =>
      modCore u.1 (fun x => { x with ukern := smClear u.2.1 (u.2.1 + u.2.2) x.ukern }) s) s
    g.cores.foldl (fun s c => modCore c (fun x => { x with
      tpl := vmap x.tpl none fun _ t => t.bind fun e => if e.part = g.part ∧ e.prog = slot then none else some e
      ic := x.ic.filter fun l => !(l.part == g.part && meets l.iova 64 g.dst g.len) }) s) s

/-- An unload is served: refused, or performed. -/
def ldUnload (p handle : Nat) (s : State) : State :=
  match progOf s p handle with
  | none => modLd p (fun x => { x with req := none, state := 6, rej := 0, busy := false }) s
  | some _ =>
    if progNamed s p handle then modLd p (fun x => { x with req := none, state := 6, rej := 0, busy := true }) s
    else modLd p (fun x => { x with req := none, state := 5, busy := false, doneCnt := wrapAdd 32 x.doneCnt 1 })
      (progFree (handle % 64) s)

/-! ### Serving -/

/-- The loader serves a request already. -/
def ldServing (s : State) : Bool := s.parts.toList.any fun x => match x.ld.req with
  | some r => r.stage != 0
  | none => false

/-- LOADER_SERVE_START (R348, R349): the protection of a load starts with its copy. -/
def execLoaderServeStart (s : State) : Host.Outcome State Fault Refusal :=
  .next (
    if !isReady s || ldServing s then s
    else match s.hst.ldQueue with
    | [] => s
    | p :: rest =>
      let s := { s with hst := { s.hst with ldQueue := rest } }
      match (partOf s p).ld.req with
      | none => s
      | some q =>
        if q.unload then ldUnload p q.handle s
        else modLd p (fun x => { x with req := some { q with stage := 1, prot := true } }) s)

def chkOf (p : Nat) (q : LoadReq) (b : List Byte) : Chk := ⟨b, q, p, onesFrom q.cores.toNat 0 16⟩

def chunk64 : Nat → List Byte → List (List Byte)
  | 0, _ => []
  | n + 1, b => b.take 64 :: chunk64 n (b.drop 64)

/-- LOAD_COPY_COMPLETE (R349, R353): the image lies in the partition's DRAM; the verifier runs on the copy. -/
def execLoadCopyComplete (p : Fin 8) (data : HostRead) (s : State) : Host.Outcome State Fault Refusal :=
  .next (
    match (partOf s p.val).ld.req with
    | none => s
    | some q =>
      if !isReady s || q.stage != 1 then s
      else match data, ownerOf (partOf s p.val) with
      | .ok d, some _ =>
        let b := slice d 0 q.len
        (match copyLines false p.val q.dst (chunk64 ((q.len + 63) / 64) b) s with
        | (.error _, s) => ldReject p.val 0x13 noOff s
        | (.ok _, s) =>
          match iovaReadBytes agentHst p.val q.dst q.len s with
          | (.error _, s) => ldReject p.val 0x13 noOff s
          | (.ok b, s) =>
            match imageCheck s (chkOf p.val q b) with
            | some (n, off) => ldReject p.val (Fin.ofNat 32 n) off s
            | none => modLd p.val (fun x => { x with req := some { q with stage := 2 }, state := 3 }) s)
      | _, _ => ldReject p.val 0x13 noOff s)

/-! ### Installation (R357) -/

/-- One relocation on the image. -/
def relocPut (k : Chk) (b : List Byte) (r : Reloc) : List Byte :=
  let v := { k with b := b }.relocVal r
  let b := patch b r.off (leBytes 4 v)
  if r.kind = 1 then patch b r.hi.toNat (leBytes 2 (v / 2 ^ 32)) else b

/-- Writes the lines that the relocations changed. -/
def relocLines (p dst : Nat) (old new : List Byte) : Nat → State → Except FaultCode Unit × State
  | 0, s => (.ok (), s)
  | n + 1, s =>
    match relocLines p dst old new n s with
    | (.error e, s) => (.error e, s)
    | (.ok _, s) =>
      if slice old (64 * n) 64 = slice new (64 * n) 64 then (.ok (), s) else copyLines false p (dst + 64 * n) [slice new (64 * n) 64] s

/-- The template of a record (R320, R352). -/
def tplOf (b : List Byte) (o p slot : Nat) : Template :=
  let t : Template := { words := wordsAt b (o + 0x20) 16, patches := wordsAt b (o + 0x60) 8, crc := 0, part := p, prog := slot }
  { t with crc := crc32c (tplBytes t) }

/-- The words of a microkernel section: its bytes divided evenly (R352 gives no width). -/
def ukWords (b : List Byte) (u : ImgUkern) : List (List Byte) :=
  let n := (u.len - 4) / u.cnt
  (List.range u.cnt).map fun i => slice b (u.off + 4 + n * i) n

def ukDflt : Nat → List Byte := fun _ => []

/-- What the loader records for the handle. -/
def progRec (k : Chk) (gen : Nat) : Program :=
  let b := k.b
  let core (i : Nat) : Nat := k.tc.getD i 0
  { part := k.part, gen := gen, dst := k.r.dst, len := k.r.len, form := k.r.form, width := imgWidth b, ncore := imgNcore b,
    cores := k.tc, basin := imgBasin b, cis := imgCis b, dmem := imgDmem b, wwin := imgWwin b, dcut := imgDcut b,
    kdwin := k.r.dst / 2 ^ 31 % 2 ^ 17, entries := (List.range (imgNcore b)).map k.entry,
    code := (List.range (imgNcore b)).map fun i => match k.codeOf i with
      | some c => (k.r.dst + c.off, c.len)
      | none => (0, 0)
    tpls := k.tpls.flatMap fun t => t.2.2.map fun i => (core i, t.2.1)
    ukerns := k.ukerns.flatMap fun u => u.ix.map fun i => (core i, u.first, u.cnt) }

/-- Templates, microkernels and the record of a verified and relocated image. -/
def installProg (slot : Nat) (k : Chk) (s : State) : State :=
  let core (i : Nat) : Nat := k.tc.getD i 0
  let gen := (vget s.hst.progGen slot 0 + 1) % 256
  let s := k.tpls.foldl (fun s t => t.2.2.foldl (fun s i =>
    modCore (core i) (fun x => { x with tpl := vset x.tpl t.2.1 (some (tplOf k.b t.1 k.part slot)) }) s) s) s
  let s := k.ukerns.foldl (fun s u => u.ix.foldl (fun s i =>
    modCore (core i) (fun x => { x with ukern := smSetList ukDflt x.ukern u.first (ukWords k.b u) }) s) s) s
  { s with hst := { s.hst with
      progs := vset s.hst.progs slot (some (progRec k gen)), progGen := vset s.hst.progGen slot gen } }

def freeProgSlot (s : State) : Option Nat := (List.range 64).find? fun n => (vget s.hst.progs n none).isNone

/-- LOAD_INSTALL_COMPLETE (R357): relocations on the loaded image, then the stores and the handle. -/
def execLoadInstallComplete (p : Fin 8) (s : State) : Host.Outcome State Fault Refusal :=
  .next (
    match (partOf s p.val).ld.req, freeProgSlot s with
    | some q, some slot =>
      if !isReady s || q.stage != 2 then s
      else match iovaReadLines agentHst p.val q.dst ((q.len + 63) / 64) s with
      | (.error _, s) => ldReject p.val 0x13 noOff s
      | (.ok b, s) =>
        let k := chkOf p.val q b
        let new := k.relocs.foldl (relocPut k) b
        match relocLines p.val q.dst b new ((q.len + 63) / 64) s with
        | (.error _, s) => ldReject p.val 0x13 noOff s
        | (.ok _, s) =>
          let s := installProg slot { k with b := new } s
          ldDone p.val (slot + vget s.hst.progGen slot 0 * 256) s
    | _, _ => s)

end Sys2Proof.Machine
end

