-- ==== Sys2Proof/Machine/Partition.lean ====
section
/-! DEFINITION. The partition table and partition reset (R166, R184, R389 to R395), Sluices (R405 to R409), translation
copies (R403), lookup tables (R411 to R415). -/

namespace Sys2Proof.Machine

/-! ### Writes to OD index 0x2100 (R389, R391) -/

/-- Reason 1 of R391: the requester is not in `WRITERS`, or `LOCK` is 1. -/
def partReason1 (s : State) (req sub : Nat) : Bool :=
  !bitOf (odNat s 0x2100 1) (if req < 2 then 0 else req - 1) || (odNat s 0x2100 2 == 1 && sub != 5)

/-- Reason 2: a mailbox other than the owner's writes an enabled record. -/
def partReason2 (s : State) (req p : Nat) : Bool :=
  prEn (recOf s p) && decide (2 ≤ req) && prOwner (recOf s p) != req - 2

/-- The partition has a program loaded or a table registered. -/
def partHolds (s : State) (p : Nat) : Bool :=
  (s.hst.progs.toList.any fun g => match g with
    | some g => g.part == p
    | none => false)
    || (partOf s p).tables.toList.any fun t => t.cur.isSome || t.standby.isSome

/-- Reason 3. -/
def partReason3 (s : State) (p : Nat) (n : List Byte) : Bool :=
  let o := recOf s p
  !(liveJobs s p).isEmpty || (partOf s p).reset.isSome
    || (partHolds s p && (slice o 0 3 != slice n 0 3 || slice o 0x10 0x28 != slice n 0x10 0x28))

/-- The region words of one core: bits reserved, bounds. -/
def coreWordsOk (n : List Byte) (c : Nat) : Bool :=
  let w (k : Nat) : Nat := field n (0x40 + 16 * c + 4 * k) 4
  let ok (a : Nat × Nat) (lim : Nat) : Bool := decide (a.1 ≤ a.2) && decide (a.2 ≤ lim)
  let b := prBasin n c
  let v := prWwin n c
  if bitOf (prCores n) c then
    bits (w 0) 12 4 == 0 && bits (w 0) 28 4 == 0 && bits (w 1) 9 7 == 0 && bits (w 1) 25 7 == 0
      && bits (w 2) 9 7 == 0 && bits (w 2) 25 7 == 0 && bits (w 3) 12 4 == 0 && bits (w 3) 28 4 == 0
      && ok b 2048 && ok (prCis n c) 256 && ok (prDmem n c) 256 && ok v 2048
      && (v.1 == v.2 || (decide (b.1 ≤ v.1) && decide (v.2 ≤ b.2)))
  else (List.range 4).all fun k => w k == 0

/-- Reason 4: fields outside their range, reserved fields, bounds, DRAM regions, `TROOT`. -/
def partReason4 (s : State) (n : List Byte) : Bool :=
  !(decide (field n 0 1 ≤ 1) && decide (prClass n ≤ 2) && (decide (prOwner n ≤ 3) || prOwner n == 0xFF)
    && field n 3 1 / 2 == 0 && field n 6 2 == 0 && field n 0x38 8 == 0
    && (List.range 4).all (fun i => bits (field n (0x10 + 8 * i) 8) 34 30 == 0)
    && (prDrams n).all (fun d => d.size == 0 || decide (d.base + d.size ≤ carveOut s))
    && (List.range 16).all (coreWordsOk n)
    && (!prEn n || (prOwner n != 0xFF && prTroot n % 524288 == 0 && inRegion n true (prTroot n) 524288)))

/-- Ranges of the used DRAM regions. -/
def dramSpans (n : List Byte) : List (Nat × Nat) := ((prDrams n).filter fun d => d.size != 0).map fun d => (d.base, d.size)

def spansMeet (a b : Nat × Nat) : Bool := meets a.1 a.2 b.1 b.2

/-- Some two ranges of a list meet. -/
def spansClash : List (Nat × Nat) → Bool
  | [] => false
  | a :: l => l.any (spansMeet a) || spansClash l

/-- Ranges of one core, not empty, meet. -/
def unitsMeet (a b : Nat × Nat) : Bool := meets a.1 (a.2 - a.1) b.1 (b.2 - b.1) && decide (a.1 < a.2) && decide (b.1 < b.2)

/-- The records share a region of a core, DRAM or a semaphore. -/
def recordsClash (n o : List Byte) : Bool :=
  prSems n &&& prSems o != 0 || ((dramSpans n).any fun a => (dramSpans o).any (spansMeet a))
    || (List.range 16).any fun c =>
      unitsMeet (prBasin n c) (prBasin o c) || unitsMeet (prCis n c) (prCis o c) || unitsMeet (prDmem n c) (prDmem o c)

/-- Reason 5. -/
def partReason5 (s : State) (p : Nat) (n : List Byte) : Bool :=
  let st := streamRegion s
  spansClash (dramSpans n) || ((dramSpans n).any fun a => st.2 != 0 && spansMeet a st)
    || (List.range 8).any fun q => q != p && prEn (recOf s q) && recordsClash n (recOf s q)

/-- Reason 6. -/
def partReason6 (n : List Byte) : Bool :=
  prEn n && decide (prClass n ≤ 1) && (prDrams n).any fun d => d.size != 0 && !d.ecc

/-- The first reason for which a record is refused; 0 for none (R391). -/
def partReason (s : State) (req p : Nat) (n : List Byte) : Nat :=
  if partReason1 s req (0x10 + p) then 1
  else if partReason2 s req p then 2
  else if partReason3 s p n then 3
  else if partReason4 s n then 4
  else if partReason5 s p n then 5
  else if partReason6 n then 6
  else 0

/-- The first reason for which `STREAM` is refused. -/
def streamReason (s : State) (req : Nat) (v : List Byte) : Nat :=
  let w := leNat v
  let st := (bits w 0 16 * 2097152, bits w 16 16 * 2097152)
  if partReason1 s req 4 then 1
  else if st.2 ≠ 0 ∧ carveOut s < st.1 + st.2 then 4
  else if anyCtx s (fun _ => true) && odGet s 0x2100 4 != v then 7
  else if st.2 ≠ 0 ∧ (List.range 8).any (fun q => prEn (recOf s q) && (dramSpans (recOf s q)).any (spansMeet st)) then 7
  else 0

/-- SDO abort code of a reason (R391). -/
def reasonCode : Nat → Nat
  | 0 => 0
  | 1 | 2 => eRight
  | 4 | 6 => eRange
  | _ => eState

/-! ### What an accepted record does -/

/-- Semaphores in the partition's hands (R166, R390). -/
def effSems (r : List Byte) : Nat := if prEn r then prSems r else 0

/-- Semaphores newly assigned return to 0 (R166). -/
def clearSems (m : Nat) (s : State) : State := { s with sems := vmap s.sems 0 fun i v => if bitOf m i then 0 else v }

/-- The weight window of a record on a core (R184, R390). -/
def recWindow (p c : Nat) (r : List Byte) : Option WeightWin :=
  let w := prWwin r c
  if prEn r ∧ w.1 < w.2 then some ⟨p, w.1, w.2⟩ else none

/-- A core's windows change, once its contexts allow it (R184). -/
def winAsk (p : Nat) (r : List Byte) (s : State) (c : Nat) : State :=
  let x := coreOf s c
  let base := x.wwNext.getD x.ww
  if vget base p none = recWindow p c r then s
  else wwSettle c (setCore c { x with wwNext := some (vset base p (recWindow p c r)) } s)

/-- 2 MiB units of a range that no region with a code held before (R398). -/
def freshUnits (s : State) (base size : Nat) : List (Nat × Nat) :=
  ((List.range (size / 2097152)).filter fun i => !dramEcc s (base + i * 2097152)).map fun i =>
    (base + i * 2097152, base + (i + 1) * 2097152)

/-- Units come under ECC: their contents are undefined until written. -/
def eccBegin (us : List (Nat × Nat)) (s : State) : State :=
  { s with dram := { s.dram with
      fresh := s.dram.fresh.filter (fun u => !us.contains u) ++ us,
      written := us.foldl (fun m u => smClear u.1 u.2 m) s.dram.written } }

/-- A partition loses its owner or changes it (R393). -/
def ownerMoved (p : Nat) (s : State) : State :=
  tcInval p (setPart p { partOf s p with rings := {}, fetched := none } s)

/-- An accepted record takes effect (R392, R393). -/
def recordApply (p : Nat) (n : List Byte) (s : State) : State :=
  let o := partOf s p
  let us := if prEn n then (prDrams n).flatMap fun d => if d.ecc then freshUnits s d.base d.size else [] else []
  let s := clearSems (effSems n &&& (2 ^ 64 - 1 - effSems o.record)) s
  let s := eccBegin us (setPart p { o with record := n } s)
  let s := if ownerOf o = ownerOf (partOf s p) then s else ownerMoved p s
  (List.range 16).foldl (winAsk p n) s

/-- An accepted `STREAM`. -/
def streamApply (v : List Byte) (s : State) : State :=
  let w := leNat v
  odPut 0x2100 4 v (eccBegin (freshUnits s (bits w 0 16 * 2097152) (bits w 16 16 * 2097152)) s)

/-! ### Partition reset (R395) -/

/-- Step 2: a job that is not FREE and has no final record goes to DRAINING, never to restart. -/
def partResetJob (s : State) (e : Nat × Job) : State :=
  resetJob .partReset (fun j => { j with noRestart := true }) e s

/-- Stored registers of a partition's block in a range return to reset. -/
def prtRegsReset (p lo hi : Nat) (s : State) : State :=
  { s with regs := smClear (prtKey p lo) (prtKey p hi) s.regs, stage := s.stage.filter fun e =>
      !(decide (0x0100000 + p * 0x20000 + lo ≤ e.1 % 67108864) && decide (e.1 % 67108864 < 0x0100000 + p * 0x20000 + hi)) }

/-- A table operation that a reset of the partition ends: no record, its slot is released (R415). -/
def tblDrop (x : Part) : Part :=
  let x := { x with tables := Vector.replicate 16 {}, tblPause := false }
  match x.tblOp with
  | some _ => { x with tblOp := none, tblState := 5, tblCode := 0x0D08, rings := { x.rings with cqRsv := x.rings.cqRsv - 1 } }
  | none => x

/-- Steps 1 to 3 of a reset of partition `p`. -/
def partReset (p : Nat) (s : State) : State :=
  let s := setPart p { partOf s p with reset := some ⟨s.tb.master⟩ } s
  let s := (liveJobs s p).foldl partResetJob s
  let s := (List.range 64).foldl (fun s n => match vget s.hst.progs n none with
    | some g => if g.part = p then progFree n s else s
    | none => s) s
  let s := { s with hst := { s.hst with ldQueue := s.hst.ldQueue.filter (· != p) } }
  prtRegsReset p 0x10000 0x10040 (setPart p (tblDrop { partOf s p with ld := {} }) s)

/-- Basin words, Cistern entries and blocks of a partition on a core become 0 and EMPTY (R197). -/
def coreClear (p : Nat) (r : List Byte) (s : State) (c : Nat) : State :=
  let b := prBasin r c
  let k := prCis r c
  modCore c (fun x => { x with
    basin := smClear (b.1 * 4096) (b.2 * 4096) x.basin
    basinCls := smClear (b.1 * 512) (b.2 * 512) x.basinCls
    basinUp := smClear (b.1 * 512) (b.2 * 512) x.basinUp
    cis := smClear (k.1 * 1024) (k.2 * 1024) x.cis
    cisUp := smClear (k.1 * 1024) (k.2 * 1024) x.cisUp
    wblk := match vget x.ww p none with
      | some w => smClear w.base w.bound x.wblk
      | none => x.wblk }) s

/-- Steps 4 and 5; a record with `EN` 0 gives the partition no region and no semaphore. -/
def partClear (p : Nat) (s : State) : State :=
  let r := recOf s p
  let s := if prEn r then (List.range 16).foldl (coreClear p r) (clearSems (prSems r) s) else s
  let s := { s with dir := { s.dir with poisoned := s.dir.poisoned.filter fun l => !(prDrams r).any fun d => inRange l d.base d.size } }
  let s := prtRegsReset p 0x200 0x220 (tcInval p s)
  let s := setPart p { partOf s p with reset := none, gens := [], preCnt := 0, restartCnt := 0, fltCode := 0 } s
  clearReason p 0x0D08 s.tb.master s

/-- PARTITION_RESET_CLEAR (R395, step 4): 1 ms after the last final record or the end of step 3. -/
def execPartitionResetClear (p : Fin 8) (s : State) : Host.Outcome State Fault Refusal :=
  .next (
    match (partOf s p.val).reset with
    | some r =>
      if (liveJobs s p.val).all (fun e => e.2.st == .done || e.2.st == .failed) && decide (r.since + 1000000 ≤ s.tb.master)
      then partClear p.val s else s
    | none => s)

/-! ### Sluices (R406, R408, R409) -/

/-- Buckets of one partition gain the tokens of `n` microseconds. -/
def bucketFill (n : Nat) (s : State) (p : Nat) : State :=
  let x := partOf s p
  let b := budgetOf s p
  setPart p { x with
    memTok := vmap x.memTok 0 fun _ t => min (t + n * field b 0 2) (field b 2 2)
    fabTok := min (x.fabTok + n * field b 4 2) (field b 6 2) } s

/-- SLUICE_REFILL (R406, R408): the whole microseconds of device time since the last refill. -/
def execSluiceRefill (s : State) : Host.Outcome State Fault Refusal :=
  .next (
    let n := s.tb.master / 1000
    { (List.range 8).foldl (bucketFill (n - s.sluiceUs)) s with sluiceUs := n })

/-- Entries of OD 0x2500 that take effect with a major frame (R405). -/
def frameSubs : List Nat := (List.range 8).map (0x10 + ·) ++ [0x20, 0x21, 0x22]

/-- SLOT_BOUNDARY (R405, R409): the slot that the master stands in; a new major frame takes the pending budgets. -/
def execSlotBoundary (s : State) : Host.Outcome State Fault Refusal :=
  .next (
    let n := s.tb.master % 1000000 / 15625
    let m := s.tb.master / 1000000
    if m ≠ s.frameNo then
      { s with
        slotNo := n
        frameNo := m
        budget := frameSubs.foldl (fun m u => smSet odDefault m (odKey 0x2500 u) (odGet s 0x2500 u)) s.budget }
    else { s with slotNo := n })

/-! ### Translation copies (R403) -/

def mmuReg (s : State) (p off : Nat) : Nat := (regGet s (prtKey p off)).toNat

/-- Reason of a refused copy; 0 for none. -/
def mmuReason (s : State) (p src dst len : Nat) : Nat :=
  if !(liveJobs s p).isEmpty || (partOf s p).ld.req.isSome || (partOf s p).tblOp.isSome then 1
  else if !inRegion (recOf s p) true dst len then 2
  else if len % 64 ≠ 0 ∨ len < 64 ∨ 67108864 < len ∨ src % 64 ≠ 0 ∨ dst % 64 ≠ 0 then 3
  else 0

/-- A write of `MMU_CMD` reaches the block: from the owner, with no copy running. -/
def mmuGate (r : Requester) (p : Nat) (k : State → State) (s : State) : State :=
  prtGate r p (fun s => if (partOf s p).mmuCopy.isSome then ignWrite r s else k s) s

/-- COPY of R403. -/
def mmuCopyCmd (r : Requester) (p : Nat) (s : State) : State :=
  mmuGate r p (fun s =>
    let src := mmuReg s p 0x100 + mmuReg s p 0x104 * 2 ^ 32
    let dst := mmuReg s p 0x108 + mmuReg s p 0x10C * 2 ^ 32
    let len := mmuReg s p 0x110
    let k := mmuReason s p src dst len
    if k = 0 then setPart p { partOf s p with mmuCopy := some (src, dst, len, 0), mmuState := 1, mmuRej := 0 } s
    else setPart p { partOf s p with mmuState := 3, mmuRej := k } s) s

/-- MMU_COPY (R403). -/
def execMmuCopy (r : Requester) (p : Fin 8) (s : State) : Host.Outcome State Fault Refusal := .next (mmuCopyCmd r p.val s)

/-- MMU_INVAL (R403, R420). -/
def execMmuInval (r : Requester) (p : Fin 8) (s : State) : Host.Outcome State Fault Refusal :=
  .next (mmuGate r p.val (tcInval p.val) s)

/-- Writes lines at device addresses; one that cannot be written raises its fault for no job (R419). -/
def deviceLines (p a : Nat) : List (List Byte) → State → State
  | [], s => s
  | l :: ls, s =>
    match agentWrite a (slice l 0 64) (memToken p a (fabToken p s)) with
    | (.error e, s) => deviceLines p (a + 64) ls (raise (plainFault e islHst (some p)) s)
    | (.ok _, s) => deviceLines p (a + 64) ls s

/-- MMU_COPY_COMPLETE (R403). -/
def execMmuCopyComplete (p : Fin 8) (data : HostRead) (s : State) : Host.Outcome State Fault Refusal :=
  .next (
    match (partOf s p.val).mmuCopy with
    | none => s
    | some (_, dst, len, _) =>
      if !isReady s then s
      else match data with
      | .err => setPart p.val { partOf s p.val with mmuCopy := none, mmuState := 3, mmuRej := 4 } s
      | .ok d =>
        let s := deviceLines p.val dst (chunk64 (len / 64) (slice d 0 len)) s
        tcInval p.val (setPart p.val { partOf s p.val with mmuCopy := none, mmuState := 2 } s))

/-! ### Lookup tables (R411 to R414) -/

/-- Jobs of a partition admitted and not yet ended. -/
def admittedRefs (s : State) (p : Nat) : List JobRef :=
  ((liveJobs s p).filter fun e => jobAdmitted e.2).map fun e => ⟨e.1, tagGen e.2⟩

/-- The code of a refused table command; 0 for none (R412, R420). -/
def tblRefusal (s : State) (p op id : Nat) : Nat :=
  let g := ringsOf s p
  let e := vget (partOf s p).tables id {}
  if !g.en ∨ cqOpen s p = 0 then 1
  else if op ≠ 1 ∧ e.cur.isNone ∧ e.standby.isNone then 3
  else if op = 2 ∧ e.standby.isNone then 2
  else 0

/-- A write of `PRT_TBL_CMD` (R412). -/
def tblCmd (r : Requester) (p v : Nat) (s : State) : State :=
  prtGate r p (fun s =>
    let op := v % 4
    let id := bits v 8 4
    let x := partOf s p
    if op = 0 ∨ x.tblOp.isSome then ignWrite r s
    else
      let k := tblRefusal s p op id
      if k ≠ 0 then setPart p { x with tblState := 6, tblId := id, tblCode := k } s
      else
        let geom := mmuReg s p 0x10118
        let o : TblOp := {
          op := op, id := id, src := mmuReg s p 0x10100 + mmuReg s p 0x10104 * 2 ^ 32,
          dst := mmuReg s p 0x10108 + mmuReg s p 0x1010C * 2 ^ 32, len := mmuReg s p 0x10110, crc := mmuReg s p 0x10114,
          shards := bits geom 0 5, shstride := bits geom 16 16 * 65536, copied := 1,
          waits := if op = 1 then [] else admittedRefs s p, silent := false }
        setPart p { x with
          tblOp := some o, tblState := if op = 1 then 1 else 3, tblId := id, tblCode := 0, tblPause := op != 1
          rings := { x.rings with cqRsv := x.rings.cqRsv + 1 } } s) s

/-- TABLE_LOAD (R412). -/
def execTableLoad (r : Requester) (p : Fin 8) (v : Nat) (s : State) : Host.Outcome State Fault Refusal := .next (tblCmd r p.val v s)

/-- TABLE_SWAP (R412, R414). -/
def execTableSwap (r : Requester) (p : Fin 8) (v : Nat) (s : State) : Host.Outcome State Fault Refusal := .next (tblCmd r p.val v s)

/-- TABLE_DROP (R412, R414). -/
def execTableDrop (r : Requester) (p : Fin 8) (v : Nat) (s : State) : Host.Outcome State Fault Refusal := .next (tblCmd r p.val v s)

/-- A table operation ends: its state, and its TABLE record unless the owning port was reset (R412, R415). -/
def tblEnd (p : Nat) (o : TblOp) (code : Nat) (s : State) : State :=
  let x := partOf s p
  let s := setPart p { x with tblOp := none, tblState := if code = 0 then 4 else 5, tblCode := code } s
  if o.silent then s
  else
    let ver := (vget x.tables o.id {}).ver
    postRecord p true 0 ⟨p * 0x1000000, 4, if code = 0 then 0 else 2, code, stampOf s islHst 0, o.id + o.op * 256 + ver * 65536, 0xFF,
      0, 0, 0⟩ s

/-- A failed LOAD: no standby version is left (R413). -/
def tblFail (p : Nat) (o : TblOp) (code : FaultCode) (s : State) : State :=
  let x := partOf s p
  let e := vget x.tables o.id {}
  let s := setPart p { x with tables := vset x.tables o.id { e with standby := none } } s
  tblEnd p o code.num (raise (plainFault code islHst (some p)) s)

/-- The operands of a LOAD break R413 before anything is copied. -/
def tblShapeBad (s : State) (p : Nat) (o : TblOp) : Bool :=
  (o.shards == 1 && decide (262144 < o.len)) || decide (2147483648 < o.shards * o.shstride)
    || verMeets (vget (partOf s p).tables o.id {}).cur o.dst o.len

/-- A shard header of the image (R272, R413). -/
def tblShardOk (o : TblOp) (b : List Byte) (i : Nat) : Bool :=
  let hb := slice b (i * o.shstride) 64
  let h := tblHeadOf hb
  decide (i * o.shstride + 64 ≤ b.length) && tblHeadOk hb && field hb 5 3 == 0 && field hb 0x24 28 == 0
    && h.shards == o.shards && h.shard == i

/-- TABLE_LOAD_COMPLETE (R413). -/
def execTableLoadComplete (p : Fin 8) (data : HostRead) (s : State) : Host.Outcome State Fault Refusal :=
  .next (
    match (partOf s p.val).tblOp with
    | none => s
    | some o =>
      if !isReady s || o.op != 1 then s
      else match data with
      | .err => tblFail p.val o (.load 0x13) s
      | .ok d =>
        if tblShapeBad s p.val o then tblFail p.val o .tableBad s
        else
          let b := slice d 0 o.len
          let x := partOf s p.val
          let e := vget x.tables o.id {}
          let s := setPart p.val { x with tables := vset x.tables o.id { e with standby := none } } s
          match copyLines true p.val o.dst (chunk64 ((o.len + 63) / 64) b) s with
          | (.error _, s) => tblFail p.val o (.load 0x13) s
          | (.ok _, s) =>
            if crc32c b = o.crc ∧ (List.range o.shards).all (tblShardOk o b) then
              let x := partOf s p.val
              let e := vget x.tables o.id {}
              let v : TblVer := ⟨o.dst, o.shards, o.shstride, o.len⟩
              tblEnd p.val o 0 (setPart p.val { x with tables := vset x.tables o.id { e with standby := some v } } s)
            else tblFail p.val o .tableBad s)

/-- A job has written its final record. -/
def refEnded (s : State) (r : JobRef) : Bool :=
  let j := jobOf s r.slot
  tagGen j != r.taggen || j.st == .free || j.st == .done || j.st == .failed

/-- TABLE_PAUSE_END (R414). -/
def execTablePauseEnd (p : Fin 8) (s : State) : Host.Outcome State Fault Refusal :=
  .next (
    let x := partOf s p.val
    match x.tblOp with
    | none => s
    | some o =>
      if !isReady s || o.op == 1 || !o.waits.all (refEnded s) then s
      else
        let e := vget x.tables o.id {}
        let n : TblEntry :=
          if o.op = 2 then { cur := e.standby, standby := e.cur, ver := wrapAdd 16 e.ver 1 } else { ver := wrapAdd 16 e.ver 1 }
        tblEnd p.val o 0 (setPart p.val { x with tables := vset x.tables o.id n, tblPause := false } s))

end Sys2Proof.Machine
end

