-- ==== Sys2Proof/Machine/Power.lean ====
section
/-! DEFINITION. Clock monitors (R530), the current slope governor (R536 to R538), the thermal governor (R573 to R576), rail
monitors (R567). -/

namespace Sys2Proof.Machine

/-! ### Clock monitors -/

/-- A window of `SYSCLK` edges: SYSCLK_LOSS, OSC_DIFF, raised once until a window passes. -/
def sysclkWindow (n : Nat) (s : State) : State :=
  let bad := n < 248 ∨ 252 < n
  let was := s.clk.sysFailing
  let s := { s with clk := { s.clk with osc := min n 511, sysFailing := decide bad } }
  if bad ∧ !was then raiseNoJob (if n = 0 then .sysclkLoss else .oscDiff) 23 s else s

/-- A window of an island's clock, off by `dev` thousandths. -/
def islandWindow (i : Nat) (dev : Int) (s : State) : State :=
  let bad := 50 < dev.natAbs
  let was := s.clk.failing.getLsbD i
  let b := 1#24 <<< i
  if !s.clk.run.getLsbD i then s
  else if bad then
    let s := { s with clk := { s.clk with failing := s.clk.failing ||| b, fail := s.clk.fail ||| b } }
    if was then s else raise { plainFault .islandClock 23 none with detail := [BitVec.ofNat 32 s.clk.fail.toNat] } s
  else { s with clk := { s.clk with failing := s.clk.failing &&& ~~~b } }

/-- CLOCK_MONITOR_WINDOW (R530). -/
def execClockMonitorWindow (w : ClockWindow) (s : State) : Host.Outcome State Fault Refusal :=
  .next (match w with
    | .sysclk n => sysclkWindow n s
    | .island i dev => islandWindow i.val dev s)

/-! ### The slope governor -/

/-- A core's request (R538): its full level while a context of it is RUNNING. -/
def levelAsk (s : State) (c : Nat) : Nat := if (coreOf s c).active.isSome then 16 else 0

/-- The next core, after the one served last, whose level differs from its request. -/
def levelNext (s : State) : Option Nat :=
  ((List.range 16).map fun i => (s.clk.lastLevel + 1 + i) % 16).find? fun c => vget s.clk.level c 0 != levelAsk s c

/-- `n` grants of one level. -/
def levelGrants : Nat → State → State
  | 0, s => s
  | n + 1, s =>
    match levelNext s with
    | none => s
    | some c =>
      let l := vget s.clk.level c 0
      let l' := if l < levelAsk s c then l + 1 else l - 1
      levelGrants n { s with clk := { s.clk with level := vset s.clk.level c l', lastLevel := c } }

/-- SLOPE_TICK (R537): at most S / 5 grants; `PWR_RAMP_WAIT` counts ticks with a level away from its request (R548). -/
def execSlopeTick (s : State) : Host.Outcome State Fault Refusal :=
  .next (if (levelNext s).isSome then levelGrants (s.clk.slope / 5) (regCount (rkey 0 0x0409008) 1 s) else s)

/-! ### The thermal governor -/

/-- A core's sensor: the hotter of its two, in 1/16 degree C. -/
def coreSensor (l : List Int) (c : Nat) : Int := max (l.getD (2 * c) 0) (l.getD (2 * c + 1) 0)

/-- The target of one core (R574). -/
def govern (sensor : Int) (pAvg k target : Nat) : Nat :=
  if 2000 ≤ sensor then 4
  else if 1840 ≤ sensor ∨ 950 < pAvg then max 4 (k - 1)
  else if sensor ≤ 1760 ∧ pAvg ≤ 900 then min 16 (target + 1)
  else target

/-- A sensor at or above a limit. -/
def hotter (l : List Int) (lim : Int) : Bool := l.any fun x => decide (lim ≤ x)

/-- THERMAL_GOVERN (R574, R576) but the hold at 140 degrees: new samples, targets, THERMAL_CRIT where no sample before read
125 degrees. -/
def thermalSample (sensors : List Int) (pAvg : Nat) (s : State) : State :=
  let was := hotter s.clk.sensors 2000
  let crit := hotter sensors 2000
  let s := { s with clk := { s.clk with
    sensors := sensors, pAvg := pAvg
    target := vmap s.clk.target 16 fun c t => if crit then 4 else govern (coreSensor sensors c) pAvg (vget s.clk.k c 16) t } }
  if crit && !was then raiseNoJob .thermalCrit 23 s else s

/-- The next core, after the one stepped last, whose k differs from its target. -/
def stepNext (s : State) : Option Nat :=
  ((List.range 16).map fun i => (s.clk.lastStep + 1 + i) % 16).find? fun c => vget s.clk.k c 16 != vget s.clk.target c 16

/-- The step of one core (R574); THERMAL_THROTTLE at the first step below 16 after every core has stood there, each further
step down counted (R575). -/
def clockStep (c : Nat) (s : State) : State :=
  let k := vget s.clk.k c 16
  let down := vget s.clk.target c 16 < k
  let ks := vset s.clk.k c (if down then k - 1 else k + 1)
  let first := decide down && s.clk.armed16
  let s := { s with clk := { s.clk with
    k := ks, lastStep := c, armed16 := if down then false else s.clk.armed16 || ks.toList.all (· == 16) } }
  let s := erCheck s
  if first then raiseNoJob .thermalThrottle 23 s
  else if down then { s with saf := { s.saf with lost := addLost 23 FaultCode.thermalThrottle.num 1 s.saf.lost } }
  else s

/-- KC_CLOCK_STEP (R574). -/
def execKcClockStep (s : State) : Host.Outcome State Fault Refusal :=
  .next (match stepNext s with
    | some c => clockStep c s
    | none => s)

/-! ### Rails -/

/-- RAIL_FAULT (R567). -/
def execRailFault (rail : Fin 7) (isOver : Bool) (s : State) : Host.Outcome State Fault Refusal :=
  .next (
    let s := { s with clk := { s.clk with railsOk := s.clk.railsOk &&& ~~~(1#7 <<< rail.val) } }
    raiseNoJob (if isOver then .railOver else .railUnder) 23 s)

end Sys2Proof.Machine
end

