-- ==== Sys2Proof/Machine/SafetyIsland.lean ====
section
/-! DEFINITION. The safety island: startup self-test, SAFE pins, reasons that time clears, the management core pair
(R439 to R449, R216). -/

namespace Sys2Proof.Machine

/-! ### Startup self-test (R442 to R445) -/

/-- Width code of a core with given failing quads (R216). -/
def widthCode (quads : BitVec 16) (cause : Nat) : Nat :=
  let n := popCount 16 quads.toNat
  if (2 ≤ cause ∧ cause ≤ 4) ∨ 4 < n then 0xF else n

/-- `ME_COLMAP.CAUSE` (R223). -/
def colCause (quads : BitVec 16) (cause : Nat) : Nat :=
  if 2 ≤ cause ∧ cause ≤ 4 then cause else if 4 < popCount 16 quads.toNat then 1 else 0

def stsWidths (r : StsResult) : Vector Nat 16 :=
  vmap (Vector.replicate 16 0xF) 0xF fun c _ => widthCode (vget r.quads c 0) (vget r.cause c 0)

/-- The entry of a checker: failing instances and longest detection; `none` where it is untested. -/
def stsChk (r : StsResult) (id : Nat) : Option (Nat × Nat) := (r.chk.find? (·.1 == id)).map (·.2)

/-- Checkers with a failing or untested instance, as bits (R461). -/
def stsFailBits (r : StsResult) : Nat :=
  (List.range 27).foldl (fun a i => match stsChk r (i + 1) with
    | some (0, _) => a
    | _ => a + 2 ^ (i + 1)) 0

/-- `CHK`id of OD 0x4010 (R445). -/
def stsChkWord (r : StsResult) (id : Nat) : Nat :=
  match stsChk r id with
  | some (n, d) => 1 + bitAt (n == 0) 1 + min n 255 * 256 + min d 65535 * 65536
  | none => 0

/-- The outcome: 0 pass, 1 array failure only, 2 held (R443). -/
def stsOutcome (r : StsResult) (late : Bool) : Nat :=
  let w := (stsWidths r).toList
  if late || stsFailBits r != 0 || r.memFail || w.all (· == 0xF) then 2
  else if w.any (· != 0) then 1 else 0

/-- The faults that the test journals, in the order of R443. -/
def stsFaults (r : StsResult) (late : Bool) : List FaultCode :=
  (if (stsWidths r).toList.any (· != 0) then [.stsArray] else []) ++ (if stsFailBits r != 0 && !late then [.stsChecker] else [])
    ++ (if r.memFail then [.stsMemory] else []) ++ (if late then [.stsTime] else [])

def stsPut (k v : Nat) (m : SMap Nat) : SMap Nat := smSet (fun _ => 0) m k v

/-- The results, written together (R445, R461, R40, R223). -/
def stsResults (r : StsResult) (late : Bool) (s : State) : State :=
  let us := (s.tb.master - s.boot.since) / 1000
  let fb := stsFailBits r
  let o := stsOutcome r late
  let n := wrapAdd 32 s.saf.stsRuns 1
  let m := stsPut 4 n (stsPut 3 (popCount 64 fb) (stsPut 2 us (stsPut 1 o s.saf.sts)))
  let m := (List.range 27).foldl (fun m i => stsPut (0x11 + i) (stsChkWord r (i + 1)) m) m
  let w := stsWidths r
  { s with
    saf := { s.saf with
      sts := m, stsRuns := n, stsFail := BitVec.ofNat 64 fb, stsSince := none
      stsStatus := o * 2 ^ 24 + popCount 64 fb * 2 ^ 16 + min (us / 10) 65535 }
    boot := { s.boot with
      width := w, corePresent := BitVec.ofNat 16 ((List.range 16).foldl (fun a c => a + bitAt (vget w c 0xF != 0xF) c) 0) }
    kc := vmap s.kc {} fun c x => { x with quads := vget r.quads c 0, cause := colCause (vget r.quads c 0) (vget r.cause c 0) } }

/-- A failure of the journal's memories clears at a start whose self-test, and bank selection, pass for them (R473). -/
def journalClear (memFail : Bool) (s : State) : State :=
  if memFail then s
  else
    let s := { s with jr := { s.jr with ringFail := false } }
    if s.jr.nvFail && (s.jr.bank0.gen.isSome || s.jr.bank1.gen.isSome) then nvSelect s else s

/-- The end of a test: results, faults, the device goes on or is held (R443); a failing checker 26 sets the latch (R460). -/
def stsEnd (r : StsResult) (late : Bool) (s : State) : State :=
  let o := stsOutcome r late
  let s := journalClear r.memFail (stsResults r late s)
  let s := (stsFaults r late).foldl (fun s c => raiseNoJob c 23 s) s
  let s := if o = 2 then setReason 8 0 s.tb.master { s with saf := { s.saf with dev := .safe } }
    else clearReason 8 0 s.tb.master s
  if bitOf (stsFailBits r) 26 then setLatch s else s

/-- SELFTEST_END (R443): within 60 ms of the release of SAF. -/
def execSelftestEnd (res : StsResult) (s : State) : Host.Outcome State Fault Refusal :=
  .next (
    if s.saf.dev = .selftest ∧ s.saf.stsSince.isSome ∧ s.tb.master ≤ s.boot.since + 60000000 ∧ !s.saf.hold then stsEnd res false s
    else s)

/-- SELFTEST_TIMEOUT (R443): `res` lists the checkers whose phases were completed. -/
def execSelftestTimeout (res : StsResult) (s : State) : Host.Outcome State Fault Refusal :=
  .next (
    if s.saf.dev = .selftest ∧ s.saf.stsSince.isSome ∧ s.boot.since + 60000000 < s.tb.master ∧ !s.saf.hold then stsEnd res true s
    else s)

/-! ### SAFE pins (R446, R447, R439) -/

/-- HEARTBEAT_TOGGLE (R446). -/
def execHeartbeatToggle (s : State) : Host.Outcome State Fault Refusal :=
  .next (
    if s.saf.why = 0 ∧ !s.saf.latch then
      let a := !s.saf.pinA
      { s with saf := { s.saf with pinA := a, pinB := !a, rbA := a, rbB := !a } }
    else s)

/-- A level read back that differs from the level driven, and did not before. -/
def pinBad (drive before now : Bool) : Bool := now != drive && before == drive

/-- SAFE_PIN_READBACK (R439, R448): a mismatch raises OUT_READBACK and sets reason `PIN`. -/
def execSafePinReadback (a b : Bool) (s : State) : Host.Outcome State Fault Refusal :=
  .next (
    let ba := pinBad s.saf.pinA s.saf.rbA a
    let bb := pinBad s.saf.pinB s.saf.rbB b
    let s := { s with saf := { s.saf with rbA := a, rbB := b } }
    if ba || bb then
      setReason 13 0x0903 s.tb.master
        (raiseNoJob .outReadback 23 s)
    else s)

/-! ### Reasons that time clears (R448) -/

/-- SAFE_MIN_EXPIRY: in AUTO mode, `SAFE_MIN` after the last MISS, with a later on-time result. -/
def execSafeMinExpiry (p : Fin 8) (s : State) : Host.Outcome State Fault Refusal :=
  .next (
    if odNat s 0x4000 2 = 1 ∧ s.saf.why.getLsbD p.val ∧ vget s.saf.onTime p.val false
        ∧ vget s.saf.missAt p.val 0 + odNat s 0x4000 3 * 1000000 ≤ s.tb.master then clearReason p.val 0 s.tb.master s
    else s)

/-- A write of `SAFE_ACK` (R449). -/
def safeAckWrite (v : Nat) (s : State) : State :=
  setWhy (s.saf.why &&& ~~~(BitVec.ofNat 16 (v % 256))) 0 s.tb.master s

/-! ### The management core pair (R441) -/

/-- MGT_LOCKSTEP_MISMATCH. -/
def execMgtLockstepMismatch (s : State) : Host.Outcome State Fault Refusal :=
  .next (
    if mgtRuns s then
      raiseNoJob .lockstep 22 { s with
        saf := { s.saf with mgtDown := true }
        node := { s.node with odq := [], can0 := { s.node.can0 with session := none, emq := [] },
                              can1 := { s.node.can1 with session := none, emq := [] } } }
    else s)

end Sys2Proof.Machine
end

