-- ==== Sys2Proof/Machine/Boot.lean ====
section
/-! DEFINITION. Resets and start-up (R43, R197, R442, R461, R466, R540 to R547), the hold at 140 degrees (R576). -/

namespace Sys2Proof.Machine

/-! ### What a warm reset keeps (R43, R461, R466, R493, R546) -/

/-- Time base: the count, the trim and the time state stand; skew states and the exchanges in flight go. -/
def warmTime (t : TimeBase) : TimeBase :=
  { t with
    offset := 0, lag := Vector.replicate 24 0, passes := Vector.replicate 24 0, skewState := 0, skewFlt := 0
    sync := none, pdReq := none, pdResp := none }

/-- Reasons that stand: `MISSp`, `STS`, `PWR`, and `LATCH` unless a latch clear resets. -/
def warmWhy (w : BitVec 16) : BitVec 16 := (w &&& 0x51FF) ||| 0x8000

/-- SAF: the latch, the results of the last test, faults on their way and their rate limits stand. -/
def warmSafety (x : Safety) : Safety :=
  { x with
    dev := .starting, everReady := false, mgtDown := false, mgtUp := false, mon := []
    stsStatus := 0x3000000, slack := 0xFFFFFFFF, seqAgree := true, seqShadow := true, seqPrimary := true, seqCnt := 0
    stsSince := none }

/-- MGT: what SAF keeps for it stands. -/
def warmNode (n : Node) : Node :=
  { canErr := n.canErr, history := n.history, faultHold := n.faultHold, faultHolding := n.faultHolding, nextEv := n.nextEv
    early := n.early, erLast := n.erLast }

/-- The clocks of every island but SAF stop; their factors return to 16. -/
def warmClocks (k : Clocks) : Clocks :=
  { k with
    k := Vector.replicate 16 16, target := Vector.replicate 16 16, level := Vector.replicate 16 0, slope := 5
    armed16 := true, run := 0x800000, fail := 0, osc := 0, failing := 0, railsOk := 0 }

/-- The field bank goes on (R519); its registers return to their reset values, but for those of running outputs (R525). The
level of `VDD_FIELD` stands, as the outputs do. -/
def warmFio (s : State) : Fio :=
  { s.fio with
    ppsInTs := 0, ppsRb := false, imagoIn := false, ppsIn := false
    trig := vmap s.fio.trig {} fun m t =>
      if (trigEn s m && !trigHeld s m) || t.until_.isSome then t else { t with rb := false, rbFail := false, pulses := 0 } }

/-- A host port: its link goes down. -/
def warmPort (p : HostPort) : HostPort := { perst := p.perst }

/-- A stream context stays enabled, and its sequence goes on. -/
def warmStream (c : StreamCtx) : StreamCtx := { en := c.en, seq := c.seq, nextSeq := c.nextSeq }

/-- An enabled context's allotment stays, emptied: the one its last `ENABLE` reserved, at `START_LEVEL` (R103, R104, R128). -/
def warmVoxCtx (s : State) (n : Nat) (c : VoxCtx) : VoxCtx :=
  let x : VoxCtx := { seq := c.seq, anySeq := c.anySeq }
  if ctxEn s n then voxReserve s n x else x

/-- A core: memories cleared (R197), windows as the records give them, retired columns as the self-test left them. -/
def warmCore (s : State) (c : Nat) (x : Core) : Core :=
  { quads := x.quads, cause := x.cause
    ww := vmap (Vector.replicate 8 none) none fun p _ => recWindow p c (recOf s p) }

/-- Registers that stand: those of the journal, `SAF_MISS_CNT`, `VOX_CTXs_FOLDS`. -/
def warmRegKept (k : Nat) : Bool :=
  (decide (0x0402000 ≤ k) && decide (k < 0x0402100)) || k == 0x0401008
    || (List.range 128).any fun c => k == voxCtxReg c 0x20

/-- 2 MiB units that hold a code: nothing has been written there since DRAM was trained again. -/
def eccUnits (s : State) : List (Nat × Nat) :=
  let span (base size : Nat) : List (Nat × Nat) :=
    (List.range (size / 2097152)).map fun i => (base + i * 2097152, base + (i + 1) * 2097152)
  span (streamRegion s).1 (streamRegion s).2 ++
    (List.range 8).flatMap fun p =>
      if prEn (recOf s p) then (prDrams (recOf s p)).flatMap fun d => if d.ecc then span d.base d.size else [] else []

/-- The TAP's part of the debug state, which no reset of the islands reaches. -/
def tapOnly (d : Debug) : Debug := { ir := d.ir, bsr := d.bsr, bsrOut := d.bsrOut, apData := d.apData, apStat := d.apStat }

/-- What `SYSRST_N` does (R546), with `PWR_RST_CAUSE` as given. -/
def warmReset (cause : Nat) (s : State) : State :=
  let parts := vmap s.parts {} fun _ x => ({ record := x.record } : Part)
  let hst : Hst := {
    ports := vmap s.hst.ports {} fun _ p => warmPort p, results := s.hst.results, misses := s.hst.misses, points := s.hst.points }
  let w : State := {
    pending := s.pending, free := s.free, od := s.od, budget := s.budget, slotNo := s.slotNo, frameNo := s.frameNo,
    sluiceUs := s.sluiceUs, fuses := s.fuses
    flash := s.flash, out := s.out, reply := s.reply, jr := s.jr, img := s.img
    regs := s.regs.filter fun e => warmRegKept e.1
    tb := warmTime s.tb, saf := warmSafety s.saf, node := warmNode s.node, clk := warmClocks s.clk
    fio := warmFio s
    boot := { s.boot with
      cause := cause, stage := min s.boot.stage 1, since := s.tb.master, memcap := 0, corePresent := 0
      width := Vector.replicate 16 0xF, fail := if s.boot.stage = 0 then 0 else s.boot.fail
      tried := if s.boot.stage = 0 then 0 else s.boot.tried, mgtImage := [] }
    dbg := tapOnly s.dbg
    parts := parts, hst := hst
    kc := vmap s.kc {} fun c x => warmCore s c x
    ing := { ctx := vmap s.ing.ctx {} fun _ c => warmStream c }
    vox := { ctx := vmap s.vox.ctx {} fun n c => warmVoxCtx s n c } }
  let w := (List.range 4).foldl (fun w n => sinStartN n w) w
  let w := { w with dram := { fresh := eccUnits w } }
  setWhy (warmWhy w.saf.why) 0 w.tb.master w

/-- `PWR_RST_CAUSE` of a reset, with `PWRFAIL` where `PWRFAIL_N` fell before it (R548). -/
def rstCause (bit : Nat) (s : State) : Nat := 2 ^ bit + bitAt s.saf.pwrFail 0

/-- What `PORST_N` or `PGOOD_SAF` low does (R546): the nonvolatile journal, the fuses and the flash stand, and the results of
the last self-test (R444). -/
def powerReset (cause : Nat) (s : State) : State :=
  { State.reset with
    pending := s.pending, free := s.free, fuses := s.fuses, flash := s.flash, out := s.out
    jr := { bank0 := s.jr.bank0, bank1 := s.jr.bank1, active1 := s.jr.active1 }
    hst := { ports := vmap s.hst.ports {} fun _ p => warmPort p }
    dbg := tapOnly s.dbg
    saf := { State.reset.saf with sts := s.saf.sts }
    boot := { cause := cause } }

/-- POWER_ON_RESET (R546): the boot starts from the header, and the active bank is chosen (R470). -/
def execPowerOnReset (pgood : Bool) (s : State) : Host.Outcome State Fault Refusal :=
  .next (nvSelect (powerReset (rstCause (if pgood then 2 else 1) s) s))

/-- WARM_RESET (R546): a pulse shorter than 1 us may be ignored (`taken` false). The hold of R551 does not end. -/
def execWarmReset (taken : Bool) (s : State) : Host.Outcome State Fault Refusal :=
  .next (if taken && !s.saf.tapHold then warmReset (rstCause 3 s) s else s)

/-- THERMAL_GOVERN (R574, R576): at 140 degrees every island but SAF is held in reset until `PORST_N`. -/
def execThermalGovern (sensors : List Int) (pAvg : Nat) (s : State) : Host.Outcome State Fault Refusal :=
  .next (
    let t := thermalSample sensors pAvg s
    if hotter sensors 2240 && !t.saf.hold then
      let t := warmReset t.boot.cause t
      { t with saf := { t.saf with hold := true } }
    else t)

/-! ### The flash (R540, R541) -/

def flashBytes (s : State) (a n : Nat) : List Byte := smGetList (fun _ => 0xFF) s.flash a n

/-- The boot header, where it is one. -/
def bootHeader (s : State) : Option (List Byte) :=
  let h := flashBytes s 0 64
  if field h 0 4 = 0x42475654 ∧ crc32c (h.take 0x3C) = field h 0x3C 4 then some h else none

/-- The slot descriptor at `a`: `PWR_BOOT.FAIL`, 0 where it and its SAF image are accepted. -/
def slotCheck (s : State) (a : Nat) : Nat :=
  let d := flashBytes s a 320
  if field d 0 4 ≠ 0x544F4C53 ∨ 262144 < field d 0x0C 4 ∨ 2097152 < field d 0x14 4 then 2
  else if !(List.range 4).any (fun i => s.fuses.keyHash[i]? == some (sha384 (slice d 0x78 97)) && !(s.fuses.revoked.getD i false)) then 3
  else if !p384Verify (slice d 0x78 97) (sha384 (d.take 0xE0)) (slice d 0xE0 96) then 4
  else if field d 4 4 < s.fuses.svn then 5
  else if sha384 (flashBytes s (field d 8 4) (field d 0x0C 4)) ≠ slice d 0x18 48 then 6
  else 0

/-- The MGT image of the slot at `a`. -/
def slotMgt (s : State) (a : Nat) : List Byte :=
  let d := flashBytes s a 320
  flashBytes s (field d 0x10 4) (field d 0x14 4)

/-- The ranges of R483 for the defaults that a field record holds, and of R537 for S. -/
def fieldRecOk (f : Config.FieldRec) : Bool :=
  f.valid && decide (5 ≤ f.slope) && decide (f.slope ≤ 80) && f.slope % 5 == 0 && (match f.can with
    | some [n0, n1, arb, data, en] =>
      decide (1 ≤ n0) && decide (n0 ≤ 127) && decide (1 ≤ n1) && decide (n1 ≤ 127) && decide (arb ≤ 3) && decide (data ≤ 4)
        && decide (en ≤ 3)
    | some _ => false
    | none => true)

/-- The MGT image of the slot at `a`: `PWR_BOOT.FAIL`, 0 where it is accepted (R541, R542). -/
def mgtCheck (s : State) (a : Nat) : Nat :=
  let m := slotMgt s a
  if sha384 m ≠ slice (flashBytes s a 320) 0x48 48 then 6
  else if !fieldRecOk (Config.fieldRec (m.take 4096)) then 7 else 0

/-- Flash offset of a slot's descriptor: 1 for A, 2 for B. -/
def slotAt (h : List Byte) (n : Nat) : Nat := field h (0x0C + 4 * n) 4

/-- The slots to try, in order. -/
def slotList (h : List Byte) : List Nat := if slotAt h 2 = 0xFFFFFFFF then [1] else [1, 2]

/-- Tries slots until `check` answers 0. -/
def trySlots (check : Nat → Nat) (svn : Nat → Nat) : List Nat → Boot → Boot × Bool
  | [], b => (b, false)
  | n :: ns, b =>
    let b := { b with tried := b.tried ||| n }
    let f := check n
    if f = 0 then ({ b with slot := n, svn := svn n % 65536 }, true) else trySlots check svn ns { b with fail := f }

/-- The boot ROM looks for a SAF image (R541, R543). -/
def bootSaf (s : State) : State :=
  match bootHeader s with
  | none => { s with boot := { s.boot with fail := 1 } }
  | some h =>
    match trySlots (fun n => slotCheck s (slotAt h n)) (fun n => field (flashBytes s (slotAt h n) 320) 4 4) (slotList h) s.boot with
    | (b, true) => { s with boot := { b with stage := 1 }, saf := { s.saf with dev := .selftest } }
    | (b, false) => { s with boot := b }

/-- SELFTEST_START (R442, R544): the self-test begins; SAF's image runs, or SAF stays in its ROM (R543). Every rail and the
field supply stand in range when SAF leaves reset. -/
def execSelftestStart (s : State) : Host.Outcome State Fault Refusal :=
  .next (
    if s.saf.dev = .starting ∧ s.saf.stsSince.isNone ∧ !s.saf.hold then
      let s := { s with
        saf := { s.saf with stsSince := some s.tb.master }
        fio := { s.fio with supply := true }
        clk := { s.clk with railsOk := 0x7F } }
      if s.boot.stage = 0 then bootSaf s else { s with saf := { s.saf with dev := .selftest } }
    else s)

/-! ### MGT (R442, R542 to R544) -/

/-- The slots whose MGT image may run: the one that runs, then B as a whole. -/
def mgtSlots (s : State) (h : List Byte) : List Nat :=
  if s.boot.slot = 2 ∨ slotAt h 2 = 0xFFFFFFFF then [s.boot.slot] else [s.boot.slot, 2]

/-- The CAN FD defaults of the field record, after a power-on only (R483, R493). -/
def canDefaults (f : Config.FieldRec) (s : State) : State :=
  match f.can with
  | some l =>
    if s.boot.cause / 8 = 0 then
      (List.range 5).foldl (fun s i => odPut 0x2080 (i + 1) [BitVec.ofNat 8 (l.getD i 0)] s) s
    else s
  | none => s

/-- Frames for the events that came before MGT ran (R488). -/
def flushEarly (s : State) : State :=
  let l := s.node.early
  l.foldl (fun s e => emcyQueue e.1 e.2.1 e.2.2 s) { s with node := { s.node with early := [] } }

/-- MGT runs an image: field record applied, channels reset and booted up (R483, R542). -/
def mgtStart (m : List Byte) (s : State) : State :=
  let f := Config.fieldRec (m.take 4096)
  let up := s.saf.dev = .selftest
  let s := canDefaults f { s with
    boot := { s.boot with mgtImage := m, stage := if up then 3 else 2 }
    clk := { s.clk with slope := f.slope }
    saf := { s.saf with mgtUp := true, dev := if up then .bringup else s.saf.dev } }
  flushEarly (chReset 1 (chReset 0 s))

/-- MGT_BOOT: once the self-test has ended, from a verified image; without one, start-up stops here (R543). -/
def execMgtBoot (s : State) : Host.Outcome State Fault Refusal :=
  .next (
    if ((s.saf.dev = .selftest ∧ s.saf.stsSince.isNone) ∨ s.saf.dev = .safe) ∧ !s.saf.mgtUp ∧ !s.saf.hold ∧ s.boot.stage = 1 then
      match bootHeader s with
      | none => { s with boot := { s.boot with fail := 1 } }
      | some h =>
        let check (n : Nat) : Nat := if slotCheck s (slotAt h n) = 0 then mgtCheck s (slotAt h n) else slotCheck s (slotAt h n)
        match trySlots check (fun n => field (flashBytes s (slotAt h n) 320) 4 4) (mgtSlots s h) s.boot with
        | (b, true) => mgtStart (slotMgt s (slotAt h b.slot)) { s with boot := b }
        | (b, false) => { s with boot := b }
    else s)

/-! ### DRAM and fabric (R544, R6) -/

/-- DRAM_TRAINING_COMPLETE: `cap` is the fitted capacity in the codes of `MEMCAP`. -/
def execDramTrainingComplete (cap : Fin 4) (s : State) : Host.Outcome State Fault Refusal :=
  .next (
    if s.saf.dev = .bringup ∧ s.saf.mgtUp ∧ cap.val ≠ 0 ∧ !s.saf.hold then
      let cap := if cap.val = 3 ∧ !s.fuses.aq2m then 2 else cap.val
      { s with boot := { s.boot with memcap := cap, stage := 4 } }
    else s)

/-- The silence of each enabled context counts from READY (R82). DESIGN CHOICE, notes/assumptions/76. -/
def gapStart (s : State) : State :=
  { s with ing := { s.ing with ctx := vmap s.ing.ctx {} fun _ c => if c.en then { c with gapFrom := replica s 17 } else c } }

/-- BRINGUP_COMPLETE: READY, and reason `START` clears (R448); under the latch, `STATE` stays LATCHED (R460). -/
def execBringupComplete (s : State) : Host.Outcome State Fault Refusal :=
  .next (
    if s.saf.dev = .bringup ∧ s.boot.memcap ≠ 0 ∧ !s.saf.hold then
      let s := gapStart { s with
        saf := { s.saf with dev := .ready }, clk := { s.clk with run := 0xFFFFFF }, boot := { s.boot with stage := 5 } }
      if s.saf.latch then s
      else clearReason 15 0 s.tb.master { s with saf := { s.saf with everReady := true } }
    else s)

/-! ### Where start-up leaves the device -/

/-- A device as start-up leaves it: READY, 16 GiB, every core at full width, links up, no reason in force. -/
def State.ready : State :=
  { State.reset with
    saf := { dev := .ready, why := 0, everReady := true, mgtUp := true, pinA := true, rbA := true }
    boot := { stage := 5, slot := 1, tried := 1, memcap := 1, corePresent := 0xFFFF, width := Vector.replicate 16 0 }
    clk := { run := 0xFFFFFF, railsOk := 0x7F }
    fio := { supply := true }
    node := { can0 := { enabled := true, nmt := .preop }, can1 := { enabled := true, nmt := .preop } }
    kc := Vector.replicate 16 { quads := 0 }
    hst := { ports := Vector.replicate 4 { linkUp := true, speed := 5, width := 3, perst := false } } }

end Sys2Proof.Machine
end

