-- ==== Sys2Proof/Machine/Rv32.lean ====
section
/-! DEFINITION. The control core's instruction set as data (R323, R333): RV32I, M, A, C, Zicsr, Zifencei, Zba, Zbb as
ratified by RISC-V International, and the device instructions of custom-0; decoding and the register arithmetic. -/

namespace Sys2Proof.Machine

inductive AluOp where
  | add | sub | sll | slt | sltu | xor | srl | sra | or | and
  | mul | mulh | mulhsu | mulhu | div | divu | rem | remu
  | sh1add | sh2add | sh3add | andn | orn | xnor | max | maxu | min | minu | rol | ror
  deriving DecidableEq, Repr

inductive UnOp where
  | clz | ctz | cpop | sextB | sextH | zextH | orcB | rev8
  deriving DecidableEq, Repr

inductive BrOp where
  | eq | ne | lt | ge | ltu | geu
  deriving DecidableEq, Repr

inductive AmoOp where
  | swap | add | xor | and | or | min | max | minu | maxu
  deriving DecidableEq, Repr

/-- One instruction, decoded: registers as numbers, immediates as values. -/
inductive RvOp where
  | lui (rd : Nat) (v : Word)
  | auipc (rd : Nat) (v : Word)
  | jal (rd : Nat) (off : Int)
  | jalr (rd rs1 : Nat) (off : Int)
  | br (op : BrOp) (rs1 rs2 : Nat) (off : Int)
  /-- bytes, sign extension -/
  | load (n : Nat) (sgn : Bool) (rd rs1 : Nat) (off : Int)
  | store (n rs1 rs2 : Nat) (off : Int)
  | aluI (op : AluOp) (rd rs1 : Nat) (v : Word)
  | alu (op : AluOp) (rd rs1 rs2 : Nat)
  | un (op : UnOp) (rd rs1 : Nat)
  | fence
  | lr (rd rs1 : Nat)
  | sc (rd rs1 rs2 : Nat)
  | amo (op : AmoOp) (rd rs1 rs2 : Nat)
  | ecall
  | ebreak
  /-- kind 1 write, 2 set, 3 clear; `imm` where `src` is an immediate -/
  | csr (kind : Nat) (imm : Bool) (rd src num : Nat)
  | qpush (rs1 idx : Nat)
  | qcommit (rd : Nat)
  | qcommitT (rd rs1 : Nat)
  | swait (rs1 rs2 : Nat)
  | sset (rs1 rs2 : Nat)
  | redrd (rd sel : Nat)
  | tsrdLo (rd : Nat)
  | tsrdHi (rd : Nat)
  deriving DecidableEq, Repr

/-- A signed value as a register word. -/
def rvWord (i : Int) : Word := BitVec.ofInt 32 i

/-! ### 32-bit encodings -/

def immI (x : Nat) : Int := signed 12 (bits x 20 12)
def immS (x : Nat) : Int := signed 12 (bits x 7 5 + bits x 25 7 * 32)
def immB (x : Nat) : Int := signed 13 (bits x 8 4 * 2 + bits x 25 6 * 32 + bits x 7 1 * 2048 + bits x 31 1 * 4096)
def immJ (x : Nat) : Int := signed 21 (bits x 21 10 * 2 + bits x 20 1 * 2048 + bits x 12 8 * 4096 + bits x 31 1 * 1048576)

def brOf : Nat → Option BrOp
  | 0 => some .eq
  | 1 => some .ne
  | 4 => some .lt
  | 5 => some .ge
  | 6 => some .ltu
  | 7 => some .geu
  | _ => none

/-- OP, by funct7 and funct3. -/
def aluOf (f7 f3 : Nat) : Option AluOp :=
  match f7, f3 with
  | 0x00, 0 => some .add | 0x00, 1 => some .sll | 0x00, 2 => some .slt | 0x00, 3 => some .sltu
  | 0x00, 4 => some .xor | 0x00, 5 => some .srl | 0x00, 6 => some .or | 0x00, 7 => some .and
  | 0x20, 0 => some .sub | 0x20, 5 => some .sra
  | 0x20, 4 => some .xnor | 0x20, 6 => some .orn | 0x20, 7 => some .andn
  | 0x01, 0 => some .mul | 0x01, 1 => some .mulh | 0x01, 2 => some .mulhsu | 0x01, 3 => some .mulhu
  | 0x01, 4 => some .div | 0x01, 5 => some .divu | 0x01, 6 => some .rem | 0x01, 7 => some .remu
  | 0x10, 2 => some .sh1add | 0x10, 4 => some .sh2add | 0x10, 6 => some .sh3add
  | 0x05, 4 => some .min | 0x05, 5 => some .minu | 0x05, 6 => some .max | 0x05, 7 => some .maxu
  | 0x30, 1 => some .rol | 0x30, 5 => some .ror
  | _, _ => none

/-- The unary operations of OP-IMM with funct3 1, by the 12 upper bits. -/
def unOf : Nat → Option UnOp
  | 0x600 => some .clz
  | 0x601 => some .ctz
  | 0x602 => some .cpop
  | 0x604 => some .sextB
  | 0x605 => some .sextH
  | _ => none

def opImm (x : Nat) : Option RvOp :=
  let rd := bits x 7 5
  let rs1 := bits x 15 5
  let i := rvWord (immI x)
  let sh : Word := BitVec.ofNat 32 (bits x 20 5)
  match bits x 12 3 with
  | 0 => some (.aluI .add rd rs1 i)
  | 2 => some (.aluI .slt rd rs1 i)
  | 3 => some (.aluI .sltu rd rs1 i)
  | 4 => some (.aluI .xor rd rs1 i)
  | 6 => some (.aluI .or rd rs1 i)
  | 7 => some (.aluI .and rd rs1 i)
  | 1 => if bits x 25 7 = 0 then some (.aluI .sll rd rs1 sh) else (unOf (bits x 20 12)).map fun o => .un o rd rs1
  | _ =>
    if bits x 25 7 = 0 then some (.aluI .srl rd rs1 sh)
    else if bits x 25 7 = 0x20 then some (.aluI .sra rd rs1 sh)
    else if bits x 25 7 = 0x30 then some (.aluI .ror rd rs1 sh)
    else if bits x 20 12 = 0x287 then some (.un .orcB rd rs1)
    else if bits x 20 12 = 0x698 then some (.un .rev8 rd rs1)
    else none

def amoOf : Nat → Option AmoOp
  | 0x00 => some .add
  | 0x01 => some .swap
  | 0x04 => some .xor
  | 0x08 => some .or
  | 0x0C => some .and
  | 0x10 => some .min
  | 0x14 => some .max
  | 0x18 => some .minu
  | 0x1C => some .maxu
  | _ => none

/-- The A extension: `aq` and `rl` add nothing (R332). -/
def opAmo (x : Nat) : Option RvOp :=
  let rd := bits x 7 5
  let rs1 := bits x 15 5
  let rs2 := bits x 20 5
  if bits x 12 3 ≠ 2 then none
  else match bits x 27 5 with
  | 0x02 => if rs2 = 0 then some (.lr rd rs1) else none
  | 0x03 => some (.sc rd rs1 rs2)
  | f => (amoOf f).map fun o => .amo o rd rs1 rs2

/-- The device instructions (R333). -/
def opDevice (x : Nat) : Option RvOp :=
  let rd := bits x 7 5
  let rs1 := bits x 15 5
  let rs2 := bits x 20 5
  match bits x 12 3, bits x 25 7 with
  | 0, 0 => if rd = 0 ∧ rs2 < 16 then some (.qpush rs1 rs2) else none
  | 1, 0 => if rs1 = 0 ∧ rs2 = 0 then some (.qcommit rd) else none
  | 1, 1 => if rs2 = 0 then some (.qcommitT rd rs1) else none
  | 2, 0 => if rd = 0 then some (.swait rs1 rs2) else none
  | 3, 0 => if rd = 0 then some (.sset rs1 rs2) else none
  | 4, 0 => if rs1 = 0 ∧ rs2 < 9 then some (.redrd rd rs2) else none
  | 5, 0 => if rs1 = 0 ∧ rs2 = 0 then some (.tsrdLo rd) else none
  | 5, 1 => if rs1 = 0 ∧ rs2 = 0 then some (.tsrdHi rd) else none
  | _, _ => none

def opSystem (x : Nat) : Option RvOp :=
  let f3 := bits x 12 3
  if f3 = 0 then (if x = 0x73 then some .ecall else if x = 0x100073 then some .ebreak else none)
  else if f3 % 4 = 0 then none
  else some (.csr (f3 % 4) (decide (4 ≤ f3)) (bits x 7 5) (bits x 15 5) (bits x 20 12))

/-- A 32-bit instruction; `none` for a reserved or unimplemented encoding. -/
def rv32 (x : Nat) : Option RvOp :=
  let rd := bits x 7 5
  let rs1 := bits x 15 5
  let rs2 := bits x 20 5
  let f3 := bits x 12 3
  match bits x 0 7 with
  | 0x37 => some (.lui rd (BitVec.ofNat 32 (bits x 12 20 * 4096)))
  | 0x17 => some (.auipc rd (BitVec.ofNat 32 (bits x 12 20 * 4096)))
  | 0x6F => some (.jal rd (immJ x))
  | 0x67 => if f3 = 0 then some (.jalr rd rs1 (immI x)) else none
  | 0x63 => (brOf f3).map fun o => .br o rs1 rs2 (immB x)
  | 0x03 => (match f3 with
    | 0 => some (.load 1 true rd rs1 (immI x))
    | 1 => some (.load 2 true rd rs1 (immI x))
    | 2 => some (.load 4 true rd rs1 (immI x))
    | 4 => some (.load 1 false rd rs1 (immI x))
    | 5 => some (.load 2 false rd rs1 (immI x))
    | _ => none)
  | 0x23 => if f3 < 3 then some (.store (2 ^ f3) rs1 rs2 (immS x)) else none
  | 0x13 => opImm x
  | 0x33 =>
    if bits x 25 7 = 4 ∧ f3 = 4 ∧ rs2 = 0 then some (.un .zextH rd rs1)
    else (aluOf (bits x 25 7) f3).map fun o => .alu o rd rs1 rs2
  | 0x0F => if f3 < 2 then some .fence else none
  | 0x2F => opAmo x
  | 0x73 => opSystem x
  | 0x0B => opDevice x
  | _ => none

/-! ### Encoding of 32-bit instructions (R323, R333), `aq` and `rl` 0 -/

def encR (f7 rs2 rs1 f3 rd opc : Nat) : Nat := opc + rd * 2 ^ 7 + f3 * 2 ^ 12 + rs1 * 2 ^ 15 + rs2 * 2 ^ 20 + f7 * 2 ^ 25

/-- I format; `i` the 12 immediate bits. -/
def encI (i rs1 f3 rd opc : Nat) : Nat := opc + rd * 2 ^ 7 + f3 * 2 ^ 12 + rs1 * 2 ^ 15 + i * 2 ^ 20

def encS (off : Int) (rs2 rs1 f3 : Nat) : Nat :=
  let i := unsigned 12 off
  encR (bits i 5 7) rs2 rs1 f3 (bits i 0 5) 0x23

def encB (off : Int) (rs2 rs1 f3 : Nat) : Nat :=
  let i := unsigned 13 off
  encR (bits i 12 1 * 64 + bits i 5 6) rs2 rs1 f3 (bits i 1 4 * 2 + bits i 11 1) 0x63

def encJ (off : Int) (rd : Nat) : Nat :=
  let i := unsigned 21 off
  0x6F + rd * 2 ^ 7 + bits i 12 8 * 2 ^ 12 + bits i 11 1 * 2 ^ 20 + bits i 1 10 * 2 ^ 21 + bits i 20 1 * 2 ^ 31

def brCode : BrOp → Nat
  | .eq => 0
  | .ne => 1
  | .lt => 4
  | .ge => 5
  | .ltu => 6
  | .geu => 7

/-- `funct7` and `funct3` of OP. -/
def aluCode : AluOp → Nat × Nat
  | .add => (0x00, 0) | .sll => (0x00, 1) | .slt => (0x00, 2) | .sltu => (0x00, 3)
  | .xor => (0x00, 4) | .srl => (0x00, 5) | .or => (0x00, 6) | .and => (0x00, 7)
  | .sub => (0x20, 0) | .sra => (0x20, 5) | .xnor => (0x20, 4) | .orn => (0x20, 6) | .andn => (0x20, 7)
  | .mul => (0x01, 0) | .mulh => (0x01, 1) | .mulhsu => (0x01, 2) | .mulhu => (0x01, 3)
  | .div => (0x01, 4) | .divu => (0x01, 5) | .rem => (0x01, 6) | .remu => (0x01, 7)
  | .sh1add => (0x10, 2) | .sh2add => (0x10, 4) | .sh3add => (0x10, 6)
  | .min => (0x05, 4) | .minu => (0x05, 5) | .max => (0x05, 6) | .maxu => (0x05, 7)
  | .rol => (0x30, 1) | .ror => (0x30, 5)

/-- Upper 12 bits, `funct3` and opcode of a unary operation. -/
def unCode : UnOp → Nat × Nat × Nat
  | .clz => (0x600, 1, 0x13)
  | .ctz => (0x601, 1, 0x13)
  | .cpop => (0x602, 1, 0x13)
  | .sextB => (0x604, 1, 0x13)
  | .sextH => (0x605, 1, 0x13)
  | .orcB => (0x287, 5, 0x13)
  | .rev8 => (0x698, 5, 0x13)
  | .zextH => (0x080, 4, 0x33)

def amoCode : AmoOp → Nat
  | .add => 0x00
  | .swap => 0x01
  | .xor => 0x04
  | .or => 0x08
  | .and => 0x0C
  | .min => 0x10
  | .max => 0x14
  | .minu => 0x18
  | .maxu => 0x1C

/-- A shift by an immediate amount. -/
def aluShift (op : AluOp) : Bool := op == .sll || op == .srl || op == .sra || op == .ror

/-- The word of an instruction. -/
def rvEncode : RvOp → Nat
  | .lui rd v => 0x37 + rd * 2 ^ 7 + v.toNat / 4096 * 4096
  | .auipc rd v => 0x17 + rd * 2 ^ 7 + v.toNat / 4096 * 4096
  | .jal rd off => encJ off rd
  | .jalr rd rs1 off => encI (unsigned 12 off) rs1 0 rd 0x67
  | .br o rs1 rs2 off => encB off rs2 rs1 (brCode o)
  | .load n sg rd rs1 off => encI (unsigned 12 off) rs1 ((if n = 1 then 0 else n / 2) + (if sg then 0 else 4)) rd 0x03
  | .store n rs1 rs2 off => encS off rs2 rs1 (if n = 1 then 0 else n / 2)
  | .aluI o rd rs1 v =>
    if aluShift o then encR (aluCode o).1 (v.toNat % 32) rs1 (aluCode o).2 rd 0x13
    else encI (v.toNat % 4096) rs1 (aluCode o).2 rd 0x13
  | .alu o rd rs1 rs2 => encR (aluCode o).1 rs2 rs1 (aluCode o).2 rd 0x33
  | .un o rd rs1 => encI (unCode o).1 rs1 (unCode o).2.1 rd (unCode o).2.2
  | .fence => 0x0F
  | .lr rd rs1 => encR 0x08 0 rs1 2 rd 0x2F
  | .sc rd rs1 rs2 => encR 0x0C rs2 rs1 2 rd 0x2F
  | .amo o rd rs1 rs2 => encR (amoCode o * 4) rs2 rs1 2 rd 0x2F
  | .ecall => 0x73
  | .ebreak => 0x100073
  | .csr kind imm rd src num => encI num src (kind + if imm then 4 else 0) rd 0x73
  | .qpush rs1 i => encR 0 i rs1 0 0 0x0B
  | .qcommit rd => encR 0 0 0 1 rd 0x0B
  | .qcommitT rd rs1 => encR 1 0 rs1 1 rd 0x0B
  | .swait rs1 rs2 => encR 0 rs2 rs1 2 0 0x0B
  | .sset rs1 rs2 => encR 0 rs2 rs1 3 0 0x0B
  | .redrd rd i => encR 0 i 0 4 rd 0x0B
  | .tsrdLo rd => encR 0 0 0 5 rd 0x0B
  | .tsrdHi rd => encR 1 0 0 5 rd 0x0B

/-- A 12-bit signed value. -/
def fits12 (i : Int) : Bool := decide (-2048 ≤ i ∧ i < 2048)

/-- Every field lies in its range: an instruction that has a word. -/
def rvOk : RvOp → Bool
  | .lui rd v | .auipc rd v => decide (rd < 32 ∧ v.toNat % 4096 = 0)
  | .jal rd off => decide (rd < 32 ∧ off % 2 = 0 ∧ -1048576 ≤ off ∧ off < 1048576)
  | .jalr rd rs1 off => decide (rd < 32 ∧ rs1 < 32) && fits12 off
  | .br _ rs1 rs2 off => decide (rs1 < 32 ∧ rs2 < 32 ∧ off % 2 = 0 ∧ -4096 ≤ off ∧ off < 4096)
  | .load n sg rd rs1 off => decide (rd < 32 ∧ rs1 < 32 ∧ (n = 1 ∨ n = 2 ∨ (n = 4 ∧ sg = true))) && fits12 off
  | .store n rs1 rs2 off => decide (rs1 < 32 ∧ rs2 < 32 ∧ (n = 1 ∨ n = 2 ∨ n = 4)) && fits12 off
  | .aluI o rd rs1 v => decide (rd < 32 ∧ rs1 < 32) &&
      (if aluShift o then decide (v.toNat < 32)
       else fits12 v.toInt && (o == .add || o == .slt || o == .sltu || o == .xor || o == .or || o == .and))
  | .alu _ rd rs1 rs2 | .sc rd rs1 rs2 | .amo _ rd rs1 rs2 => decide (rd < 32 ∧ rs1 < 32 ∧ rs2 < 32)
  | .un _ rd rs1 | .lr rd rs1 | .qcommitT rd rs1 => decide (rd < 32 ∧ rs1 < 32)
  | .fence | .ecall | .ebreak => true
  | .csr kind _ rd src num => decide (1 ≤ kind ∧ kind ≤ 3 ∧ rd < 32 ∧ src < 32 ∧ num < 4096)
  | .qpush rs1 i => decide (rs1 < 32 ∧ i < 16)
  | .swait rs1 rs2 | .sset rs1 rs2 => decide (rs1 < 32 ∧ rs2 < 32)
  | .redrd rd i => decide (rd < 32 ∧ i < 9)
  | .qcommit rd | .tsrdLo rd | .tsrdHi rd => decide (rd < 32)

/-! ### 16-bit encodings (C without floating point, RV32) -/

/-- A register of the three-bit fields. -/
def creg (x lo : Nat) : Nat := 8 + bits x lo 3

/-- Sign-extended immediate of the CI format. -/
def cimm6 (x : Nat) : Int := signed 6 (bits x 2 5 + bits x 12 1 * 32)

def cjOff (x : Nat) : Int :=
  signed 12 (bits x 3 3 * 2 + bits x 11 1 * 16 + bits x 2 1 * 32 + bits x 7 1 * 64 + bits x 6 1 * 128 + bits x 9 2 * 256
    + bits x 8 1 * 1024 + bits x 12 1 * 2048)

def cbOff (x : Nat) : Int :=
  signed 9 (bits x 3 2 * 2 + bits x 10 2 * 8 + bits x 2 1 * 32 + bits x 5 2 * 64 + bits x 12 1 * 256)

/-- Quadrant 0. -/
def rvc0 (x : Nat) : Option RvOp :=
  let off := bits x 6 1 * 4 + bits x 10 3 * 8 + bits x 5 1 * 64
  match bits x 13 3 with
  | 0 =>
    let i := bits x 6 1 * 4 + bits x 5 1 * 8 + bits x 11 2 * 16 + bits x 7 4 * 64
    if i = 0 then none else some (.aluI .add (creg x 2) 2 (BitVec.ofNat 32 i))
  | 2 => some (.load 4 true (creg x 2) (creg x 7) off)
  | 6 => some (.store 4 (creg x 7) (creg x 2) off)
  | _ => none

/-- The register operations of quadrant 1. -/
def rvc1Alu (x : Nat) : Option RvOp :=
  let r := creg x 7
  let sh : Word := BitVec.ofNat 32 (bits x 2 5)
  match bits x 10 2 with
  | 0 => if bits x 12 1 = 0 then some (.aluI .srl r r sh) else none
  | 1 => if bits x 12 1 = 0 then some (.aluI .sra r r sh) else none
  | 2 => some (.aluI .and r r (rvWord (cimm6 x)))
  | _ =>
    if bits x 12 1 = 1 then none
    else match bits x 5 2 with
    | 0 => some (.alu .sub r r (creg x 2))
    | 1 => some (.alu .xor r r (creg x 2))
    | 2 => some (.alu .or r r (creg x 2))
    | _ => some (.alu .and r r (creg x 2))

/-- Quadrant 1. -/
def rvc1 (x : Nat) : Option RvOp :=
  let rd := bits x 7 5
  match bits x 13 3 with
  | 0 => some (.aluI .add rd rd (rvWord (cimm6 x)))
  | 1 => some (.jal 1 (cjOff x))
  | 2 => some (.aluI .add rd 0 (rvWord (cimm6 x)))
  | 3 =>
    if rd = 2 then
      let i := signed 10 (bits x 6 1 * 16 + bits x 2 1 * 32 + bits x 5 1 * 64 + bits x 3 2 * 128 + bits x 12 1 * 512)
      if i = 0 then none else some (.aluI .add 2 2 (rvWord i))
    else if cimm6 x = 0 then none
    else some (.lui rd (rvWord (cimm6 x * 4096)))
  | 4 => rvc1Alu x
  | 5 => some (.jal 0 (cjOff x))
  | 6 => some (.br .eq (creg x 7) 0 (cbOff x))
  | _ => some (.br .ne (creg x 7) 0 (cbOff x))

/-- Quadrant 2. -/
def rvc2 (x : Nat) : Option RvOp :=
  let rd := bits x 7 5
  let rs2 := bits x 2 5
  match bits x 13 3 with
  | 0 => if bits x 12 1 = 0 then some (.aluI .sll rd rd (BitVec.ofNat 32 rs2)) else none
  | 2 => if rd = 0 then none else some (.load 4 true rd 2 (bits x 4 3 * 4 + bits x 12 1 * 32 + bits x 2 2 * 64))
  | 4 =>
    if bits x 12 1 = 0 then
      (if rs2 ≠ 0 then some (.alu .add rd 0 rs2) else if rd = 0 then none else some (.jalr 0 rd 0))
    else if rs2 ≠ 0 then some (.alu .add rd rd rs2)
    else if rd = 0 then some .ebreak
    else some (.jalr 1 rd 0)
  | 6 => some (.store 4 2 rs2 (bits x 9 4 * 4 + bits x 7 2 * 64))
  | _ => none

/-- An instruction whose two low bits are not 0b11. -/
def rv16 (x : Nat) : Option RvOp :=
  match x % 4 with
  | 0 => rvc0 x
  | 1 => rvc1 x
  | _ => rvc2 x

/-! ### Arithmetic -/

/-- Zeros above the highest one. -/
def rvClz (x : Word) : Nat := ((List.range 32).find? fun i => x.getLsbD (31 - i)).getD 32

def rvCtz (x : Word) : Nat := ((List.range 32).find? fun i => x.getLsbD i).getD 32

def rvBool (b : Bool) : Word := if b then 1 else 0

def aluVal (op : AluOp) (a b : Word) : Word :=
  let sh := b.toNat % 32
  match op with
  | .add => a + b
  | .sub => a - b
  | .sll => a <<< sh
  | .slt => rvBool (a.slt b)
  | .sltu => rvBool (a.ult b)
  | .xor => a ^^^ b
  | .srl => a >>> sh
  | .sra => a.sshiftRight sh
  | .or => a ||| b
  | .and => a &&& b
  | .mul => a * b
  | .mulh => BitVec.ofInt 32 (a.toInt * b.toInt / 4294967296)
  | .mulhsu => BitVec.ofInt 32 (a.toInt * (b.toNat : Int) / 4294967296)
  | .mulhu => BitVec.ofNat 32 (a.toNat * b.toNat / 4294967296)
  | .div => if b = 0 then BitVec.allOnes 32 else a.sdiv b
  | .divu => if b = 0 then BitVec.allOnes 32 else a / b
  | .rem => if b = 0 then a else a.srem b
  | .remu => if b = 0 then a else a % b
  | .sh1add => (a <<< 1) + b
  | .sh2add => (a <<< 2) + b
  | .sh3add => (a <<< 3) + b
  | .andn => a &&& ~~~b
  | .orn => a ||| ~~~b
  | .xnor => ~~~(a ^^^ b)
  | .max => if a.slt b then b else a
  | .maxu => if a.ult b then b else a
  | .min => if a.slt b then a else b
  | .minu => if a.ult b then a else b
  | .rol => a.rotateLeft sh
  | .ror => a.rotateRight sh

def unVal (op : UnOp) (a : Word) : Word :=
  match op with
  | .clz => BitVec.ofNat 32 (rvClz a)
  | .ctz => BitVec.ofNat 32 (rvCtz a)
  | .cpop => BitVec.ofNat 32 (popCount 32 a.toNat)
  | .sextB => rvWord (signed 8 a.toNat)
  | .sextH => rvWord (signed 16 a.toNat)
  | .zextH => BitVec.ofNat 32 (a.toNat % 65536)
  | .orcB => BitVec.ofNat 32 (leNat ((leBytes 4 a.toNat).map fun b => if b = 0 then 0 else 0xFF))
  | .rev8 => BitVec.ofNat 32 (leNat (leBytes 4 a.toNat).reverse)

def brTaken (op : BrOp) (a b : Word) : Bool :=
  match op with
  | .eq => a == b
  | .ne => a != b
  | .lt => a.slt b
  | .ge => !a.slt b
  | .ltu => a.ult b
  | .geu => !a.ult b

def amoVal (op : AmoOp) (a b : Word) : Word :=
  match op with
  | .swap => b
  | .add => a + b
  | .xor => a ^^^ b
  | .and => a &&& b
  | .or => a ||| b
  | .min => aluVal .min a b
  | .max => aluVal .max a b
  | .minu => aluVal .minu a b
  | .maxu => aluVal .maxu a b

end Sys2Proof.Machine
end

