-- ==== Sys2Proof/Machine/ControlCore.lean ====
section
/-! DEFINITION. The control core (13): fetch through the instruction cache, the three windows, the data cache's misses, the
user CSRs, exceptions as faults, the lockstep comparison, the device instructions. -/

namespace Sys2Proof.Machine

/-! ### Ways an instruction does not complete (R325) -/

inductive CcStop where
  /-- an exception: cause, `TVAL`, the fault it raises -/
  | trap (cause tval : Nat) (code : FaultCode)
  /-- a fault of `KC_CC_CAUSE.KIND`; kind 0 records nothing there -/
  | plain (kind : Nat) (code : FaultCode)
  /-- a fault already raised -/
  | raised
  /-- a data-cache miss under way: the instruction runs again -/
  | wait
  deriving DecidableEq, Repr

abbrev CcM (α : Type) : Type := ExceptT CcStop (StateM State) α

def ccRun {α : Type} (m : CcM α) (s : State) : Except CcStop α × State := StateT.run (ExceptT.run m) s

def ccStopped (c : Nat) (s : State) : State := modCc c (fun x => { x with st := .stopped, pendCommit := none, pendWait := none }) s

/-- What an instruction that does not complete leaves (R325, R329, R331, R347). -/
def ccFail (c : Nat) (e : CcStop) (s : State) : State :=
  match e with
  | .trap cause tval code => coreFault c 7 none code (ccStopRec c 1 cause 0 tval (ccStopped c s))
  | .plain 0 code => coreFault c 7 none code (ccStopped c s)
  | .plain kind code => coreFault c 7 none code (ccStopRec c kind 0 0 0 (ccStopped c s))
  | .raised => ccStopped c s
  | .wait => s

/-- A translation or DRAM fault met by a fetch or a data access. -/
def ccMemFault {α : Type} (cause tval : Nat) (e : FaultCode) : CcM α :=
  if e.cls = 1 then throw (.trap cause tval e) else throw (.plain 0 e)

/-! ### The code window and the instruction cache (R326, R327, R330) -/

def codeBase : Nat := 0x10000000
def dramBase : Nat := 0x80000000

/-- IOVA and bytes of the program's code section on a core. -/
def codeOf (s : State) (c : Nat) : Nat × Nat :=
  let t := ctxOf (coreOf s c)
  match vget s.hst.progs (jobOf s t.slot).handle none with
  | some g => g.code.getD t.idx (0, 0)
  | none => (0, 0)

def icSet (l : IcLine) : Nat := l.iova / 64 % 128

/-- A line enters the cache: 4 ways of 128 sets. -/
def icFill (c : Nat) (l : IcLine) (s : State) : State :=
  let x := coreOf s c
  let same := x.ic.filter fun m => icSet m == icSet l
  if same.length < 4 then setCore c { x with ic := l :: x.ic } s
  else
    let f := takeFree s
    let v := same[Config.victim f.1 % 4]?
    setCore c { x with ic := l :: x.ic.filter fun m => some m != v } f.2

/-- One line of code: a parity error invalidates the line and fetches it again. -/
def icLine (c cause tval iova : Nat) : CcM (List Byte) := do
  let x := coreOf (← get) c
  let p := (ctxOf x).part
  let here (m : IcLine) : Bool := m.part == p && m.iova == iova
  match x.ic.find? here with
  | some m =>
    if !m.bad then return m.bytes
    modify (regCount (kreg c 0x381C) 1)
    modify (modCore c fun x => { x with ic := x.ic.filter fun m => !here m })
  | none => modify (regCount (kreg c 0x3820) 1)
  let r := iovaRead (agentCc c) p iova (← get)
  set r.2
  match r.1 with
  | .error e => ccMemFault cause tval e
  | .ok b =>
    modify (icFill c ⟨p, iova, b, false⟩)
    pure b

/-- `n` bytes of the code section at an address of the window. -/
def codeBytes (c cause addr n : Nat) : CcM Nat := do
  let g := codeOf (← get) c
  let o := addr - codeBase
  if addr < codeBase ∨ 2 * codeBase ≤ addr ∨ g.2 < o + n then throw (.trap cause addr .ccTrap)
  let a := g.1 + o
  let l1 ← icLine c cause addr (lineOf a)
  let l2 ← (if lineOf (a + n - 1) = lineOf a then pure [] else icLine c cause addr (lineOf (a + n - 1)))
  pure (field (l1 ++ l2) (a % 64) n)

/-- The next instruction, with its bytes. -/
def ccFetch (c : Nat) : CcM (RvOp × Nat) := do
  let pc := (coreOf (← get) c).run.cc.leader.pc
  let h ← codeBytes c 1 pc 2
  if h % 4 = 3 then
    let h2 ← codeBytes c 1 (pc + 2) 2
    match rv32 (h + 65536 * h2) with
    | some op => pure (op, 4)
    | none => throw (.trap 2 (h + 65536 * h2) .ccTrap)
  else match rv16 h with
    | some op => pure (op, 2)
    | none => throw (.trap 2 h .ccTrap)

/-! ### DMEM (R326, R329) -/

def ccDmemRead (c cause addr n : Nat) : CcM (List Byte) := do
  match relocDmem (coreOf (← get) c) addr n with
  | none => throw (.trap cause addr .taskBound)
  | some p =>
    let r := dmemDecodeRange c p n (← get)
    set r.2
    if r.1 then pure (dmemBytes (coreOf r.2 c) p n) else throw (.plain 4 .dmemUe)

/-- A store: a byte or halfword reads and corrects its word first. -/
def ccDmemWrite (c addr : Nat) (bs : List Byte) : CcM Unit := do
  match relocDmem (coreOf (← get) c) addr bs.length with
  | none => throw (.trap 7 addr .taskBound)
  | some p =>
    if bs.length < 4 then
      let r := dmemDecodeRange c p bs.length (← get)
      set r.2
      if !r.1 then throw (.plain 4 .dmemUe)
    modify (modCore c (dmemStore p bs))

/-! ### The DRAM window and the data cache (R326, R331, R418) -/

/-- Device address of a DRAM window address. -/
def dcAddr (c cause addr : Nat) (write : Bool) : CcM Nat := do
  let s ← get
  let x := coreOf s c
  let r := xlate (agentCc c) (ctxOf x).part (x.run.cc.kdwin * 2 ^ 31 + (addr - dramBase)) write s
  set r.2
  match r.1 with
  | .ok a => pure a
  | .error e => ccMemFault cause addr e

def dcSetOf (line : Nat) : Nat := line / 64 % 64

/-- Makes room for a line: a clean line is dropped without notice, a dirty one leaves through the eviction buffer with a
PutM; it waits while the buffer is full. -/
def dcEvict (c line : Nat) : CcM Unit := do
  let s ← get
  let x := coreOf s c
  let same := x.dc.lines.filter fun l => dcSetOf l.line == dcSetOf line
  if same.length < 4 then return ()
  let f := takeFree s
  match same[Config.victim f.1 % 4]? with
  | none => pure ()
  | some v =>
    if v.dirty then
      if 4 ≤ x.dc.evict.length then throw .wait
      let r := dcDecode c v.line lineWords f.2
      if !r.1 then
        set (setDir v.line none (dcLost c v.line r.2))
        throw .raised
      let s := modDc c (fun d => { d with
        lines := d.lines.filter (·.line != v.line), evict := d.evict ++ [{ v with up := [] }] }) r.2
      set (modDir (fun d => { d with
        wait := d.wait ++ [⟨.putM c v.line v.bytes, some (jobRefOf (ctxOf x)), replica s c⟩] }) s)
    else set (modDc c (fun d => { d with lines := d.lines.filter (·.line != v.line) }) f.2)

/-- A miss sends its request to the directory; the instruction waits. -/
def dcMiss {α : Type} (c line : Nat) (excl : Bool) : CcM α := do
  let x := coreOf (← get) c
  if x.dc.miss.isSome || x.dc.evict.any (·.line == line) then throw .wait
  if !x.dc.lines.any (·.line == line) then dcEvict c line
  let t := ctxOf x
  let q : DirReq := if excl then .getM c line else .getS c line
  modify fun s =>
    let s := regCount (kreg c 0x3824) 1 (memToken t.part line (fabToken t.part s))
    let s := modDc c (fun d => { d with miss := some (line, excl) }) s
    modDir (fun d => { d with wait := d.wait ++ [⟨q, some (jobRefOf t), replica s c⟩] }) s
  throw .wait

/-- The line of a device address held for a read, or for a write, with the addressed word decoded (R331); a poisoned line
faults (R419). -/
def dcLine (c a : Nat) (excl : Bool) : CcM (List Byte) := do
  let line := lineOf a
  if (← get).dir.poisoned.contains line then throw (.plain 0 .dirTimeout)
  match (coreOf (← get) c).dc.lines.find? (·.line == line) with
  | some l =>
    let r := dcDecode c line [a % 64 / 8] (← get)
    set r.2
    if !r.1 then
      if l.dirty then
        modify fun s => setDir line none (dcLost c line s)
        throw .raised
      modify (modDc c fun d => { d with lines := d.lines.filter (·.line != line) })
      dcMiss c line excl
    else if excl && !l.dirty then dcMiss c line true
    else pure l.bytes
  | none => dcMiss c line excl

def dcPut (c line off : Nat) (bs : List Byte) (s : State) : State :=
  modDc c (fun d => { d with lines := d.lines.map fun l =>
    if l.line = line then { l with bytes := patch l.bytes off bs } else l }) s

/-! ### Loads and stores (R325, R326, R332) -/

/-- A load of `n` bytes; answers the line of the DRAM window as well. -/
def ccRead (c addr n : Nat) : CcM (Nat × Option Nat) := do
  if addr % n ≠ 0 then throw (.trap 4 addr .ccTrap)
  if addr < 0x10000 then
    let b ← ccDmemRead c 5 addr n
    pure (leNat b, none)
  else if codeBase ≤ addr ∧ addr < 2 * codeBase then
    let v ← codeBytes c 5 addr n
    pure (v, none)
  else if dramBase ≤ addr then
    let a ← dcAddr c 5 addr false
    let b ← dcLine c a false
    pure (field b (a % 64) n, some (lineOf a))
  else throw (.trap 5 addr .ccTrap)

/-- A store of this control core to a line ends a reservation of it. -/
def rsvStore (c addr : Nat) (line : Option Nat) (s : State) : State :=
  modCc c (fun x => match x.rsv with
    | some (a, l) => if l = line ∧ (l.isSome ∨ a / 64 = addr / 64) then { x with rsv := none } else x
    | none => x) s

/-- A read and write of `n` bytes in one piece: `f` gives the new bytes from the old value. -/
def ccModify (c addr n : Nat) (amo : Bool) (f : Nat → Nat) : CcM Nat := do
  if addr % n ≠ 0 then throw (.trap 6 addr .ccTrap)
  if addr < 0x10000 then
    let old ← (if amo then ccDmemRead c 7 addr n else pure [])
    ccDmemWrite c addr (leBytes n (f (leNat old)))
    modify (rsvStore c addr none)
    pure (leNat old)
  else if dramBase ≤ addr then
    let a ← dcAddr c 7 addr true
    let b ← dcLine c a true
    let old := field b (a % 64) n
    modify (dcPut c (lineOf a) (a % 64) (leBytes n (f old)))
    modify (rsvStore c addr (some (lineOf a)))
    pure old
  else throw (.trap 7 addr .ccTrap)

/-! ### User CSRs (R341) -/

/-- Runnel levels, laid out as `KC_RUNNEL_LVL` (R174). -/
def runnelLvl (r : CtxRun) : Nat :=
  let n (e : Nat) : Nat := (vget r.runnels e []).length
  n 0 + n 1 * 2 ^ 7 + n 2 * 2 ^ 14 + n 3 * 2 ^ 20 + n 4 * 2 ^ 26

/-- `KCORE`. -/
def kcoreCsr (s : State) (c : Nat) : Nat :=
  let x := coreOf s c
  let t := ctxOf x
  c + t.idx % 16 * 16 + (t.ncore - 1) % 16 * 256 + x.active.getD 0 * 4096 + t.part * 32768

/-- The value of a CSR, where user mode has it. -/
def csrRead (s : State) (c num : Nat) : Option Nat :=
  let x := coreOf s c
  let k := x.run.cc
  if 0x840 ≤ num ∧ num < 0x880 then some (vget k.preg (num - 0x840) 0).toNat
  else match num with
  | 0xC00 => some (k.cycle % 2 ^ 32)
  | 0xC80 => some (k.cycle / 2 ^ 32)
  | 0xC02 => some (k.instret % 2 ^ 32)
  | 0xC82 => some (k.instret / 2 ^ 32)
  | 0x800 => some k.kdwin
  | 0xCC0 => some (kcoreCsr s c)
  | 0xCC1 => some k.commit
  | 0xCC2 => some (runnelLvl x.run)
  | 0xCC3 => some (ctxOf x).taggen
  | _ => none

/-- Machine-mode identity CSRs (R324), which user mode does not have: `misa`, `marchid`, `mimpid`. -/
def mcsrRead (s : State) (num : Nat) : Option Nat :=
  match num with
  | 0x301 => some 0x40101105
  | 0xF12 => some 0x00004816
  | 0xF13 => some (s.fuses.step % 256)
  | _ => none

/-- The CSRs that user mode may write. -/
def csrWritable (num : Nat) : Bool := num == 0x800 || (decide (0x840 ≤ num) && decide (num < 0x880))

def csrWrite (c num v : Nat) (s : State) : State :=
  modCc c (fun x =>
    if num = 0x800 then { x with kdwin := v % 2 ^ 17 } else { x with preg := vset x.preg (num - 0x840) (BitVec.ofNat 32 v) }) s

/-! ### The two harts (R345) -/

def hx (h : Hart) (i : Nat) : Word := vget h.x i 0

/-- The address of a load, store or AMO. -/
def hAddr (h : Hart) (rs1 : Nat) (off : Int) : Nat := (hx h rs1 + rvWord off).toNat

/-- The address of the next instruction. -/
def nextPc (op : RvOp) (len : Nat) (h : Hart) : Nat :=
  match op with
  | .jal _ off => (BitVec.ofNat 32 h.pc + rvWord off).toNat
  | .jalr _ rs1 off => hAddr h rs1 off / 2 * 2
  | .br o rs1 rs2 off => if brTaken o (hx h rs1) (hx h rs2) then (BitVec.ofNat 32 h.pc + rvWord off).toNat else (h.pc + len) % 2 ^ 32
  | _ => (h.pc + len) % 2 ^ 32

/-- What an instruction that reaches nothing outside the hart writes, and where. -/
def aluRes (op : RvOp) (len : Nat) (h : Hart) : Nat × Word :=
  match op with
  | .lui rd v => (rd, v)
  | .auipc rd v => (rd, BitVec.ofNat 32 h.pc + v)
  | .jal rd _ | .jalr rd _ _ => (rd, BitVec.ofNat 32 (h.pc + len))
  | .aluI o rd rs1 v => (rd, aluVal o (hx h rs1) v)
  | .alu o rd rs1 rs2 => (rd, aluVal o (hx h rs1) (hx h rs2))
  | .un o rd rs1 => (rd, unVal o (hx h rs1))
  | _ => (0, 0)

/-- The outputs of a hart that are compared before they leave the pair. -/
def hartOuts (op : RvOp) (len : Nat) (h : Hart) : List Nat :=
  [h.pc, nextPc op len h] ++ (match op with
    | .load _ _ _ rs1 off => [hAddr h rs1 off]
    | .store _ rs1 rs2 off => [hAddr h rs1 off, (hx h rs2).toNat]
    | .lr _ rs1 | .qcommitT _ rs1 | .qpush rs1 _ => [(hx h rs1).toNat]
    | .sc _ rs1 rs2 | .amo _ _ rs1 rs2 | .swait rs1 rs2 | .sset rs1 rs2 => [(hx h rs1).toNat, (hx h rs2).toNat]
    | .ecall => [(hx h 17).toNat, (hx h 10).toNat]
    | .csr _ imm _ src _ => if imm then [] else [(hx h src).toNat]
    | _ => [])

def lockOk (x : Core) (op : RvOp) (len : Nat) : Bool :=
  !x.mismatch && hartOuts op len x.run.cc.leader == hartOuts op len x.run.cc.checker

/-- A mismatch (R346): nothing leaves the pair. -/
def lockFault (c : Nat) (s : State) : State :=
  let s := regCount (kreg c 0x3828) 1 (modCore c (fun x => { x with mismatch := false }) s)
  ccFail c (.plain 3 .lockstep) s

def hartSet (rd : Nat) (v : Word) (h : Hart) : Hart := if rd = 0 then h else { h with x := vset h.x rd v }

/-- An instruction retires: each hart takes its result and its next address. -/
def ccFinish (c : Nat) (op : RvOp) (len : Nat) (res : Hart → Nat × Word) (s : State) : State :=
  let one (h : Hart) : Hart := { hartSet (res h).1 (res h).2 h with pc := nextPc op len h }
  ccAfter c (modCc c (fun x => { x with
    leader := one x.leader, checker := one x.checker, instret := wrapAdd 64 x.instret 1 }) s)

/-- The same result for both harts. -/
def ccGive (c : Nat) (op : RvOp) (len rd : Nat) (v : Word) : CcM Unit := modify (ccFinish c op len fun _ => (rd, v))

/-! ### Execution -/

/-- Sign extension of a loaded value. -/
def loadVal (n : Nat) (sgn : Bool) (v : Nat) : Word := if sgn then rvWord (signed (8 * n) v) else BitVec.ofNat 32 v

/-- `w` are the instruction's bits, for `KC_CC_TVAL`. -/
def ccCsr (c : Nat) (op : RvOp) (len kind : Nat) (imm : Bool) (rd src num w : Nat) : CcM Unit := do
  let s ← get
  match csrRead s c num with
  | none => throw (.trap 2 w .ccTrap)
  | some old =>
    let v := if imm then src else (hx (coreOf s c).run.cc.leader src).toNat
    let wr := kind == 1 || src != 0
    if wr && !csrWritable num then throw (.trap 2 w .ccTrap)
    if wr then
      modify (csrWrite c num (if kind = 1 then v else if kind = 2 then old ||| v else old &&& (0xFFFFFFFF - v)))
    ccGive c op len rd (BitVec.ofNat 32 old)

/-- SC.W (R332). -/
def ccSc (c : Nat) (op : RvOp) (len rd addr : Nat) (v : Word) : CcM Unit := do
  if addr % 4 ≠ 0 then throw (.trap 6 addr .ccTrap)
  let held := (coreOf (← get) c).run.cc.rsv.map (·.1) = some addr
  if held then
    let _ ← ccModify c addr 4 false fun _ => v.toNat
  modify (modCc c fun x => { x with rsv := none })
  ccGive c op len rd (if held then 0 else 1)

/-- EBREAK (R325, R557): past it, while debug access is enabled. -/
def ccEbreak (c : Nat) (op : RvOp) (len : Nat) : CcM Unit := do
  if (← get).dbg.en then
    modify fun s => haltCore c 2 false (modCc c (fun x =>
      let one (h : Hart) : Hart := { h with pc := nextPc op len h }
      { x with leader := one x.leader, checker := one x.checker, instret := wrapAdd 64 x.instret 1 }) s)
  else throw (.trap 3 0 .ccTrap)

/-- An ordinary instruction. -/
def ccExec (c : Nat) (op : RvOp) (len w : Nat) : CcM Unit := do
  let h := (coreOf (← get) c).run.cc.leader
  match op with
  | .load n sgn rd rs1 off => do
    let r ← ccRead c (hAddr h rs1 off) n
    ccGive c op len rd (loadVal n sgn r.1)
  | .store n rs1 rs2 off => do
    let _ ← ccModify c (hAddr h rs1 off) n false fun _ => (hx h rs2).toNat
    ccGive c op len 0 0
  | .lr rd rs1 => do
    let a := (hx h rs1).toNat
    let r ← ccRead c a 4
    modify fun s => modCc c (fun x => { x with rsv := some (a, r.2), rsvAt := s.tb.master }) s
    ccGive c op len rd (BitVec.ofNat 32 r.1)
  | .sc rd rs1 rs2 => ccSc c op len rd (hx h rs1).toNat (hx h rs2)
  | .amo o rd rs1 rs2 => do
    let old ← ccModify c (hx h rs1).toNat 4 true fun v => (amoVal o (BitVec.ofNat 32 v) (hx h rs2)).toNat
    ccGive c op len rd (BitVec.ofNat 32 old)
  | .csr kind imm rd src num => ccCsr c op len kind imm rd src num w
  | .ebreak => ccEbreak c op len
  | .ecall => throw (.trap 8 0 .ccTrap)
  | .fence => ccGive c op len 0 0
  | _ => modify (ccFinish c op len (aluRes op len))

/-- The control core runs an instruction now. -/
def ccReady (s : State) (c : Nat) : Bool :=
  let x := coreOf s c
  isReady s && x.active.isSome && (ctxOf x).st == .running && x.stop.isNone && x.run.cc.st == .running

/-- The bits of the instruction at the program counter, as the code section holds them. -/
def ccBits (c len : Nat) : CcM Nat := do codeBytes c 1 (coreOf (← get) c).run.cc.leader.pc len

/-- One instruction of a class: its fetch address compared (R345), fetched, its other outputs compared, executed. `all`
where the command also takes what a fetch meets. -/
def ccStep (c : Nat) (all : Bool) (sel : RvOp → Hart → Bool) (exec : RvOp → Nat → CcM Unit) (s : State) : State :=
  let x := coreOf s c
  if !ccReady s c then s
  else if x.mismatch || x.run.cc.leader.pc != x.run.cc.checker.pc then lockFault c s
  else
    let r := ccRun (ccFetch c) s
    match r.1 with
    | .error e => if all then ccFail c e r.2 else s
    | .ok (op, len) =>
      if !sel op (coreOf s c).run.cc.leader then s
      else if !lockOk (coreOf s c) op len then lockFault c r.2
      else
        let t := ccRun (exec op len) r.2
        match t.1 with
        | .ok _ => t.2
        | .error e => ccFail c e t.2

/-- An instruction that no command of its own executes. -/
def ccOrdinary (op : RvOp) (h : Hart) : Bool :=
  match op with
  | .qpush _ _ | .qcommit _ | .qcommitT _ _ | .swait _ _ | .sset _ _ | .redrd _ _ | .tsrdLo _ | .tsrdHi _ => false
  | .ecall => decide (1 < (hx h 17).toNat)
  | _ => true

/-- CC_INSTRUCTION (R323, R325). -/
def execCcInstruction (core : Fin 16) (s : State) : Host.Outcome State Fault Refusal :=
  .next (ccStep core.val true ccOrdinary (fun op len => do ccExec core.val op len (← ccBits core.val len)) s)

/-! ### Device instructions (R333 to R338) -/

/-- QPUSH (R334). -/
def execQpush (core : Fin 16) (s : State) : Host.Outcome State Fault Refusal :=
  .next (
    let c := core.val
    ccStep c false (fun op _ => match op with
      | .qpush _ _ => true
      | _ => false) (fun op len => match op with
      | .qpush rs1 idx => modify fun s => ccFinish c op len (fun _ => (0, 0)) (modCc c (fun x => { x with
          stage := vset x.stage idx (hx x.leader rs1), written := x.written ||| (1#16 <<< idx),
          seqPc := if x.written = 0 then some x.leader.pc else x.seqPc }) s)
      | _ => pure ()) s)

/-- QCOMMIT (R335): earlier stores are performed already (R332). -/
def execQcommit (core : Fin 16) (s : State) : Host.Outcome State Fault Refusal :=
  .next (ccStep core.val false (fun op _ => match op with
      | .qcommit _ => true
      | _ => false) (fun op _ => match op with
      | .qcommit rd => modify (doCommit core.val rd none)
      | _ => pure ()) s)

/-- QCOMMIT_T (R321, R335). -/
def execQcommitT (core : Fin 16) (s : State) : Host.Outcome State Fault Refusal :=
  .next (ccStep core.val false (fun op _ => match op with
      | .qcommitT _ _ => true
      | _ => false) (fun op _ => match op with
      | .qcommitT rd rs1 => modify fun s =>
          doCommit core.val rd (some ((hx (coreOf s core.val).run.cc.leader rs1).toNat % 64)) s
      | _ => pure ()) s)

/-- Semaphore code and count of SWAIT and SSET (R336). -/
def semArgs (c rs1 rs2 : Nat) : CcM (Nat × Nat) := do
  let h := (coreOf (← get) c).run.cc.leader
  let code := (hx h rs1).toNat % 128
  if 32 ≤ code ∧ code < 64 then throw (.trap 2 (← ccBits c 4) .ccTrap)
  pure (code, (hx h rs2).toNat % 65536)

def ccSwait (c : Nat) (op : RvOp) (len rs1 rs2 : Nat) : CcM Unit := do
  let a ← semArgs c rs1 rs2
  let s ← get
  if !semOwned s (ctxOf (coreOf s c)).part a.1 then throw (.plain 0 .semDeny)
  else if a.2 = 0 ∨ swaitTurn s c a.1 a.2 then
    modify (semPut c a.1 (semGet s c a.1 - a.2))
    ccGive c op len 0 0
  else modify fun s => semArrive c (modCc c (fun x => { x with st := .swait, pendWait := some a }) s)

/-- SWAIT (R336). -/
def execSwait (core : Fin 16) (s : State) : Host.Outcome State Fault Refusal :=
  .next (ccStep core.val false (fun op _ => match op with
      | .swait _ _ => true
      | _ => false) (fun op len => match op with
      | .swait rs1 rs2 => ccSwait core.val op len rs1 rs2
      | _ => pure ()) s)

/-- SWAIT_RELEASE (R164, R336). -/
def execSwaitRelease (core : Fin 16) (s : State) : Host.Outcome State Fault Refusal :=
  .next (
    let c := core.val
    let x := coreOf s c
    match x.run.cc.pendWait with
    | some (code, n) =>
      if isReady s && x.active.isSome && (ctxOf x).st == .running && x.stop.isNone && x.run.cc.st == .swait
          && swaitTurn s c code n then
        let s := semPut c code (semGet s c code - n) s
        ccAfter c (semArrive c (modCc c (fun k => ccRetire ((k.leader.pc + 4) % 2 ^ 32) k) s))
      else s
    | none => s)

def ccSset (c : Nat) (op : RvOp) (len rs1 rs2 : Nat) : CcM Unit := do
  let a ← semArgs c rs1 rs2
  let s ← get
  match semFault s c (ctxOf (coreOf s c)).part a.1 a.2 with
  | some f => throw (.plain 0 f)
  | none =>
    modify (semPut c a.1 (semGet s c a.1 + a.2))
    ccGive c op len 0 0

/-- SSET (R336). -/
def execSset (core : Fin 16) (s : State) : Host.Outcome State Fault Refusal :=
  .next (ccStep core.val false (fun op _ => match op with
      | .sset _ _ => true
      | _ => false) (fun op len => match op with
      | .sset rs1 rs2 => ccSset core.val op len rs1 rs2
      | _ => pure ()) s)

/-- REDRD (R337). -/
def execRedrd (core : Fin 16) (s : State) : Host.Outcome State Fault Refusal :=
  .next (
    let c := core.val
    ccStep c false (fun op _ => match op with
      | .redrd _ _ => true
      | _ => false) (fun op len => match op with
      | .redrd rd k => do
        let x := (coreOf (← get) c).run.cc
        ccGive c op len rd (if k = 8 then x.ge else vget x.red k 0)
      | _ => pure ()) s)

/-- TSRD_LO (R338): the replica of the core's island. -/
def execTsrdLo (core : Fin 16) (s : State) : Host.Outcome State Fault Refusal :=
  .next (
    let c := core.val
    ccStep c false (fun op _ => match op with
      | .tsrdLo _ => true
      | _ => false) (fun op len => match op with
      | .tsrdLo rd => do
        let ts := stampOf (← get) c 0
        modify fun s => modCc c (fun x => { x with tsrd := ts / 2 ^ 32 % 2 ^ 32 }) (keepStamp c ts s)
        ccGive c op len rd (BitVec.ofNat 32 ts)
      | _ => pure ()) s)

/-- TSRD_HI (R338). -/
def execTsrdHi (core : Fin 16) (s : State) : Host.Outcome State Fault Refusal :=
  .next (
    let c := core.val
    ccStep c false (fun op _ => match op with
      | .tsrdHi _ => true
      | _ => false) (fun op len => match op with
      | .tsrdHi rd => do ccGive c op len rd (BitVec.ofNat 32 (coreOf (← get) c).run.cc.tsrd)
      | _ => pure ()) s)

/-- The control core has ended (R342): staged words discarded, the job's record of live cores and of its last END. -/
def ccEnd (c : Nat) (s : State) : State :=
  let t := ctxOf (coreOf s c)
  let ts := stampOf s c 0
  let s := modCc c (fun x => { ccRetire ((x.leader.pc + 4) % 2 ^ 32) x with
    st := .ended, stage := stageEmpty, written := 0, seqPc := none, rsv := none }) (keepStamp c ts s)
  modJob t.slot (fun j => { j with live := j.live.filter (· != c), endTs := ts }) s

/-- ECALL_END (R342). -/
def execEcallEnd (core : Fin 16) (s : State) : Host.Outcome State Fault Refusal :=
  .next (ccStep core.val false (fun op h => op == .ecall && hx h 17 == 0) (fun _ _ => modify (ccEnd core.val)) s)

/-- ECALL_ABORT (R342). -/
def execEcallAbort (core : Fin 16) (s : State) : Host.Outcome State Fault Refusal :=
  .next (
    let c := core.val
    ccStep c false (fun op h => op == .ecall && hx h 17 == 1) (fun _ _ => modify fun s =>
      coreFault c 7 none .ccAbort
        (ccStopRec c 2 0 ((hx (coreOf s c).run.cc.leader 10).toNat % 65536) 0 (ccStopped c s))) s)

end Sys2Proof.Machine
end

