-- ==== Sys2Proof/Machine/Memories.lean ====
section
/-! DEFINITION. The BAR0 aperture onto Basin, Cistern and DMEM (R38, R39, R173, R179, R185, R188, R196, R329, R556), and the
Basin scrubber (R189). -/

namespace Sys2Proof.Machine

/-! ### The address (R172 to R174) -/

/-- Core and offset in the aperture of a BAR0 address. -/
def aperOf (addr : Nat) : Option (Nat × Nat) :=
  if 0x1000000 ≤ addr ∧ addr < 0x2000000 ∧ 0x80000 ≤ addr % 0x100000
  then some ((addr - 0x1000000) / 0x100000, addr % 0x100000 - 0x80000) else none

/-- `KC_APER_BASE` of a requester. -/
def aperBase (s : State) (r : Requester) (c : Nat) : Nat := (regGet s (rkey (1 + reqCode r) (0x1000014 + c * 0x100000))).toNat

/-- Space (0 Basin, 1 Cistern, 2 DMEM) and physical byte offset that an aperture offset selects. -/
def aperPhys (s : State) (r : Requester) (c off : Nat) : Nat × Nat :=
  let b := aperBase s r c
  (bits b 30 2, bits b 0 4 * 0x80000 + off)

/-- Bytes of a space. -/
def spaceSize : Nat → Nat
  | 0 => 0x800000
  | 1 => 0x100000
  | 2 => 0x10000
  | _ => 0

/-- A partition's region of a space on a core, in bytes. -/
def prSpace (rc : List Byte) (c sp : Nat) : Nat × Nat :=
  let g := match sp with
    | 0 => prBasin rc c
    | 1 => prCis rc c
    | _ => prDmem rc c
  let u := if sp = 2 then 256 else 4096
  (g.1 * u, g.2 * u)

/-- The enabled partition that holds a physical offset of a core's space. -/
def spaceOwner (s : State) (c sp off : Nat) : Option Nat :=
  (List.range 8).find? fun p =>
    let g := prSpace (recOf s p) c sp
    prEn (recOf s p) && decide (g.1 ≤ off) && decide (off < g.2)

/-- The requester may reach an address of a partition (R39, R553, R555). -/
def reaches (s : State) (r : Requester) (p : Option Nat) (write : Bool) : Bool :=
  match r, p with
  | .host h, some p => ownerOf (partOf s p) == some h.val
  | .dbg, some p => if write then dbgPart s p else s.dbg.en
  | .dbg, none => s.dbg.en && !write
  | _, _ => false

/-! ### Accesses -/

/-- A fault that an aperture access meets: for no job (R188, R196, R329). -/
def aperFault (c : Nat) (code : FaultCode) (s : State) : State :=
  let s := regPut (kreg c 0x18) (BitVec.ofNat 32 (code.num + 65536 * ((coreOf s c).active.getD 0 % 8) + 524288 * 7)) s
  raise ⟨code, c, 0, none, none, none, some c, 7, coreDetail c code s, 1, false⟩ s

/-- The context whose DMEM range holds a physical word: the RUNNING one before the others. -/
def dmemHolder (x : Core) (off : Nat) : Option Nat :=
  let holds := (List.range 8).filter fun n =>
    let t := tctx x n
    t.st != .free && decide (t.dmemBase * 256 ≤ off) && decide (off < t.dmemBound * 256)
  match x.active with
  | some n => if holds.contains n then some n else holds.head?
  | none => holds.head?

/-- DMEM_UE of an aperture read: raised for the job whose context holds the word (R329), which it does not abort (R437). -/
def dmemAperFault (c off : Nat) (s : State) : State :=
  match dmemHolder (coreOf s c) off with
  | some n =>
    let t := tctx (coreOf s c) n
    let s := regPut (kreg c 0x18) (BitVec.ofNat 32 (FaultCode.dmemUe.num + 65536 * n + 524288 * 7)) s
    raise ⟨.dmemUe, c, 0, some (jobRefOf t), some t.part, none, some c, 7, coreDetail c .dmemUe s, 1, true⟩ s
  | none => aperFault c .dmemUe s

/-- A 32-bit read of a physical offset; an uncorrectable word or quad gives 0. -/
def aperRead (c sp off : Nat) (s : State) : Nat × State :=
  match sp with
  | 0 =>
    let r := wordDecode c (off / 8) s
    if r.1 then (leNat (basinBytes (coreOf s c) off 4), r.2) else (0, aperFault c .basinUe r.2)
  | 1 =>
    let q := off / 16
    let r := cisDecode c q ((List.range 4).map (4 * q + ·)) s
    if r.1 then ((smGet wordZero (coreOf s c).cis (off / 4)).toNat, r.2) else (0, aperFault c .cisternUe r.2)
  | _ =>
    let r := dmemDecode c (off / 4) s
    if r.1 then (leNat (dmemBytes (coreOf s c) off 4), r.2) else (0, dmemAperFault c off r.2)

/-- A weight block that an aperture write reaches becomes STALE and keeps the CRC it shows (R185, R186). -/
def blkStale (blk : Nat) (x : Core) : Core :=
  if (winOf x blk).isSome then
    let b := wblkOf x blk
    wblkSet blk (5, if b.1 = 1 then 0 else b.2) x
  else x

/-- A 32-bit write of a physical offset (R179): a Basin word is read, corrected, merged and rewritten. -/
def aperWrite (c sp off v : Nat) (s : State) : State :=
  match sp with
  | 0 =>
    let r := wordDecode c (off / 8) s
    if r.1 then
      let w := patch (basinBytes (coreOf s c) (off / 8 * 8) 8) (off % 8) (leBytes 4 v)
      modCore c (fun x => blkStale (off / 4096) (basinStore (off / 8 * 8) w x)) r.2
    else aperFault c .basinUe r.2
  | 1 => modCore c (cisStore (off / 4) (BitVec.ofNat 32 v)) s
  | _ => modCore c (dmemStore off (leBytes 4 v)) s

/-- A read of the debug port leaves everything but its own view as it was (R556). -/
def dbgView (r : Requester) (s t : State) : State :=
  match r with
  | .dbg => { s with reply := t.reply, latch := t.latch }
  | _ => t

/-- A read through the aperture (R38, R39, R173); nothing at any other address. -/
def aperReadCmd (r : Requester) (addr size : Nat) (s : State) : State :=
  match (if linked s r then aperOf addr else none) with
  | none => s
  | some (c, o) =>
    if !isReady s || size != 4 || addr % 4 != 0 then setReply r 0 s
    else
      let a := aperPhys s r c o
      if spaceSize a.1 ≤ a.2 then setReply r 0 s
      else if !reaches s r (spaceOwner s c a.1 a.2) false then setReply r 0 (denyAccess r s)
      else
        let x := aperRead c a.1 a.2 s
        dbgView r s (setReply r x.1 x.2)

/-- A write through the aperture (R38, R39, R173, R555). -/
def aperWriteCmd (r : Requester) (addr size v : Nat) (s : State) : State :=
  match aperOf addr with
  | none => s
  | some (c, o) =>
    blockGate r (fun s =>
      let a := aperPhys s r c o
      if size ≠ 4 ∨ addr % 4 ≠ 0 ∨ spaceSize a.1 ≤ a.2 then ignWrite r s
      else if reaches s r (spaceOwner s c a.1 a.2) true then aperWrite c a.1 a.2 (v % 2 ^ 32) s
      else if r = .dbg then ignWrite r s
      else denyAccess r s) s

/-- APERTURE_READ. -/
def execApertureRead (r : Requester) (addr size : Nat) (s : State) : Host.Outcome State Fault Refusal :=
  .next (aperReadCmd r addr size s)

/-- APERTURE_WRITE. -/
def execApertureWrite (r : Requester) (addr size : Nat) (v : Nat) (s : State) : Host.Outcome State Fault Refusal :=
  .next (aperWriteCmd r addr size v s)

/-! ### The scrubber (R189) -/

/-- The context whose Basin range holds a physical line: the RUNNING one before the others. -/
def lineHolder (x : Core) (line : Nat) : Option Nat :=
  let holds := (List.range 8).filter fun n =>
    let t := tctx x n
    t.st != .free && decide (t.basinBase * 64 ≤ line) && decide (line < t.basinBound * 64)
  match x.active with
  | some n => if holds.contains n then some n else holds.head?
  | none => holds.head?

/-- A fault that the scrubber finds, for the job whose context holds the line, or for no job. -/
def scrubFault (c line : Nat) (code : FaultCode) (s : State) : State :=
  match lineHolder (coreOf s c) line with
  | some n =>
    let t := tctx (coreOf s c) n
    let s := regPut (kreg c 0x18) (BitVec.ofNat 32 (code.num + 65536 * n + 524288 * 7)) s
    raise ⟨code, c, 0, some (jobRefOf t), some t.part, none, some c, 7, coreDetail c code s, 1, false⟩ s
  | none => aperFault c code s

/-- Rewrites the words of a line that the read corrected. -/
def scrubRewrite (line : Nat) (x : Core) : Core :=
  (lineCor x line).foldl (fun x k => basinStore (k * 8) (basinBytes x (k * 8) 8) x) x

/-- The check at the last line of a block that stayed VALID through its 64 lines. -/
def scrubBlock (c blk : Nat) (s : State) : State :=
  let x := coreOf s c
  let b := wblkOf x blk
  if crc32c (basinBytes x (blk * 4096) 4096) = b.2 then s
  else scrubFault c (blk * 64 + 63) .weightCrc (regCountField (kreg c 0x300C) 16 16 1 (modCore c (wblkSet blk (4, b.2)) s))

/-- SCRUB_LINE (R189): the next line of the pass; every uncorrectable word of it raises BASIN_UE. -/
def execScrubLine (core : Fin 16) (s : State) : Host.Outcome State Fault Refusal :=
  .next (
    let c := core.val
    let x := coreOf s c
    let line := x.scrub
    let blk := line / 64
    if !isReady s then s
    else
      let valid := (wblkOf x blk).1 == 3 && (line % 64 == 0 || x.scrubOk)
      let r := lineDecode c line s
      let s := modCore c (fun x =>
        { scrubRewrite line x with scrub := (line + 1) % 131072, scrubOk := valid }) r.2
      let s := (List.range r.1).foldl (fun s _ => scrubFault c line .basinUe s) s
      let s := if valid && line % 64 == 63 then scrubBlock c blk s else s
      if line = 131071 then regWrap (kreg c 0x3014) 1 s else s)

end Sys2Proof.Machine
end

