-- ==== Sys2Proof/Machine/Debug.lean ====
section
/-! DEFINITION. Debug access (23): the TAP, enabling and authentication, halts, breaks and steps (R549 to R562). -/

namespace Sys2Proof.Machine

/-! ### The TAP (R549 to R551) -/

/-- The TAP's instruction. -/
def setIr (n : Nat) (s : State) : State := { s with dbg := { s.dbg with ir := n } }

/-- What IDCODE reads (R550). -/
def idcodeWord (s : State) : Nat := s.fuses.step % 16 * 2 ^ 28 + 0x4816 * 2 ^ 12 + 0x16D * 2 + 1

/-- Every island but the TAP held in reset as under `PORST_N`, until `PORST_N` (R551). -/
def tapReset (s : State) : State :=
  if s.saf.tapHold then s
  else
    let t := powerReset (rstCause 1 s) s
    { t with saf := { t.saf with hold := true, tapHold := true } }

/-- IDCODE (R550). -/
def execIdcode (s : State) : Host.Outcome State Fault Refusal := .next (setIr 0x02 s)

/-- BYPASS (R549). -/
def execBypass (s : State) : Host.Outcome State Fault Refusal := .next (setIr 0xFF s)

/-- SAMPLE_PRELOAD (R551): captures the levels, loads the update stage, disturbs nothing. -/
def execSamplePreload (sampled shifted : List Bool) (s : State) : Host.Outcome State Fault Refusal :=
  .next (setIr 0x01 { s with dbg := { s.dbg with bsr := sampled, bsrOut := shifted } })

/-- EXTEST (R551): the cells are driven. -/
def execExtest (cells : List Bool) (s : State) : Host.Outcome State Fault Refusal :=
  .next (let t := tapReset s; setIr 0x00 { t with dbg := { t.dbg with bsrOut := cells } })

/-- CLAMP (R551): the pins hold what the update stage has. -/
def execClamp (s : State) : Host.Outcome State Fault Refusal := .next (setIr 0x03 (tapReset s))

/-- HIGHZ (R551). -/
def execHighz (s : State) : Host.Outcome State Fault Refusal := .next (setIr 0x04 (tapReset s))

/-! ### Halts, breaks and steps (R557 to R561) -/

/-- The control core stands at an instruction boundary, or in an instruction that a halt abandons. -/
def haltable (x : CcCtx) : Bool := x.st == .running || x.st == .qcommit || x.st == .swait

/-- A pending request takes effect outside a locked sequence (R557, R558). -/
def haltTry (s : State) (c : Nat) : State :=
  let x := (coreOf s c).run.cc
  if (haltOf s c).pending && dbgReach s c && haltable x && !ccLocked x then haltCore c 1 false s else s

/-- The cores of a mask. -/
def maskCores (m : Nat) : List Nat := onesFrom m 0 16

/-- DBG_HALT (R557): a core that is halted already keeps no request. -/
def dbgHalt (m : Nat) (s : State) : State :=
  (maskCores m).foldl (fun s c =>
    if (coreOf s c).active.isSome && (coreOf s c).run.cc.halt.isSome then s
    else haltTry (setHalt c { haltOf s c with pending := true } s) c) s

/-- A halted core runs again. -/
def ccResume (x : CcCtx) : CcCtx :=
  if x.halt.isSome then { x with halt := none, st := if x.st = .halted then .running else x.st } else x

/-- Resumes halted cores; `step` halts them again after one instruction (R559). -/
def dbgResume (m : Nat) (step : Bool) (s : State) : State :=
  (maskCores m).foldl (fun s c =>
    if (coreOf s c).active.isSome && (coreOf s c).run.cc.halt.isSome then
      setHalt c { haltOf s c with stepping := step, deferred := 0 } (modCc c ccResume s)
    else s) s

/-- Disabling debug access resumes every halted core, a preempted one too, and clears every break (R559). -/
def dbgOff (s : State) : State :=
  { s with
    dbg := { s.dbg with en := false, brkTag := 0, cores := vmap s.dbg.cores {} fun _ h =>
      { h with stepping := false, stopWait := false, brkCnt := 0, brkMode := 0 } }
    kc := vmap s.kc {} fun _ x => { x with
      run := { x.run with cc := ccResume x.run.cc }
      ctx := vmap x.ctx {} fun _ t => { t with saved := t.saved.map fun r => { r with cc := ccResume r.cc } } } }

/-- HALT_FORCE_TIMEOUT (R558): 256 cycles inside a locked sequence. -/
def execHaltForceTimeout (core : Fin 16) (s : State) : Host.Outcome State Fault Refusal :=
  .next (
    let c := core.val
    let h := haltOf s c
    let x := (coreOf s c).run.cc
    if (h.stepping || h.pending) && dbgReach s c && haltable x && ccLocked x then haltForce c (if h.stepping then 6 else 1) s else s)

/-! ### Writes of the debug port to the DBG registers (R41, R553 to R555, R562) -/

/-- A write that needs debug access: ignored and counted without it. -/
def dbgGate (k : State → State) (s : State) : State :=
  if !linked s .dbg then s else if s.dbg.en then k s else ignWrite .dbg s

/-- DBG_HALT. -/
def execDbgHalt (mask : BitVec 16) (s : State) : Host.Outcome State Fault Refusal := .next (dbgGate (dbgHalt mask.toNat) s)

/-- DBG_RESUME with `RUN` bits. -/
def execDbgResume (mask : BitVec 16) (s : State) : Host.Outcome State Fault Refusal :=
  .next (dbgGate (dbgResume mask.toNat false) s)

/-- DBG_RESUME with `STEP` bits. -/
def execDbgStep (mask : BitVec 16) (s : State) : Host.Outcome State Fault Refusal :=
  .next (dbgGate (dbgResume mask.toNat true) s)

/-- The selected register of both harts (R559). -/
def dbgGprWrite (v : Nat) (s : State) : State :=
  let c := s.dbg.core
  let put (h : Hart) : Hart := { h with x := vset h.x s.dbg.gpr (BitVec.ofNat 32 v) }
  if dbgReach s c && (coreOf s c).run.cc.halt.isSome && s.dbg.gpr != 0 then
    modCc c (fun x => { x with leader := put x.leader, checker := put x.checker }) s
  else s

/-- DBG_GPR_WRITE. -/
def execDbgGprWrite (v : Nat) (s : State) : Host.Outcome State Fault Refusal := .next (dbgGate (dbgGprWrite v) s)

/-- DBG_SVN_ADVANCE (R562): in mode AUTH, the next value with its key. -/
def execDbgSvnAdvance (v : Nat) (s : State) : Host.Outcome State Fault Refusal :=
  .next (dbgGate (fun s =>
    if s.fuses.dbgMode = 1 ∧ v / 65536 = 0x5356 ∧ v % 65536 = (s.fuses.svn + 1) % 65536 then
      { s with fuses := { s.fuses with svn := s.fuses.svn + 1 } }
    else ignWrite .dbg s) s)

/-- `PMASK` (R555): a value with a bit of an enabled class D partition that was clear is ignored and counted. -/
def pmaskWrite (m : Nat) (s : State) : State :=
  let classD (p : Nat) : Bool := field (partOf s p).record 0 1 == 1 && field (partOf s p).record 1 1 == 0
  if (List.range 8).any fun p => bitOf m p && !s.dbg.pmask.getLsbD p && classD p then ignWrite .dbg s
  else (List.range 16).foldl haltTry { s with dbg := { s.dbg with pmask := BitVec.ofNat 8 m } }

/-- The serial number, as the signature covers it (R554). -/
def authBytes (s : State) : List Byte := s.dbg.nonce ++ leBytes 4 s.fuses.serial

def authByte : Nat → Byte := fun _ => 0

/-- What the check of R554 finds: an unused nonce, a registered key, a signature that verifies. -/
def authFinds (s : State) : Bool :=
  let key := smGetList authByte s.dbg.auth 0 97
  s.dbg.nonceFresh
    && ((List.range 4).any fun i => s.fuses.keyHash[i]? == some (sha384 key) && !(s.fuses.revoked.getD i false))
    && p384Verify key (sha384 (authBytes s)) (smGetList authByte s.dbg.auth 0x64 96)

/-- A write of `EN` = 1 where debug access is off (R553, R554): enabled, or the check starts, or refused. -/
def dbgAsk (v : Nat) (s : State) : State :=
  let on (s : State) : State := pmaskWrite (bits v 8 8) { s with dbg := { s.dbg with en := true } }
  match s.fuses.dbgMode with
  | 0 => on s
  | 1 =>
    if s.dbg.authOk then on s
    else if s.dbg.checking.isSome then s
    else { s with dbg := { s.dbg with checking := some (authFinds s), nonceFresh := false } }
  | _ => ignWrite .dbg s

/-- A write of `DBG_CTRL` by the debug port. -/
def dbgCtrl (v : Nat) (s : State) : State :=
  if s.dbg.en then
    let s := pmaskWrite (bits v 8 8) s
    if bitOf v 0 then s else dbgOff s
  else if bitOf v 0 then dbgAsk v s
  else ignWrite .dbg s

/-- DEBUG_ENABLE (R553): a write of `DBG_CTRL`. -/
def execDebugEnable (v : Nat) (s : State) : Host.Outcome State Fault Refusal :=
  .next (if linked s .dbg then dbgCtrl v s else s)

/-- AUTH_CHECK_COMPLETE (R554). -/
def execAuthCheckComplete (s : State) : Host.Outcome State Fault Refusal :=
  .next (match s.dbg.checking with
    | some true => { s with dbg := { s.dbg with checking := none, authOk := true, authFail := false, en := true } }
    | some false => { s with dbg := { s.dbg with checking := none, authFail := true } }
    | none => s)

/-! ### The nonce (R554) -/

/-- Draws 256 bits from the random source. -/
def nonceDraw (s : State) : State :=
  { s with
    free := s.free + 32
    dbg := { s.dbg with nonce := (List.range 32).map fun i => Config.random (s.free + i), nonceFresh := true } }

/-- Word `n` of the nonce. -/
def nonceWord (s : State) (n : Nat) : Nat := field s.dbg.nonce (4 * n) 4

/-- NONCE_READ (R554): a read of `DBG_NONCE0` draws a nonce and returns its first word. -/
def execNonceRead (r : Requester) (s : State) : Host.Outcome State Fault Refusal :=
  .next (if linked s r then let t := nonceDraw s; setReply r (nonceWord t 0) t else s)

end Sys2Proof.Machine
end

