-- ==== Sys2Proof/Machine/VectorEngine.lean ====
section
/-! DEFINITION. The vector engine (R252 to R257, R310): statically scheduled microkernels with the skew guard of R167 and
R168, their streams, and RESCALE (R265). -/

namespace Sys2Proof.Machine

/-! ### Streams (R255, R310) -/

/-- An entry of the stream table: kind, ring, first line, lines. -/
structure VeStrm where
  kind : Nat
  ring : Nat
  base : Nat
  count : Nat
  deriving DecidableEq, Repr

def veStrmOf (b : List Byte) (i : Nat) : VeStrm :=
  let k := field b (8 * i) 4
  let w := field b (8 * i + 4) 4
  ⟨bits k 0 2, bits k 2 4, bits w 0 17, bits w 17 15⟩

/-- The entry breaks R310: a tile among the inputs, a linear range of no lines, a ring that the running context has not
defined with the VE at this end. -/
def veStrmBad (r : CtxRun) (i : Nat) (t : VeStrm) : Bool :=
  (t.kind == 3 && decide (i < 4)) || (t.kind == 2 && t.count == 0)
    || (t.kind == 1 && match vget r.rings t.ring none with
        | some g => (if i < 4 then g.cons else g.prod) != 1
        | none => true)

/-- Passes that will take a tile of the link, in the order of the ME Runnel (R262). -/
def linkPasses (r : CtxRun) : List Pass :=
  ((((r.flight.filter fun f => f.eng == 0 && f.loading).map (·.d)) ++ vget r.runnels 0 []).map fun d => passOf d.w).filter (·.wsrc)

/-- Lines of the tile being written: those of the pass that will take it, 128 where that pass is not known yet
(notes/assumptions/14). -/
def linkLines (r : CtxRun) : Nat := match (linkPasses r)[r.link.length]? with
  | some p => weightLines p
  | none => 128

/-- Where a stream stands: a ring slot that is not ready, or the line it moves next. -/
inductive StrmAt where
  | line (l : Nat)
  | tile
  | freeze
  | fault (code : FaultCode) (kind ring : Nat)
  deriving DecidableEq, Repr

/-- The next line of stream `i` after `pos` lines (R169, R255, R262). -/
def strmAt (r : CtxRun) (t : VeStrm) (i pos : Nat) : StrmAt :=
  if t.kind = 1 then
    match vget r.rings t.ring none with
    | some g =>
      let slot := if i < 4 then g.rd else g.wr
      if g.full.getD slot false == decide (i < 4) then .line (g.base + slot * g.slotl + pos % g.slotl)
      else if g.checked then .freeze
      else if i < 4 then .fault .slotUnderrun 2 t.ring else .fault .slotOverrun 3 t.ring
    | none => .fault .veShape 0 0
  else if t.kind = 2 then (if pos < t.count then .line (t.base + pos) else .fault .veShape 0 0)
  else if t.kind = 3 then (if 2 ≤ r.link.length then .freeze else .tile)
  else .fault .veShape 0 0

/-- After a line of a ring stream: the stream takes the next slot when the slot's last line has moved. -/
def strmNext (t : VeStrm) (i pos : Nat) (r : CtxRun) : CtxRun :=
  if t.kind = 1 then
    match vget r.rings t.ring none with
    | some g =>
      if pos % g.slotl = g.slotl - 1 then
        let n := g.full.length
        let h : Ring := if i < 4 then { g with rd := (g.rd + 1) % n } else { g with wr := (g.wr + 1) % n }
        { r with rings := vset r.rings t.ring (some h) }
      else r
    | none => r
  else r

/-- One line enters the tile link; a tile that holds all its lines is complete. -/
def linkPut (bs : List Byte) (r : CtxRun) : CtxRun :=
  let p := r.linkPart ++ [⟨bs, false⟩]
  if linkLines r ≤ p.length then { r with link := r.link ++ [p], linkPart := [] } else { r with linkPart := p }

/-- The end of a microkernel completes the tile under way (DESIGN CHOICE, notes/assumptions/14). -/
def linkClose (r : CtxRun) : CtxRun :=
  if r.linkPart.isEmpty then r else { r with link := r.link ++ [r.linkPart], linkPart := [] }

/-! ### Operations (R253, R254) -/

def laneZeros : Nat → List Word := fun _ => List.replicate 64 0

def vreg (r : CtxRun) (i : Nat) : List Word := smGet laneZeros r.vregs (i % 64)

/-- The epoch bit of a register. -/
def epochOf (p : VeProg) (i : Nat) : Bool := p.epochs.getLsbD (i % 64)

/-- A truth value as the comparison gives it. -/
def veBool (b : Bool) : Word := if b then Config.veTrue else 0

/-- A shift by 32 or more gives what the spec does not state. -/
def veShift (f : Word → Nat → Word) (a b : Word) : Word := if b.toNat < 32 then f a b.toNat else Config.veShift a b

def bf16Round (x : Word) : Word := BitVec.ofNat 32 (widen 4 (convTo 4 none false x.toNat))

/-- A converted element as the register holds it: integers sign-extended, floating point widened. -/
def cvtHold (fmt x : Nat) : Word :=
  match fmt % 16 with
  | 0 | 8 => BitVec.ofInt 32 (signed 8 x)
  | 1 => BitVec.ofInt 32 (signed 4 x)
  | 7 => BitVec.ofNat 32 x
  | _ => BitVec.ofNat 32 (widen fmt x)

/-- An ALU operation on one lane, conversions apart. -/
def veAlu1 (op : VeAlu) (x : List Word) : Word :=
  let a := x.getD 0 0
  let b := x.getD 1 0
  let c := x.getD 2 0
  let f2 (g : Nat → Nat → Nat) : Word := BitVec.ofNat 32 (g a.toNat b.toNat)
  match op with
  | .iadd => a + b
  | .isub => a - b
  | .iand => a &&& b
  | .ior => a ||| b
  | .ixor => a ^^^ b
  | .ishl => veShift (fun x n => x <<< n) a b
  | .ishr => veShift (fun x n => x >>> n) a b
  | .isar => veShift (fun x n => x.sshiftRight n) a b
  | .ieq => veBool (a == b)
  | .ilt => veBool (a.slt b)
  | .iltu => veBool (a.ult b)
  | .iselect => if a = 0 then c else b
  | .fadd => f2 add32
  | .fmul => f2 mul32
  | .fmax => f2 max32
  | .fmin => f2 min32
  | .ffma => BitVec.ofNat 32 (fma32 a.toNat b.toNat c.toNat)
  | .cvt .. => a
  | .itof => BitVec.ofNat 32 (itof32 a.toNat)

/-- Landing latency of an ALU operation. -/
def veLat : VeAlu → Nat
  | .iadd | .isub | .iand | .ior | .ixor | .ishl | .ishr | .isar | .ieq | .ilt | .iltu | .iselect => 2
  | .fadd | .fmul | .fmax | .fmin => 4
  | .ffma => 6
  | .cvt .. | .itof => 4

/-- A conversion of 64 lanes (R137 to R141, R149), and the exponents of its groups. -/
def veCvt (fmt : Nat) (nonsat : Bool) (rs : List (Option Nat)) (xs : List Nat) : List Word × List Byte :=
  if fmt = 8 then
    let es := (chunks 16 xs).map kq8Group
    ((((chunks 16 xs).zip (chunks 16 rs)).zip es).flatMap fun g =>
      (g.1.1.zip g.1.2).map fun x => cvtHold 8 (kq8Elem g.2 x.2 x.1), es.map fun e => BitVec.ofNat 8 (unsigned 8 e))
  else ((xs.zip rs).map fun x => cvtHold fmt (convTo fmt x.2 nonsat x.1), [])

/-- Formats to which a conversion may round stochastically (R137); to any other it rounds ties to even, and no generator
advances (R138). -/
def cvtStoch (fmt : Nat) : Bool := [0, 2, 3, 4, 5, 8].contains fmt

/-- An ALU operation on all lanes; stochastic conversion draws from each lane's generator. -/
def veAluRun (c : Nat) (o : VeAluOp) : EngM (List Word × List Byte) := do
  let r := (coreOf (← get) c).run
  let ops := o.src.map fun x => vreg r x.reg
  let v ← (match o.op with
    | .cvt fmt stoch nonsat => do
      let rs ← if stoch && cvtStoch fmt then (List.range 64).mapM fun i => do pure (some (← drawLane c i)) else pure (List.replicate 64 none)
      pure (veCvt fmt nonsat rs ((ops.getD 0 []).map (·.toNat)))
    | op => pure ((List.range 64).map fun l => veAlu1 op (ops.map fun v => v.getD l 0), []))
  pure (if o.bf16 then v.1.map bf16Round else v.1, v.2)

/-- A special function on one lane. -/
def veSf1 (f : VeSf) (x : Word) : Word :=
  BitVec.ofNat 32 (match f with
    | .exp => exp32 x.toNat
    | .rcp => rcp32 x.toNat
    | .sqrt => sqrt32 x.toNat
    | .rsqrt => rsqrt32 x.toNat
    | .fn code alpha => actFn code alpha.toNat x.toNat)

/-- Lane sum in ascending order, or lane maximum (R254). -/
def veRed1 (isMax : Bool) : List Word → Word
  | [] => 0
  | x :: xs => BitVec.ofNat 32 (xs.foldl (fun m y => if isMax then max32 m y.toNat else add32 m y.toNat) x.toNat)

/-- Source operands of a word, in slot order. -/
def veSrcs (w : VeWord) : List VeSrc :=
  (w.alu0.map (·.src)).getD [] ++ (w.alu1.map (·.src)).getD [] ++ (w.sf.map fun x => [x.2.2]).getD []
    ++ (w.st.map fun x => [x.2]).getD [] ++ (w.red.map fun x => [x.src]).getD []

/-! ### One cycle -/

/-- A SKEW: `KC_SKEW_INFO`, then the fault (R167, R168). -/
def veSkew (c pc reg : Nat) : EngM Unit := do
  modify (skewInfo c pc reg 0 1)
  stopF .skew

/-- The word's streams are ready; an unchecked ring that is not ready faults, a checked one freezes. -/
def veReady (a : Acc) (sts : List VeStrm) (p : VeProg) (pc : Nat) (i : Option Nat) : EngM Bool := do
  match i with
  | none => pure true
  | some i =>
    let t := sts.getD i ⟨0, 0, 0, 0⟩
    match strmAt (coreOf (← get) a.c).run t i (p.pos.getD i 0) with
    | .line _ | .tile => pure true
    | .freeze => pure false
    | .fault code kind ring =>
      if kind ≠ 0 then modify (skewInfo a.c pc 0 ring kind)
      stopF code

/-- The landings of the word at index `k` of `pc`, with its accesses made. -/
def veIssue (a : Acc) (sts : List VeStrm) (w : VeWord) (k pc : Nat) (p : VeProg) : EngM VeProg := do
  let mut p := p
  let mut out : List VeLand := []
  for o in [w.alu0, w.alu1] do
    match o with
    | some o =>
      let v ← veAluRun a.c o
      out := out ++ [⟨k + veLat o.op, o.dst % 64, v.1, pc, none, k, v.2⟩]
    | none => pure ()
  let r := (coreOf (← get) a.c).run
  match w.sf with
  | some (f, d, x) => out := out ++ [⟨k + 14, d % 64, (vreg r x.reg).map (veSf1 f), pc, none, k, []⟩]
  | none => pure ()
  match w.red with
  | some o => out := out ++ [⟨k + 10, o.dst % 64, [veRed1 o.isMax (vreg r o.src.reg)], pc, o.red, k, []⟩]
  | none => pure ()
  match w.ld with
  | some (i, d) =>
    let t := sts.getD i ⟨0, 0, 0, 0⟩
    match strmAt r t i (p.pos.getD i 0) with
    | .line l =>
      let b ← basinRead a false l
      modify (modRun a.c (strmNext t i (p.pos.getD i 0)))
      out := out ++ [⟨k + 5, d % 64, (List.range 64).map (Config.veLoad b), pc, none, k, []⟩]
      p := { p with pos := p.pos.modify i (· + 1) }
    | _ => pure ()
  | none => pure ()
  match w.st with
  | some (i, x) =>
    let t := sts.getD i ⟨0, 0, 0, 0⟩
    let b := (List.range 64).map (Config.veStore (vreg r x.reg) (smGet (fun _ => []) r.vexps (x.reg % 64)))
    match strmAt (coreOf (← get) a.c).run t i (p.pos.getD i 0) with
    | .line l =>
      basinWriteLine a l 0 b
      modify (modRun a.c (strmNext t i (p.pos.getD i 0)))
      p := { p with pos := p.pos.modify i (· + 1) }
    | .tile => modify (modRun a.c (linkPut b))
    | _ => pure ()
  | none => pure ()
  pure { p with land := p.land ++ out }

/-- Writes one landing: all lanes, or lane 0 alone; its register's epoch toggles. -/
def veLand1 (c : Nat) (l : VeLand) (p : VeProg) : EngM VeProg := do
  modify (modRun c fun r => { r with
    vregs := smSet laneZeros r.vregs l.reg (patch (vreg r l.reg) 0 l.lanes)
    vexps := smSet (fun _ => []) r.vexps l.reg l.exps })
  let p := { p with epochs := p.epochs ^^^ (1#64 <<< l.reg) }
  match l.red with
  | some i => pure { p with reds := p.reds ++ [(i % 8, l.lanes.headD 0)] }
  | none => pure p

/-- The landings that meet an earlier one of the list on their register. -/
def landTwice : List VeLand → List VeLand → List VeLand
  | _, [] => []
  | pre, l :: ls => (if pre.any (·.reg == l.reg) then [l] else []) ++ landTwice (pre ++ [l]) ls

/-- The landings of cycle `k`: two on one register raise SKEW, and the later of the two words writes nothing (R167, R168). -/
def veLands (c k : Nat) (p : VeProg) : EngM VeProg := do
  let now := p.land.filter (·.due == k)
  let mut q := { p with land := p.land.filter (·.due != k) }
  match landTwice [] now with
  | [] =>
    for l in now do
      q ← veLand1 c l q
    pure q
  | b :: bs =>
    for l in now.filter fun l => !((b :: bs).any (·.at_ == l.at_)) do
      q ← veLand1 c l q
    veSkew c b.idx b.reg
    pure q

/-- At a stop request every result under way lands (R424). -/
def veFlush (c : Nat) : Nat → Nat → VeProg → EngM VeProg
  | _, 0, p => pure p
  | k, n + 1, p => do veFlush c (k + 1) n (← veLands c k p)

/-- Words left to issue, then the cycles in which the last results land. -/
def veLoop (a : Acc) (sts : List VeStrm) (entry len total : Nat) : Nat → VeProg → EngM (Bool × VeProg)
  | 0, p => pure (true, p)
  | n + 1, p => do
    if p.k < total && p.k % len == 0 && (coreOf (← get) a.c).stop.isSome then pure (false, ← veFlush a.c p.k 14 p)
    else if p.k < total then
      let pc := p.k % len
      let w := Config.veDecode (smGet (fun _ => []) (coreOf (← get) a.c).ukern (entry + pc))
      let ld := w.ld.map (·.1 % 4)
      let st := w.st.map (4 + ·.1 % 2)
      let w := { w with ld := w.ld.map (fun x => (x.1 % 4, x.2)), st := w.st.map (fun x => (4 + x.1 % 2, x.2)) }
      if !(← veReady a sts p pc ld) then pure (false, p)
      else if !(← veReady a sts p pc st) then pure (false, p)
      else
        modify (regWrap (kreg a.c 0x1808) 1)
        match (veSrcs w).find? fun x => epochOf p x.reg != x.epoch with
        | some x => veSkew a.c pc (x.reg % 64)
        | none => pure ()
        let q ← veIssue a sts w p.k pc p
        let q ← veLands a.c p.k q
        veLoop a sts entry len total n { q with k := p.k + 1 }
    else
      let q ← veLands a.c p.k p
      veLoop a sts entry len total n { q with k := p.k + 1 }

/-- What a microkernel under way may still read: the rest of its linear input streams (R158). -/
def veLater (sts : List VeStrm) (p : VeProg) : List (Nat × Nat) :=
  (List.range 4).filterMap fun i =>
    let t := sts.getD i ⟨0, 0, 0, 0⟩
    let k := p.pos.getD i 0
    if t.kind = 2 ∧ k < t.count then some (t.base + k, t.base + t.count - 1) else none

/-- RUN (R252, R257, R310): the body runs `TRIP` times; a freeze keeps what has been done, and the work goes on where it
stopped. A stop request parks it at the end of a trip (R424). -/
def veRun (a : Acc) (f : Flight) : EngM Flight := do
  let entry := wbits a.w 0 12 12
  let len := wbits a.w 11 0 12 + 1
  let total := len * (wbits a.w 11 12 16 + 1)
  if 4096 < entry + len then stopF .veShape
  let p ← (match f.ve with
    | some p => pure p
    | none => do
      let seed := a.w.getD 12 0
      modify (modRun a.c fun r => { r with gens := seedGens seed })
      modify (regPut (kreg a.c 0x1804) seed)
      let tb ← basinReadBytes a (wbits a.w 13 0 17 * 64) 48
      let sts := (List.range 6).map (veStrmOf tb)
      let r := (coreOf (← get) a.c).run
      if (List.range 6).any fun i => veStrmBad r i (sts.getD i ⟨0, 0, 0, 0⟩) then stopF .veShape
      pure { strms := sts.map fun t => (t.kind, t.ring, t.base, t.count) })
  let sts := p.strms.map fun t => VeStrm.mk t.1 t.2.1 t.2.2.1 t.2.2.2
  let q ← veLoop a sts entry len total (total + 14 - p.k) p
  if q.1 then
    modify (modRun a.c linkClose)
    doneWork a { f with ve := none, reds := q.2.reds }
  else
    let x := coreOf (← get) a.c
    modify (modRun a.c (releaseRead f.d.commit (linesMeet x 1 (veLater sts q.2))))
    pure { f with ve := some q.2 }

/-- RESCALE (R265, R310). -/
def veRescale (a : Acc) (f : Flight) : EngM Flight := do
  let cis := 4 * wbits a.w 11 0 16
  let cstride := 4 * wbits a.w 11 16 8
  let chn := 64 * wbits a.w 12 0 17
  let m := wbits a.w 12 17 13
  let n := wbits a.w 13 17 7
  if 4096 < m ∨ 64 < n then stopF .veShape
  for i in List.range m do
    let st ← basinReadBytes a (chn + 16 * i) 16
    let cr := field st 8 4
    let es ← cisRead a (cis + i * cstride) n
    let _ ← cisReq a .write (cis + i * cstride) (es.map fun e => BitVec.ofNat 32 (mul32 e.toNat cr))
  doneWork a f

/-- RUN (R252). -/
def execRun (core : Fin 16) (s : State) : Host.Outcome State Fault Refusal := .next (issue core.val 1 0x20 veRun s)

/-- RESCALE (R265). -/
def execRescale (core : Fin 16) (s : State) : Host.Outcome State Fault Refusal := .next (issue core.val 1 0x21 veRescale s)

end Sys2Proof.Machine
end

