-- ==== Sys2Proof/Machine/DmaEngine.lean ====
section
/-! DEFINITION. The DMA engine and the peer sender (R181, R182, R185, R186, R190, R191, R268 to R271, R275, R306, R314, R410),
the retirement of descriptors (R158) and the watchdog (R435, R436). -/

namespace Sys2Proof.Machine

/-! ### Shape (R307, R314) -/

/-- A field of a DE or PEER descriptor out of range. -/
def deShape (a : Acc) : EngM Unit := do
  if !opRangeOk 64 a.w then stopF .deShape

/-- `DE_BYTES` (R274). -/
def deBytes (c n : Nat) (s : State) : State := regWrap64 (kreg c 0x2808) (kreg c 0x280C) n s

/-! ### XFER (R314) -/

structure XferF where
  ssp : Nat
  score : Nat
  dsp : Nat
  dcore : Nat
  len : Nat
  saddr : Nat
  daddr : Nat
  deriving DecidableEq, Repr

def xferOf (w : List Word) : XferF :=
  ⟨wbits w 0 12 3, wbits w 0 15 4, wbits w 0 19 3, wbits w 0 22 4, wbits w 11 0 32,
    wbits w 12 0 32 + wbits w 13 0 16 * 2 ^ 32, wbits w 14 0 32 + wbits w 13 16 16 * 2 ^ 32⟩

/-- Space 4: the XFER moves in pieces (R410). -/
def xferHost (x : XferF) : Bool := x.ssp == 4 || x.dsp == 4

/-- An access of a DMA engine by I/O virtual address. -/
def liftX {α : Type} (f : State → Except FaultCode α × State) : EngM α := do
  let r := f (← get)
  set r.2
  match r.1 with
  | .ok v => pure v
  | .error e => stopF e

/-- 64 bytes of DMEM from a task-relative offset (R171, R329). -/
def dmemLineRead (a : Acc) (off : Nat) : EngM (List Byte) := do
  match relocDmem (coreOf (← get) a.c) off 64 with
  | none => stopF .taskBound
  | some p =>
    let r := dmemDecodeRange a.c p 64 (← get)
    set r.2
    if r.1 then pure (dmemBytes (coreOf r.2 a.c) p 64) else stopF .dmemUe

def dmemLineWrite (a : Acc) (off : Nat) (bs : List Byte) : EngM Unit := do
  match relocDmem (coreOf (← get) a.c) off 64 with
  | none => stopF .taskBound
  | some p => modify (modCore a.c (dmemStore p bs))

/-- Little-endian words of a list of bytes. -/
def wordsOf (bs : List Byte) (n : Nat) : List Word := (List.range n).map fun i => BitVec.ofNat 32 (field bs (4 * i) 4)

/-- One line from a source on this core or in DRAM. -/
def xferRead (a : Acc) (part sp addr : Nat) : EngM (List Byte) := do
  match sp with
  | 0 => basinRead a false (addr / 64)
  | 1 =>
    let ws ← cisRead a (addr / 4) 16
    pure (ws.flatMap fun w => leBytes 4 w.toNat)
  | 2 => dmemLineRead a addr
  | _ => liftX (iovaRead (agentDe a.c) part addr)

/-- Where line `k` of an XFER goes. -/
def xferDest (x : XferF) (k : Nat) : XDest :=
  let d := x.daddr + 64 * k
  match x.dsp with
  | 0 => .basin d
  | 1 => .cis d
  | 2 => .dmem d
  | 3 => .dram d
  | 4 => .host d
  | _ => .remote x.dcore d

/-- One line to its destination; answers 1 where another core has still to perform it. -/
def xferWrite (a : Acc) (part commit : Nat) (d : XDest) (bs : List Byte) : EngM Nat := do
  modify (deBytes a.c 64)
  match d with
  | .basin o => basinWriteLine a (o / 64) 0 bs; pure 0
  | .cis o => let _ ← cisReq a .write (o / 4) (wordsOf bs 16); pure 0
  | .dmem o => dmemLineWrite a o bs; pure 0
  | .dram o => liftX (iovaWrite (agentDe a.c) part o bs); pure 0
  | .host o =>
    (match ownerOf (partOf (← get) part) with
    | some h => modify (emitOut (.hostWrite h o bs))
    | none => stopF .hostXfer)
    pure 0
  | .remote c o => sendRemote a commit c 0 (.write o bs); pure 1

/-- Line `k` of an XFER; `src` is its data where the source is host memory. -/
def xferLine (a : Acc) (commit : Nat) (x : XferF) (k : Nat) (src : Option (List Byte)) : EngM Nat := do
  let part := (ctxOf (coreOf (← get) a.c)).part
  match src with
  | some bs => xferWrite a part commit (xferDest x k) bs
  | none =>
    if x.ssp = 5 then
      sendRemote a commit x.score 0 (.read (x.saddr + 64 * k) (xferDest x k))
      pure 1
    else
      let bs ← xferRead a part x.ssp (x.saddr + 64 * k)
      xferWrite a part commit (xferDest x k) bs

/-- `n` lines from line `k` upward; answers how many wait for another core. -/
def xferLines (a : Acc) (commit : Nat) (x : XferF) (src : Option (List Byte)) (k0 : Nat) : Nat → Nat → EngM Nat
  | _, 0 => pure 0
  | k, n + 1 => do
    let i ← xferLine a commit x k (src.map fun b => slice b (64 * (k - k0)) 64)
    let j ← xferLines a commit x src k0 (k + 1) n
    pure (i + j)

/-- XFER at issue: all of it, but for one with host memory, which waits for its pieces (R314, R410). -/
def deXfer (a : Acc) (f : Flight) : EngM Flight := do
  deShape a
  let x := xferOf a.w
  if xferHost x && x.len != 0 then pure f
  else
    let n ← xferLines a f.d.commit x none 0 0 (x.len / 64)
    doneWork a { f with outst := f.outst + n }

/-- Units of this core that lines from `k` on of an XFER have still to read. -/
def xferMore (x : Core) (g : XferF) (k : Nat) (cis : Bool) (lo hi : Nat) : Bool :=
  let t := ctxOf x
  let o := 64 * (if cis then t.cisBase else t.basinBase) + g.saddr / 64
  g.ssp == (if cis then 1 else 0) && decide (o + k ≤ hi ∧ lo < o + g.len / 64)

/-- One 4 KiB piece of an XFER with host memory. -/
def dePiece (data : HostRead) (a : Acc) (f : Flight) : EngM Flight := do
  let x := xferOf a.w
  if (ownerOf (partOf (← get) (ctxOf (coreOf (← get) a.c)).part)).isNone then stopF .hostXfer
  let k := 64 * f.pos
  let n := min 64 (x.len / 64 - k)
  let src ← (if x.ssp = 4 then (match data with
      | .ok b => pure (some b)
      | .err => stopF .hostXfer)
    else pure none)
  let m ← xferLines a f.d.commit x src k k n
  let f := { f with pos := f.pos + 1, outst := f.outst + m }
  if x.len / 64 ≤ k + n then doneWork a f
  else
    modify (modRun a.c (releaseRead f.d.commit (xferMore (coreOf (← get) a.c) x (k + n))))
    pure f

/-! ### FILL, COPY (R181, R182) -/

def fillLines (a : Acc) (cis : Bool) (pat : List Byte) : Nat → Nat → EngM Unit
  | _, 0 => pure ()
  | u, n + 1 => do
    modify (deBytes a.c 64)
    if cis then let _ ← cisReq a .write (16 * u) (wordsOf pat 16)
    else basinWriteLine a u 0 pat
    fillLines a cis pat (u + 1) n

def deFill (a : Acc) (f : Flight) : EngM Flight := do
  deShape a
  let cis := wbits a.w 0 12 1 = 1
  let lo := leBytes 4 (wbits a.w 13 0 32)
  let hi := if cis then lo else leBytes 4 (wbits a.w 14 0 32)
  fillLines a cis ((List.replicate 8 (lo ++ hi)).flatten) (wbits a.w 11 0 17) (wbits a.w 12 0 18)
  doneWork a f

def copyStep (a : Acc) (src dst : Nat) : EngM Unit := do
  let d ← basinRead a false src
  modify (deBytes a.c 64)
  basinWriteLine a dst 0 d

def copyUp (a : Acc) (src dst : Nat) : Nat → Nat → EngM Unit
  | _, 0 => pure ()
  | k, n + 1 => do copyStep a (src + k) (dst + k); copyUp a src dst (k + 1) n

def copyDown (a : Acc) (src dst : Nat) : Nat → EngM Unit
  | 0 => pure ()
  | n + 1 => do copyStep a (src + n) (dst + n); copyDown a src dst n

/-- COPY (R182): the direction keeps the source as it stood at issue. -/
def deCopy (a : Acc) (f : Flight) : EngM Flight := do
  deShape a
  let src := wbits a.w 11 0 17
  let dst := wbits a.w 12 0 17
  let n := wbits a.w 13 0 18
  if src < dst then copyDown a src dst n else copyUp a src dst 0 n
  doneWork a f

/-! ### WLOAD (R185, R186) -/

/-- A weight load writes one line inside a window: no WEIGHT_WRITE, every other rule. -/
def wloadLine (a : Acc) (line : Nat) (bs : List Byte) : EngM Unit := do
  match relocLine (coreOf (← get) a.c) line with
  | none => stopF .taskBound
  | some l =>
    if !declared a.w false line true then stopF .regionUndeclared
    modify (modCore a.c (basinStore (l * 64) bs))
    modify (deBytes a.c 64)

/-- Lines `k` to 63 of a block from DRAM: the first one puts the block into LOADING. -/
def wloadLines (a : Acc) (part src line blk crc : Nat) : Nat → Nat → EngM (List (List Byte))
  | _, 0 => pure []
  | k, n + 1 => do
    let bs ← liftX (iovaReadBytes (agentDe a.c) part (src + 64 * k) 64)
    wloadLine a (line + k) bs
    if k = 0 then modify (modCore a.c fun x => wblkSet blk (2, crc) x)
    let rest ← wloadLines a part src line blk crc (k + 1) n
    pure (bs :: rest)

/-- One block: its CRC against the expected value (R186). -/
def wloadBlock (a : Acc) (part src crct dst i : Nat) : EngM Unit := do
  let crc ← liftX (iovaReadBytes (agentDe a.c) part (crct + 4 * i) 4)
  let blk := (ctxOf (coreOf (← get) a.c)).basinBase + dst + i
  let ls ← wloadLines a part (src + 4096 * i) (64 * (dst + i)) blk (leNat crc) 0 64
  if crc32c ls.flatten = leNat crc then modify (modCore a.c (wblkSet blk (3, leNat crc)))
  else
    modify (modCore a.c (wblkSet blk (4, leNat crc)))
    modify (regCountField (kreg a.c 0x300C) 16 16 1)
    stopF .weightCrc

def wloadBlocks (a : Acc) (part src crct dst : Nat) : Nat → Nat → EngM Unit
  | _, 0 => pure ()
  | i, n + 1 => do wloadBlock a part src crct dst i; wloadBlocks a part src crct dst (i + 1) n

/-- The blocks lie in one window of the partition (R185). -/
def wloadWindow (x : Core) (part blk n : Nat) : Bool :=
  (x.ww.toList.filterMap id).any fun w => w.part == part && decide (w.base ≤ blk) && decide (blk + n ≤ w.bound)

def deWload (a : Acc) (f : Flight) : EngM Flight := do
  deShape a
  let src := wbits a.w 11 0 32 + wbits a.w 12 0 16 * 2 ^ 32
  let n := wbits a.w 12 16 12
  let crct := wbits a.w 13 0 32 + wbits a.w 14 0 16 * 2 ^ 32
  let dst := wbits a.w 14 16 11
  let x := coreOf (← get) a.c
  let t := ctxOf x
  if t.basinBound < t.basinBase + dst + n then stopF .taskBound
  if !wloadWindow x t.part (t.basinBase + dst) n then stopF .weightWrite
  wloadBlocks a t.part src crct dst 0 n
  doneWork a f

/-! ### SELREQ, RINGSET (R275, R314) -/

/-- A BOXES item whose request ends without a result: its RESULT record waits for the end of the attempt (R384). -/
def selGone (q : SelReq) (s : State) : State :=
  if field q.blk 0 1 = 1 ∧ tagGen (jobOf s q.slot) = q.taggen then
    modJob q.slot (fun j => { j with resRec := j.resRec ++ [{ core := q.core, commit := q.commit, code := 0, ev := 0 }] }) s
  else s

/-- SELREQ: the request block goes to SEL; the read entries stay (R275); a BOXES request creates an item (R377). SEL takes no
request of a job once its abort has arrived (R280, R384). -/
def deSelreq (a : Acc) (f : Flight) : EngM Flight := do
  let ls ← basinReadLines a false (wbits a.w 11 0 17) 2
  let s ← get
  let t := ctxOf (coreOf s a.c)
  let j := jobOf s t.slot
  if field ls.flatten 0 1 == 1 then
    if j.nitem ≤ j.items then stopF .itemLimit
    set (setJob t.slot { j with items := j.items + 1 } s)
  let s ← get
  let q : SelReq := { part := t.part, slot := t.slot, taggen := t.taggen, core := a.c, commit := f.d.commit,
                      attempt := j.attempt, blk := ls.flatten, ts := replica s a.c }
  set (if j.st = .draining ∧ !j.abortTo.contains 32 then selGone q s else { s with sel := { s.sel with arr := s.sel.arr ++ [q] } })
  pure { f with selw := true }

def deRingset (a : Acc) (f : Flight) : EngM Flight := do
  deShape a
  doneWork a f

/-- The ring that a RINGSET defines, empty (R169, R314). -/
def ringDefine (c : Nat) (w : List Word) (s : State) : State :=
  let n := wbits w 12 0 8 + 1
  let g : Ring := { base := wbits w 11 0 17, slotl := wbits w 11 17 11, prod := wbits w 12 12 3, cons := wbits w 12 15 3,
                    checked := wbits w 12 18 1 = 1, full := List.replicate n false }
  setRing c (wbits w 12 8 4) g s

/-! ### PEER (R268 to R271) -/

/-- The context of a partition's job on a core, by its `TAGGEN`. -/
def ctxByTag (s : State) (c part taggen : Nat) : Option Nat :=
  (List.range 8).find? fun n =>
    let t := tctx (coreOf s c) n
    t.st != .free && t.part == part && t.taggen == taggen

/-- Changes the run of a context, the running one or a saved one. -/
def modCtxRun (c n : Nat) (f : CtxRun → CtxRun) (s : State) : State :=
  let x := coreOf s c
  if x.active = some n then modRun c f s
  else setCtx c n { tctx x n with saved := (tctx x n).saved.map f } s

/-- The lines of a ring on a core lie in the partition's Basin region there (R190, R268). -/
def ringInRegion (s : State) (part c base : Nat) (g : Ring) : Bool :=
  let r := prBasin (recOf s part) c
  decide (r.1 * 64 ≤ base + g.base) && decide (base + g.base + g.slotl * g.full.length ≤ r.2 * 64)

/-- SETUP: the channel takes the ring, which becomes empty (R268, R314). -/
def peSetup (a : Acc) (f : Flight) : EngM Flight := do
  let s ← get
  let t := ctxOf (coreOf s a.c)
  let ch := wbits a.w 11 0 3
  let tc := wbits a.w 11 3 4
  let tr := wbits a.w 11 7 4
  let rg := prBasin (recOf s t.part) tc
  if rg.2 ≤ rg.1 then stopF .remoteDeny
  match ctxByTag s tc t.part t.taggen with
  | none => stopF .deShape
  | some n =>
    match vget (ctxRunOf s tc n).rings tr none with
    | none => stopF .deShape
    | some g =>
      if g.prod ≠ 4 then stopF .deShape
      if !ringInRegion s t.part tc ((tctx (coreOf s tc) n).basinBase * 64) g then stopF .remoteDeny
      let q := ((vget (coreOf s a.c).run.fwd ch {}).setup + 1) % 16
      let g' : Ring := { g with full := g.full.map fun _ => false, wr := 0, rd := 0, feeder := some (a.c, ch, q) }
      let k := g.full.length
      modify (modCtxRun tc n fun r => { r with rings := vset r.rings tr (some g') })
      modify (modRun a.c fun r => { r with fwd := vset r.fwd ch ⟨true, tc, tr, q, k, k, g.slotl, 0⟩ })
      doneWork a f

/-- The landing writes of one slot. -/
def landings (a : Acc) (t : TaskCtx) (ts ord commit ch : Nat) (w : FwdCh) (ls : List (List Byte)) : List Landing :=
  (List.range ls.length).map fun k =>
    ⟨a.c, commit, ch, t.taggen, t.part, w.setup, w.tcore, w.tring, w.next, k, ls.getD k [], k + 1 == ls.length, ts, ord + k⟩

/-- SEND: one slot of lines leaves for the target ring and takes a credit (R269). -/
def peSend (a : Acc) (f : Flight) : EngM Flight := do
  let s ← get
  let ch := wbits a.w 11 0 3
  let w := vget (coreOf s a.c).run.fwd ch {}
  if w.credits = 0 then throw .wait
  let ls ← basinReadLines a false (wbits a.w 12 0 17) w.slotl
  let t := ctxOf (coreOf s a.c)
  modify fun s => ls.foldl (fun s _ => fabToken t.part s) s
  modify fun s => { s with fab := { s.fab with
    landing := s.fab.landing ++ landings a t (replica s a.c) s.fab.next f.d.commit ch w ls
    next := s.fab.next + ls.length } }
  modify (modRun a.c fun r => { r with
    fwd := vset r.fwd ch { w with credits := w.credits - 1, next := (w.next + 1) % w.slots } })
  doneWork a { f with outst := f.outst + ls.length }

/-- A landing write or credit of a job that has ended (R271). -/
def peerStale (c p : Nat) (s : State) : State := staleArrival p (regCount (kreg c 0x2864) 1 s)

/-- A flight of a running context, by commit number. -/
def flightOf (s : State) (c commit taggen part : Nat) : Option Flight :=
  let x := coreOf s c
  let t := ctxOf x
  if x.active.isSome && t.taggen == taggen && t.part == part then
    x.run.flight.find? fun f => f.d.commit == commit && f.failed.isNone
  else none

/-- One access of a flight has been performed by the other core. -/
def flightStep (c : Nat) (f : Flight) (s : State) : State := modRun c (putFlight { f with outst := f.outst - 1 }) s

/-- A landing write at its target (R190, R269, R271). -/
def landingWrite (l : Landing) (s : State) : State :=
  match ctxByTag s l.dst l.part l.taggen, flightOf s l.src l.commit l.taggen l.part with
  | none, _ => peerStale l.dst l.part s
  | some n, fl =>
    match vget (ctxRunOf s l.dst n).rings l.ring none with
    | none => regCount (kreg l.dst 0x2864) 1 s
    | some g =>
      if g.feeder ≠ some (l.src, l.ch, l.setup) then regCount (kreg l.dst 0x2864) 1 s
      else
        let line := (tctx (coreOf s l.dst) n).basinBase * 64 + g.base + l.slot * g.slotl + l.k
        let r := prBasin (recOf s l.part) l.dst
        let bad : Option FaultCode :=
          if line < r.1 * 64 ∨ r.2 * 64 ≤ line then some .remoteDeny
          else if (winOf (coreOf s l.dst) (line / 64)).isSome then some .weightWrite else none
        match bad, fl with
        | some e, some f => failFlight l.src f e 0 s
        | some _, none => s
        | none, fl =>
          let s := deBytes l.src 64 (modCore l.dst (basinStore (line * 64) l.line) s)
          let s := if l.last then
              modCtxRun l.dst n (fun q => { q with rings := vset q.rings l.ring (some { g with full := g.full.set l.slot true }) }) s
            else s
          match fl with
          | some f => flightStep l.src f s
          | none => s

/-- A fabric message older than 1 ms is dropped at its next hop, island `isl` (R57). -/
def fabLost (s : State) (isl ts : Nat) : Bool := decide (ts + 1000000 < replica s isl)

/-- An access to the Basin of its target. -/
def remBasin (r : RemReq) : Bool := match r.op with
  | .acc .. => false
  | _ => true

/-- The oldest landing write that no earlier access of its core to the same Basin precedes (R191): what comes before it in
the queue, itself, what comes after. -/
def landNext (s : State) : List Landing → List Landing → Option (List Landing × Landing × List Landing)
  | _, [] => none
  | pre, l :: rest =>
    if (pre.any fun m => m.src == l.src && m.dst == l.dst)
        || (s.fab.remote.any fun r => remBasin r && r.src == l.src && r.dst == l.dst && decide (r.ord < l.ord))
    then landNext s (pre ++ [l]) rest else some (pre, l, rest)

/-- PEER_LANDING_WRITE (R191, R269, R271): the oldest landing write arrives. -/
def execPeerLandingWrite (s : State) : Host.Outcome State Fault Refusal :=
  .next (match landNext s [] s.fab.landing with
    | none => s
    | some (pre, l, rest) =>
      let s' := { s with fab := { s.fab with landing := pre ++ rest } }
      if !isReady s then s else if fabLost s l.dst l.ts then s' else landingWrite l s')

/-- A credit at its sender (R270, R271). -/
def creditTake (k : Credit) (s : State) : State :=
  match ctxByTag s k.dst k.part k.taggen with
  | none => peerStale k.dst k.part s
  | some n =>
    let w := vget (ctxRunOf s k.dst n).fwd k.ch {}
    if w.valid && w.setup == k.setup then
      modCtxRun k.dst n (fun r => { r with fwd := vset r.fwd k.ch { w with credits := min w.slots (w.credits + 1) } }) s
    else regCount (kreg k.dst 0x2864) 1 s

/-- CREDIT_RETURN (R270, R271): the oldest credit arrives. -/
def execCreditReturn (s : State) : Host.Outcome State Fault Refusal :=
  .next (match s.fab.credit with
    | [] => s
    | k :: rest =>
      let s' := { s with fab := { s.fab with credit := rest } }
      if !isReady s then s else if fabLost s k.dst k.ts then s' else creditTake k s')

/-! ### Remote accesses at their target (R190, R191) -/

/-- Physical line of a remote Basin offset, within the partition's region on the core. -/
def remLine (s : State) (part c off : Nat) : Option Nat :=
  let r := prBasin (recOf s part) c
  if r.1 < r.2 ∧ r.1 * 4096 + off + 64 ≤ r.2 * 4096 then some (r.1 * 64 + off / 64) else none

/-- A remote access performed; answers how many of its flight's accesses remain with another core because of it. -/
def remWork (r : RemReq) (a : Acc) : EngM Nat := do
  let s ← get
  match r.op with
  | .read off d =>
    (match remLine s r.part r.dst off with
    | none => stopF .remoteDeny
    | some l => do
      let bs ← basinPhysRead r.dst l
      xferWrite a r.part r.commit d bs)
  | .write off bs =>
    match remLine s r.part r.dst off with
    | none => stopF .remoteDeny
    | some l =>
      if (winOf (coreOf s r.dst) (l / 64)).isSome then stopF .weightWrite
      modify (modCore r.dst (basinStore (l * 64) bs))
      pure 0
  | .acc off fp vals =>
    let rg := prCis (recOf s r.part) r.dst
    if rg.2 ≤ rg.1 ∨ rg.2 * 1024 < rg.1 * 1024 + off + vals.length then stopF .remoteDeny
    let _ ← cisPhys r.dst (.acc fp) ((List.range vals.length).map fun i => (rg.1 * 1024 + off + i, vals.getD i 0))
    pure 0

/-- No job of the partition has this `TAGGEN` any more (R369). -/
def jobGone (s : State) (p taggen : Nat) : Bool := !(liveJobs s p).any fun e => tagGen e.2 == taggen

/-- One remote access; `none` where it has to wait at a ring. One of a job that is gone is STALE (R369). -/
def remOne (r : RemReq) (s : State) : Option State :=
  match flightOf s r.src r.commit r.taggen r.part with
  | none => some (if jobGone s r.part r.taggen then staleArrival r.part s else s)
  | some f =>
    let x := engRun (remWork r ⟨r.src, r.eng, f.d.w⟩) s
    match x.1 with
    | .ok n => some (modRun r.src (putFlight { f with outst := f.outst - 1 + n }) x.2)
    | .error (.fault code idx) => some (failFlight r.src f code (if f.eng = 2 then r.idx else idx) x.2)
    | .error .wait => none

/-- The oldest access that can be performed; accesses of one core to the Basin or the Cistern of another keep their order
(R191). -/
def remTry (s : State) : List RemReq → List RemReq → List (Nat × Nat × Bool) → State
  | _, [], _ => s
  | pre, r :: rest, held =>
    if held.contains (r.src, r.dst, remBasin r)
        || (remBasin r && s.fab.landing.any fun l => l.src == r.src && l.dst == r.dst && decide (l.ord < r.ord))
    then remTry s (pre ++ [r]) rest held
    else if fabLost s r.dst r.ts then { s with fab := { s.fab with remote := pre ++ rest } }
    else match remOne r { s with fab := { s.fab with remote := pre ++ rest } } with
      | some t => t
      | none => remTry s (pre ++ [r]) rest ((r.src, r.dst, remBasin r) :: held)

/-- REMOTE_ACCESS (R190, R191). -/
def execRemoteAccess (s : State) : Host.Outcome State Fault Refusal :=
  .next (if isReady s then remTry s [] s.fab.remote [] else s)

/-! ### The commands of DE and PEER -/

/-- NOP (R306). -/
def execNop (core : Fin 16) (eng : Fin 5) (s : State) : Host.Outcome State Fault Refusal :=
  .next (issue core.val eng.val 0 nopWork s)

/-- XFER (R314). -/
def execXfer (core : Fin 16) (s : State) : Host.Outcome State Fault Refusal := .next (issue core.val 3 0x60 deXfer s)

/-- The XFER of a core that waits for its next piece. -/
def hostFlight (x : Core) : Option Flight :=
  x.run.flight.find? fun f => f.eng == 3 && wbits f.d.w 0 0 8 == 0x60 && f.failed.isNone && !f.done && xferHost (xferOf f.d.w)

/-- Partitions with an XFER that waits for its next piece. -/
def pieceWaits (s : State) (p : Nat) : Bool :=
  s.kc.toList.any fun x => let t := ctxOf x
    (hostFlight x).isSome && t.part == p && (t.st == .running || t.st == .draining) && x.stop.isNone

/-- XFER_HOST_PIECE (R314, R410): the next piece, in a slot that admits the partition; `data` is what a read of host memory
returned. -/
def execXferHostPiece (core : Fin 16) (data : HostRead) (s : State) : Host.Outcome State Fault Refusal :=
  .next (
    let x := coreOf s core.val
    let t := ctxOf x
    match hostFlight x with
    | some f =>
      if isReady s && (t.st == .running || t.st == .draining) && x.stop.isNone && codeAdmits (slotCode s 0x22) t.part
          && openTurn s 2 t.part (pieceWaits s)
      then runWork core.val f (dePiece data) (openServe 2 t.part s) else s
    | none => s)

/-- FILL (R181). -/
def execFill (core : Fin 16) (s : State) : Host.Outcome State Fault Refusal := .next (issue core.val 3 0x61 deFill s)

/-- COPY (R182). -/
def execCopy (core : Fin 16) (s : State) : Host.Outcome State Fault Refusal := .next (issue core.val 3 0x62 deCopy s)

/-- WLOAD (R185). -/
def execWload (core : Fin 16) (s : State) : Host.Outcome State Fault Refusal := .next (issue core.val 3 0x63 deWload s)

/-- SELREQ (R275). -/
def execSelreq (core : Fin 16) (s : State) : Host.Outcome State Fault Refusal := .next (issue core.val 3 0x64 deSelreq s)

/-- RINGSET (R314). -/
def execRingset (core : Fin 16) (s : State) : Host.Outcome State Fault Refusal := .next (issue core.val 3 0x65 deRingset s)

/-- SETUP (R268). -/
def execSetup (core : Fin 16) (s : State) : Host.Outcome State Fault Refusal := .next (issue core.val 4 0x80 peSetup s)

/-- SEND (R269). -/
def execSend (core : Fin 16) (s : State) : Host.Outcome State Fault Refusal := .next (issue core.val 4 0x81 peSend s)

/-! ### Retirement (R158) -/

/-- The work of an operation, for a descriptor whose work has waited. -/
def workOf (opc : Nat) : Acc → Flight → EngM Flight :=
  match opc with
  | 0x01 | 0x02 => mePassLoad
  | 0x20 => veRun
  | 0x21 => veRescale
  | 0x40 => geHashBuild
  | 0x41 => geOutsites
  | 0x42 => geKmap
  | 0x43 => geSort
  | 0x44 => geGather
  | 0x45 => geScatter
  | 0x46 => geMask
  | 0x60 => deXfer
  | 0x61 => deFill
  | 0x62 => deCopy
  | 0x63 => deWload
  | 0x64 => deSelreq
  | 0x65 => deRingset
  | 0x80 => peSetup
  | 0x81 => peSend
  | _ => nopWork

/-- The descriptor's work has waited at a ring and may go on; a stop request lets only what has not reached its stopping point
go on (R424). -/
def resumes (x : Core) (f : Flight) : Bool :=
  f.failed.isNone && !f.done && !f.selw && !f.loading && (x.stop.isNone || !atStop f || wbits f.d.w 0 0 8 == 0x64)

/-- One more try of an engine's waiting work. -/
def engineResume (c eng : Nat) (s : State) : State :=
  match (coreOf s c).run.flight.find? fun f => f.eng == eng && resumes (coreOf s c) f with
  | some f => runWork c f (workOf (wbits f.d.w 0 0 8)) s
  | none => s

/-- The engine's oldest descriptor with every access made and visible. -/
def retirable (x : Core) (eng : Nat) : Option Flight :=
  x.run.flight.find? fun f => f.eng == eng && f.done && f.outst == 0 && f.failed.isNone

/-- DESCRIPTOR_RETIRE (R158), once its item's message can follow its stamp (R52). -/
def execDescriptorRetire (core : Fin 16) (eng : Fin 5) (s : State) : Host.Outcome State Fault Refusal :=
  .next (
    let c := core.val
    let t := ctxOf (coreOf s c)
    let saving := match (coreOf s c).stop with
      | some r => r.saving
      | none => false
    if isReady s && (t.st == .running || t.st == .draining) && !saving && crossed s islHst (stampOf s c 0) then
      let s := engineResume c eng.val s
      match retirable (coreOf s c) eng.val with
      | some f =>
        let s := retire c f s
        let s := if wbits f.d.w 0 0 8 = 0x65 then ringDefine c f.d.w s else s
        drainCheck t.slot c f.d.commit s
      | none => s
    else s)

/-! ### The watchdog (R435, R436) -/

/-- A SEL request of the job is queued or runs. -/
def selPending (s : State) (slot taggen : Nat) : Bool :=
  s.sel.queue.toList.any (·.any (selMine slot taggen)) || (match s.sel.done with
    | some r => selMine slot taggen r.req
    | none => false)

/-- A job has pending work. -/
def pendingWork (s : State) (slot : Nat) (j : Job) : Bool :=
  (j.cores.any fun e =>
    let r := ctxRunOf s e.1 e.2
    !runEmpty r || r.cc.st == .qcommit || r.cc.st == .swait) || selPending s slot (tagGen j)

/-- An engine of the job waits for a slot of R409 or for result space. -/
def slotWaits (s : State) (slot : Nat) (j : Job) : Bool :=
  (j.cores.any fun e => (hostFlight (coreOf s e.1)).isSome && !codeAdmits (slotCode s 0x22) j.part)
    || (vget s.sel.queue j.part []).any fun q => q.slot == slot && (q.waits.isSome || !codeAdmits (slotCode s 0x21) j.part)

/-- The count of a job rises: pending work, every context of it RUNNING and not halted, nothing that holds the count
(notes/assumptions/32 for halted cores). -/
def wdCounts (s : State) (slot : Nat) (j : Job) : Bool :=
  j.st == .running && pendingWork s slot j
    && (j.cores.all fun e => (coreOf s e.1).active == some e.2 && (coreOf s e.1).run.cc.halt.isNone) && !slotWaits s slot j

/-- The count in whole cycles (FAB), at most 65,536. -/
def wdCycles (j : Job) : Nat := min (j.wd / 5) 65536

/-- `PRT_WD_PEAK` (R438). -/
def wdPeak (p n : Nat) (s : State) : State :=
  if (regGet s (prtKey p 0x218)).toNat < n then regPut (prtKey p 0x218) (BitVec.ofNat 32 n) s else s

/-- One SAF cycle of a job's watchdog: 4 ns are 24 fifths of a cycle (FAB) at 1.2 GHz. -/
def wdTick (s : State) (e : Nat × Job) : State :=
  if wdCounts s e.1 e.2 then
    let j := { e.2 with wd := min (e.2.wd + 24) (65536 * 5) }
    wdPeak j.part (wdCycles j) (setJob e.1 j s)
  else s

/-- One SAF cycle in which nothing is commanded: device time (R44), then the watchdogs (R435). -/
def cycle (s : State) : State :=
  let t := tick s
  if s.saf.tapHold || !isReady s then t else t.hst.jobs.foldl wdTick t

/-- WATCHDOG_EXPIRY (R435, R436): the count has reached 65,536. -/
def execWatchdogExpiry (slot : Fin 512) (s : State) : Host.Outcome State Fault Refusal :=
  .next (
    let j := jobOf s slot.val
    let p := j.part
    if isReady s && j.st == .running && wdCycles j == 65536 then
      let s := setJob slot.val { j with wd := 0 } s
      let s := regCount (prtKey p 0x214) 1 s
      raise ⟨.deadlock, 16, 0, some ⟨slot.val, tagGen j⟩, some p, none, none, 7, [], 1, false⟩ s
    else s)

end Sys2Proof.Machine
end

