-- ==== Sys2Proof/Machine/Od.lean ====
section
/-! DEFINITION. Transfers of the object dictionary (R389, R391, R449, R460, R475, R493 to R499, R507). -/

namespace Sys2Proof.Machine

/-! ### Rights (R389, R449, R490, R497) -/

/-- Entries written over CAN FD only: `WRITERS`, `LOCK`, `SAFE_ACK`, `LATCH_CLR`. -/
def odCanOnly (idx sub : Nat) : Bool :=
  (idx == 0x2100 && (sub == 1 || sub == 2)) || (idx == 0x4000 && (sub == 4 || sub == 5))

/-- Reason 1 or 2 of R391, for a write of any entry of the partition table; 0 for none. -/
def odTableRight (s : State) (req idx sub : Nat) : Nat :=
  if idx ≠ 0x2100 then 0
  else if partReason1 s req sub then 1
  else if 0x10 ≤ sub ∧ sub < 0x18 ∧ partReason2 s req (sub - 0x10) then 2
  else 0

/-- The requester lacks the right to write. -/
def odNoRight (s : State) (req idx sub : Nat) : Bool :=
  req == 6 || (odCanOnly idx sub && decide (2 ≤ req)) || odTableRight s req idx sub != 0

/-! ### Checks and effects of a write -/

/-- The device refuses writes as a whole (R497, R460). -/
def odDeviceRefuses (s : State) (idx sub : Nat) : Bool :=
  let clear : Bool := idx == 0x4000 && sub == 5
  held s || (s.saf.latch && !clear) || (!s.saf.everReady && !(s.saf.latch && clear))

/-- The reason of R391 for a record or `STREAM`; 0 for another entry. -/
def odTableReason (s : State) (req idx sub : Nat) (v : List Byte) : Nat :=
  if idx ≠ 0x2100 then 0
  else if 0x10 ≤ sub ∧ sub < 0x18 then partReason s req (sub - 0x10) v
  else if sub = 4 then streamReason s req v
  else 0

/-- What the entry's own rule refuses: 0, or the SDO abort code. -/
def odRuleRefuses (s : State) (req idx sub : Nat) (v : List Byte) : Nat :=
  let n := leNat v
  if idx = 0x2100 then
    match sub with
    | 1 => okIf (decide (n ≤ 0x1F)) eRange
    | 2 => okIf (decide (n ≤ 1)) eRange
    | 5 => if 8 ≤ n then eRange else okIf (partOf s n).reset.isNone eState
    | _ => reasonCode (odTableReason s req idx sub v)
  else if idx = 0x4000 ∧ sub = 5 then orElse (okIf s.saf.latch eState) (okIf (n == 0x524C4352) eRange)
  else if 0x2300 ≤ idx ∧ idx ≤ 0x237F ∧ sub = 1 then okIf (decide (n ≤ 1)) eRange
  else odOwn s idx sub v

/-- LATCH_CLEAR is journaled, the latch and its reason go, and the device resets as `SYSRST_N` does (R460). -/
def latchClearWrite (s : State) : State :=
  let s := journal 23 1 0x0D04 s.tb.master (noJobTag none) 0x70FFFFFFFF 0 0 s
  let s := clearReason 14 0x0D04 s.tb.master { s with saf := { s.saf with latch := false } }
  warmReset (rstCause 4 s) s

/-- A checked write takes effect: the abort code of a late refusal (R70, R103), and the state. -/
def odApply (req idx sub : Nat) (v : List Byte) (s : State) : Nat × State :=
  let n := leNat v
  if idx = 0x2100 then
    if 0x10 ≤ sub ∧ sub < 0x18 then (0, recordApply (sub - 0x10) v s)
    else if sub = 4 then (0, streamApply v s)
    else if sub = 5 then (0, partReset n s)
    else (0, odPut idx sub v s)
  else if idx = 0x4000 ∧ sub = 4 then (0, safeAckWrite n s)
  else if idx = 0x4000 ∧ sub = 5 then (0, latchClearWrite s)
  else if 0x2300 ≤ idx ∧ idx ≤ 0x237F ∧ sub = 1 then
    if n = 1 then contextOn (idx - 0x2300) s else (0, contextOff (idx - 0x2300) s)
  else (0, odEffect req idx sub v s)

/-- `REJ` of the requester (R389, R391). -/
def setRej (req reason : Nat) (s : State) : State :=
  if reason = 0 then s else { s with node := { s.node with rej := vset s.node.rej req reason } }

/-- One write: the first code of R497 that applies, or its effect; whole or not at all (R495). -/
def odWriteRun (req idx sub : Nat) (v : List Byte) (s : State) : Nat × List Byte × State :=
  if odRows idx = [] then (0x06020000, [], s)
  else match odRow idx sub with
  | none => (0x06090011, [], s)
  | some row =>
    if odNoRight s req idx sub then (eRight, [], setRej req (odTableRight s req idx sub) s)
    else if row.acc = .ro ∨ row.acc = .const then (0x06010002, [], s)
    else if v.length ≠ row.len then (0x06070010, [], s)
    else if odDeviceRefuses s idx sub then (eState, [], s)
    else
      let k := odRuleRefuses s req idx sub v
      if k ≠ 0 then (k, [], setRej req (odTableReason s req idx sub v) s)
      else
        let a := odApply req idx sub v s
        (a.1, [], a.2)

/-- One read: the first code of R497 that applies, or the whole value. -/
def odReadRun (req idx sub : Nat) (s : State) : Nat × List Byte × State :=
  if odRows idx = [] then (0x06020000, [], s)
  else match odRow idx sub with
  | none => (0x06090011, [], s)
  | some row => if row.acc = .wo then (0x06010001, [], s) else (0, odValue s req idx sub, s)

/-- A write as MGT serves it. -/
def odWriteCmd (r : OdReq) (idx sub : Nat) (v : List Byte) (s : State) : State :=
  odServe r true idx sub v (odWriteRun (odReqNo r) idx sub v) s

/-- OD_READ (R495, R497). -/
def execOdRead (r : OdReq) (idx sub : Nat) (s : State) : Host.Outcome State Fault Refusal :=
  .next (odServe r false idx sub [] (odReadRun (odReqNo r) idx sub) s)

/-- OD_WRITE (R495, R497). -/
def execOdWrite (r : OdReq) (idx sub : Nat) (data : List Byte) (s : State) : Host.Outcome State Fault Refusal :=
  .next (odWriteCmd r idx sub data s)

/-- CONTEXT_ENABLE (R70, R103). -/
def execContextEnable (r : OdReq) (ctx : Fin 128) (s : State) : Host.Outcome State Fault Refusal :=
  .next (odWriteCmd r (0x2300 + ctx.val) 1 [1] s)

/-- CONTEXT_DISABLE (R70). -/
def execContextDisable (r : OdReq) (ctx : Fin 128) (s : State) : Host.Outcome State Fault Refusal :=
  .next (odWriteCmd r (0x2300 + ctx.val) 1 [0] s)

/-- PARTITION_RECORD_WRITE (R391 to R393): a record at 0x10 to 0x17, or `STREAM`. -/
def execPartitionRecordWrite (r : OdReq) (sub : Nat) (data : List Byte) (s : State) : Host.Outcome State Fault Refusal :=
  .next (odWriteCmd r 0x2100 sub data s)

/-- PARTITION_RESET (R389, R395). -/
def execPartitionReset (r : OdReq) (v : Nat) (s : State) : Host.Outcome State Fault Refusal :=
  .next (odWriteCmd r 0x2100 5 (leBytes 1 v) s)

/-- SAFE_ACK (R448, R449). -/
def execSafeAck (r : OdReq) (v : Nat) (s : State) : Host.Outcome State Fault Refusal :=
  .next (odWriteCmd r 0x4000 4 (leBytes 1 v) s)

/-- LATCH_CLEAR (R460). -/
def execLatchClear (r : OdReq) (v : Nat) (s : State) : Host.Outcome State Fault Refusal :=
  .next (odWriteCmd r 0x4000 5 (leBytes 4 v) s)

/-- IMAGO_TRIGGER (R475, R476). -/
def execImagoTrigger (r : OdReq) (v : Nat) (s : State) : Host.Outcome State Fault Refusal :=
  .next (odWriteCmd r 0x4200 4 (leBytes 1 v) s)

/-- IMAGO_REARM (R475, R477). -/
def execImagoRearm (r : OdReq) (v : Nat) (s : State) : Host.Outcome State Fault Refusal :=
  .next (odWriteCmd r 0x4200 5 (leBytes 1 v) s)

/-- ERROR_HISTORY_CLEAR (R499). -/
def execErrorHistoryClear (r : OdReq) (v : Nat) (s : State) : Host.Outcome State Fault Refusal :=
  .next (odWriteCmd r 0x1003 0 (leBytes 1 v) s)

/-! ### Conflict-counter summaries (R507) -/

/-- The four sums of a core's conflict counters, first register and how many. -/
def confSums : List (Nat × Nat) := [(0x3100, 32), (0x3180, 11), (0x3200, 16), (0x3240, 6)]

/-- One sum, read without clearing. -/
def confSum (s : State) (c : Nat) (g : Nat × Nat) : Nat :=
  ((List.range g.2).map fun i => (regGet s (kreg c (g.1 + 4 * i))).toNat).sum

/-- The increase of a sum since the last sample; where a read cleared counters in between, what stands. -/
def confRise (last now : Nat) : Nat := min (if last ≤ now then now - last else now) 0xFFFFFFFF

/-- Sampling one core. -/
def confCore (s : State) (c : Nat) : State :=
  let now := confSums.map (confSum s c)
  let last := (List.range 4).map fun k => smGet (fun _ => 0) s.node.confLast (4 * c + k)
  let val := (List.zipWith confRise last now).flatMap (leBytes 4)
  let kept := (List.range 4).foldl (fun m k => smSet (fun _ => 0) m (4 * c + k) (now.getD k 0)) s.node.confLast
  odPut 0x5100 (1 + c) val { s with node := { s.node with confLast := kept } }

/-- CONFLICT_SUMMARY_WINDOW (R507): at a whole 100 ms of device time. -/
def execConflictSummaryWindow (s : State) : Host.Outcome State Fault Refusal :=
  .next (
    let n := s.tb.master / 100000000
    if mgtRuns s && decide (odNat s 0x5100 0x11 / 100000000 < n) then
      odPut 0x5100 0x11 (leBytes 8 (n * 100000000)) ((List.range 16).foldl confCore s)
    else s)

end Sys2Proof.Machine
end

