-- ==== Sys2Proof/Machine/RegViewMgmt.lean ====
section
/-! DEFINITION. What the registers of GLB, SAF, JNL, FIO, CLK, PWR, DBG, IMG and the OD mailbox hold (R40, R61, R461,
R480, R481, R491, R525, R548, R562), by offset in their block; `none` where no register stands. A WO register reads 0. -/

namespace Sys2Proof.Machine

/-- A register word. -/
def lo32 (x : Nat) : Nat := x % 2 ^ 32
def hi32 (x : Nat) : Nat := x / 2 ^ 32 % 2 ^ 32

/-- A stored register. -/
def rg (s : State) (k : Nat) : Nat := (regGet s k).toNat

/-- A truth value of each of `n` things as bits. -/
def bitsOf (n : Nat) (f : Nat → Bool) : Nat := ((List.range n).map fun i => bitAt (f i) i).sum

/-! ### GLB (R40) -/

def glbView (s : State) (r : Requester) (off : Nat) : Option Nat :=
  match off with
  | 0x00 => some (0x4816 * 65536 + s.fuses.step % 256 * 256 + 1)
  | 0x04 => some (bitAt s.fuses.aq2m 18 + s.boot.memcap % 4 * 65536 + s.boot.corePresent.toNat)
  | 0x08 => some (lo32 (widthsNat s))
  | 0x0C => some (hi32 (widthsNat s))
  | 0x10 => some (lo32 (replica s 21))
  | 0x14 => some (hi32 (replica s 21))
  | 0x18 => some (bitAt (s.saf.why != 0) 8 + devCode s)
  | 0x1C => some (reqCode r)
  | 0x20 => some (rg s (rkey (1 + reqCode r) 0x20))
  | 0x24 => some (rg s (rkey (1 + reqCode r) 0x24))
  | _ => none

/-! ### TB (R61) -/

/-- The last measured offset as it is shown, saturating (R61). -/
def tbOffset (s : State) : Nat := unsigned 32 (max (-(2147483647 : Int)) (min 2147483647 s.tb.offset))

def tbView (s : State) (off : Nat) : Option Nat :=
  match off with
  | 0x00 => some (tbPort s % 8 * 256 + tbSrc s % 4 * 4 + tbModeCode s.tb.mode)
  | 0x04 => some (tbOffset s)
  | 0x08 => some (unsigned 16 s.tb.trim)
  | 0x10 => some (lo32 s.tb.master)
  | 0x14 => some (hi32 s.tb.master)
  | 0x18 => some s.tb.skewFlt.toNat
  | 0x1C => some (lo32 s.tb.steps)
  | 0x20 => some s.tb.skewState.toNat
  | _ => none

/-! ### SAF (R461) -/

def armedCount (s : State) : Nat := (s.saf.mon.filter fun e => e.2.isSome).length

/-- Earliest deadline among the armed entries; all ones where none. -/
def nextDeadline (s : State) : Nat :=
  s.saf.mon.foldl (fun m e => match e.2.bind (·.deadline) with
    | some d => min m d
    | none => m) (2 ^ 64 - 1)

def safView (s : State) (off : Nat) : Option Nat :=
  match off with
  | 0x1000 => some (bitAt s.saf.latch 31 + bitAt (s.saf.why != 0 || s.saf.latch) 30 + bitAt s.saf.mgtDown 29
      + bitAt (s.saf.why == 0 && !s.saf.latch) 26 + bitAt s.saf.rbB 25 + bitAt s.saf.rbA 24 + armedCount s % 1024)
  | 0x1004 => some s.saf.why.toNat
  | 0x1008 => some (rg s (rkey 0 0x0401008))
  | 0x100C => some (rg s (rkey 0 0x040100C))
  | 0x1010 => some (lo32 (nextDeadline s))
  | 0x1014 => some (hi32 (nextDeadline s))
  | 0x1018 => some (min s.saf.slack (2 ^ 32 - 1))
  | 0x101C => some (lo32 s.saf.stsStatus)
  | 0x1020 => some (lo32 s.saf.stsFail.toNat)
  | 0x1024 => some (hi32 s.saf.stsFail.toNat)
  | 0x1028 => some (bitAt s.saf.seqAgree 2 + bitAt s.saf.seqShadow 1 + bitAt s.saf.seqPrimary 0)
  | 0x102C => some (lo32 s.saf.seqCnt)
  | _ => none

/-! ### JNL (R480) -/

def jnlView (s : State) (off : Nat) : Option Nat :=
  match off with
  | 0x2000 => some (bitAt s.jr.ringFail 31 + bitAt s.jr.nvFail 30 + nvState s * 2 ^ 28 + bitAt s.jr.active1 27
      + s.jr.nvPend.length % 128)
  | 0x2004 => some (lo32 s.jr.jseq)
  | 0x2008 => some (rg s (rkey 0 0x0402008))
  | 0x200C => some (rg s (rkey 0 0x040200C))
  | 0x2010 => some (lo32 ((activeBank s).gen.getD 0))
  | 0x2014 => some ((activeBank s).used % 2048 + (match s.jr.compact with
      | some k => k.copied % 2048 * 65536
      | none => 0))
  | 0x2018 => some (rg s (rkey 0 0x0402018))
  | 0x201C => some (s.jr.torn % 4096)
  | 0x2080 => some (lastwDis s)
  | _ => if 0x2040 ≤ off ∧ off < 0x2080 ∧ off % 4 = 0 then some (lastwWord s ((off - 0x2040) / 4)).toNat else none

/-! ### FIO (R525) -/

/-- `FIO_SINn_STATE`. -/
def sinView (s : State) (n : Nat) : Nat :=
  let x := vget s.fio.sin n {}
  min x.cnt 100001 * 2 ^ 15 + bitAt (sinAntiv s n) 8 + bitAt (sinEn s n) 7 + bitAt x.disc 6 + bitAt x.armed 5
    + bitAt x.active 4 + bitAt x.bAct 3 + bitAt x.aAct 2 + bitAt x.bPin 1 + bitAt x.aPin 0

/-- `FIO_TRIGm_STATE`. -/
def trigView (s : State) (m : Nat) : Nat :=
  let t := vget s.fio.trig m {}
  bitAt t.rbFail 4 + bitAt t.rb 3 + bitAt t.drive 2 + bitAt (trigEn s m && !trigHeld s m) 1 + bitAt (trigEn s m) 0

def fioView (s : State) (off : Nat) : Option Nat :=
  let f := s.fio
  if off = 0x3000 then
    some (bitAt f.supply 31 + bitAt (faultN s) 30 + bitAt f.ppsRb 29 + bitAt f.imagoIn 28 + bitAt f.ppsIn 27
      + bitsOf 8 (fun m => (vget f.trig m {}).rb) * 65536 + bitsOf 4 (fun n => (vget f.sin n {}).disc) * 256
      + bitsOf 4 fun n => (vget f.sin n {}).active)
  else if 0x3010 ≤ off ∧ off < 0x3050 then
    let n := (off - 0x3010) / 16
    match off % 16 with
    | 0 => some (sinView s n)
    | 4 => some (rg s (rkey 0 (0x0403014 + 0x10 * n)))
    | 8 => some (lo32 (vget f.sin n {}).changed)
    | 12 => some (hi32 (vget f.sin n {}).changed)
    | _ => none
  else if 0x3080 ≤ off ∧ off < 0x30C0 then
    let m := (off - 0x3080) / 8
    match off % 8 with
    | 0 => some (trigView s m)
    | 4 => some (lo32 (vget f.trig m {}).pulses)
    | _ => none
  else match off with
    | 0x30C0 => some (lo32 f.ppsInTs)
    | 0x30C4 => some (hi32 f.ppsInTs)
    | 0x30C8 => some (rg s (rkey 0 0x04030C8))
    | 0x30CC => some (rg s (rkey 0 0x04030CC))
    | _ => none

/-! ### CLK and PWR (R529, R548) -/

/-- A core that is gated (R529). -/
def coreGated (s : State) (c : Nat) : Bool :=
  (coreOf s c).ctx.toList.all (fun t => t.st == .free) && s.fab.remote.all fun q => q.dst != c

def clkRun (s : State) : Nat := bitsOf 24 fun i => s.clk.run.getLsbD i && !(decide (i < 16) && coreGated s i)

def pwrView (s : State) (off : Nat) : Option Nat :=
  match off with
  | 0x8000 => some (clkRun s)
  | 0x8004 => some s.clk.fail.toNat
  | 0x8008 => some (s.clk.osc % 512)
  | 0x9000 => some (s.clk.slope % 256 * 65536 + s.clk.level.toList.sum % 512)
  | 0x9004 => some s.clk.railsOk.toNat
  | 0x9008 => some (rg s (rkey 0 0x0409008))
  | 0x900C => some (s.boot.svn % 65536 * 65536 + s.boot.fail % 256 * 256 + s.boot.tried % 4 * 64 + s.boot.slot % 4 * 16
      + s.boot.stage % 8)
  | 0x9010 => some (s.boot.cause % 32)
  | _ =>
    if 0x8010 ≤ off ∧ off < 0x8020 ∧ off % 4 = 0 then
      some (leNat ((List.range 4).map fun j => BitVec.ofNat 8 (vget s.clk.k (off - 0x8010 + j) 16)))
    else none

/-! ### DBG (R562) -/

/-- The halt of the running context of a core. -/
def haltNow (s : State) (c : Nat) : Option (Nat × Bool) :=
  if (coreOf s c).active.isSome then (coreOf s c).run.cc.halt else none

def dbgRegs (s : State) (off : Nat) : Option Nat :=
  let c := s.dbg.core
  match off with
  | 0xA000 => some (s.fuses.dbgMode % 4 * 2 ^ 30 + bitAt s.dbg.en 29 + bitAt s.dbg.authFail 28
      + bitsOf 16 fun c => (haltNow s c).isSome)
  | 0xA004 => some (s.dbg.pmask.toNat * 256 + bitAt s.dbg.en 0)
  | 0xA008 => some (bitsOf 16 fun c => (haltOf s c).pending)
  | 0xA00C => some 0
  | 0xA010 => some (c % 16)
  | 0xA014 => some (match haltNow s c with
      | some (k, f) => k % 8 + bitAt f 3
      | none => 0)
  | 0xA018 => some (if (coreOf s c).active.isSome then lo32 (coreOf s c).run.cc.leader.pc else 0)
  | 0xA01C => some (s.dbg.gpr % 32)
  | 0xA020 => some (if (haltNow s c).isSome then (vget (coreOf s c).run.cc.leader.x s.dbg.gpr 0).toNat else 0)
  | 0xA024 => some (lo32 (haltOf s c).brkCnt)
  | 0xA028 => some ((haltOf s c).brkMode % 4)
  | 0xA02C => some (lo32 s.dbg.brkTag)
  | 0xA060 => some (s.fuses.svn % 65536)
  | _ =>
    if 0xA040 ≤ off ∧ off < 0xA060 ∧ off % 4 = 0 then some (nonceWord s ((off - 0xA040) / 4))
    else if 0xA100 ≤ off ∧ off < 0xA200 ∧ off % 4 = 0 then some 0
    else none

/-! ### The SAF block as a whole -/

/-- The NV windows and the ring window (R465, R468). -/
def jnlWindow (s : State) (off : Nat) : Option Nat :=
  if off % 4 ≠ 0 then none
  else if 0x80000 ≤ off ∧ off < 0x100000 then some (field (ringSlot s ((off - 0x80000) / 64)) (off % 64) 4)
  else if 0x40000 ≤ off ∧ off < 0x80000 then
    some (field (nvWindow s (decide (0x60000 ≤ off)) (off % 0x20000 / 64)) (off % 64) 4)
  else none

def safBlock (s : State) (off : Nat) : Option Nat :=
  if off < 0x1000 then tbView s off
  else if off < 0x2000 then safView s off
  else if off < 0x3000 then jnlView s off
  else if off < 0x4000 then fioView s off
  else if off < 0xA000 then pwrView s off
  else if off < 0xA200 then dbgRegs s off
  else jnlWindow s off

/-- RC registers of the SAF block. -/
def safRc (off : Nat) : Bool :=
  [0x18, 0x1008, 0x100C, 0x1018, 0x2008, 0x2018, 0x3014, 0x3024, 0x3034, 0x3044, 0x30C8, 0x30CC, 0x8004, 0x9008].contains off

/-- `_LO` registers of its pairs. -/
def safPair (off : Nat) : Bool :=
  [0x10, 0x1010, 0x1020, 0x3018, 0x3028, 0x3038, 0x3048, 0x30C0].contains off

/-! ### IMG (R479, R481) -/

/-- Page a requester has selected. -/
def imgPage (s : State) (r : Requester) : Nat := rg s (rkey (1 + reqCode r) 0x0500010) % 8

/-- The 64-byte header of a window (R479). -/
def imgHeader (s : State) (isl page : Nat) : List Byte :=
  let g := s.img
  let n := ((imgSetOf s isl).getD []).length
  let st := match g.phase with
    | .empty | .pending => 0
    | .transferring => if (imgSetOf s isl).isSome then 2 else 3
    | .held => if (imgSetOf s isl).isSome then 1 else 3
  leBytes 4 g.capno ++ leBytes 1 isl ++ leBytes 1 st ++ leBytes 1 page ++ leBytes 1 ((n + 495) / 496) ++ leBytes 8 g.trig
    ++ leBytes 8 g.capt ++ leBytes 1 g.src ++ leBytes 1 g.req ++ leBytes 2 g.code ++ leBytes 2 n ++ zeros 34

def imgWindow (s : State) (r : Requester) (off : Nat) : Nat :=
  let isl := (off - 0x4000) / 0x800
  let w := off % 0x800
  let page := imgPage s r
  if w < 64 then field (imgHeader s isl page) w 4 else imgWord s isl page ((w - 64) / 4)

def imgView (s : State) (r : Requester) (off : Nat) : Option Nat :=
  match off with
  | 0x00 => some (bitAt (s.img.phase == .held) 31 + bitAt (s.img.phase == .pending || s.img.phase == .transferring) 30)
  | 0x04 => some 0
  | 0x08 => some (lo32 s.img.capno)
  | 0x0C => some 0
  | 0x10 => some (imgPage s r)
  | 0x14 => some (lo32 s.img.missed)
  | 0x18 => some (lo32 s.img.trig)
  | 0x1C => some (hi32 s.img.trig)
  | _ => if 0x4000 ≤ off ∧ off < 0x10000 ∧ off % 4 = 0 then some (imgWindow s r off) else none

/-! ### The OD mailbox (R491) -/

def mbxView (s : State) (i : Nat) (off : Nat) : Option Nat :=
  let m := mbxGet s i
  match off with
  | 0x00 => some (m.addr % 2 ^ 24)
  | 0x04 => some (m.len % 2 ^ 17)
  | 0x08 => some 0
  | 0x0C => some (bitAt (mbxUp s) 2 + m.state % 4)
  | 0x10 => some (lo32 m.abort)
  | 0x14 => some (m.rlen % 2 ^ 17)
  | 0x18 => some (m.irq % 128)
  | 0x1C => some (lo32 m.count)
  | _ => if 0x8000 ≤ off ∧ off < 0x10000 ∧ off % 4 = 0 then some (leNat (smGetList byteZero m.data (off - 0x8000) 4)) else none

end Sys2Proof.Machine
end

