-- ==== Sys2Proof/Machine/Boxes.lean ====
section
/-! DEFINITION. Keys and order of SEL (R281 to R287), box decode (R291, R292), oriented suppression (R293 to R295) and
the box record (R296). FP32 values are their bits in a `Nat`. -/

namespace Sys2Proof.Machine

/-! ### Keys and order -/

/-- A stored candidate: index, key, score as FP32. -/
structure Cand where
  idx : Nat
  key : Nat
  score : Nat
  deriving DecidableEq, Repr

/-- The bits of a score as an unsigned key: descending keys order as descending scores. -/
def signFlip (b : Nat) : Nat := if bitOf b 31 then 2 ^ 32 - 1 - b % 2 ^ 32 else b % 2 ^ 31 + 2 ^ 31

/-- The key of R281; in Swallowtail mode the 24-bit key of R287. -/
def scoreKey (swallow : Bool) (b : Nat) : Nat :=
  if swallow then signFlip b / 256
  else if isNan b then 0
  else signFlip (if b % 2 ^ 31 = 0 then 0 else b)

/-- The selection order (R282): descending key, then ascending index. -/
def candBefore (a b : Cand) : Bool := decide (b.key < a.key) || (a.key == b.key && decide (a.idx < b.idx))

/-- Inserts into a list in order. -/
def insBy {α : Type} (lt : α → α → Bool) (x : α) : List α → List α
  | [] => [x]
  | y :: ys => if lt x y then x :: y :: ys else y :: insBy lt x ys

def sortBy {α : Type} (lt : α → α → Bool) (l : List α) : List α := l.foldr (insBy lt) []

/-- The first `k` candidates in the selection order (R282, R283). -/
def selectTop (k : Nat) (cs : List Cand) : List Cand := (sortBy candBefore cs).take k

/-- A TOPK output entry (R284, R287). -/
def candEntry (swallow : Bool) (c : Cand) : List Byte :=
  leBytes 4 (if swallow then c.key * 256 else c.key) ++ leBytes 4 c.idx

/-- Consecutive groups of `n`. -/
def groupsOf {α : Type} (n : Nat) (l : List α) : Nat → List (List α)
  | 0 => []
  | f + 1 => if l.isEmpty then [] else l.take n :: groupsOf n (l.drop n) f

/-- What the second half of the output region holds after the merge rounds (R284): runs of 4,096 in index order, merged
8 at a time. -/
def spillHalf (swallow : Bool) (sel : List Cand) : List Byte :=
  let byIdx := sortBy (fun a b => decide (a.idx < b.idx)) sel
  ((groupsOf 32768 byIdx (byIdx.length / 32768 + 1)).map (sortBy candBefore)).flatten.flatMap (candEntry swallow)

/-! ### Nearest neighbours (R289) -/

/-- A point of 16 bytes: x, y, z. -/
def point3 (b : List Byte) (i : Nat) : Nat × Nat × Nat := (field b (16 * i) 4, field b (16 * i + 4) 4, field b (16 * i + 8) 4)

def sq32 (x : Nat) : Nat := mul32 x x

/-- The distance key of R289. -/
def dist2 (q r : Nat × Nat × Nat) : Nat :=
  add32 (add32 (sq32 (sub32 q.1 r.1)) (sq32 (sub32 q.2.1 r.2.1))) (sq32 (sub32 q.2.2 r.2.2))

/-- The `k` entries of one query. -/
def knnQuery (k rmax2 : Nat) (refs : List (Nat × Nat × Nat)) (q : Nat × Nat × Nat) : List Byte :=
  let ds := ((List.range refs.length).zip refs).map fun r => (dist2 q r.2, r.1)
  let ok := ds.filter fun d => isFinite32 d.1 && !lt32 rmax2 d.1
  let best := (sortBy (fun a b : Nat × Nat => decide (a.1 < b.1) || (a.1 == b.1 && decide (a.2 < b.2))) ok).take k
  best.flatMap (fun d => leBytes 4 d.1 ++ leBytes 4 d.2)
    ++ (List.replicate (k - best.length) (leBytes 4 0x7F800000 ++ leBytes 4 0xFFFFFFFF)).flatten

/-! ### Decode (R291, R292) -/

/-- Fields of a request block that BOXES uses (R276). -/
structure BoxReq where
  headOff : Nat
  hstride : Nat
  hfmt : Nat
  headCore : Nat
  agnostic : Bool
  vel : Bool
  srcch : Bool
  gw : Nat
  gh : Nat
  ncls : Nat
  maxBox : Nat
  x0 : Nat
  y0 : Nat
  z0 : Nat
  cell : Nat
  hgate : Nat
  clsOff : Nat
  smapOff : Nat
  deriving DecidableEq, Repr

def boxReqOf (b : List Byte) : BoxReq :=
  let h := field b 0x3B 1
  ⟨field b 0x34 4, field b 0x38 2, field b 0x3A 1, bits h 0 4, bitOf h 4, bitOf h 5, bitOf h 6, field b 0x3C 2, field b 0x3E 2,
    field b 0x40 1, field b 0x42 2, field b 0x44 4, field b 0x48 4, field b 0x4C 4, field b 0x50 4, field b 0x54 4,
    field b 0x58 4, field b 0x5C 4⟩

/-- A decoded box: sizes both as FP16 bits and as FP32. -/
structure BoxD where
  cand : Nat
  rank : Nat
  cls : Nat
  x : Nat
  y : Nat
  z : Nat
  yaw : Nat
  l16 : Nat
  w16 : Nat
  h16 : Nat
  score16 : Nat
  vx : Nat
  vy : Nat
  smap : Nat
  deriving DecidableEq, Repr

def fp32One : Nat := 0x3F800000
def fp32Half : Nat := 0x3F000000

/-- An integer below 2^24 as FP32, exactly. -/
def nat32 (n : Nat) : Nat := r32 (ofInt n)

def to16 (x : Nat) : Nat := convTo 5 none false x

/-- An FP16 size that a box may have (R292). -/
def sizeOk (h : Nat) : Bool := let w := widen 5 h; isFinite32 w && !isZero32 w

/-- Threshold and IoU of a class record. -/
def clsRec (recs : List Byte) (c : Nat) : Nat × Nat := (field recs (8 * c) 4, field recs (8 * c + 4) 4)

/-- One candidate with its head row (R291); `none` where it is dropped (R292). -/
def decodeBox (q : BoxReq) (recs row : List Byte) (rank : Nat) (c : Cand) : Option BoxD :=
  let cells := q.gw * q.gh
  let cl := c.idx / cells
  let g := c.idx % cells
  let e := elemBytes q.hfmt
  let ch (i : Nat) : Nat := widen q.hfmt (field row (e * i) e)
  let x := add32 q.x0 (mul32 (add32 (nat32 (g % q.gw)) (ch 0)) q.cell)
  let y := add32 q.y0 (mul32 (add32 (nat32 (g / q.gw)) (ch 1)) q.cell)
  let z := add32 q.z0 (ch 2)
  let yaw := atan232 (ch 6) (ch 7)
  let l := to16 (exp232 (ch 3))
  let w := to16 (exp232 (ch 4))
  let h := to16 (exp232 (ch 5))
  if q.ncls ≤ cl ∨ lt32 c.score (clsRec recs cl).1 then none
  else if !([x, y, z, yaw].all isFinite32 && [l, w, h].all sizeOk) then none
  else some ⟨c.idx, rank, cl, x, y, z, yaw, l, w, h, to16 c.score, if q.vel then to16 (ch 8) else 0,
    if q.vel then to16 (ch 9) else 0, if q.srcch then (toIntSat 0 3 none (d32 (ch 10))).toNat else 0⟩

/-! ### Height gate and IoU (R294, R295) -/

def gatePasses (hgate : Nat) (a b : BoxD) : Bool :=
  let ha := widen 5 a.h16
  let hb := widen 5 b.h16
  let top := min32 (add32 a.z (mul32 ha fp32Half)) (add32 b.z (mul32 hb fp32Half))
  let bot := max32 (sub32 a.z (mul32 ha fp32Half)) (sub32 b.z (mul32 hb fp32Half))
  lt32 (mul32 hgate (min32 ha hb)) (sub32 top bot)

def boxRadius (b : BoxD) : Nat :=
  mul32 (sqrt32 (add32 (sq32 (widen 5 b.l16)) (sq32 (widen 5 b.w16)))) fp32Half

/-- Corners, counter-clockwise. -/
def boxCorners (b : BoxD) : List (Nat × Nat) :=
  let c := cos32 b.yaw
  let s := sin32 b.yaw
  let hl := mul32 (widen 5 b.l16) fp32Half
  let hw := mul32 (widen 5 b.w16) fp32Half
  let sg (n : Bool) (v : Nat) : Nat := if n then neg32 v else v
  ([(false, false), (true, false), (true, true), (false, true)] : List (Bool × Bool)).map fun e =>
    let el := sg e.1 hl
    let ew := sg e.2 hw
    (add32 b.x (sub32 (mul32 el c) (mul32 ew s)), add32 b.y (add32 (mul32 el s) (mul32 ew c)))

/-- Side value of a point against the line through `q0` and `q1`. -/
def sideOf (q0 q1 p : Nat × Nat) : Nat :=
  sub32 (mul32 (sub32 q1.1 q0.1) (sub32 p.2 q0.2)) (mul32 (sub32 q1.2 q0.2) (sub32 p.1 q0.1))

/-- The vertices that one vertex and the edge leaving it give (R295, `clip`). -/
def clipStep (q0 q1 p n : Nat × Nat) : List (Nat × Nat) :=
  let sp := sideOf q0 q1 p
  let sn := sideOf q0 q1 n
  let keep := if le32 0 sp then [p] else []
  if (lt32 0 sp && lt32 sn 0) || (lt32 sp 0 && lt32 0 sn) then
    let t := div32 sp (sub32 sp sn)
    keep ++ [(add32 p.1 (mul32 t (sub32 n.1 p.1)), add32 p.2 (mul32 t (sub32 n.2 p.2)))]
  else keep

/-- Every vertex with the one after it, the last with the first. -/
def edgesOf (poly : List (Nat × Nat)) : List ((Nat × Nat) × (Nat × Nat)) := poly.zip (poly.drop 1 ++ poly.take 1)

def clipPoly (q0 q1 : Nat × Nat) (poly : List (Nat × Nat)) : List (Nat × Nat) :=
  (edgesOf poly).flatMap fun e => clipStep q0 q1 e.1 e.2

def polyArea (poly : List (Nat × Nat)) : Nat :=
  mul32 (abs32 ((edgesOf poly).foldl (fun a e => add32 a (sub32 (mul32 e.1.1 e.2.2) (mul32 e.2.1 e.1.2))) 0)) fp32Half

/-- IoU of two boxes, and whether the radius test ended it. -/
def boxIou (a b : BoxD) : Nat × Bool :=
  let d := sqrt32 (add32 (sq32 (sub32 a.x b.x)) (sq32 (sub32 a.y b.y)))
  if lt32 (add32 (boxRadius a) (boxRadius b)) d then (0, true)
  else
    let poly := (edgesOf (boxCorners b)).foldl (fun p e => clipPoly e.1 e.2 p) (boxCorners a)
    let inter := polyArea poly
    let area (c : BoxD) : Nat := mul32 (widen 5 c.l16) (widen 5 c.w16)
    (div32 inter (sub32 (add32 (area a) (area b)) inter), false)

/-! ### Suppression (R293) -/

/-- What suppression leaves: kept boxes in rank order, and its counts. -/
structure Supp where
  kept : List BoxD := []
  nsupp : Nat := 0
  ndrop : Nat := 0
  ious : Nat := 0
  qrej : Nat := 0
  deriving DecidableEq, Repr

/-- One candidate against the kept boxes in `BIDX` order: whether it is suppressed, evaluations, radius rejections. -/
def compareKept (q : BoxReq) (thr : Nat) (b : BoxD) : List BoxD → Bool × Nat × Nat
  | [] => (false, 0, 0)
  | a :: rest =>
    if (!q.agnostic && a.cls != b.cls) || !gatePasses q.hgate a b then compareKept q thr b rest
    else
      let v := boxIou a b
      let n := if v.2 then 1 else 0
      if lt32 thr v.1 then (true, 1, n)
      else
        let r := compareKept q thr b rest
        (r.1, r.2.1 + 1, r.2.2 + n)

def suppress (q : BoxReq) (recs : List Byte) : List BoxD → Supp → Supp
  | [], u => u
  | b :: rest, u =>
    if q.maxBox ≤ u.kept.length then { u with ndrop := u.ndrop + rest.length + 1 }
    else
      let r := compareKept q (clsRec recs b.cls).2 b u.kept
      let u := { u with ious := u.ious + r.2.1, qrej := u.qrej + r.2.2 }
      suppress q recs rest (if r.1 then { u with nsupp := u.nsupp + 1 } else { u with kept := u.kept ++ [b] })

/-! ### Records (R296, R297) -/

/-- `GMASK` of a stream map of 16 bytes: bit `n` is the OR of byte `n`. -/
def groupMask (m : List Byte) : Nat := (List.range 16).foldl (fun a n => a + bitAt (m.getD n 0 != 0) n) 0

/-- The box record. -/
def boxRecord (vel : Bool) (smaps : List Byte) (taggen seq bidx : Nat) (b : BoxD) : List Byte :=
  let body := leBytes 4 b.x ++ leBytes 4 b.y ++ leBytes 4 b.z ++ leBytes 4 b.yaw ++ leBytes 2 b.l16 ++ leBytes 2 b.w16
    ++ leBytes 2 b.h16 ++ leBytes 2 b.score16 ++ leBytes 2 b.vx ++ leBytes 2 b.vy ++ leBytes 1 b.cls
    ++ leBytes 1 (b.smap + bitAt vel 2) ++ leBytes 2 (groupMask (slice smaps (16 * b.smap) 16)) ++ leBytes 4 b.cand
    ++ leBytes 2 b.rank ++ leBytes 2 bidx ++ leBytes 4 (taggen % 2 ^ 24) ++ leBytes 4 seq ++ zeros 12
  body ++ leBytes 4 (crc32c body)

/-- A result or pad header with its CRC put in (R297, R381). -/
def headerCrc (h : List Byte) : List Byte := patch h 0x3C (leBytes 4 (crc32c (slice h 0 0x3C ++ slice h 0x40 0x40)))

def padHeader : List Byte := headerCrc (leBytes 2 0x5850 ++ [0x01] ++ zeros 125)

end Sys2Proof.Machine
end

