-- ==== Sys2Proof/Machine/Sel.lean ====
section
/-! DEFINITION. SEL and the commit of results (R275 to R300, R381 to R384, R450, R454). -/

namespace Sys2Proof.Machine

def islSel : Nat := 19

/-- Key of a SEL or BOX register. -/
def selKey (off : Nat) : Nat := rkey 0 (0x0300000 + off)

/-! ### The request block (R276) -/

structure SelF where
  kind : Nat
  mode : Nat
  sfmt : Nat
  nseg : Nat
  k : Nat
  smin : Nat
  outOff : Nat
  /-- `OFF`, `CNT`, `CORE` of the segments used -/
  segs : List (Nat × Nat × Nat)
  statOff : Nat
  qOff : Nat
  nq : Nat
  rmax2 : Nat
  maxBox : Nat
  deriving DecidableEq, Repr

def segOf (b : List Byte) (i : Nat) : Nat × Nat × Nat :=
  let w := field b (0x10 + 8 * i) 8
  (bits w 0 32, bits w 32 24, bits w 56 4)

def selOf (b : List Byte) : SelF :=
  ⟨field b 0 1, field b 1 1, field b 2 1, field b 3 1, field b 4 4, field b 8 4, field b 0x0C 4,
    (List.range (field b 3 1)).map (segOf b), field b 0x30 4, field b 0x60 4, field b 0x64 2, field b 0x68 4, field b 0x42 2⟩

def SelF.swallow (f : SelF) : Bool := f.mode == 1

/-- Bytes of a source element. -/
def SelF.esize (f : SelF) : Nat := if f.kind = 2 then 16 else elemBytes f.sfmt

def SelF.total (f : SelF) : Nat := (f.segs.map (·.2.1)).sum

/-- Entries the key store holds (R281, R289). -/
def SelF.stored (f : SelF) : Nat := min f.total (if f.kind = 2 then 32768 else 65536)

/-- The fields that every request checks (R278). -/
def shapeAll (b : List Byte) (f : SelF) : Bool :=
  decide (f.kind ≤ 2 ∧ f.mode ≤ 1 ∧ 4 ≤ f.sfmt ∧ f.sfmt ≤ 6 ∧ 1 ≤ f.nseg ∧ f.nseg ≤ 4 ∧ f.total ≤ 1048576)
    && ((List.range 4).all fun i => (segOf b i).1 % 64 == 0) && ((List.range 4).all fun i => bits (field b (0x10 + 8 * i) 8) 60 4 == 0)
    && f.statOff % 16 == 0 && field b 0x41 1 == 0 && field b 0x66 2 == 0 && field b 0x6C 20 == 0 && !bitOf (field b 0x3B 1) 7
    && (f.mode == 0 || decide (f.k ≤ 64))

/-- The fields of a BOXES request. -/
def shapeBoxes (b : List Byte) (f : SelF) : Bool :=
  let q := boxReqOf b
  decide (f.k ≤ 4096 ∧ 4 ≤ q.hfmt ∧ q.hfmt ≤ 6 ∧ 1 ≤ q.gw ∧ q.gw ≤ 1024 ∧ 1 ≤ q.gh ∧ q.gh ≤ 1024 ∧ 1 ≤ q.ncls ∧ q.ncls ≤ 16
      ∧ q.maxBox ≤ 4096) && q.hstride % 64 == 0 && isFinite32 q.cell && lt32 0 q.cell && le32 0 q.hgate && le32 q.hgate fp32One

/-- The fields of a KNN request. -/
def shapeKnn (f : SelF) : Bool :=
  f.mode == 0 && f.sfmt == 6 && decide (1 ≤ f.k ∧ f.k ≤ 64 ∧ f.nq ≤ 4096) && lt32 0 f.rmax2

def selShapeOk (b : List Byte) : Bool :=
  let f := selOf b
  shapeAll b f && (f.kind == 1 || f.outOff % 64 == 0) && (match f.kind with
    | 0 => true
    | 1 => shapeBoxes b f
    | _ => shapeKnn f)

/-! ### The bound of a request (R286, R288, R290), in 1/18 ns: a line takes 80, a cycle of SEL 15 -/

def ceilDiv (a b : Nat) : Nat := (a + b - 1) / b

def boundLoad (f : SelF) : Nat := (f.segs.map fun g => ceilDiv (g.2.1 * f.esize) 64 * 80).foldl max 0

def boundOut (k : Nat) : Nat :=
  let r := ceilDiv k 4096
  ceilDiv k 8 * (1 + 2 * (if r ≤ 1 then 0 else if r ≤ 8 then 1 else 2)) * 80

def selBound (f : SelF) : Nat :=
  let n := f.stored
  let k := min f.k n
  if f.kind = 2 then
    boundLoad f + ceilDiv f.nq 4 * 80 + f.nq * (ceilDiv n 16 + 16) * 15 + ceilDiv (f.nq * f.k) 8 * 80
  else
    let p := if n ≤ f.k then 0 else 4
    let sel := if f.swallow then ceilDiv n 16 + 16 + 16 * k
      else p * (ceilDiv n 16 + 8) + ceilDiv n 16 + (ceilDiv k 2 + 64 * ceilDiv k 4096)
    let box := if f.kind = 1 then k * 80 + k * (ceilDiv f.maxBox 8 + 24) * 15 else 0
    boundLoad f + sel * 15 + boundOut k + box

/-! ### Windows (R278, R409) -/

def selAdmits (s : State) (p n : Nat) : Bool := codeAdmits (slotCode { s with slotNo := n % 64 } 0x21) p

/-- Consecutive slots from slot `n` that admit a partition, 64 at most. -/
def selRun (s : State) (p n : Nat) : Nat → Nat
  | 0 => 0
  | f + 1 => if selAdmits s p n then selRun s p (n + 1) f + 1 else 0

/-- The bound exceeds every SEL window of the partition; a window of 64 slots never ends. -/
def selTooLong (s : State) (p bound : Nat) : Bool :=
  let best := ((List.range 64).map fun n => selRun s p n 64).foldl max 0
  best != 64 && decide (best * 15625 * 18 < bound)

/-- A request may start now: its partition's window is open, and the bound ends inside it. -/
def selFits (s : State) (p bound : Nat) : Bool :=
  let at_ := s.tb.master % 1000000
  let run := selRun s p s.slotNo 64
  s.slotNo == at_ / 15625 && decide (0 < run) && (run == 64 || decide (bound ≤ ((s.slotNo + run) * 15625 - at_) * 18))

/-! ### Accesses (R276, R277) -/

/-- First byte of the space that offsets of a request name on a core: its context there, or the partition's region. -/
def selBase (s : State) (q : SelReq) (c : Nat) : Nat :=
  match ctxByTag s c q.part q.taggen with
  | some n => (tctx (coreOf s c) n).basinBase * 4096
  | none => (prBasin (recOf s q.part) c).1 * 4096

/-- A physical line inside the partition's region on the core. -/
def selLine (q : SelReq) (c line : Nat) : EngM Unit := do
  let r := prBasin (recOf (← get) q.part) c
  if line < r.1 * 64 ∨ r.2 * 64 ≤ line then stopF .remoteDeny

def selReadLines (q : SelReq) (c line : Nat) : Nat → EngM (List (List Byte))
  | 0 => pure []
  | n + 1 => do
    selLine q c line
    let l ← basinPhysRead c line
    let r ← selReadLines q c (line + 1) n
    pure (l :: r)

def selRead (q : SelReq) (c off n : Nat) : EngM (List Byte) := do
  if n = 0 then pure []
  else
    let a := selBase (← get) q c + off
    let ls ← selReadLines q c (a / 64) ((a + n - 1) / 64 - a / 64 + 1)
    pure ((ls.flatten.drop (a % 64)).take n)

def selWrite (q : SelReq) (c off : Nat) (bs : List Byte) : EngM Unit := do
  let a := selBase (← get) q c + off
  for p in splitLines a bs (bs.length / 64 + 2) do
    selLine q c p.1
    if (winOf (coreOf (← get) c) (p.1 / 64)).isSome then stopF .weightWrite
    modify (modCore c (basinStore (p.1 * 64 + p.2.1) p.2.2))

/-- Scores or points of every segment, in segment order. -/
def selSources (q : SelReq) (f : SelF) : List (Nat × Nat × Nat) → EngM (List Byte)
  | [] => pure []
  | g :: gs => do
    let b ← selRead q g.2.2 g.1 (g.2.1 * f.esize)
    let r ← selSources q f gs
    pure (b ++ r)

/-- Elements of `e` bytes. -/
def elemsOf (e : Nat) (b : List Byte) : Nat → List (List Byte)
  | 0 => []
  | n + 1 => b.take e :: elemsOf e (b.drop e) n

/-- A score widened exactly to FP32 (R281): a NaN keeps its sign and payload. -/
def scoreWiden (fmt x : Nat) : Nat :=
  match fmt with
  | 4 => x % 65536 * 65536
  | 5 => if bits x 10 5 = 31 then bits x 15 1 * 2 ^ 31 + 0x7F800000 + bits x 0 10 * 2 ^ 13 else widen 5 x
  | _ => x % 2 ^ 32

/-- Every score with its index, as FP32. -/
def scoresOf (f : SelF) (b : List Byte) : List (Nat × Nat) :=
  let es := elemsOf f.esize b f.total
  (List.range es.length).zip (es.map fun e => scoreWiden f.sfmt (leNat e))

/-- Candidates under `SCORE_MIN` (R281, R287). -/
def candsOf (f : SelF) (sc : List (Nat × Nat)) : List Cand :=
  (sc.filter fun x => !lt32 x.2 f.smin).map fun x => ⟨x.1, scoreKey f.swallow x.2, x.2⟩

/-- The SEC-DED words of the key store and the sort buffer (R299): one bit is corrected, more end the request. -/
def selEcc : EngM Unit := do
  let s ← get
  if s.sel.up = 0 then pure ()
  else
    let clean (s : State) : State := { s with sel := { s.sel with up := 0 } }
    if s.sel.up = 1 then set (regCountField (selKey 0x1C) 0 16 1 (clean s))
    else
      set (regCountField (selKey 0x1C) 16 16 1 (clean s))
      stopF .selUe

/-- Loads the key store: stored candidates, and how many were refused. -/
def selLoad (q : SelReq) (f : SelF) : EngM (List Cand × Nat) := do
  let b ← selSources q f f.segs
  let sc := scoresOf f b
  if !f.swallow then modify (regCount (selKey 0x14) (sc.filter fun x => isNan x.2).length)
  let cs := candsOf f sc
  modify (regCount (selKey 0x10) (cs.length - 65536))
  selEcc
  pure (cs.take 65536, cs.length - 65536)

/-! ### The end of a request -/

/-- Changes the flight of a request, on whichever context holds it. -/
def selFlight (q : SelReq) (f : Flight → Flight) (s : State) : State :=
  match ctxByTag s q.core q.part q.taggen with
  | none => s
  | some n => modCtxRun q.core n (fun r => { r with
      flight := r.flight.map fun g => if g.d.commit == q.commit && g.selw then f g else g }) s

/-- A fault that ends a request (R299, R381, R384). -/
def selFault (isl : Nat) (q : SelReq) (code : FaultCode) (s : State) : State :=
  let ts := stampOf s isl 0
  let s := if isl = islSel then regFirst (selKey 0x20) 31 (2 ^ 31 + q.part % 8 * 2 ^ 28 + code.num) s else s
  let ord := s.saf.raised
  let s := selFlight q (fun g => { g with failed := some (code.num, ts), failIsl := isl, failOrd := ord, selw := false }) s
  let s := if field q.blk 0 1 = 1 ∧ tagGen (jobOf s q.slot) = q.taggen then
      modJob q.slot (fun j => { j with resRec := j.resRec ++ [⟨q.core, q.commit, code.num, ts, isl, ord⟩] }) s
    else s
  raise ⟨code, isl, 0, some ⟨q.slot, q.taggen⟩, some q.part, some q.commit, some q.core, 3,
    if isl = islSel then [regGet s (selKey 0x20)] else [], 1, false⟩ s

/-- The status record (R279). -/
def statusRec (ncand nout nover : Nat) (cyc : Word) : List Byte :=
  leBytes 4 ncand ++ leBytes 4 nout ++ leBytes 4 nover ++ leBytes 4 cyc.toNat

/-- Writes the status record (R279), which is progress of the job (R435); the SELREQ may then retire. -/
def selStatus (q : SelReq) (st : List Byte) (s : State) : State :=
  let r := engRun (selWrite q q.core (selOf q.blk).statOff st) s
  match r.1 with
  | .ok _ =>
    let s := regWrap (selKey 0x08) 1 r.2
    jobAlive q.slot (arrive q.core (stampOf s islSel 0) (selFlight q (fun g => { g with done := true, selw := false }) s))
  | .error (.fault code _) => selFault islSel q code r.2
  | .error .wait => s

/-- Cycles of a request, also counted in `SEL_BUSY_CYC`. -/
def selCyc (s : State) : Word × State :=
  let f := takeFree s
  let c := Config.selCycles f.1
  (c, regCount (selKey 0x18) c.toNat f.2)

/-- Takes the head of a partition's queue. -/
def selPop (p : Nat) (s : State) : State := { s with sel := { s.sel with queue := vset s.sel.queue p ((vget s.sel.queue p []).drop 1) } }

/-- The head of a partition's queue may start now: SEL is idle and its window open (R278). -/
def selMay (s : State) (p : Nat) : Bool :=
  match vget s.sel.queue p [] with
  | q :: _ => isReady s && s.sel.done.isNone && selFits s p (selBound (selOf q.blk))
  | [] => false

/-- A partition waits for SEL, and not for result space. -/
def selWaits (s : State) (p : Nat) : Bool := selMay s p && ((vget s.sel.queue p []).head?.bind (·.waits)).isNone

/-- The request that starts for a partition: of a kind, in the partition's turn (R278, R409). -/
def selHead (s : State) (p kind : Nat) : Option SelReq :=
  match vget s.sel.queue p [] with
  | q :: _ => if selMay s p && field q.blk 0 1 == kind && openTurn s 1 p (selWaits s) then some q else none
  | [] => none

/-- Runs a request that ends with its status record. -/
def selRunPlain (q : SelReq) (work : EngM (Nat × Nat × Nat)) (s : State) : State :=
  let c := selCyc (openServe 1 q.part (selPop q.part s))
  let r := engRun work c.2
  match r.1 with
  | .ok x => selStatus q (statusRec x.1 x.2.1 x.2.2 c.1) r.2
  | .error (.fault code _) => selFault islSel q code r.2
  | .error .wait => s

/-! ### TOPK (R283 to R287) -/

def topkWork (q : SelReq) (f : SelF) : EngM (Nat × Nat × Nat) := do
  let l ← selLoad q f
  let sel := selectTop f.k l.1
  let out := sel.flatMap (candEntry f.swallow)
  if 4096 < sel.length then
    modify (regCount (selKey 0x0C) 1)
    selWrite q q.core f.outOff out
    selWrite q q.core (f.outOff + 8 * sel.length) (spillHalf f.swallow sel)
  else selWrite q q.core f.outOff out
  pure (l.1.length, sel.length, l.2)

/-! ### KNN (R289) -/

def knnWork (q : SelReq) (f : SelF) : EngM (Nat × Nat × Nat) := do
  let b ← selSources q f f.segs
  let qs ← selRead q q.core f.qOff (16 * f.nq)
  let n := f.stored
  modify (regCount (selKey 0x10) (f.total - n))
  selEcc
  let refs := (elemsOf 16 b n).map fun e => point3 e 0
  let out := (elemsOf 16 qs f.nq).flatMap fun e => knnQuery f.k f.rmax2 refs (point3 e 0)
  selWrite q q.core f.outOff out
  pure (n, f.nq * f.k, f.total - n)

/-! ### BOXES (R291 to R298, R381, R382) -/

/-- Bytes allocated for a result. -/
def resAlloc (maxBox : Nat) : Nat := (128 + 64 * maxBox + 127) / 128 * 128

/-- The tail as it stands after every result handed over and not committed. -/
def resTail (s : State) (p : Nat) : Nat :=
  let g := ringsOf s p
  match (s.sel.handed.filter (·.req.part == p)).getLast? with
  | some r => (r.alloc + resAlloc r.nbox) % (2 * 2 ^ g.rqLog)
  | none => g.rqTail

/-- Where a result of `a` bytes is allocated, and whether a pad header goes before it; `none` without room (R381). -/
def resPlace (s : State) (p a : Nat) : Option (Nat × Bool) :=
  let g := ringsOf s p
  let n := 2 ^ g.rqLog
  let t := resTail s p
  let free := n - ptrDiff n t g.rqHead
  let gap := n - t % n
  if !g.en || decide (n < a) then none
  else if a ≤ gap then (if a ≤ free then some (t, false) else none)
  else if gap + a ≤ free then some ((t + gap) % (2 * n), true) else none

/-- A write of SEL or HST into the result ring. -/
def resWrite (p ptr : Nat) (bs : List Byte) (s : State) : State :=
  let g := ringsOf s p
  match ownerOf (partOf s p) with
  | some h => emitOut (.hostWrite h (g.rqBase + ptr % 2 ^ g.rqLog) bs) s
  | none => s

/-- Flags that SEL sets (R298): a tensor flag of any bound input, refused candidates, the predictor. -/
def selFlags (j : Job) (nover : Nat) : Nat :=
  let any (i : Nat) : Bool := (j.res.filterMap id).any fun r => bitOf r.flags i
  bitAt (any 1 || decide (0 < nover)) 2 + bitAt (any 0) 3 + bitAt j.predicted 4 + bitAt (any 3) 5 + bitAt (any 2) 6

/-- The result header as SEL leaves it (R297). -/
def selHeader (j : Job) (q : SelReq) (f : SelF) (u : Supp) (ndec ncand nover : Nat) (smaps : List Byte) : List Byte :=
  let ins := j.res.filterMap id
  let first := ins.head?
  leBytes 2 0x5852 ++ [0x01] ++ leBytes 1 ((first.map (·.ctx)).getD 0xFF) ++ leBytes 4 (q.taggen % 2 ^ 24 + q.part % 8 * 2 ^ 24)
    ++ leBytes 4 ((first.map (·.seq)).getD 0) ++ leBytes 2 u.kept.length ++ leBytes 2 (selFlags j nover)
    ++ leBytes 8 ((first.map (·.tref)).getD j.tref) ++ leBytes 8 (j.deadline.getD 0) ++ zeros 8
    ++ leBytes 1 ((first.map (·.levels)).getD 0) ++ leBytes 1 f.mode ++ leBytes 2 ndec ++ leBytes 4 ncand ++ leBytes 4 nover
    ++ leBytes 2 u.ndrop ++ leBytes 2 u.nsupp ++ leBytes 4 (min ((ins.map (·.noroom)).sum) 0xFFFFFFFF) ++ zeros 4 ++ smaps

/-- Head rows of every selected candidate, in rank order (R292). -/
def headRows (q : SelReq) (b : BoxReq) : List Cand → EngM (List (List Byte))
  | [] => pure []
  | c :: cs => do
    let n := elemBytes b.hfmt * (if b.srcch then 11 else if b.vel then 10 else 8)
    let r ← selRead q b.headCore (b.headOff + c.idx % (b.gw * b.gh) * b.hstride) n
    let rs ← headRows q b cs
    pure (r :: rs)

/-- Selection, decode and suppression: the header, the boxes, candidates stored and refused. -/
def boxesWork (q : SelReq) (f : SelF) : EngM (List Byte × List (List Byte) × Nat × Nat) := do
  let b := boxReqOf q.blk
  let l ← selLoad q f
  let sel := selectTop f.k l.1
  let recs ← selRead q q.core b.clsOff 128
  let smaps ← selRead q q.core b.smapOff 64
  let rows ← headRows q b sel
  let dec := (((List.range sel.length).zip sel).zip rows).filterMap fun x => decodeBox b recs x.2 x.1.1 x.1.2
  let u := suppress b recs dec {}
  let j := jobOf (← get) q.slot
  modify (regWrap (selKey 0x1000) sel.length)
  modify (regCount (selKey 0x1004) (sel.length - dec.length))
  modify (regCount (selKey 0x1008) u.nsupp)
  modify (regWrap (selKey 0x100C) u.kept.length)
  modify (regCount (selKey 0x1010) u.ndrop)
  modify (regWrap (selKey 0x1014) u.ious)
  modify (regCount (selKey 0x1018) u.qrej)
  let h := selHeader j q f u (sel.length - dec.length) l.1.length l.2 smaps
  let boxes := ((List.range u.kept.length).zip u.kept).map fun x => boxRecord b.vel smaps q.taggen (field h 8 4) x.1 x.2
  pure (h, boxes, l.1.length, l.2)

/-- A result kept for the hand-off, its box records written behind the place of its header. -/
def boxesDone (q : SelReq) (alloc : Nat) (cyc : Word) (x : List Byte × List (List Byte) × Nat × Nat) (s : State) : State :=
  let n := x.2.1.length
  let s := if x.2.1.isEmpty then s else resWrite q.part (alloc + 128) x.2.1.flatten s
  { s with sel := { s.sel with done := some ⟨q, x.1, alloc, n, statusRec x.2.2.1 n x.2.2.2 cyc, 0⟩ } }

/-- A BOXES request at the head of its queue, its place found. -/
def boxesStart (q : SelReq) (place : Nat × Bool) (s : State) : State :=
  let s := if place.2 then resWrite q.part (resTail s q.part) padHeader s else s
  let c := selCyc (openServe 1 q.part (selPop q.part s))
  let r := engRun (boxesWork q (selOf q.blk)) c.2
  match r.1 with
  | .ok x => boxesDone q place.1 c.1 x r.2
  | .error (.fault code _) => selFault islSel q code r.2
  | .error .wait => s

/-- The request begins to wait for result space (R381). -/
def boxesWait (q : SelReq) (s : State) : State :=
  if q.waits.isSome then s
  else
    let rest := (vget s.sel.queue q.part []).drop 1
    { s with sel := { s.sel with queue := vset s.sel.queue q.part ({ q with waits := some s.tb.master } :: rest) } }

/-! ### The commands -/

/-- SEL_REQUEST_ARRIVAL (R275, R278): the oldest request on its way is checked. -/
def execSelRequestArrival (s : State) : Host.Outcome State Fault Refusal :=
  .next (match s.sel.arr with
    | [] => s
    | q :: rest =>
      if !isReady s || !crossed s islSel q.ts then s
      else
        let lost := fabLost s islSel q.ts
        let s := arrive islSel q.ts { s with sel := { s.sel with arr := rest } }
        if lost then selGone q s
        else if !selShapeOk q.blk then selFault islSel q .selShape s
        else if selTooLong s q.part (selBound (selOf q.blk)) then selFault islSel q .selWindow s
        else { s with sel := { s.sel with queue := vset s.sel.queue q.part (vget s.sel.queue q.part [] ++ [q]) } })

/-- SEL_TOPK (R283). -/
def execSelTopk (p : Fin 8) (s : State) : Host.Outcome State Fault Refusal :=
  .next (match selHead s p.val 0 with
    | some q => selRunPlain q (topkWork q (selOf q.blk)) s
    | none => s)

/-- SEL_BOXES (R291): the request waits while its result has no room. -/
def execSelBoxes (p : Fin 8) (s : State) : Host.Outcome State Fault Refusal :=
  .next (match selHead s p.val 1 with
    | some q => (match resPlace s p.val (resAlloc (selOf q.blk).maxBox) with
      | some a => boxesStart q a s
      | none => boxesWait q s)
    | none => s)

/-- SEL_KNN (R289). -/
def execSelKnn (p : Fin 8) (s : State) : Host.Outcome State Fault Refusal :=
  .next (match selHead s p.val 2 with
    | some q => selRunPlain q (knnWork q (selOf q.blk)) s
    | none => s)

/-- RESULT_HANDOFF (R382): SEL is free for its next request. -/
def execResultHandoff (s : State) : Host.Outcome State Fault Refusal :=
  .next (match s.sel.done with
    | some r =>
      let ts := stampOf s islSel 0
      if isReady s then { keepStamp islSel ts s with sel := { s.sel with done := none, handed := s.sel.handed ++ [{ r with ts := ts }] } }
      else s
    | none => s)

/-- The policy of R450 sets `INVALID`. -/
def policyInvalid (s : State) (j : Job) : Bool :=
  (j.res.filterMap id).any fun r =>
    let p := odNat s 0x4000 (0x10 + r.ctx)
    (bitOf r.flags 1 && bitOf p 0) || (bitOf r.flags 2 && bitOf p 1)

/-- The header with what HST writes: `COMMIT`, `INVALID`, `LATE`, `DEGRADED` under the skew state, `CRC` (R298, R51). -/
def commitHeader (h : List Byte) (ts : Nat) (invalid late skew : Bool) : List Byte :=
  let f := putBit (putBit (field h 0x0E 2) 0 invalid) 1 late
  headerCrc (patch (patch h 0x0E (leBytes 2 (if skew then putBit f 5 true else f))) 0x20 (leBytes 8 ts))

/-- The RESULT record (R378, R383). -/
def resultRecord (r : SelRes) (ref ts : Nat) (s : State) : State :=
  let j := jobOf s r.req.slot
  if j.silent then s
  else
    let s := setJob r.req.slot { j with rsv := j.rsv - 1, itemsAll := j.itemsAll + 1 } s
    postRecord j.part true 0 ⟨tagGen j + j.part * 0x1000000, 2, 0, 0, ts, ref, 0xFF, r.req.attempt, 0, 0⟩ s

/-- The attempt of the result's job has not been aborted at SEL (R280). -/
def selAlive (s : State) (r : SelRes) : Bool :=
  let j := jobOf s r.req.slot
  j.attempt == r.req.attempt && (j.st != .draining || j.abortTo.contains 32)

/-- The commit of a result (R382, R450, R453, R454). -/
def commitResult (r : SelRes) (s : State) : State :=
  let p := r.req.part
  let slot := r.req.slot
  let g := ringsOf s p
  let ts := stampOf s islHst r.ts
  let s := keepStamp islHst ts s
  let j := jobOf s slot
  let inv := monCarries s slot ts || policyInvalid s j
  let h := commitHeader r.header ts inv (commitLate s slot ts) (s.tb.skewState != 0 || j.skewed)
  let s := resWrite p r.alloc (h.take 4) (resWrite p (r.alloc + 4) (h.drop 4) s)
  let s := setRings p { g with rqTail := (r.alloc + resAlloc r.nbox) % (2 * 2 ^ g.rqLog) } s
  let s := { s with hst := { s.hst with results := wrapAdd 32 s.hst.results 1 } }
  let s := modJob slot (fun j => { j with invalid := j.invalid || inv }) s
  resultRecord r (r.alloc % 2 ^ g.rqLog) ts (monCommit slot ts s)

/-- RESULT_COMMIT (R382): the oldest result handed over; SEL then writes its status record (R279). A result for a port that
was reset is dropped (R385); one with another generation is STALE (R369). -/
def execResultCommit (s : State) : Host.Outcome State Fault Refusal :=
  .next (match s.sel.handed with
    | [] => s
    | r :: rest =>
      if !isReady s || s.saf.pwrFail || !crossed s islHst r.ts then s
      else if tagGen (jobOf s r.req.slot) ≠ r.req.taggen then
        staleArrival r.req.part { s with sel := { s.sel with handed := rest } }
      else if (jobOf s r.req.slot).silent then { s with sel := { s.sel with handed := rest } }
      else
        let s := commitResult r { s with sel := { s.sel with handed := rest } }
        if selAlive s r then selStatus r.req r.status s else s)

/-- RESULT_SPACE_TIMEOUT (R381). -/
def execResultSpaceTimeout (p : Fin 8) (s : State) : Host.Outcome State Fault Refusal :=
  .next (match vget s.sel.queue p.val [] with
    | q :: _ =>
      (match q.waits with
      | some t =>
        if isReady s && (resPlace s p.val (resAlloc (selOf q.blk).maxBox)).isNone && decide (t + 100000000 ≤ s.tb.master) then
          selFault islHst q .resultNospace (selPop p.val s)
        else s
      | none => s)
    | [] => s)

end Sys2Proof.Machine
end

