-- ==== Sys2Proof/Machine/RegViewData.lean ====
section
/-! DEFINITION. What the registers of HST, PRT, ING, VOX, SEL and KC hold (R99, R129, R174, R199, R223, R251, R274, R300,
R322, R347, R361, R362, R388, R420, R438), by offset in their block; `none` where no register stands. A WO register reads
0. -/

namespace Sys2Proof.Machine

/-! ### HST (R388, R362) -/

/-- Fetch or admission waits for completion slots. -/
def cqWaits (s : State) (p : Nat) : Bool :=
  let g := ringsOf s p
  g.en && ((g.sqTail != g.sqHead && (partOf s p).fetched.isNone && cqFree g == 0) || (match admitNext s p with
    | some slot => let j := jobOf s slot; j.st == .queued && decide (cqOpen s p < j.nitem * (j.restart + 1))
    | none => false))

/-- A BOXES request waits for result space. -/
def rqWaits (s : State) (p : Nat) : Bool := (vget s.sel.queue p []).any (·.waits.isSome)

/-- Registers of ring set `p`. -/
def ringView (s : State) (p o : Nat) : Option Nat :=
  let g := ringsOf s p
  match o with
  | 0x00 => some (lo32 g.sqBase)
  | 0x04 => some (hi32 g.sqBase)
  | 0x08 => some (lo32 g.cqBase)
  | 0x0C => some (hi32 g.cqBase)
  | 0x10 => some (lo32 g.rqBase)
  | 0x14 => some (hi32 g.rqBase)
  | 0x18 => some (g.sqLog % 16 + g.cqLog % 16 * 256 + g.rqLog % 32 * 65536)
  | 0x1C => some (bitAt g.en 0 + g.vec % 64 * 256 + g.coal % 256 * 65536 + g.coalt % 256 * 2 ^ 24)
  | 0x20 => some g.sqTail
  | 0x24 => some g.sqHead
  | 0x28 => some g.cqHead
  | 0x2C => some g.cqTail
  | 0x30 => some g.rqHead
  | 0x34 => some g.rqTail
  | 0x38 => some (bitAt g.en 0 + bitAt g.ringErr 1 + bitAt (cqWaits s p) 2 + bitAt (rqWaits s p) 3
      + (liveJobs s p).length % 128 * 256)
  | 0x3C => some (g.cqRsv % 2 ^ 17)
  | 0x40 => some (lo32 g.accept)
  | 0x44 => some (min g.refuse (2 ^ 32 - 1))
  | 0x48 => some (g.lastRefCode % 65536 + g.lastRefIdx % 65536 * 65536)
  | _ => none

/-- The ring set that an offset of HST names. -/
def ringAtOff (off : Nat) : Option Nat := if 0x1000 ≤ off ∧ off < 0x1800 then some ((off - 0x1000) / 0x100) else none

/-- A word of the MSI-X table: bit 0 of the fourth word of a vector is its mask. -/
def msixWord (x : HostPort) (o : Nat) : Nat :=
  if o % 16 = 12 then bitAt (x.mask.getLsbD (o / 16)) 0 else (smGet (fun _ => 0) x.msixTbl o).toNat

/-- The HST block of port `h`. -/
def hstView (s : State) (h : Nat) (off : Nat) : Option Nat :=
  let x := vget s.hst.ports h {}
  if off % 4 ≠ 0 then none
  else if 0x1000 ≤ off ∧ off < 0x1800 then ringView s ((off - 0x1000) / 0x100) (off % 0x100)
  else if 0xC000 ≤ off ∧ off < 0xC400 then some (msixWord x (off - 0xC000))
  else match off with
    | 0x0000 => some (x.speed % 8 * 65536 + x.width % 4 * 4096 + h * 256 + bitsOf 8 fun p => ownerOf (partOf s p) == some h)
    | 0x0008 => some (min x.staleCnt (2 ^ 32 - 1))
    | 0x000C => some (lo32 x.msixCnt)
    | 0xD000 => some (lo32 x.pba.toNat)
    | 0xD004 => some (hi32 x.pba.toNat)
    | _ => none

def hstRc (off : Nat) : Bool := off == 8 || (decide (0x1000 ≤ off) && decide (off < 0x1800) && (off % 0x100 == 0x44 || off % 0x100 == 0x48))

def hstPair (off : Nat) : Bool := decide (0x1000 ≤ off) && decide (off < 0x1800) && [0, 8, 0x10].contains (off % 0x100)

/-! ### PRT (R361, R420, R438) -/

/-- Stored registers of a PRT block. -/
def prtStored (off : Nat) : Bool :=
  [0x18, 0x1C, 0x20, 0x24, 0x100, 0x104, 0x108, 0x10C, 0x110, 0x11C, 0x120, 0x124, 0x128, 0x204, 0x20C, 0x214, 0x218, 0x21C,
    0x10000, 0x10004, 0x10008, 0x1000C, 0x10010, 0x10014, 0x10100, 0x10104, 0x10108, 0x1010C, 0x10110, 0x10114,
    0x10118].contains off

/-- `PRT_LD_PROG`. -/
def progSlots (s : State) (p : Nat) : Nat := bitsOf 64 fun n => match vget s.hst.progs n none with
  | some g => g.part == p
  | none => false

def dirView (e : TblEntry) : Nat :=
  bitAt e.cur.isSome 31 + bitAt e.standby.isSome 30 + (match e.cur with
    | some v => v.shards % 32 * 2 ^ 24
    | none => 0) + e.ver % 65536

def prtView (s : State) (p off : Nat) : Option Nat :=
  let x := partOf s p
  if prtStored off then some (rg s (prtKey p off))
  else if 0x10140 ≤ off ∧ off < 0x10180 ∧ off % 4 = 0 then some (dirView (vget x.tables ((off - 0x10140) / 4) {}))
  else match off with
    | 0x0000 => some (bitAt x.tblPause 9 + bitAt x.reset.isSome 8 + (ownerOf x).getD 7 * 32 + prClass x.record % 4 * 8
        + bitAt (prEn x.record) 0)
    | 0x0010 => some (lo32 x.memLines)
    | 0x0014 => some (hi32 x.memLines)
    | 0x0028 => some (s.slotNo % 64 * 2 ^ 24 + slotCode s 0x20 % 16 * 256 + slotCode s 0x21 % 16 * 16 + slotCode s 0x22 % 16)
    | 0x0114 => some 0
    | 0x0118 => some (x.mmuState % 8 + x.mmuRej % 16 * 256)
    | 0x0200 => some (lo32 x.preCnt)
    | 0x0208 => some (lo32 x.restartCnt)
    | 0x0210 => some (x.fltCode % 65536)
    | 0x10018 => some 0
    | 0x1001C => some (bitAt x.ld.busy 8 + x.ld.state % 8)
    | 0x10020 => some (x.ld.rej % 65536)
    | 0x10024 => some (lo32 x.ld.rejOff)
    | 0x10028 => some (x.ld.handle % 65536)
    | 0x1002C => some (lo32 x.ld.doneCnt)
    | 0x10030 => some (lo32 (progSlots s p))
    | 0x10034 => some (hi32 (progSlots s p))
    | 0x1011C => some 0
    | 0x10120 => some (x.tblState % 8 + x.tblId % 16 * 256 + x.tblCode % 65536 * 65536)
    | _ => none

def prtRc (off : Nat) : Bool := [0x18, 0x1C, 0x20, 0x24, 0x128, 0x11C, 0x20C, 0x204, 0x214, 0x218, 0x21C].contains off

def prtPair (off : Nat) : Bool :=
  [0x10, 0x100, 0x108, 0x120, 0x10000, 0x10008, 0x10030, 0x10100, 0x10108].contains off

/-! ### ING (R99) -/

/-- Key of an injection register: kept for each host port. -/
def injKey (r : Requester) (off : Nat) : Nat := rkey (1 + reqCode r) (0x0200000 + off)

def ingCtxView (s : State) (c o : Nat) : Option Nat :=
  let x := ingCtx s c
  match o with
  | 0x00 => some (bitAt (x.sweepOpen && x.degraded) 17 + bitAt (x.sweepOpen && x.nopose) 16
      + (if x.slice.isSome then x.lastIdx % 256 * 256 else 0) + (if x.sweepOpen then 2 else if x.en then 1 else 0))
  | 0x04 => some (lo32 x.seq)
  | 0x08 => some (lo32 x.tref)
  | 0x0C => some (hi32 x.tref)
  | 0x10 => some (min x.pts (2 ^ 32 - 1))
  | 0x14 | 0x18 | 0x1C | 0x20 => some (rg s (ingCtxReg c o))
  | _ => none

def ingView (s : State) (r : Requester) (off : Nat) : Option Nat :=
  if off % 4 ≠ 0 then none
  else if 0x1000 ≤ off ∧ off < 0x3000 then ingCtxView s ((off - 0x1000) / 0x40) (off % 0x40)
  else if 0x0400 ≤ off ∧ off < 0x0500 then if off % 0x20 < 0x18 then some (rg s (ingReg off)) else none
  else if 0x0100 ≤ off ∧ off < 0x0140 then some 0
  else if 0x0010 ≤ off ∧ off < 0x0020 then some (bitsOf 32 fun j => (ingCtx s (32 * ((off - 0x10) / 4) + j)).en)
  else match off with
    | 0x0000 => some s.ing.link.toNat
    | 0x0020 => some (s.ing.poseRej % 8 * 2 ^ 17 + (match s.ing.poses.getLast? with
        | some p => p.epoch % 256 * 256
        | none => 0) + s.ing.poses.length % 128)
    | 0x0028 => some (match s.ing.poses.getLast? with
        | some p => lo32 p.ts
        | none => 0)
    | 0x002C => some (match s.ing.poses.getLast? with
        | some p => hi32 p.ts
        | none => 0)
    | 0x0030 => some (rg s (ingReg 0x30))
    | 0x0200 | 0x0204 | 0x0208 | 0x020C => some 0
    | 0x0210 => some (match r with
        | .host h => 16 - (vget s.ing.inj h.val []).length
        | _ => 16)
    | 0x0214 | 0x0218 => some (rg s (injKey r off))
    | _ => none

def ingRc (off : Nat) : Bool :=
  off == 0x30 || off == 0x218
    || (decide (0x400 ≤ off) && decide (off < 0x500) && [4, 8, 0x0C, 0x10, 0x14].contains (off % 0x20))
    || (decide (0x1000 ≤ off) && decide (off < 0x3000) && [0x14, 0x18, 0x1C, 0x20].contains (off % 0x40))

def ingPair (off : Nat) : Bool :=
  off == 0x28 || off == 0x200 || (decide (0x1000 ≤ off) && decide (off < 0x3000) && off % 0x40 == 8)

/-! ### VOX (R129) -/

def voxStateCode (s : State) (c : Nat) : Nat :=
  let x := voxCtx s c
  if x.emitting || x.clearing || x.sealed.isSome then 3 else if x.inserting then 2 else if (ingCtx s c).en then 1 else 0

def voxCtxView (s : State) (c o : Nat) : Option Nat :=
  let x := voxCtx s c
  match o with
  | 0x00 => some (bitAt (s.vox.hold.any fun v => isHeldPt v && inCtx v == c) 15 + x.pages % 128 * 256 + bitAt x.req.isSome 7
      + bitAt x.folding 6 + x.level % 4 * 16 + voxStateCode s c)
  | 0x04 => some (lo32 x.live)
  | 0x08 => some (lo32 x.peak)
  | 0x0C => some (lo32 x.seq)
  | 0x10 | 0x14 | 0x18 | 0x1C | 0x20 => some (rg s (voxCtxReg c o))
  | 0x24 => some (lo32 (slotReq (ctxNat s c 0x20 * 4096)))
  | _ => none

def voxView (s : State) (off : Nat) : Option Nat :=
  if off % 4 ≠ 0 then none
  else if 0x1000 ≤ off ∧ off < 0x3000 then voxCtxView s ((off - 0x1000) / 0x40) (off % 0x40)
  else match off with
    | 0x0000 => some (s.vox.lastRej % 16 * 4096 + bitAt (s.vox.ctx.toList.any (·.emitting)) 9
        + bitAt (s.vox.ctx.toList.any (·.folding)) 8 + freePages s % 256)
    | 0x0004 => some (holdLevel s % 2 ^ 18)
    | 0x0008 => some (max (rg s (voxReg 8)) (holdLevel s) % 2 ^ 18)
    | 0x000C => some (rg s (voxReg 0x0C))
    | _ => none

def voxRc (off : Nat) : Bool :=
  off == 8 || off == 0x0C || (decide (0x1000 ≤ off) && decide (off < 0x3000) && [0x10, 0x14, 0x18, 0x1C].contains (off % 0x40))

/-! ### SEL (R300): no request is under way between two commands. -/

def selView (s : State) (off : Nat) : Option Nat :=
  match off with
  | 0x0000 => some (match s.sel.done with
      | some r => r.req.part % 8 * 256 + field r.req.blk 0 1 % 4 * 64 + field r.req.blk 1 1 % 2 * 32 + 8 * 2 + 1
      | none => 0)
  | 0x0004 => some ((List.range 8).map fun p => ((vget s.sel.queue p []).length + (match s.sel.done with
      | some r => bitAt (r.req.part == p) 0
      | none => 0)) % 8 * 2 ^ (3 * p)).sum
  | _ =>
    if [0x08, 0x0C, 0x10, 0x14, 0x18, 0x1C, 0x20, 0x1000, 0x1004, 0x1008, 0x100C, 0x1010, 0x1014, 0x1018].contains off
    then some (rg s (selKey off)) else none

def selRc (off : Nat) : Bool := [0x0C, 0x10, 0x14, 0x18, 0x1C, 0x20, 0x1004, 0x1008, 0x1010, 0x1018].contains off

/-! ### KC: core registers (R174, R322) -/

def tcCode : TcState → Nat
  | .free => 0
  | .admitted => 1
  | .running => 2
  | .preempted => 3
  | .draining => 4

def ccCode : CcState → Nat
  | .idle => 0
  | .running => 1
  | .qcommit => 2
  | .swait => 3
  | .ended => 4
  | .halted => 5
  | .stopped => 6

def spanView (a : Nat × Nat) : Nat := a.2 % 65536 * 65536 + a.1 % 65536

def tcView (x : Core) (n o : Nat) : Option Nat :=
  let t := tctx x n
  match o with
  | 0x00 => some (tcCode t.st + t.part % 8 * 256)
  | 0x04 => some (t.taggen % 2 ^ 24)
  | 0x08 => some (spanView (t.basinBase, t.basinBound))
  | 0x0C => some (spanView (t.cisBase, t.cisBound))
  | 0x10 => some (spanView (t.dmemBase, t.dmemBound))
  | _ => none

def runnelLen (x : Core) (e : Nat) : Nat := (vget x.run.runnels e []).length

def kcRingView (x : Core) (i : Nat) : Nat := match vget x.run.rings i none with
  | some g => 2 ^ 31 + bitAt g.checked 30 + g.prod % 8 * 2 ^ 27 + g.cons % 8 * 2 ^ 24 + (g.full.filter id).length % 512 * 2 ^ 15
  | none => 0

/-- The core runs the user code of a context. -/
def userMode (x : Core) : Bool := x.active.isSome && (ctxOf x).st != .draining

def tplValid (x : Core) : Nat := bitsOf 64 fun n => (vget x.tpl n none).isSome

def kcCoreView (s : State) (r : Requester) (c off : Nat) : Option Nat :=
  let x := coreOf s c
  if 0x100 ≤ off ∧ off < 0x180 then some (vget x.run.sems ((off - 0x100) / 4) 0 % 65536)
  else if 0x200 ≤ off ∧ off < 0x300 then tcView x ((off - 0x200) / 0x20) (off % 0x20)
  else if 0x400 ≤ off ∧ off < 0x440 then some (kcRingView x ((off - 0x400) / 4))
  else if 0x800 ≤ off ∧ off < 0x900 then some (vget x.run.cc.preg ((off - 0x800) / 4) 0).toNat
  else match off with
    | 0x000 => some (vget s.boot.width c 0xF % 16 * 2 ^ 20 + bitAt x.active.isSome 19 + x.active.getD 0 % 8 * 65536
        + bitsOf 8 fun n => (tctx x n).st != .free)
    | 0x004 => some (runnelLen x 4 * 2 ^ 26 + runnelLen x 3 * 2 ^ 20 + runnelLen x 2 * 2 ^ 14 + runnelLen x 1 * 2 ^ 7
        + runnelLen x 0)
    | 0x008 => some (x.run.sb.length % 128)
    | 0x00C => some (max (rg s (kreg c off)) (x.run.sb.length % 128))
    | 0x014 => some (aperBase s r c)
    | 0x900 => some (lo32 x.run.cc.commit)
    | 0x904 => some x.run.cc.written.toNat
    | 0x910 => some (lo32 (tplValid x))
    | 0x914 => some (hi32 (tplValid x))
    | _ => if [0x10, 0x18, 0x300, 0x304, 0x908, 0x90C].contains off then some (rg s (kreg c off)) else none

/-! ### KC: engine registers (R223, R251, R274) -/

def flightsOf (x : Core) (e : Nat) : List Flight := x.run.flight.filter (·.eng == e)

def meMode (x : Core) : Nat := match (flightsOf x 0).find? fun f => f.done && !passEmpty (passOf f.d.w) with
  | some f => if wbits f.d.w 0 0 8 = 2 then 2 else if passMvp (passOf f.d.w) then 3 else 1
  | none => 0

def kcMeView (s : State) (c off : Nat) : Option Nat :=
  let x := coreOf s c
  let n := (flightsOf x 0).length
  match off with
  | 0x1000 => some (min n 2 * 16 + meMode x * 4 + bitAt (x.stop.isSome || (ctxOf x).st == .draining) 1 + bitAt (n != 0) 0)
  | 0x1004 => some (widthCode x.quads x.cause % 16 * 2 ^ 20
      + (if widthCode x.quads x.cause = 0xF then x.cause % 16 * 65536 else 0) + x.quads.toNat)
  | _ =>
    if [0x1008, 0x1010, 0x1014, 0x1018, 0x101C, 0x1020, 0x1024, 0x1028, 0x1030, 0x1034, 0x1038, 0x103C, 0x1040].contains off
    then some (rg s (kreg c off)) else none

/-- Word index of the microkernel under way, and whether it stands frozen. -/
def veNow (x : Core) : Nat × Bool := match (flightsOf x 1).find? fun f => !f.done with
  | some f => match f.ve with
    | some p => ((wbits f.d.w 0 12 12 + p.k % (wbits f.d.w 11 0 12 + 1)) % 4096, f.failed.isNone)
    | none => (0, false)
  | none => (0, false)

def kcVeView (s : State) (c off : Nat) : Option Nat :=
  let x := coreOf s c
  if 0x1820 ≤ off ∧ off < 0x1840 then some (vget x.run.cc.red ((off - 0x1820) / 4) 0).toNat
  else match off with
    | 0x1800 => some ((veNow x).1 * 65536
        + bitAt ((flightsOf x 0).any fun f => f.done && (passOf f.d.w).epi && !passEmpty (passOf f.d.w)) 2
        + bitAt (veNow x).2 1 + bitAt (!(flightsOf x 1).isEmpty) 0)
    | 0x1844 => some (x.run.link.length % 4 * 256 + x.run.linkPart.length % 256)
    | _ => if [0x1804, 0x1808, 0x180C, 0x1810, 0x1840, 0x1848].contains off then some (rg s (kreg c off)) else none

def kcGeView (s : State) (c off : Nat) : Option Nat :=
  if off = 0x2000 then
    some (match (flightsOf (coreOf s c) 2).head? with
      | some f => (wbits f.d.w 0 0 8 - 0x3F) % 16 * 2 + 1
      | none => 0)
  else if 0x2004 ≤ off ∧ off ≤ 0x2028 then some (rg s (kreg c off)) else none

def kcDeView (s : State) (c off : Nat) : Option Nat :=
  let x := coreOf s c
  if 0x2840 ≤ off ∧ off < 0x2860 then
    let f := vget x.run.fwd ((off - 0x2840) / 4) {}
    some (bitAt f.valid 31 + f.tcore % 16 * 2 ^ 27 + f.tring % 16 * 2 ^ 23 + f.setup % 16 * 2 ^ 19 + f.credits % 512)
  else match off with
    | 0x2800 => some (bitAt ((flightsOf x 4).any fun f => wbits f.d.w 0 0 8 == 0x81) 1 + bitAt (!(flightsOf x 3).isEmpty) 0)
    | 0x2808 | 0x280C | 0x2860 | 0x2864 => some (rg s (kreg c off))
    | _ => none

def kcCeView (s : State) (c off : Nat) : Option Nat :=
  let x := coreOf s c
  if 0x2C10 ≤ off ∧ off < 0x2C30 then
    let k := vget x.run.cur ((off - 0x2C10) / 8) (0, 0)
    some (lo32 (if off % 8 = 0 then k.1 else k.2))
  else match off with
    | 0x2C00 => some (((match x.active with
        | some n => (tctx x n).dcut
        | none => 40) % 128) * 256)
    | 0x2C30 | 0x2C34 | 0x2C38 | 0x2C3C | 0x2C40 => some (rg s (kreg c off))
    | _ => none

/-! ### KC: Basin, Cistern and control core (R199, R347) -/

def wwView (x : Core) (p : Nat) : Nat := match vget x.ww p none with
  | some w => 2 ^ 31 + w.part % 8 * 2 ^ 28 + w.bound % 4096 * 65536 + w.base % 4096
  | none => 0

/-- The block that a requester has selected. -/
def wblkSel (s : State) (r : Requester) (c : Nat) : Nat := rg s (rkey (1 + reqCode r) (0x1003040 + c * 0x100000)) % 2048

/-- Conflict counters. -/
def confReg (off : Nat) : Bool :=
  (decide (0x3100 ≤ off) && decide (off < 0x31AC)) || (decide (0x3200 ≤ off) && decide (off < 0x3258))

def kcMemView (s : State) (r : Requester) (c off : Nat) : Option Nat :=
  let x := coreOf s c
  if 0x3020 ≤ off ∧ off < 0x3040 then some (wwView x ((off - 0x3020) / 4))
  else if confReg off then some (rg s (kreg c off))
  else match off with
    | 0x3010 => some (x.scrub % 2 ^ 17)
    | 0x3040 => some (wblkSel s r c)
    | 0x3044 => some ((wblkOf x (wblkSel s r c)).1 % 8)
    | 0x3048 => let b := wblkOf x (wblkSel s r c); some (if b.1 ≤ 1 then 0 else lo32 b.2)
    | 0x3000 | 0x3004 | 0x3008 | 0x300C | 0x3014 | 0x3018 => some (rg s (kreg c off))
    | _ => none

def kcCcView (s : State) (c off : Nat) : Option Nat :=
  let x := coreOf s c
  match off with
  | 0x3800 => some (bitAt (x.active.isSome && x.run.cc.rsv.isSome) 8 + bitAt (!userMode x) 3
      + (if x.active.isSome then ccCode x.run.cc.st else 0))
  | 0x3804 => some (lo32 x.run.cc.leader.pc)
  | 0x3808 => some (lo32 x.run.cc.instret)
  | 0x380C => some (hi32 x.run.cc.instret)
  | _ => if 0x3810 ≤ off ∧ off < 0x3830 then some (rg s (kreg c off)) else none

/-- The core window below its peek aliases. -/
def kcView (s : State) (r : Requester) (c off : Nat) : Option Nat :=
  if off % 4 ≠ 0 then none
  else if off < 0x1000 then kcCoreView s r c off
  else if off < 0x1800 then kcMeView s c off
  else if off < 0x2000 then kcVeView s c off
  else if off < 0x2800 then kcGeView s c off
  else if off < 0x2C00 then kcDeView s c off
  else if off < 0x3000 then kcCeView s c off
  else if off < 0x3800 then kcMemView s r c off
  else if off < 0x4000 then kcCcView s c off
  else none

def kcRc (off : Nat) : Bool :=
  [0x0C, 0x10, 0x300, 0x304, 0x90C, 0x1018, 0x101C, 0x1020, 0x1024, 0x1028, 0x1034, 0x1038, 0x103C, 0x1040, 0x180C, 0x1810,
    0x1840, 0x1848, 0x2004, 0x2008, 0x2010, 0x2014, 0x2018, 0x201C, 0x2020, 0x2024, 0x2028, 0x2860, 0x2864, 0x2C34, 0x2C38,
    0x2C3C, 0x2C40, 0x3000, 0x3004, 0x3008, 0x300C, 0x3018, 0x3810, 0x3814, 0x3818, 0x381C, 0x3820, 0x3824, 0x3828,
    0x382C].contains off || (off % 4 == 0 && confReg off)

def kcPair (off : Nat) : Bool := [0x910, 0x1010, 0x2808, 0x3808].contains off

end Sys2Proof.Machine
end

