-- ==== Sys2Proof/Machine/Regs.lean ====
section
/-! DEFINITION. BAR0 accesses to registers (R16 to R22, R37 to R41, R460, R553 to R556): reads with their latches and
clears, writes block by block, the debug port's accesses through DBGAP (R552). -/

namespace Sys2Proof.Machine

/-! ### The address map (R37) -/

inductive Blk where
  | glb
  | hst
  | mbx
  | prt (p : Nat)
  | ing
  | vox
  | sel
  | saf
  | img
  | kc (c : Nat)
  | reserved
  deriving DecidableEq, Repr

/-- Block and offset of an address. -/
def blkOf (a : Nat) : Blk × Nat :=
  if a < 0x10000 then (.glb, a)
  else if a < 0x20000 then (.hst, a - 0x10000)
  else if a < 0x30000 then (.mbx, a - 0x20000)
  else if 0x100000 ≤ a ∧ a < 0x200000 then (.prt ((a - 0x100000) / 0x20000), (a - 0x100000) % 0x20000)
  else if 0x200000 ≤ a ∧ a < 0x280000 then (.ing, a - 0x200000)
  else if 0x280000 ≤ a ∧ a < 0x300000 then (.vox, a - 0x280000)
  else if 0x300000 ≤ a ∧ a < 0x310000 then (.sel, a - 0x300000)
  else if 0x400000 ≤ a ∧ a < 0x500000 then (.saf, a - 0x400000)
  else if 0x500000 ≤ a ∧ a < 0x510000 then (.img, a - 0x500000)
  else if 0x1000000 ≤ a ∧ a < 0x2000000 then (.kc ((a - 0x1000000) / 0x100000), (a - 0x1000000) % 0x100000)
  else (.reserved, 0)

/-- The value of a register, without side effects. -/
def blkView (s : State) (r : Requester) : Blk → Nat → Option Nat
  | .glb, o => glbView s r o
  | .hst, o => match r with
    | .host h => hstView s h.val o
    | _ => none
  | .mbx, o => match mbxOf r with
    | some i => mbxView s i o
    | none => none
  | .prt p, o => prtView s p o
  | .ing, o => ingView s r o
  | .vox, o => voxView s o
  | .sel, o => selView s o
  | .saf, o => safBlock s o
  | .img, o => imgView s r o
  | .kc c, o => kcView s r c o
  | .reserved, _ => none

/-- RC registers (R17). -/
def blkRc : Blk → Nat → Bool
  | .glb, o => o == 0x20 || o == 0x24
  | .hst, o => hstRc o
  | .prt _, o => prtRc o
  | .ing, o => ingRc o
  | .vox, o => voxRc o
  | .sel, o => selRc o
  | .saf, o => safRc o
  | .kc _, o => kcRc o
  | _, _ => false

/-- `_LO` registers of pairs (R22). -/
def blkPair : Blk → Nat → Bool
  | .glb, o => o == 0x08 || o == 0x10
  | .hst, o => hstPair o
  | .prt _, o => prtPair o
  | .ing, o => ingPair o
  | .saf, o => safPair o
  | .img, o => o == 0x18
  | .kc _, o => kcPair o
  | _, _ => false

/-- The `_HI` register of a pair. -/
def blkPairHi (b : Blk) (o : Nat) : Bool := decide (4 ≤ o) && blkPair b (o - 4)

/-- A peek alias: 0x4000 above an RC register of its block (R18). -/
def isPeek (b : Blk) (o : Nat) : Bool := decide (0x4000 ≤ o) && blkRc b (o - 0x4000)

/-- What a 32-bit read shows of a register or of a peek alias; reserved addresses read 0 (R21). -/
def regShow (s : State) (r : Requester) (b : Blk) (o : Nat) : Nat :=
  (blkView s r b (if isPeek b o then o - 0x4000 else o)).getD 0

/-! ### Reads -/

/-- What stands in the way of a read (R39, R41, R364, R460, R481). -/
inductive ReadGate where
  | pass
  | zero
  | deny
  deriving DecidableEq, Repr

def passIf (b : Bool) : ReadGate := if b then .pass else .deny

/-- The ring set that a read of HST reaches, its peek aliases included. -/
def ringSetAt (o : Nat) : Option Nat := ringAtOff (if isPeek .hst o then o - 0x4000 else o)

def readGate (s : State) (r : Requester) (b : Blk) (o : Nat) : ReadGate :=
  match b with
  | .glb | .saf => .pass
  | .img => passIf (imgReader s r)
  | .mbx => if isReady s || s.saf.mgtUp then .pass else .zero
  | .reserved => .zero
  | .prt p => if isReady s then passIf (reaches s r (some p) false) else .zero
  | .hst =>
    if !isReady s then .zero
    else match r, ringSetAt o with
      | .host h, some p => passIf (ownerOf (partOf s p) == some h.val)
      | _, _ => .pass
  | _ => if isReady s then .pass else .zero

/-- Clears an RC register after its read (R17). -/
def rcClear (r : Requester) (b : Blk) (o : Nat) (s : State) : State :=
  match b with
  | .glb => regPut (rkey (1 + reqCode r) o) 0 s
  | .hst => match r, ringAtOff o with
    | .host _, some p =>
      let g := ringsOf s p
      setRings p (if o % 0x100 = 0x44 then { g with refuse := 0 } else { g with lastRefCode := 0, lastRefIdx := 0 }) s
    | .host h, none => { s with hst := { s.hst with ports := vmod s.hst.ports h.val {} fun x => { x with staleCnt := 0 } } }
    | _, _ => s
  | .prt p => regPut (prtKey p o) 0 s
  | .ing => regPut (if o = 0x218 then injKey r o else ingReg o) 0 s
  | .vox => regPut (voxReg o) 0 s
  | .sel => regPut (selKey o) 0 s
  | .saf => match o with
    | 0x18 => { s with tb := { s.tb with skewFlt := 0 } }
    | 0x8004 => { s with clk := { s.clk with fail := 0 } }
    | 0x1018 => { s with saf := { s.saf with slack := 0xFFFFFFFF } }
    | _ => regPut (rkey 0 (0x0400000 + o)) 0 s
  | .kc c => regPut (kreg c o) 0 s
  | _ => s

/-- Key of a requester's latch and staging for a pair, by the address of its `_LO`. -/
def pairKey (r : Requester) (lo : Nat) : Nat := rkey (1 + reqCode r) lo

def latchPut (r : Requester) (lo v : Nat) (s : State) : State := { s with latch := smSet upZero s.latch (pairKey r lo) v }

/-- A 32-bit read that nothing stands in the way of. -/
def read32 (r : Requester) (b : Blk) (o addr : Nat) (s : State) : State :=
  if b = .saf ∧ o = 0xA040 then let t := nonceDraw s; setReply r (nonceWord t 0) t
  else if blkPair b o then setReply r (regShow s r b o) (latchPut r addr (regShow s r b (o + 4)) s)
  else if blkPairHi b o then setReply r (smGet upZero s.latch (pairKey r (addr - 4))) s
  else if blkRc b o && r != .dbg then setReply r (regShow s r b o) (rcClear r b o s)
  else setReply r (regShow s r b o) s

/-- A 64-bit read at the `_LO` of a pair (R38). -/
def read64 (r : Requester) (b : Blk) (o addr : Nat) (s : State) : State :=
  let hi := regShow s r b (o + 4)
  setReply r (regShow s r b o + 2 ^ 32 * hi) (latchPut r addr hi s)

/-- A read of BAR0. -/
def barRead (r : Requester) (addr size : Nat) (s : State) : State :=
  let b := blkOf addr
  if !linked s r then s
  else if (aperOf addr).isSome then aperReadCmd r addr size s
  else match readGate s r b.1 b.2 with
    | .zero => setReply r 0 s
    | g =>
      let w := size = 4 ∧ addr % 4 = 0
      if !decide w && !(size == 8 && addr % 8 == 0 && blkPair b.1 b.2) then setReply r 0 s
      else if g = .deny then setReply r 0 (denyAccess r s)
      else if size = 4 then read32 r b.1 b.2 addr s
      else read64 r b.1 b.2 addr s

/-- RC_READ (R17 to R19), and a 32-bit read of any other register. -/
def execRcRead (r : Requester) (addr size : Nat) (s : State) : Host.Outcome State Fault Refusal := .next (barRead r addr size s)

/-- PAIR_LO_READ (R22, R38). -/
def execPairLoRead (r : Requester) (addr size : Nat) (s : State) : Host.Outcome State Fault Refusal :=
  .next (barRead r addr size s)

/-! ### Pair writes (R22) -/

/-- A write of a `_LO` stages its word. -/
def stagePut (r : Requester) (lo v : Nat) (s : State) : State := { s with stage := smSet upZero s.stage (pairKey r lo) v }

def stageGet (s : State) (r : Requester) (lo : Nat) : Nat := smGet upZero s.stage (pairKey r lo)

/-- A write to a pair held as two stored registers: `_LO` stages, `_HI` commits both words. -/
def pairPut (r : Requester) (klo : Nat) (addr : Nat) (hi : Bool) (v : Nat) (s : State) : State :=
  if hi then
    stagePut r (addr - 4) 0 (regPut (klo + 4) (BitVec.ofNat 32 v) (regPut klo (BitVec.ofNat 32 (stageGet s r (addr - 4))) s))
  else stagePut r addr v s

/-! ### HST (R362, R366, R388) -/

/-- A write of `HST_Pp_SIZE`: a field outside its range keeps its value and is counted (R21). -/
def ringSize (r : Requester) (p v : Nat) (s : State) : State :=
  let g := ringsOf s p
  let a := bits v 0 4
  let b := bits v 8 4
  let d := bits v 16 5
  let okA := between 4 12 a
  let okB := between 6 16 b
  let okD := between 19 26 d
  let s := setRings p { g with
    sqLog := if okA then a else g.sqLog, cqLog := if okB then b else g.cqLog, rqLog := if okD then d else g.rqLog } s
  if okA && okB && okD then s else ignWrite r s

/-- A write of a ring base: `_LO` stages, `_HI` commits. -/
def ringBase (r : Requester) (p o addr v : Nat) (s : State) : State :=
  if o % 8 = 0 then stagePut r addr v s
  else
    let x := stageGet s r (addr - 4) + 2 ^ 32 * v
    let g := ringsOf s p
    stagePut r (addr - 4) 0 (setRings p (match o with
      | 0x04 => { g with sqBase := x }
      | 0x0C => { g with cqBase := x }
      | _ => { g with rqBase := x }) s)

/-- A write to a ring set's registers by its owner. -/
def ringWrite (r : Requester) (p o addr v : Nat) (s : State) : State :=
  if o < 0x1C then
    ringGate r p (fun s =>
      if (ringsOf s p).en then ignWrite r s else if o = 0x18 then ringSize r p v s else ringBase r p o addr v s) s
  else match o with
    | 0x1C => if bitOf v 0 then ringEnable r p v s else ringDisable r p v s
    | 0x20 => sqDoorbell r p v s
    | 0x28 => cqDoorbell r p v s
    | 0x30 => rqDoorbell r p v s
    | _ => ringGate r p (ignWrite r) s

/-- A write to the MSI-X table: unmasking a vector sends its pending message (R387). -/
def msixWrite (h o v : Nat) (s : State) : State :=
  let x := vget s.hst.ports h {}
  let n := o / 16
  let put (x : HostPort) (s : State) : State := { s with hst := { s.hst with ports := vset s.hst.ports h x } }
  if o % 16 = 12 then
    let b := 1#64 <<< n
    if bitOf v 0 then put { x with mask := x.mask ||| b } s
    else
      let s := put { x with mask := x.mask &&& ~~~b, pba := x.pba &&& ~~~b } s
      if x.pba.getLsbD n then sendMsix h n s else s
  else put { x with msixTbl := smSet (fun _ => 0) x.msixTbl o (BitVec.ofNat 32 v) } s

def hstWrite (r : Requester) (o addr v : Nat) (s : State) : State :=
  match r, ringSetAt o with
  | .host h, none =>
    blockGate r (fun s => if 0xC000 ≤ o ∧ o < 0xC400 then msixWrite h.val (o - 0xC000) v s else ignWrite r s) s
  | .host _, some p => ringWrite r p (if isPeek .hst o then 0xFF else o % 0x100) addr v s
  | _, _ => blockGate r (ignWrite r) s

/-! ### PRT (R361, R403, R420) -/

/-- A field whose written code is reserved keeps its value, and the write is counted (R21). -/
def putField (r : Requester) (k lo len v : Nat) (ok : Bool) (keep : Nat) (s : State) : State :=
  let old := (regGet s k).toNat
  let new := if ok then keep else putBits keep lo len (bits old lo len)
  let s := regPut k (BitVec.ofNat 32 new) s
  if ok then s else let _ := v; ignWrite r s

/-- RW registers of a PRT block that stand alone. -/
def prtPlain (o : Nat) : Bool := [0x110, 0x10010, 0x10110, 0x10114].contains o

/-- RW pairs of a PRT block. -/
def prtRwPair (o : Nat) : Bool := [0x100, 0x108, 0x10000, 0x10008, 0x10100, 0x10108].contains o

def prtWrite (r : Requester) (p o addr v : Nat) (s : State) : State :=
  match o with
  | 0x10018 => ldCmd r p v s
  | 0x1011C => tblCmd r p v s
  | 0x114 =>
    if v % 4 = 1 then mmuCopyCmd r p s else if v % 4 = 2 then mmuGate r p (tcInval p) s else prtGate r p (ignWrite r) s
  | _ =>
    prtGate r p (fun s =>
      if prtPlain o then regPut (prtKey p o) (BitVec.ofNat 32 v) s
      else if prtRwPair o then pairPut r (prtKey p o) addr false v s
      else if prtRwPair (o - 4) && decide (4 ≤ o) then pairPut r (prtKey p (o - 4)) addr true v s
      else match o with
        | 0x10014 => putField r (prtKey p o) 16 2 v (bits v 16 2 != 3) (v % 2 ^ 18) s
        | 0x10118 => putField r (prtKey p o) 0 5 v (between 1 16 (bits v 0 5)) (v / 65536 * 65536 + bits v 0 5) s
        | _ => ignWrite r s) s

/-! ### ING (R66, R88, R99) -/

/-- A word of the staged pose, from `POSE_PORT` alone. -/
def poseWord (r : Requester) (o v : Nat) (s : State) : State :=
  blockGate r (fun s =>
    match r with
    | .host h => if h.val = odNat s 0x2400 9 then regPut (ingReg o) (BitVec.ofNat 32 v) s else denyAccess r s
    | _ => poseDenied r s) s

def ingWrite (r : Requester) (o addr v : Nat) (s : State) : State :=
  if 0x100 ≤ o ∧ o < 0x13C then poseWord r o v s
  else if o = 0x13C then poseCommit r v s
  else match r, o with
    | .host _, 0x200 => blockGate r (pairPut r (injKey r 0x200) addr false v) s
    | .host _, 0x204 => blockGate r (pairPut r (injKey r 0x200) addr true v) s
    | .host _, 0x208 => blockGate r (regPut (injKey r 0x208) (BitVec.ofNat 32 v)) s
    | .host _, 0x20C => injEnqueue r v s
    | _, _ => blockGate r (ignWrite r) s

/-! ### KC (R174, R199, R555) -/

/-- The requester may write the window of a core: a host port any, the debug port one of a partition it may reach. -/
def kcWritable (s : State) (r : Requester) (c : Nat) : Bool :=
  match r with
  | .host _ => true
  | .dbg => (List.range 8).any fun p => dbgPart s p && prEn (recOf s p) && bitOf (prCores (recOf s p)) c
  | _ => false

def kcWrite (r : Requester) (c o addr v : Nat) (s : State) : State :=
  blockGate r (fun s =>
    if !kcWritable s r c then ignWrite r s
    else
      let k := rkey (1 + reqCode r) addr
      match o with
      | 0x14 => putField r k 30 2 v (bits v 30 2 != 3) (bits v 30 2 * 2 ^ 30 + bits v 0 4) s
      | 0x3040 => regPut k (BitVec.ofNat 32 (v % 2048)) s
      | _ => ignWrite r s) s

/-! ### IMG, the OD mailbox, DBG -/

def imgWrite (r : Requester) (o addr v : Nat) (s : State) : State :=
  blockGate r (fun s =>
    match o with
    | 0x04 => imgTrigWrite r v s
    | 0x0C => imgRearmWrite r v s
    | 0x10 => if r = .dbg then ignWrite r s else regPut (rkey (1 + reqCode r) addr) (BitVec.ofNat 32 (v % 8)) s
    | _ => ignWrite r s) s

/-- A write to the requester's mailbox (R490, R491). -/
def mbxWrite (r : Requester) (o v : Nat) (s : State) : State :=
  match mbxOf r with
  | none => s
  | some i =>
    let m := mbxGet s i
    let idle (k : State → State) (s : State) : State := if m.state = 1 then ignWrite r s else k s
    if !isReady s && !s.saf.mgtUp then (if s.saf.latch then ignWrite r s else s)
    else if r = .dbg ∧ !s.dbg.en then ignWrite r s
    else match o with
      | 0x00 => idle (mbxPut i { m with addr := v % 2 ^ 24 }) s
      | 0x04 => idle (mbxPut i { m with len := v % 2 ^ 17 }) s
      | 0x08 => if v % 4 = 1 then mbxStart r false s else if v % 4 = 2 then mbxStart r true s else ignWrite r s
      | 0x18 => mbxPut i { m with irq := v % 128 } s
      | _ =>
        if 0x8000 ≤ o ∧ o < 0x10000 then idle (mbxPut i { m with data := smSetList byteZero m.data (o - 0x8000) (leBytes 4 v) }) s
        else ignWrite r s

/-- A write of the debug port to a DBG register (R41, R555, R562). -/
def dbgRegWrite (o v : Nat) (s : State) : State :=
  let c := s.dbg.core
  if o = 0xA004 then dbgCtrl v s
  else if 0xA100 ≤ o ∧ o < 0xA200 then
    { s with dbg := { s.dbg with auth := smSetList authByte s.dbg.auth (o - 0xA100) (leBytes 4 v) } }
  else if !s.dbg.en then ignWrite .dbg s
  else match o with
    | 0xA008 => dbgHalt (v % 65536) s
    | 0xA00C => dbgResume (v / 65536 % 65536) true (dbgResume (v % 65536) false s)
    | 0xA010 => { s with dbg := { s.dbg with core := v % 16 } }
    | 0xA01C => { s with dbg := { s.dbg with gpr := v % 32 } }
    | 0xA020 => dbgGprWrite v s
    | 0xA024 => setHalt c { haltOf s c with brkCnt := v } s
    | 0xA028 => if v % 4 = 3 then ignWrite .dbg s else setHalt c { haltOf s c with brkMode := v % 4 } s
    | 0xA02C => { s with dbg := { s.dbg with brkTag := v % 2 ^ 29 } }
    | 0xA060 =>
      if s.fuses.dbgMode = 1 ∧ v / 65536 = 0x5356 ∧ v % 65536 = (s.fuses.svn + 1) % 65536 then
        { s with fuses := { s.fuses with svn := s.fuses.svn + 1 } }
      else ignWrite .dbg s
    | _ => ignWrite .dbg s

/-! ### Writes -/

/-- A 32-bit write. -/
def write32 (r : Requester) (addr v : Nat) (s : State) : State :=
  let b := blkOf addr
  let o := b.2
  match b.1 with
  | .glb | .reserved => ignWrite r s
  | .saf => if r = .dbg ∧ 0xA000 ≤ o ∧ o < 0xA200 then dbgRegWrite o v s else blockGate r (ignWrite r) s
  | .img => imgWrite r o addr v s
  | .mbx => mbxWrite r o v s
  | .hst => hstWrite r o addr v s
  | .prt p => prtWrite r p o addr v s
  | .ing => ingWrite r o addr v s
  | .vox | .sel => blockGate r (ignWrite r) s
  | .kc c => kcWrite r c o addr v s

/-- A write that R38 does not accept: counted, but where R41 silences the block. -/
def writeRefused (r : Requester) (addr : Nat) (s : State) : State :=
  match (blkOf addr).1 with
  | .glb | .reserved => ignWrite r s
  | .mbx => if isReady s || s.saf.mgtUp || s.saf.latch then ignWrite r s else s
  | _ => blockGate r (ignWrite r) s

/-- A write of BAR0 (R38). -/
def barWrite (r : Requester) (addr size v : Nat) (s : State) : State :=
  let b := blkOf addr
  if !linked s r then s
  else if (aperOf addr).isSome then aperWriteCmd r addr size v s
  else if size = 4 ∧ addr % 4 = 0 then write32 r addr (v % 2 ^ 32) s
  else if size = 8 ∧ addr % 8 = 0 ∧ blkPair b.1 b.2 then write32 r (addr + 4) (v / 2 ^ 32 % 2 ^ 32) (write32 r addr (v % 2 ^ 32) s)
  else writeRefused r addr s

/-- REGISTER_WRITE (R17, R21, R38, R39). -/
def execRegisterWrite (r : Requester) (addr size : Nat) (v : Nat) (s : State) : Host.Outcome State Fault Refusal :=
  .next (barWrite r addr size v s)

/-- PAIR_HI_WRITE (R22, R38). -/
def execPairHiWrite (r : Requester) (addr size : Nat) (v : Nat) (s : State) : Host.Outcome State Fault Refusal :=
  .next (barWrite r addr size v s)

/-- IMG_TRIG (R476, R560). -/
def execImgTrig (r : Requester) (v : Nat) (s : State) : Host.Outcome State Fault Refusal :=
  .next (blockGate r (imgTrigWrite r v) s)

/-- IMG_REARM (R477). -/
def execImgRearm (r : Requester) (v : Nat) (s : State) : Host.Outcome State Fault Refusal :=
  .next (blockGate r (imgRearmWrite r v) s)

/-! ### DBGAP (R552, R556) -/

/-- The result of an access, as the next Capture-DR shows it: 0 done, 2 refused or ignored. -/
def apResult (before after : State) : Nat :=
  let k (o : Nat) (s : State) : Nat := rg s (rkey 9 o)
  if k 0x20 before = k 0x20 after ∧ k 0x24 before = k 0x24 after then 0 else 2

/-- DBGAP_READ: a 32-bit read. -/
def execDbgapRead (waddr : Nat) (s : State) : Host.Outcome State Fault Refusal :=
  .next (
    if !linked s .dbg then s
    else
      let t := barRead .dbg (4 * (waddr % 2 ^ 24)) 4 s
      { t with dbg := { t.dbg with ir := 0x20, apData := (vget t.reply 8 0).toNat % 2 ^ 32, apStat := apResult s t } })

/-- DBGAP_WRITE: a 32-bit write. -/
def execDbgapWrite (waddr : Nat) (v : Nat) (s : State) : Host.Outcome State Fault Refusal :=
  .next (
    if !linked s .dbg then s
    else
      let t := barWrite .dbg (4 * (waddr % 2 ^ 24)) 4 v s
      { t with dbg := { t.dbg with ir := 0x20, apStat := apResult s t } })

/-! ### Imago sets (R476 to R478) -/

/-- Every defined register of a block between two offsets, in ascending order, with its offset. -/
def blkWords (view : Nat → Option Nat) (lo n : Nat) : List (Nat × Word) :=
  (List.range n).filterMap fun i => (view (lo + 4 * i)).map fun v => (lo + 4 * i, BitVec.ofNat 32 v)

/-- Registers kept for each requester: the set does not say whose value it holds. -/
def freeWords (own : Nat → Bool) (k : Nat) (l : List (Nat × Word)) : List Word :=
  l.map fun e => if own e.1 then Config.imagoWord (k + e.1) else e.2

/-- The scoreboard of a core: 64 entries of two words. -/
def sbWords (x : Core) : List Word :=
  (List.range 64).flatMap fun i => match x.run.sb[i]? with
    | some e => (List.range 2).map fun j => Config.sbWord e.eng e.commit e.cis e.lo e.hi e.write j
    | none => [0, 0]

/-- The Imago set of an island; `k` numbers its free values. -/
def imagoSet (s : State) (k isl : Nat) : List Word :=
  if isl < 16 then
    let x := coreOf s isl
    freeWords (fun o => [0x14, 0x3040, 0x3044, 0x3048].contains o) k (blkWords (kcView s .dbg isl) 0 4096)
      ++ ((List.range 5).flatMap fun e => match vget x.run.runnels e [] with
        | d :: _ => (List.range 16).map fun i => d.w.getD i 0
        | [] => List.replicate 16 0)
      ++ sbWords x
  else match isl with
    | 16 =>
      ((List.range 8).flatMap fun p => (blkWords (prtView s p) 0 32768).map (·.2))
        ++ ((List.range 64).map fun i => BitVec.ofNat 32 (vget s.sems i 0))
        ++ (List.range 512).map fun i => Config.imagoWord (k + i)
    | 17 => freeWords (fun o => decide (0x200 ≤ o) && decide (o < 0x220)) k (blkWords (ingView s .dbg) 0 4096)
    | 18 => (blkWords (voxView s) 0 4096).map (·.2)
    | 19 => (blkWords (selView s) 0 4096).map (·.2) ++ List.replicate 32 0
    | 21 =>
      freeWords (fun o => decide (0x1C ≤ o)) k (blkWords (glbView s .dbg) 0 10)
        ++ (List.range 4).flatMap fun h => (blkWords (hstView s h) 0 1536).map (·.2)
    | 22 => (List.range 16).map fun i => Config.mgtWord (k + i)
    | 23 =>
      (blkWords (safBlock s) 0 3072).map (·.2)
        ++ (List.range 512).flatMap fun j => match (monGet s j).bind (·.deadline) with
          | some d => [BitVec.ofNat 32 d, BitVec.ofNat 32 (d / 2 ^ 32)]
          | none => [0xFFFFFFFF, 0xFFFFFFFF]
    | _ => []

/-- Free values that one island's set can use. -/
def imagoFree : Nat := 65536

/-- IMAGO_LATCH (R476): at C every island latches its set, but one whose clock has failed. -/
def execImagoLatch (s : State) : Host.Outcome State Fault Refusal :=
  .next (
    if s.img.phase = .pending ∧ s.img.capt ≤ s.tb.master then
      let sets := (List.range 24).map fun i =>
        (⟨i, vget s.tb.seq i 0, if s.clk.failing.getLsbD i then none else some (imagoSet s (s.free + i * imagoFree) i)⟩ : ImgSet)
      journal 23 6 0 s.img.trig (noJobTag none) s.img.capno s.img.src 0
        { s with img := { s.img with phase := .transferring, sets := sets }, free := s.free + 24 * imagoFree }
    else s)

end Sys2Proof.Machine
end

