-- ==== Sys2Proof/Machine/Dispatch.lean ====
section
/-! DEFINITION. One arm per command of spec/opcode_table.json: the direct call of its meaning. -/

namespace Sys2Proof.Machine

def exec (i : Instr) (s : State) : Host.Outcome State Fault Refusal :=
  match i with
  | .registerWrite r addr size v => Sys2Proof.Machine.execRegisterWrite r addr size v s
  | .rcRead r addr size => Sys2Proof.Machine.execRcRead r addr size s
  | .pairLoRead r addr size => Sys2Proof.Machine.execPairLoRead r addr size s
  | .pairHiWrite r addr size v => Sys2Proof.Machine.execPairHiWrite r addr size v s
  | .replicaRefresh isl lag => Sys2Proof.Machine.execReplicaRefresh isl lag s
  | .gptpFrameRx mac f => Sys2Proof.Machine.execGptpFrameRx mac f s
  | .syncMissing => Sys2Proof.Machine.execSyncMissing s
  | .holdoverExpiry => Sys2Proof.Machine.execHoldoverExpiry s
  | .gptpSyncTx => Sys2Proof.Machine.execGptpSyncTx s
  | .gptpAnnounceTx => Sys2Proof.Machine.execGptpAnnounceTx s
  | .ppsOutPulse => Sys2Proof.Machine.execPpsOutPulse s
  | .frameRx mac frame fcsOk => Sys2Proof.Machine.execFrameRx mac frame fcsOk s
  | .packetParse mac => Sys2Proof.Machine.execPacketParse mac s
  | .deskewPoint => Sys2Proof.Machine.execDeskewPoint s
  | .sweepMaxExpiry ctx => Sys2Proof.Machine.execSweepMaxExpiry ctx s
  | .streamGap ctx => Sys2Proof.Machine.execStreamGap ctx s
  | .sliceGraceExpiry ctx => Sys2Proof.Machine.execSliceGraceExpiry ctx s
  | .injEnqueue r v => Sys2Proof.Machine.execInjEnqueue r v s
  | .injBlockReadDone h data => Sys2Proof.Machine.execInjBlockReadDone h data s
  | .poseCommit r v => Sys2Proof.Machine.execPoseCommit r v s
  | .sweepSummary => Sys2Proof.Machine.execSweepSummary s
  | .voxPointInsert => Sys2Proof.Machine.execVoxPointInsert s
  | .foldComplete ctx => Sys2Proof.Machine.execFoldComplete ctx s
  | .emissionStart ctx => Sys2Proof.Machine.execEmissionStart ctx s
  | .emissionComplete ctx => Sys2Proof.Machine.execEmissionComplete ctx s
  | .allotmentCleared ctx => Sys2Proof.Machine.execAllotmentCleared ctx s
  | .scrubLine core => Sys2Proof.Machine.execScrubLine core s
  | .apertureWrite r addr size v => Sys2Proof.Machine.execApertureWrite r addr size v s
  | .apertureRead r addr size => Sys2Proof.Machine.execApertureRead r addr size s
  | .ccInstruction core => Sys2Proof.Machine.execCcInstruction core s
  | .qpush core => Sys2Proof.Machine.execQpush core s
  | .qcommit core => Sys2Proof.Machine.execQcommit core s
  | .qcommitT core => Sys2Proof.Machine.execQcommitT core s
  | .swait core => Sys2Proof.Machine.execSwait core s
  | .swaitRelease core => Sys2Proof.Machine.execSwaitRelease core s
  | .sset core => Sys2Proof.Machine.execSset core s
  | .redrd core => Sys2Proof.Machine.execRedrd core s
  | .tsrdLo core => Sys2Proof.Machine.execTsrdLo core s
  | .tsrdHi core => Sys2Proof.Machine.execTsrdHi core s
  | .ecallEnd core => Sys2Proof.Machine.execEcallEnd core s
  | .ecallAbort core => Sys2Proof.Machine.execEcallAbort core s
  | .nop core eng => Sys2Proof.Machine.execNop core eng s
  | .mm core => Sys2Proof.Machine.execMm core s
  | .mmp core => Sys2Proof.Machine.execMmp core s
  | .passStart core => Sys2Proof.Machine.execPassStart core s
  | .run core => Sys2Proof.Machine.execRun core s
  | .rescale core => Sys2Proof.Machine.execRescale core s
  | .hashBuild core => Sys2Proof.Machine.execHashBuild core s
  | .outsites core => Sys2Proof.Machine.execOutsites core s
  | .kmap core => Sys2Proof.Machine.execKmap core s
  | .sort core => Sys2Proof.Machine.execSort core s
  | .gather core => Sys2Proof.Machine.execGather core s
  | .scatter core => Sys2Proof.Machine.execScatter core s
  | .mask core => Sys2Proof.Machine.execMask core s
  | .xfer core => Sys2Proof.Machine.execXfer core s
  | .xferHostPiece core data => Sys2Proof.Machine.execXferHostPiece core data s
  | .fill core => Sys2Proof.Machine.execFill core s
  | .copy core => Sys2Proof.Machine.execCopy core s
  | .wload core => Sys2Proof.Machine.execWload core s
  | .selreq core => Sys2Proof.Machine.execSelreq core s
  | .ringset core => Sys2Proof.Machine.execRingset core s
  | .setup core => Sys2Proof.Machine.execSetup core s
  | .send core => Sys2Proof.Machine.execSend core s
  | .peerLandingWrite => Sys2Proof.Machine.execPeerLandingWrite s
  | .creditReturn => Sys2Proof.Machine.execCreditReturn s
  | .remoteAccess => Sys2Proof.Machine.execRemoteAccess s
  | .descriptorRetire core eng => Sys2Proof.Machine.execDescriptorRetire core eng s
  | .selRequestArrival => Sys2Proof.Machine.execSelRequestArrival s
  | .selTopk p => Sys2Proof.Machine.execSelTopk p s
  | .selBoxes p => Sys2Proof.Machine.execSelBoxes p s
  | .selKnn p => Sys2Proof.Machine.execSelKnn p s
  | .resultHandoff => Sys2Proof.Machine.execResultHandoff s
  | .resultCommit => Sys2Proof.Machine.execResultCommit s
  | .resultSpaceTimeout p => Sys2Proof.Machine.execResultSpaceTimeout p s
  | .load r p v => Sys2Proof.Machine.execLoad r p v s
  | .unload r p v => Sys2Proof.Machine.execUnload r p v s
  | .loaderServeStart => Sys2Proof.Machine.execLoaderServeStart s
  | .loadCopyComplete p data => Sys2Proof.Machine.execLoadCopyComplete p data s
  | .loadInstallComplete p => Sys2Proof.Machine.execLoadInstallComplete p s
  | .sqDoorbell r p v => Sys2Proof.Machine.execSqDoorbell r p v s
  | .cqDoorbell r p v => Sys2Proof.Machine.execCqDoorbell r p v s
  | .resultDoorbell r p v => Sys2Proof.Machine.execResultDoorbell r p v s
  | .ringSetEnable r p v => Sys2Proof.Machine.execRingSetEnable r p v s
  | .ringSetDisable r p v => Sys2Proof.Machine.execRingSetDisable r p v s
  | .entryFetch p data => Sys2Proof.Machine.execEntryFetch p data s
  | .jobSubmit p => Sys2Proof.Machine.execJobSubmit p s
  | .jobCancel p => Sys2Proof.Machine.execJobCancel p s
  | .sweepReady => Sys2Proof.Machine.execSweepReady s
  | .jobAdmit p => Sys2Proof.Machine.execJobAdmit p s
  | .jobComplete slot => Sys2Proof.Machine.execJobComplete slot s
  | .tagRelease slot => Sys2Proof.Machine.execTagRelease slot s
  | .msixCoalesceTimeout p => Sys2Proof.Machine.execMsixCoalesceTimeout p s
  | .portHotReset h => Sys2Proof.Machine.execPortHotReset h s
  | .portLinkUp h speed width => Sys2Proof.Machine.execPortLinkUp h speed width s
  | .odRead r idx sub => Sys2Proof.Machine.execOdRead r idx sub s
  | .odWrite r idx sub data => Sys2Proof.Machine.execOdWrite r idx sub data s
  | .contextEnable r ctx => Sys2Proof.Machine.execContextEnable r ctx s
  | .contextDisable r ctx => Sys2Proof.Machine.execContextDisable r ctx s
  | .partitionRecordWrite r sub data => Sys2Proof.Machine.execPartitionRecordWrite r sub data s
  | .partitionReset r v => Sys2Proof.Machine.execPartitionReset r v s
  | .partitionResetClear p => Sys2Proof.Machine.execPartitionResetClear p s
  | .mmuCopy r p => Sys2Proof.Machine.execMmuCopy r p s
  | .mmuInval r p => Sys2Proof.Machine.execMmuInval r p s
  | .mmuCopyComplete p data => Sys2Proof.Machine.execMmuCopyComplete p data s
  | .sluiceRefill => Sys2Proof.Machine.execSluiceRefill s
  | .slotBoundary => Sys2Proof.Machine.execSlotBoundary s
  | .tableLoad r p v => Sys2Proof.Machine.execTableLoad r p v s
  | .tableSwap r p v => Sys2Proof.Machine.execTableSwap r p v s
  | .tableDrop r p v => Sys2Proof.Machine.execTableDrop r p v s
  | .tableLoadComplete p data => Sys2Proof.Machine.execTableLoadComplete p data s
  | .tablePauseEnd p => Sys2Proof.Machine.execTablePauseEnd p s
  | .dirGets core => Sys2Proof.Machine.execDirGets core s
  | .dirGetm core => Sys2Proof.Machine.execDirGetm core s
  | .dirPutm core => Sys2Proof.Machine.execDirPutm core s
  | .dirAgentRead line => Sys2Proof.Machine.execDirAgentRead line s
  | .dirAgentWrite line data => Sys2Proof.Machine.execDirAgentWrite line data s
  | .dirAck => Sys2Proof.Machine.execDirAck s
  | .cacheFwdS core => Sys2Proof.Machine.execCacheFwdS core s
  | .cacheFwdM core => Sys2Proof.Machine.execCacheFwdM core s
  | .cacheRecallKeep core => Sys2Proof.Machine.execCacheRecallKeep core s
  | .cacheInv core => Sys2Proof.Machine.execCacheInv core s
  | .cachePutAck core => Sys2Proof.Machine.execCachePutAck core s
  | .dramPatrolRead => Sys2Proof.Machine.execDramPatrolRead s
  | .preemptStopped core => Sys2Proof.Machine.execPreemptStopped core s
  | .chrysalisSaveComplete core ok => Sys2Proof.Machine.execChrysalisSaveComplete core ok s
  | .stopTimeout core => Sys2Proof.Machine.execStopTimeout core s
  | .chrysalisRestore core ok => Sys2Proof.Machine.execChrysalisRestore core ok s
  | .faultArrival isl agree => Sys2Proof.Machine.execFaultArrival isl agree s
  | .jobAbort slot unit => Sys2Proof.Machine.execJobAbort slot unit s
  | .drainTimeout slot => Sys2Proof.Machine.execDrainTimeout slot s
  | .attemptEnd slot => Sys2Proof.Machine.execAttemptEnd slot s
  | .watchdogExpiry slot => Sys2Proof.Machine.execWatchdogExpiry slot s
  | .selftestStart => Sys2Proof.Machine.execSelftestStart s
  | .selftestEnd res => Sys2Proof.Machine.execSelftestEnd res s
  | .selftestTimeout res => Sys2Proof.Machine.execSelftestTimeout res s
  | .heartbeatToggle => Sys2Proof.Machine.execHeartbeatToggle s
  | .deadlineExpiry slot => Sys2Proof.Machine.execDeadlineExpiry slot s
  | .safeAck r v => Sys2Proof.Machine.execSafeAck r v s
  | .safeMinExpiry p => Sys2Proof.Machine.execSafeMinExpiry p s
  | .latchClear r v => Sys2Proof.Machine.execLatchClear r v s
  | .seqWatchdogExpiry shadow => Sys2Proof.Machine.execSeqWatchdogExpiry shadow s
  | .mgtLockstepMismatch => Sys2Proof.Machine.execMgtLockstepMismatch s
  | .emcySend ch => Sys2Proof.Machine.execEmcySend ch s
  | .journalWrite ok => Sys2Proof.Machine.execJournalWrite ok s
  | .nvRecordWrite ok => Sys2Proof.Machine.execNvRecordWrite ok s
  | .nvCompactCopy ok => Sys2Proof.Machine.execNvCompactCopy ok s
  | .pwrfail => Sys2Proof.Machine.execPwrfail s
  | .imagoInEdge => Sys2Proof.Machine.execImagoInEdge s
  | .imagoTrigger r v => Sys2Proof.Machine.execImagoTrigger r v s
  | .imgTrig r v => Sys2Proof.Machine.execImgTrig r v s
  | .imagoLatch => Sys2Proof.Machine.execImagoLatch s
  | .imagoTransferComplete => Sys2Proof.Machine.execImagoTransferComplete s
  | .imagoRearm r v => Sys2Proof.Machine.execImagoRearm r v s
  | .imgRearm r v => Sys2Proof.Machine.execImgRearm r v s
  | .usdoRequest ch f => Sys2Proof.Machine.execUsdoRequest ch f s
  | .usdoTimeout ch => Sys2Proof.Machine.execUsdoTimeout ch s
  | .nmtStart ch node => Sys2Proof.Machine.execNmtStart ch node s
  | .nmtStop ch node => Sys2Proof.Machine.execNmtStop ch node s
  | .nmtEnterPreoperational ch node => Sys2Proof.Machine.execNmtEnterPreoperational ch node s
  | .nmtResetNode ch node => Sys2Proof.Machine.execNmtResetNode ch node s
  | .nmtResetCommunication ch node => Sys2Proof.Machine.execNmtResetCommunication ch node s
  | .heartbeatSend ch => Sys2Proof.Machine.execHeartbeatSend ch s
  | .canBusoff ch => Sys2Proof.Machine.execCanBusoff ch s
  | .busoffRecovery ch => Sys2Proof.Machine.execBusoffRecovery ch s
  | .mbxRead r => Sys2Proof.Machine.execMbxRead r s
  | .mbxWrite r => Sys2Proof.Machine.execMbxWrite r s
  | .errorHistoryClear r v => Sys2Proof.Machine.execErrorHistoryClear r v s
  | .sinSample f => Sys2Proof.Machine.execSinSample f s
  | .fieldSupplyLoss => Sys2Proof.Machine.execFieldSupplyLoss s
  | .fieldSupplyReturn => Sys2Proof.Machine.execFieldSupplyReturn s
  | .trigEdge m => Sys2Proof.Machine.execTrigEdge m s
  | .ppsInEdge wide => Sys2Proof.Machine.execPpsInEdge wide s
  | .clockMonitorWindow w => Sys2Proof.Machine.execClockMonitorWindow w s
  | .slopeTick => Sys2Proof.Machine.execSlopeTick s
  | .thermalGovern sensors pAvg => Sys2Proof.Machine.execThermalGovern sensors pAvg s
  | .kcClockStep => Sys2Proof.Machine.execKcClockStep s
  | .railFault rail isOver => Sys2Proof.Machine.execRailFault rail isOver s
  | .powerOnReset pgood => Sys2Proof.Machine.execPowerOnReset pgood s
  | .warmReset taken => Sys2Proof.Machine.execWarmReset taken s
  | .mgtBoot => Sys2Proof.Machine.execMgtBoot s
  | .dramTrainingComplete cap => Sys2Proof.Machine.execDramTrainingComplete cap s
  | .bringupComplete => Sys2Proof.Machine.execBringupComplete s
  | .extest cells => Sys2Proof.Machine.execExtest cells s
  | .samplePreload sampled shifted => Sys2Proof.Machine.execSamplePreload sampled shifted s
  | .idcode => Sys2Proof.Machine.execIdcode s
  | .clamp => Sys2Proof.Machine.execClamp s
  | .highz => Sys2Proof.Machine.execHighz s
  | .bypass => Sys2Proof.Machine.execBypass s
  | .dbgapRead waddr => Sys2Proof.Machine.execDbgapRead waddr s
  | .dbgapWrite waddr v => Sys2Proof.Machine.execDbgapWrite waddr v s
  | .debugEnable v => Sys2Proof.Machine.execDebugEnable v s
  | .nonceRead r => Sys2Proof.Machine.execNonceRead r s
  | .authCheckComplete => Sys2Proof.Machine.execAuthCheckComplete s
  | .dbgHalt mask => Sys2Proof.Machine.execDbgHalt mask s
  | .haltForceTimeout core => Sys2Proof.Machine.execHaltForceTimeout core s
  | .dbgResume mask => Sys2Proof.Machine.execDbgResume mask s
  | .dbgStep mask => Sys2Proof.Machine.execDbgStep mask s
  | .dbgGprWrite v => Sys2Proof.Machine.execDbgGprWrite v s
  | .dbgSvnAdvance v => Sys2Proof.Machine.execDbgSvnAdvance v s
  | .blockLock mac lock => Sys2Proof.Machine.execBlockLock mac lock s
  | .canFrameIgnored ch => Sys2Proof.Machine.execCanFrameIgnored ch s
  | .canErrorPassive ch => Sys2Proof.Machine.execCanErrorPassive ch s
  | .canErrorActive ch => Sys2Proof.Machine.execCanErrorActive ch s
  | .dirTimeout line => Sys2Proof.Machine.execDirTimeout line s
  | .faultNHoldExpiry => Sys2Proof.Machine.execFaultNHoldExpiry s
  | .safePinReadback a b => Sys2Proof.Machine.execSafePinReadback a b s
  | .peerDelayTx => Sys2Proof.Machine.execPeerDelayTx s
  | .conflictSummaryWindow => Sys2Proof.Machine.execConflictSummaryWindow s

end Sys2Proof.Machine
end

