-- ==== Sys2Proof/Machine/Step.lean ====
section
/-! DEFINITION. One step: the command at the front of the queue, or one SAF cycle where the queue is empty. -/

namespace Sys2Proof.Machine

/-- Takes the front command and runs it on the state with the queue's rest. On an empty queue the block idles for one
SAF cycle: device time advances under R44, the watchdogs count under R435 (DESIGN CHOICE, notes/assumptions/5). -/
def step (s : State) : Host.Outcome State Fault Refusal :=
  match s.pending with
  | [] => .next (cycle s)
  | c :: rest => exec c { s with pending := rest }

/-- `s` with the command that a word spells put in front; the table gives no word a command. -/
def State.withFetchWord (s : State) (nbits w : Nat) : State :=
  match decodeTableWord nbits w with
  | none => s
  | some c => { s with pending := c :: s.pending }

end Sys2Proof.Machine
end

