-- ==== Sys2Proof/Safety.lean ====
section
/-! DEFINITION. What counts as a safe run: no command stops the model; and the vocabulary of the statements. -/

namespace Sys2Proof

/-- The command has an effect in this state: exec answers a next state. -/
def Runs (i : Instr) (s : Machine.State) : Prop := ∃ t, Machine.exec i s = .next t

/-- exec answers a next state, of which `P` holds. -/
def Completes (i : Instr) (s : Machine.State) (P : Machine.State → Prop) : Prop := ∃ t, Machine.exec i s = .next t ∧ P t

/-- A fault with this code stands in an island's Weir into SAF, or waits for it at its source. -/
def Raised (code : Machine.FaultCode) (isl : Nat) (t : Machine.State) : Prop :=
  ∃ f ∈ Machine.weirAll t isl, f.code = code

/-- The control core of `c` may run an instruction; it fetches `op` of `len` bytes, which leaves `u`, and its two harts
agree. -/
def Fetches (s : Machine.State) (c : Nat) (op : Machine.RvOp) (len : Nat) (u : Machine.State) : Prop :=
  Machine.ccReady s c = true ∧ Machine.ccRun (Machine.ccFetch c) s = (.ok (op, len), u) ∧
    Machine.lockOk (Machine.coreOf s c) op len = true

/-- No halt is asked of core `c` and no step runs on it. -/
def NoHalt (s : Machine.State) (c : Nat) : Prop :=
  (Machine.haltOf s c).pending = false ∧ (Machine.haltOf s c).stepping = false

/-- Of the cores, `t` and `s` differ in the control core of `c` alone. -/
def OnlyCc (c : Nat) (s t : Machine.State) : Prop :=
  (∀ d, d ≠ c → Machine.coreOf t d = Machine.coreOf s d) ∧
    { Machine.coreOf t c with run := { (Machine.coreOf t c).run with cc := (Machine.coreOf s c).run.cc } } = Machine.coreOf s c

/-- Both harts of a context after an instruction that moves on to `pc` and writes `v` to `rd`; it counts as retired. -/
def HartsGo (k k' : Machine.CcCtx) (pc rd : Nat) (v : Word) : Prop :=
  k'.leader.pc = pc ∧ (∀ r < 32, Machine.vget k'.leader.x r 0 = if r = rd ∧ rd ≠ 0 then v else Machine.vget k.leader.x r 0) ∧
    k'.instret = (k.instret + 1) % 2 ^ 64 ∧ k'.commit = k.commit ∧ k'.stage = k.stage ∧ k'.preg = k.preg

/-- Both SAFE pins are low whenever a reason is set or the recovery latch is. -/
def LowWhenUnsafe (s : Machine.State) : Prop :=
  s.saf.why ≠ 0 ∨ s.saf.latch = true → s.saf.pinA = false ∧ s.saf.pinB = false

/-- The engine commands that issue the head of a Runnel: core, engine, operation code, work. -/
def engineCmd : Instr → Option (Nat × Nat × Nat × (Machine.Acc → Machine.Flight → Machine.EngM Machine.Flight))
  | .nop c e => some (c.val, e.val, 0, Machine.nopWork)
  | .mm c => some (c.val, 0, 0x01, Machine.mePassLoad)
  | .mmp c => some (c.val, 0, 0x02, Machine.mePassLoad)
  | .run c => some (c.val, 1, 0x20, Machine.veRun)
  | .rescale c => some (c.val, 1, 0x21, Machine.veRescale)
  | .hashBuild c => some (c.val, 2, 0x40, Machine.geHashBuild)
  | .outsites c => some (c.val, 2, 0x41, Machine.geOutsites)
  | .kmap c => some (c.val, 2, 0x42, Machine.geKmap)
  | .sort c => some (c.val, 2, 0x43, Machine.geSort)
  | .gather c => some (c.val, 2, 0x44, Machine.geGather)
  | .scatter c => some (c.val, 2, 0x45, Machine.geScatter)
  | .mask c => some (c.val, 2, 0x46, Machine.geMask)
  | .xfer c => some (c.val, 3, 0x60, Machine.deXfer)
  | .fill c => some (c.val, 3, 0x61, Machine.deFill)
  | .copy c => some (c.val, 3, 0x62, Machine.deCopy)
  | .wload c => some (c.val, 3, 0x63, Machine.deWload)
  | .selreq c => some (c.val, 3, 0x64, Machine.deSelreq)
  | .ringset c => some (c.val, 3, 0x65, Machine.deRingset)
  | .setup c => some (c.val, 4, 0x80, Machine.peSetup)
  | .send c => some (c.val, 4, 0x81, Machine.peSend)
  | _ => none

/-- First physical line of the running task's Basin range. -/
def taskLine (x : Machine.Core) : Nat := (Machine.ctxOf x).basinBase * 64

/-- `n` task-relative Basin lines lie inside the running task's range, in declared regions and outside every weight
window, and no ring is defined. -/
def LinesOpen (x : Machine.Core) (w : List Word) (line n : Nat) (write : Bool) : Prop :=
  (∀ i < n, Machine.relocLine x (line + i) = some (taskLine x + line + i) ∧ Machine.declared w false (line + i) write = true ∧
    Machine.winOf x ((taskLine x + line + i) / 64) = none) ∧
  ∀ r, Machine.vget x.run.rings r none = none

/-- The head `d` of the Runnel of an engine may issue now; no commit of the core stalls on a full Runnel, and the entry
behind the head stands without a parity error. -/
def Issues (s : Machine.State) (c eng opc : Nat) (d : Machine.QDesc) : Prop :=
  Machine.headState s c eng opc = .ready d ∧ (Machine.coreOf s c).run.cc.pendCommit = none ∧
    ∀ e ∈ ((Machine.vget (Machine.coreOf s c).run.runnels eng []).drop 1).head?, Machine.qBad e = false

/-- A descriptor stands in flight with every access made and no fault, of which `P` holds. -/
def DoneWith (x : Machine.Core) (d : Machine.QDesc) (P : Machine.Flight → Prop) : Prop :=
  ∃ f ∈ x.run.flight, f.d = d ∧ f.done = true ∧ f.failed = none ∧ P f

/-- No Basin word and no Cistern entry of the core is in error. -/
def NoErrors (x : Machine.Core) : Prop :=
  (∀ k, Machine.smGet Machine.upZero x.basinUp k = 0) ∧ ∀ e, Machine.smGet Machine.upZero x.cisUp e = 0

/-- `n` task-relative Basin lines that ME-WT may read: inside the task, declared, in a weight window or of a partition of
class QM, in no block that is not ready, and no ring is defined. -/
def WeightsOpen (s : Machine.State) (c : Nat) (w : List Word) (line n : Nat) : Prop :=
  let x := Machine.coreOf s c
  (∀ i < n, Machine.relocLine x (line + i) = some (taskLine x + line + i) ∧ Machine.declared w false (line + i) false = true ∧
    (Machine.partClass s (Machine.ctxOf x).part < 2 → (Machine.winOf x ((taskLine x + line + i) / 64)).isSome = true) ∧
    ((Machine.wblkOf x ((taskLine x + line + i) / 64)).1 = 0 ∨ (Machine.wblkOf x ((taskLine x + line + i) / 64)).1 = 3)) ∧
  ∀ r, Machine.vget x.run.rings r none = none

/-- `n` task-relative Cistern entries lie inside the running task's range and in declared regions. -/
def EntriesOpen (x : Machine.Core) (w : List Word) (e n : Nat) (write : Bool) : Prop :=
  (Machine.ctxOf x).cisBase * 1024 + e + n ≤ (Machine.ctxOf x).cisBound * 1024 ∧
    ∀ i < n, Machine.declared w true ((e + i) / 16) write = true

/-- The 64 bytes of task-relative line `line`. -/
def lineBytes (x : Machine.Core) (line : Nat) : List Byte := Machine.basinBytes x ((taskLine x + line) * 64) 64

/-- `n` bytes from a task-relative byte offset. -/
def taskBytes (x : Machine.Core) (off n : Nat) : List Byte := Machine.basinBytes x (taskLine x * 64 + off) n

/-- Physical entry of a task-relative Cistern entry. -/
def taskEntry (x : Machine.Core) (e : Nat) : Nat := (Machine.ctxOf x).cisBase * 1024 + e

/-- SEL may read `n` bytes of a request's space on a core: inside the partition's region, in no block that is not ready, and
no Basin word in error. -/
def SelReadable (s : Machine.State) (q : Machine.SelReq) (c off n : Nat) : Prop :=
  let a := Machine.selBase s q c + off
  let r := Machine.prBasin (Machine.recOf s q.part) c
  let x := Machine.coreOf s c
  (∀ l, a / 64 ≤ l → l ≤ (a + n - 1) / 64 → r.1 * 64 ≤ l ∧ l < r.2 * 64 ∧
    ((Machine.wblkOf x (l / 64)).1 = 0 ∨ (Machine.wblkOf x (l / 64)).1 = 3)) ∧ ∀ k, Machine.smGet Machine.upZero x.basinUp k = 0

/-- SEL may write the 16-byte status record of a request: one line of the partition's region, in no weight window. -/
def StatusOpen (s : Machine.State) (q : Machine.SelReq) : Prop :=
  let a := Machine.selBase s q q.core + (Machine.selOf q.blk).statOff
  let r := Machine.prBasin (Machine.recOf s q.part) q.core
  a % 16 = 0 ∧ r.1 * 64 ≤ a / 64 ∧ a / 64 < r.2 * 64 ∧ Machine.winOf (Machine.coreOf s q.core) (a / 64 / 64) = none ∧ q.core < 16

/-- The Basin of `y` holds each listed range of bytes at its task-relative offset, and elsewhere what `x` holds; of ranges
that meet, the first listed holds. -/
def BasinHolds (x y : Machine.Core) (rs : List (Nat × List Byte)) : Prop :=
  ∀ k, Machine.smGet Machine.byteZero y.basin k =
    match rs.find? fun r => decide (taskLine x * 64 + r.1 ≤ k ∧ k < taskLine x * 64 + r.1 + r.2.length) with
    | some r => r.2.getD (k - (taskLine x * 64 + r.1)) 0
    | none => Machine.smGet Machine.byteZero x.basin k

/-- The Basin of `t` holds, from physical byte `a` on, the bytes that `f` gives, and elsewhere what `x` holds. -/
def BasinBecomes (x y : Machine.Core) (a n : Nat) (f : Nat → Byte) : Prop :=
  (∀ b < n, Machine.smGet Machine.byteZero y.basin (a + b) = f b) ∧
    ∀ k, k < a ∨ a + n ≤ k → Machine.smGet Machine.byteZero y.basin k = Machine.smGet Machine.byteZero x.basin k

end Sys2Proof
end

