-- ==== Sys2Proof/Certificates/Slice0/Obligations.lean ====
section
/-! DEFINITION. The statements for the provers, from the numbered rules of spec/ and the model's own invariants. -/

open Sys2Proof Sys2Proof.Machine

/-- For every command c, every list of commands that follow it and every state whose queue is c followed by them, the
step is exec of c on the state with the rest of the queue. (00_scope.md, 95_what_each_step_holds.md) -/
def Obligations.StepRunsFrontCommand : Prop :=
  ∀ (c : Instr) (rest : List Instr) (s : State), s.pending = c :: rest → step s = exec c { s with pending := rest }

/-- For every command and every state, exec answers a next state, never a fault or a refusal; so does the step, with a
command in front or with an empty queue. (00_scope.md, 95_what_each_step_holds.md, 17_preemption_faults.md) -/
def Obligations.EveryCommandRuns : Prop :=
  (∀ (c : Instr) (s : State), Runs c s) ∧ ∀ s : State, ∃ t, step s = .next t

/-- With no command waiting and no TAP hold, the step answers a next state whose master count is 3 to 5 ns later and
whose count and accumulated fraction together have grown by exactly 4 ns corrected by the trim. Before READY nothing
else changes. In READY, with the job table in its form, each job whose watchdog counts has counted 4 ns more, which are
24 fifths of a cycle (FAB), up to 65,536 cycles; every other job stands, and nothing else changes but PRT_WD_PEAK. That
an idle step is one SAF cycle is the model's choice (log entry 5). Under the hold of a TAP instruction time stands
still and nothing changes. (R44, R435, R551) -/
def Obligations.IdleStepAdvancesTime : Prop :=
  (∀ s : State, s.pending = [] → s.saf.tapHold = false →
    ∃ t, step s = .next t ∧ s.tb.master + 3 ≤ t.tb.master ∧ t.tb.master ≤ s.tb.master + 5 ∧
      (t.tb.master : Int) * 2 ^ 24 + t.tb.acc = (s.tb.master : Int) * 2 ^ 24 + s.tb.acc + 4 * (2 ^ 24 + s.tb.trim) ∧
      t.tb.upNs = s.tb.upNs + 4 ∧ t.tb.trim = s.tb.trim ∧ t.tb.mode = s.tb.mode ∧
      { t with tb := s.tb, regs := s.regs, hst := { t.hst with jobs := s.hst.jobs } } = s ∧
      (∀ k, (∀ p, k ≠ prtKey p 0x218) → regGet t k = regGet s k) ∧
      (isReady s = false → t.hst = s.hst ∧ t.regs = s.regs) ∧
      (isReady s = true → smWf jobDflt s.hst.jobs = true → ∀ n,
        jobOf t n = if wdCounts s n (jobOf s n) = true
          then { jobOf s n with wd := min ((jobOf s n).wd + 24) (65536 * 5) } else jobOf s n)) ∧
  ∀ s : State, s.pending = [] → s.saf.tapHold = true → step s = .next s

/-- POWER_ON_RESET leaves the master count 0 and the time state FREERUN. WARM_RESET, a recovery-latch clear, the hold
at 140 degrees, a port hot reset, a partition reset and its clearing, and both NMT resets leave the master count, the
rate trim and the time state as they were, in every state. (R43) -/
def Obligations.ResetsAndTheMaster : Prop :=
  (∀ (s : State) (pgood : Bool), Completes (.powerOnReset pgood) s fun t => t.tb.master = 0 ∧ t.tb.mode = .freerun) ∧
  ∀ s : State, let P (t : State) : Prop := t.tb.master = s.tb.master ∧ t.tb.trim = s.tb.trim ∧ t.tb.mode = s.tb.mode
    Completes (.warmReset true) s P ∧ (∀ r v, Completes (.latchClear r v) s P) ∧
    (∀ l p, Completes (.thermalGovern l p) s P) ∧
    (∀ h, Completes (.portHotReset h) s P) ∧ (∀ r v, Completes (.partitionReset r v) s P) ∧
    (∀ p, Completes (.partitionResetClear p) s P) ∧ (∀ ch n, Completes (.nmtResetNode ch n) s P) ∧
    ∀ ch n, Completes (.nmtResetCommunication ch n) s P

/-- After reset GLB_STATE reads STARTING with reason START in force, the master is 0 in FREERUN, both SAFE pins are
low, SAF_STS_STATUS reads not run, every ring set is disabled with SQLOG 4, CQLOG 6 and RQLOG 0x13, PRT_TBL_GEOM of
every partition is 1 and its neighbour 0, every core width code is 0xF, every task context is FREE, no job is in the
table, no partition is enabled, the mailboxes are IDLE and no command waits; the invariant of the SAFE pins holds.
(R16, R40, R43, R362, R388, R420, R446, R448, R461, R491) -/
def Obligations.ResetState : Prop :=
  devCode State.reset = 0 ∧ State.reset.saf.why = 0x8000 ∧ State.reset.tb.master = 0 ∧ State.reset.tb.mode = .freerun ∧
  State.reset.saf.pinA = false ∧ State.reset.saf.pinB = false ∧ State.reset.saf.latch = false ∧
  safBlock State.reset 0x101C = some 0x3000000 ∧
  (∀ p : Fin 8, ringView State.reset p.val 0x18 = some 0x00130604 ∧ ringView State.reset p.val 0x1C = some 0 ∧
    prtView State.reset p.val 0x10118 = some 1 ∧ prtView State.reset p.val 0x10114 = some 0 ∧
    prEn (recOf State.reset p.val) = false ∧ ownerOf (partOf State.reset p.val) = none) ∧
  (∀ c : Fin 16, vget State.reset.boot.width c.val 0 = 0xF ∧ (coreOf State.reset c.val).active = none ∧
    ∀ n : Fin 8, (tctx (coreOf State.reset c.val) n.val).st = .free) ∧
  (∀ i : Fin 512, (jobOf State.reset i.val).st = .free) ∧ (∀ i : Fin 5, (mbxGet State.reset i.val).state = 0) ∧
  State.reset.pending = [] ∧ State.reset.dram.mem = [] ∧ LowWhenUnsafe State.reset

/-- A read of an RC counter of GLB returns its value and clears that register alone; through the peek alias, or from
the debug port, it returns the value and clears nothing. A read of SAF_TB's master LO returns the low word and latches
the high word of the same instant, which the same requester's later HI read returns whatever the master has become; a
64-bit read returns both words. A 32-bit read at an address that is no multiple of 4 returns 0. Nothing else changes.
(R17, R18, R22, R38, R40, R556) -/
def Obligations.RegisterReads : Prop :=
  (∀ (s : State) (r : Requester) (o : Nat), linked s r = true → r ≠ .dbg → (o = 0x20 ∨ o = 0x24) →
    Completes (.rcRead r o 4) s fun t =>
      t.reply = vset s.reply (reqCode r) (BitVec.ofNat 64 (regGet s (rkey (1 + reqCode r) o)).toNat) ∧
      regGet t (rkey (1 + reqCode r) o) = 0 ∧ (∀ k, k ≠ rkey (1 + reqCode r) o → regGet t k = regGet s k) ∧
      { t with reply := s.reply, regs := s.regs } = s) ∧
  (∀ (s : State) (r : Requester) (o : Nat), linked s r = true → (o = 0x20 ∨ o = 0x24) →
    Completes (.rcRead r (0x4000 + o) 4) s fun t =>
      t = setReply r (regGet s (rkey (1 + reqCode r) o)).toNat s) ∧
  (∀ (s : State) (o : Nat), linked s .dbg = true → (o = 0x20 ∨ o = 0x24) →
    Completes (.rcRead .dbg o 4) s fun t => t = setReply .dbg (regGet s (rkey 9 o)).toNat s) ∧
  (∀ (s : State) (r : Requester), linked s r = true →
    Completes (.pairLoRead r 0x400010 4) s fun t =>
      t.reply = vset s.reply (reqCode r) (BitVec.ofNat 64 (s.tb.master % 2 ^ 32)) ∧
      { t with reply := s.reply, latch := s.latch } = s ∧
      ∀ u : State, linked u r = true → u.latch = t.latch →
        Completes (.rcRead r 0x400014 4) u fun v => v = setReply r (s.tb.master / 2 ^ 32 % 2 ^ 32) u) ∧
  (∀ (s : State) (r : Requester), linked s r = true →
    Completes (.pairLoRead r 0x400010 8) s fun t =>
      t.reply = vset s.reply (reqCode r) (BitVec.ofNat 64 s.tb.master) ∧
      { t with reply := s.reply, latch := s.latch } = s) ∧
  ∀ (s : State) (r : Requester) (a : Nat), linked s r = true → a < 0x10000 → a % 4 ≠ 0 →
    Completes (.rcRead r a 4) s fun t => t = setReply r 0 s

/-- For every RC register of every block, at BAR0 address a, and every requester whose access reaches the device: a
32-bit read at a + 0x4000 returns what a read at a would return, and lowers no stored register and changes nothing
else in the device but the reply and a denied access's count. (R18) -/
def Obligations.PeekAliases : Prop :=
  ∀ (s : State) (r : Requester) (a : Nat), linked s r = true → a % 4 = 0 → blkRc (blkOf a).1 (blkOf a).2 = true →
    Completes (.rcRead r (a + 0x4000) 4) s fun t =>
      (Completes (.rcRead r a 4) s fun u => u.reply = t.reply) ∧
      (∀ k, (regGet s k).toNat ≤ (regGet t k).toNat) ∧ { t with reply := s.reply, regs := s.regs } = s

/-- A write to GLB is ignored and counted for its requester, up to all ones. A write of the mailbox's address is
stored while no transfer is BUSY. Writing LO of a ring base stages the low word and changes no register; writing HI
commits both words at once and unstages, and with nothing staged commits a low word of 0. The owner of the partition
may do so while the ring set is disabled; from another port the write is ignored and counted as denied. Before READY a
write to HST is ignored uncounted, under the latch it is counted. Nothing else changes. (R17, R20, R21, R22, R38, R39,
R41, R364, R388, R460, R491) -/
def Obligations.RegisterWrites : Prop :=
  (∀ (s : State) (r : Requester) (a v : Nat), linked s r = true → a < 0x10000 → a % 4 = 0 →
    Completes (.registerWrite r a 4 v) s fun t =>
      (regGet t (rkey (1 + reqCode r) 0x20)).toNat = min ((regGet s (rkey (1 + reqCode r) 0x20)).toNat + 1) (2 ^ 32 - 1) ∧
      (∀ k, k ≠ rkey (1 + reqCode r) 0x20 → regGet t k = regGet s k) ∧ { t with regs := s.regs } = s) ∧
  (∀ (s : State) (h : Fin 4) (v : Nat), linked s (.host h) = true → isReady s = true →
    (mbxGet s h.val).state ≠ 1 →
    Completes (.registerWrite (.host h) 0x20000 4 v) s fun t =>
      (mbxGet t h.val).addr = v % 2 ^ 24 ∧ t = mbxPut h.val { mbxGet s h.val with addr := v % 2 ^ 24 } s) ∧
  (∀ (s : State) (h : Fin 4) (p : Fin 8) (v : Nat), linked s (.host h) = true → isReady s = true →
    ownerOf (partOf s p.val) = some h.val → (ringsOf s p.val).en = false →
    Completes (.registerWrite (.host h) (0x11000 + 0x100 * p.val) 4 v) s fun t =>
      smGet upZero t.stage (pairKey (.host h) (0x11000 + 0x100 * p.val)) = v % 2 ^ 32 ∧ { t with stage := s.stage } = s) ∧
  (∀ (s : State) (h : Fin 4) (p : Fin 8) (v : Nat), linked s (.host h) = true → isReady s = true →
    ownerOf (partOf s p.val) = some h.val → (ringsOf s p.val).en = false →
    Completes (.pairHiWrite (.host h) (0x11004 + 0x100 * p.val) 4 v) s fun t =>
      ringsOf t p.val = { ringsOf s p.val with
        sqBase := smGet upZero s.stage (pairKey (.host h) (0x11000 + 0x100 * p.val)) + 2 ^ 32 * (v % 2 ^ 32) } ∧
      smGet upZero t.stage (pairKey (.host h) (0x11000 + 0x100 * p.val)) = 0 ∧
      (∀ q, q ≠ p.val → partOf t q = partOf s q) ∧ { t with stage := s.stage, parts := s.parts } = s) ∧
  (∀ (s : State) (h : Fin 4) (p : Fin 8) (v : Nat), linked s (.host h) = true → isReady s = true →
    ownerOf (partOf s p.val) ≠ some h.val →
    Completes (.pairHiWrite (.host h) (0x11004 + 0x100 * p.val) 4 v) s fun t => t = denyAccess (.host h) s) ∧
  ∀ (s : State) (h : Fin 4) (p : Fin 8) (v : Nat), linked s (.host h) = true → isReady s = false →
    Completes (.pairHiWrite (.host h) (0x11004 + 0x100 * p.val) 4 v) s fun t =>
      t = if s.saf.latch then ignWrite (.host h) s else s

/-- With the device READY, a 32-bit access of the owning port at an offset inside the selected space, over memory
without a bit in error, reads the four bytes of Basin, the entry of Cistern or the four bytes of DMEM that the
physical offset names, and changes nothing but the reply; a write stores exactly those four bytes (that entry), leaves
every other byte of the core's memories and every other core alone. An access of a port that does not own the memory
reads 0 or writes nothing and is counted as denied; one past the end of the space reads 0 and writes nothing, counted
as ignored. (R38, R39, R172, R173, R174, R179) -/
def Obligations.Apertures : Prop :=
  (∀ (s : State) (h : Fin 4) (c : Fin 16) (o : Nat), linked s (.host h) = true → isReady s = true → o < 0x80000 →
  o % 4 = 0 →
    let a := aperPhys s (.host h) c.val o
    let x := coreOf s c.val
    a.2 < spaceSize a.1 → reaches s (.host h) (spaceOwner s c.val a.1 a.2) false = true →
    (a.1 = 0 → smGet upZero x.basinUp (a.2 / 8) = 0) →
    (a.1 = 1 → ∀ i < 4, smGet upZero x.cisUp (a.2 / 16 * 4 + i) = 0) →
    (a.1 = 2 → smGet upZero x.dmemUp (a.2 / 4) = 0) →
    Completes (.apertureRead (.host h) (0x1080000 + 0x100000 * c.val + o) 4) s fun t =>
      (a.1 = 0 → t = setReply (.host h) (leNat (smGetList byteZero x.basin a.2 4)) s) ∧
      (a.1 = 1 → t = setReply (.host h) (smGet wordZero x.cis (a.2 / 4)).toNat s) ∧
      (a.1 = 2 → t = setReply (.host h) (leNat (smGetList byteZero x.dmem a.2 4)) s)) ∧
  (∀ (s : State) (h : Fin 4) (c : Fin 16) (o v : Nat), linked s (.host h) = true → isReady s = true → o < 0x80000 →
  o % 4 = 0 →
    let a := aperPhys s (.host h) c.val o
    let x := coreOf s c.val
    a.2 < spaceSize a.1 → reaches s (.host h) (spaceOwner s c.val a.1 a.2) true = true →
    (a.1 = 0 → smGet upZero x.basinUp (a.2 / 8) = 0) →
    Completes (.apertureWrite (.host h) (0x1080000 + 0x100000 * c.val + o) 4 v) s fun t =>
      let y := coreOf t c.val
      (a.1 = 0 → (∀ b, smGet byteZero y.basin b =
          if a.2 ≤ b ∧ b < a.2 + 4 then BitVec.ofNat 8 (v / 256 ^ (b - a.2)) else smGet byteZero x.basin b) ∧
        y.cis = x.cis ∧ y.dmem = x.dmem) ∧
      (a.1 = 1 → (∀ e, smGet wordZero y.cis e = if e = a.2 / 4 then BitVec.ofNat 32 v else smGet wordZero x.cis e) ∧
        y.basin = x.basin ∧ y.dmem = x.dmem) ∧
      (a.1 = 2 → (∀ b, smGet byteZero y.dmem b =
          if a.2 ≤ b ∧ b < a.2 + 4 then BitVec.ofNat 8 (v / 256 ^ (b - a.2)) else smGet byteZero x.dmem b) ∧
        y.basin = x.basin ∧ y.cis = x.cis) ∧
      y.ctx = x.ctx ∧ y.run = x.run ∧ y.active = x.active ∧
      (∀ d, d ≠ c.val → coreOf t d = coreOf s d) ∧ { t with kc := s.kc } = s) ∧
  (∀ (s : State) (h : Fin 4) (c : Fin 16) (o v : Nat), linked s (.host h) = true → isReady s = true → o < 0x80000 →
  o % 4 = 0 →
    let a := aperPhys s (.host h) c.val o
    a.2 < spaceSize a.1 → reaches s (.host h) (spaceOwner s c.val a.1 a.2) true = false →
    (Completes (.apertureRead (.host h) (0x1080000 + 0x100000 * c.val + o) 4) s fun t =>
      t = setReply (.host h) 0 (denyAccess (.host h) s)) ∧
    Completes (.apertureWrite (.host h) (0x1080000 + 0x100000 * c.val + o) 4 v) s fun t => t = denyAccess (.host h) s) ∧
  ∀ (s : State) (h : Fin 4) (c : Fin 16) (o v : Nat), linked s (.host h) = true → isReady s = true → o < 0x80000 →
  o % 4 = 0 →
    let a := aperPhys s (.host h) c.val o
    spaceSize a.1 ≤ a.2 →
    (Completes (.apertureRead (.host h) (0x1080000 + 0x100000 * c.val + o) 4) s fun t => t = setReply (.host h) 0 s) ∧
    Completes (.apertureWrite (.host h) (0x1080000 + 0x100000 * c.val + o) 4 v) s fun t => t = ignWrite (.host h) s

/-- From a requester in READERS the key in IMG_TRIG, and a rising IMAGO_IN, each with its source enabled and no
capture in hand, start a capture: number one higher, T the master, C = T + 40. A trigger while a capture is pending
only adds its source bit; while one is transferring, or held in ONESHOT, it is ignored and counted. At C every island
whose clock has not failed latches its set and the IMAGO record is written; the transfer's end holds the capture;
IMG_REARM releases a held one, from any host port. A write of IMG_TRIG from a host port outside READERS triggers
nothing; that it is counted as an ignored write is the model's choice (log entry 73). (R475, R476, R477, R481, R523) -/
def Obligations.ImagoTriggersAndCaptures : Prop :=
  (∀ (s : State) (h : Fin 4) (v : Nat), linked s (.host h) = true → isReady s = true → imgReader s (.host h) = true →
    v % 65536 = 0x494D → bitOf (imgSources s) 2 = true → s.img.phase = .empty →
    Completes (.imgTrig (.host h) v) s fun t =>
      t.img.phase = .pending ∧ t.img.capno = (s.img.capno + 1) % 2 ^ 32 ∧ t.img.trig = s.tb.master ∧
      t.img.capt = s.tb.master + 40 ∧ t.img.src = 4 ∧ t.img.req = h.val ∧ { t with img := s.img } = s) ∧
  (∀ s : State, s.fio.supply = true → bitOf (imgSources s) 0 = true → s.img.phase = .empty →
    Completes .imagoInEdge s fun t =>
      t.img.phase = .pending ∧ t.img.capno = (s.img.capno + 1) % 2 ^ 32 ∧ t.img.trig = s.tb.master ∧
      t.img.capt = s.tb.master + 40 ∧ t.img.src = 1 ∧ { t with img := s.img } = s) ∧
  (∀ s : State, s.fio.supply = true → bitOf (imgSources s) 0 = true → s.img.phase = .pending →
    Completes .imagoInEdge s fun t => t = { s with img := { s.img with src := s.img.src ||| 1 } }) ∧
  (∀ s : State, s.fio.supply = true → bitOf (imgSources s) 0 = true →
    (s.img.phase = .transferring ∨ (s.img.phase = .held ∧ odNat s 0x4200 3 = 0)) →
    Completes .imagoInEdge s fun t => t = { s with img := { s.img with missed := (s.img.missed + 1) % 2 ^ 32 } }) ∧
  (∀ (s : State) (h : Fin 4) (v : Nat), linked s (.host h) = true → isReady s = true → imgReader s (.host h) = false →
    Completes (.imgTrig (.host h) v) s fun t => t = ignWrite (.host h) s) ∧
  (∀ s : State, s.img.phase = .pending → s.img.capt ≤ s.tb.master →
    Completes .imagoLatch s fun t =>
      t.img.phase = .transferring ∧ t.img.sets.length = 24 ∧
      (∀ i : Fin 24, (t.img.sets[i.val]?).map (·.isl) = some i.val ∧
        ((t.img.sets[i.val]?).bind (·.words)).isSome = !s.clk.failing.getLsbD i.val) ∧
      (s.jr.intake.length < 256 → t.jr.intake.length = s.jr.intake.length + 1) ∧
      { t with img := s.img, free := s.free, jr := s.jr, tb := s.tb, regs := s.regs } = s) ∧
  (∀ s : State, s.img.phase = .transferring →
    Completes .imagoTransferComplete s fun t => t = { s with img := { s.img with phase := .held } }) ∧
  ∀ (s : State) (h : Fin 4) (v : Nat), linked s (.host h) = true → isReady s = true → v % 2 = 1 → s.img.phase = .held →
    Completes (.imgRearm (.host h) v) s fun t => t = { s with img := { s.img with phase := .empty } }

/-- As grandmaster (source 2), GPTP_SYNC_TX sends one two-step Sync and one Follow_Up with the master's time on every
selected MAC, in the order of the MACs, and GPTP_ANNOUNCE_TX one Announce with priority1 and clockClass on each; as
end station (source 1), PEER_DELAY_TX sends one peer-delay request on its MAC and keeps its sequence number and
transmit time. Each takes the next sequence number modulo 2^16. Nothing else changes. (R45, R504) -/
def Obligations.TimeMessagesSent : Prop :=
  (∀ s : State, tbSrc s = 2 → Completes .gptpSyncTx s fun t =>
    t.out = s.out ++ (onesFrom (gmPorts s) 0 8).map (fun m => .gptp m 0 s.tb.txSeq 0 0) ++
      (onesFrom (gmPorts s) 0 8).map (fun m => .gptp m 8 s.tb.txSeq s.tb.master 0) ∧
    t.tb = { s.tb with txSeq := (s.tb.txSeq + 1) % 65536 } ∧ { t with tb := s.tb, out := s.out } = s) ∧
  (∀ s : State, tbSrc s = 2 → Completes .gptpAnnounceTx s fun t =>
    t.out = s.out ++ (onesFrom (gmPorts s) 0 8).map
      (fun m => .gptp m 11 s.tb.txSeq (odNat s 0x2400 4) (odNat s 0x2400 5)) ∧
    t.tb = { s.tb with txSeq := (s.tb.txSeq + 1) % 65536 } ∧ { t with tb := s.tb, out := s.out } = s) ∧
  ∀ s : State, tbSrc s = 1 → Completes .peerDelayTx s fun t =>
    t.out = s.out ++ [.gptp (tbPort s) 2 s.tb.txSeq s.tb.master 0] ∧
    t.tb = { s.tb with txSeq := (s.tb.txSeq + 1) % 65536, pdReq := some (s.tb.txSeq, s.tb.master), pdResp := none } ∧
    { t with tb := s.tb, out := s.out } = s

/-- Missing Syncs or edges in LOCKED or ACQUIRING under a source take the time state to HOLDOVER with the trim held at
the mean of the last 8 measurements, a HOLDOVER longer than HOLD_MAX to FREERUN with the trim held, each change
journaled; the master count stands. A two-step Sync at the end station's MAC is kept with its arrival time until its
Follow_Up; a peer-delay Follow_Up that answers the request in flight gives the peer delay as half of the round trip
less the peer's turnaround; a foreign Announce that reaches a grandmaster is counted modulo 2^32 and changes nothing
else. A frame of another domain than 0 changes nothing. (R45, R46) -/
def Obligations.TimeStateCommands : Prop :=
  (∀ s : State, (s.tb.mode = .locked ∨ s.tb.mode = .acquiring) → (tbSrc s = 1 ∨ tbSrc s = 3) → s.tb.trims ≠ [] →
    s.jr.intake.length < 256 → Completes .syncMissing s fun t =>
      t.tb.mode = .holdover ∧ t.tb.trim = s.tb.trims.sum / (s.tb.trims.length : Int) ∧ t.tb.master = s.tb.master ∧
      t.tb.holdSince = s.tb.master ∧ t.jr.intake.length = s.jr.intake.length + 1 ∧ t.hst = s.hst ∧ t.ing = s.ing) ∧
  (∀ s : State, s.tb.mode = .holdover → s.tb.holdSince + odNat s 0x2400 6 * 1000000000 < s.tb.master →
    s.jr.intake.length < 256 → Completes .holdoverExpiry s fun t =>
      t.tb.mode = .freerun ∧ t.tb.trim = s.tb.trim ∧ t.tb.master = s.tb.master ∧
      t.jr.intake.length = s.jr.intake.length + 1 ∧ t.hst = s.hst ∧ t.ing = s.ing) ∧
  (∀ (s : State) (mac : Fin 8) (q origin : Nat) (corr : Int), tbSrc s = 1 → tbPort s = mac.val →
    Completes (.gptpFrameRx mac ⟨0, .sync q true origin corr⟩) s fun t =>
      t = { s with tb := { s.tb with sync := some ⟨q, s.tb.master, corr⟩ } }) ∧
  (∀ (s : State) (mac : Fin 8) (q respTx t1 t2 t4 : Nat), tbSrc s = 1 → tbPort s = mac.val →
    s.tb.pdReq = some (q, t1) → s.tb.pdResp = some (t2, t4) →
    Completes (.gptpFrameRx mac ⟨0, .pdelayRespFollowUp q respTx⟩) s fun t =>
      t = { s with tb := { s.tb with
        pdelay := (((t4 : Int) - t1) - ((respTx : Int) - t2)) / 2, pdReq := none, pdResp := none } }) ∧
  (∀ (s : State) (mac : Fin 8), tbSrc s = 2 → Completes (.gptpFrameRx mac ⟨0, .announce⟩) s fun t =>
    t = { s with tb := { s.tb with foreignAnn := (s.tb.foreignAnn + 1) % 2 ^ 32 } }) ∧
  ∀ (s : State) (mac : Fin 8) (f : GptpMsg), f.domain ≠ 0 → Completes (.gptpFrameRx mac f) s fun t => t = s

/-- For every island but SAF: a refresh with a lag outside 0 to 4 ns sets the island's bit in TB_SKEW_FLT and its skew
state, marks every RUNNING job, and raises REPLICA_SKEW where the skew state was clear; a passing refresh leaves a
clear skew state clear, counts one pass of a set one, and clears it at the 1,024th, leaving TB_SKEW_FLT as it was. The
skew states of other islands stand. The refreshed replica holds where it would move backwards, unless the master has
stepped backward since its last refresh; no other island's replica moves. (R50, R51, R60) -/
def Obligations.ReplicaSkew : Prop :=
  (∀ (s : State) (i : Fin 24) (lag : Int), i.val ≠ 23 → (lag < 0 ∨ 4 < lag) →
    Completes (.replicaRefresh i lag) s fun t =>
      t.tb.skewState = s.tb.skewState ||| (1#24 <<< i.val) ∧ t.tb.skewFlt = s.tb.skewFlt ||| (1#24 <<< i.val) ∧
      vget t.tb.passes i.val 0 = 0 ∧ t.kc = s.kc ∧ t.od = s.od ∧
      (s.tb.skewState.getLsbD i.val = false → Raised .replicaSkew 23 t) ∧
      ∀ (n : Nat) (j : Job), (n, j) ∈ s.hst.jobs → j.st = .running → (n, { j with skewed := true }) ∈ t.hst.jobs) ∧
  (∀ (s : State) (i : Fin 24) (lag : Int), i.val ≠ 23 → 0 ≤ lag → lag ≤ 4 → s.tb.skewState.getLsbD i.val = false →
    Completes (.replicaRefresh i lag) s fun t =>
      t.tb.lag = vset s.tb.lag i.val lag ∧ (0 ≤ vget s.tb.unseen i.val 0 → replica s i.val ≤ replica t i.val) ∧
      (∀ j : Fin 24, j ≠ i → replica t j.val = replica s j.val) ∧
      t.tb.skewState = s.tb.skewState ∧ t.tb.skewFlt = s.tb.skewFlt ∧ t.tb.passes = s.tb.passes ∧
      t.tb.master = s.tb.master ∧ t.tb.trim = s.tb.trim ∧ t.tb.mode = s.tb.mode ∧ { t with tb := s.tb } = s) ∧
  (∀ (s : State) (i : Fin 24) (lag : Int), i.val ≠ 23 → 0 ≤ lag → lag ≤ 4 → s.tb.skewState.getLsbD i.val = true →
    vget s.tb.passes i.val 0 + 1 < 1024 → Completes (.replicaRefresh i lag) s fun t =>
      t.tb.skewState = s.tb.skewState ∧ t.tb.skewFlt = s.tb.skewFlt ∧
      vget t.tb.passes i.val 0 = vget s.tb.passes i.val 0 + 1 ∧ { t with tb := s.tb } = s) ∧
  ∀ (s : State) (i : Fin 24) (lag : Int), i.val ≠ 23 → 0 ≤ lag → lag ≤ 4 → s.tb.skewState.getLsbD i.val = true →
    1024 ≤ vget s.tb.passes i.val 0 + 1 → Completes (.replicaRefresh i lag) s fun t =>
      t.tb.skewState = s.tb.skewState &&& ~~~(1#24 <<< i.val) ∧ t.tb.skewFlt = s.tb.skewFlt ∧ { t with tb := s.tb } = s

/-- With the field supply in range and PPS enabled, PPS_OUT rises once the master has passed a new whole second and
falls PPS_WIDTH after that second; a trigger output not held starts a pulse at its next grid instant, driving the
active level until WIDTH later, and ends it there, driving the inactive level; each start counts one pulse modulo
2^32. An accepted PPS_IN edge is stamped with the master; one too narrow, or less than 0.5 s after the last, is
counted and ignored. So PPS_OUT_PULSE, TRIG_EDGE and PPS_IN_EDGE complete, and change nothing but the pins, their
counters and, for an accepted edge, the time base. (R518, R519, R521, R522) -/
def Obligations.PulsesFollowTheMaster : Prop :=
  (∀ s : State, s.fio.supply = true → odNat s 0x4030 0x10 ≠ 0 → s.fio.ppsUntil = none →
    s.fio.ppsLast < s.tb.master / 1000000000 → Completes .ppsOutPulse s fun t =>
      t.fio.ppsOut = true ∧ t.fio.ppsUntil = some (s.tb.master / 1000000000 * 1000000000 + odNat s 0x4030 0x11) ∧
      t.fio.ppsLast = s.tb.master / 1000000000 ∧ { t with fio := s.fio } = s) ∧
  (∀ (s : State) (u : Nat), s.fio.supply = true → odNat s 0x4030 0x10 ≠ 0 → s.fio.ppsUntil = some u → u ≤ s.tb.master →
    Completes .ppsOutPulse s fun t =>
      t.fio.ppsOut = false ∧ t.fio.ppsUntil = none ∧ t.fio.ppsLast = s.fio.ppsLast ∧ { t with fio := s.fio } = s) ∧
  (∀ (s : State) (m : Fin 8), trigHeld s m.val = false → trigEn s m.val = true →
    (vget s.fio.trig m.val {}).until_ = none →
    gridFrom (trigPeriod s m.val) (trigPhase s m.val) (vget s.fio.trig m.val {}).notBefore ≤ s.tb.master →
    Completes (.trigEdge m) s fun t =>
      (vget t.fio.trig m.val {}).drive = !trigIdle s m.val ∧
      (vget t.fio.trig m.val {}).until_ = some (gridFrom (trigPeriod s m.val) (trigPhase s m.val)
        (vget s.fio.trig m.val {}).notBefore + trigWidth s m.val) ∧
      (vget t.fio.trig m.val {}).pulses = ((vget s.fio.trig m.val {}).pulses + 1) % 2 ^ 32 ∧
      { t with fio := s.fio } = s) ∧
  (∀ (s : State) (m : Fin 8) (u : Nat), trigHeld s m.val = false → (vget s.fio.trig m.val {}).until_ = some u →
    u ≤ s.tb.master → Completes (.trigEdge m) s fun t =>
      (vget t.fio.trig m.val {}).drive = trigIdle s m.val ∧ (vget t.fio.trig m.val {}).until_ = none ∧
      (vget t.fio.trig m.val {}).pulses = (vget s.fio.trig m.val {}).pulses ∧ { t with fio := s.fio } = s) ∧
  (∀ s : State, s.fio.supply = true → (s.fio.ppsSeen = false ∨ s.fio.ppsInTs + 500000000 ≤ s.tb.master) → tbSrc s ≠ 3 →
    Completes (.ppsInEdge true) s fun t =>
      t.fio.ppsInTs = s.tb.master ∧ t.fio.ppsSeen = true ∧ t.tb.master = s.tb.master ∧ t.tb.ppsWrite = none ∧
      { t with fio := s.fio, tb := s.tb } = s) ∧
  (∀ s : State, s.fio.supply = true → Completes (.ppsInEdge false) s fun t => t = regCount (rkey 0 0x04030C8) 1 s) ∧
  ∀ s : State, s.fio.supply = true → s.fio.ppsSeen = true → s.tb.master < s.fio.ppsInTs + 500000000 →
    Completes (.ppsInEdge true) s fun t => t = regCount (rkey 0 0x04030C8) 1 s

/-- A loss of VDD_FIELD makes every two-channel input inactive, drives every trigger output and PPS_OUT low and raises
FIELD_SUPPLY; its return starts every input again, inactive and armed as START_TEST says, and is no fault. A sample in
which the two channels of an enabled input disagree makes that input inactive and shows its discrepancy, and one in
which both are inactive arms it; a sample changes no job, no core and no partition. A FAULT_N hold that has lasted
ends. (R509, R512, R513, R514, R524) -/
def Obligations.FieldSupplyAndInputs : Prop :=
  (∀ s : State, s.fio.supply = true → Completes .fieldSupplyLoss s fun t =>
    t.fio.supply = false ∧ (∀ n : Fin 4, (vget t.fio.sin n.val {}).active = false) ∧
    (∀ m : Fin 8, (vget t.fio.trig m.val {}).drive = false ∧ (vget t.fio.trig m.val {}).until_ = none) ∧
    t.fio.ppsOut = false ∧ Raised .fieldSupply 23 t ∧ t.tb.master = s.tb.master ∧ t.hst = s.hst ∧ t.kc = s.kc) ∧
  (∀ s : State, s.fio.supply = false → Completes .fieldSupplyReturn s fun t =>
    t.fio.supply = true ∧ (∀ n : Fin 4, (vget t.fio.sin n.val {}).active = false ∧
      (vget t.fio.sin n.val {}).armed = !(odNat s (0x4020 + n.val) 4 == 1)) ∧
    t.fio.ppsOut = false ∧ { t with fio := s.fio } = s) ∧
  (∀ (s : State) (f : FieldSample) (n : Fin 4), s.fio.supply = true → sinEn s n.val = true →
    vget f.a n.val false ≠ (if sinAntiv s n.val then !vget f.b n.val false else vget f.b n.val false) →
    Completes (.sinSample f) s fun t =>
      (vget t.fio.sin n.val {}).active = false ∧ (vget t.fio.sin n.val {}).disc = true ∧
      t.kc = s.kc ∧ t.hst = s.hst ∧ t.parts = s.parts) ∧
  (∀ (s : State) (f : FieldSample) (n : Fin 4), s.fio.supply = true → sinEn s n.val = true →
    vget f.a n.val false = false → (if sinAntiv s n.val then !vget f.b n.val false else vget f.b n.val false) = false →
    Completes (.sinSample f) s fun t =>
      (vget t.fio.sin n.val {}).active = false ∧ (vget t.fio.sin n.val {}).armed = true ∧
      (vget t.fio.sin n.val {}).disc = false ∧ t.kc = s.kc ∧ t.hst = s.hst ∧ t.parts = s.parts) ∧
  ∀ s : State, s.node.faultHolding = true → s.node.faultHold ≤ s.tb.master → Completes .faultNHoldExpiry s fun t =>
    t = { s with node := { s.node with faultHolding := false } }

/-- SELFTEST_START marks the test's beginning at the master; with a boot header that is none it records FAIL 1 and
stays in the ROM. A test in which every checker passes, no memory fails and no core loses a quad ends with outcome 0,
all cores at full width, no fault and reason STS clear, and start-up goes on. A failing or untested checker, or a
memory failure, within 60 ms, raises its code, holds the device in SAFE with reason STS, and checker 26 sets the
latch; past 60 ms STS_TIME is raised and the device is held. No dictionary value, partition record, flash byte or time
count changes. (R442, R443, R444, R445, R460, R461, R540, R543) -/
def Obligations.StartupSelfTest : Prop :=
  (∀ s : State, s.saf.dev = .starting → s.saf.stsSince = none → s.saf.hold = false →
    Completes .selftestStart s fun t =>
      t.saf.stsSince = some s.tb.master ∧ (s.boot.stage ≠ 0 → t.saf.dev = .selftest ∧ t.boot = s.boot) ∧
      (s.boot.stage = 0 → bootHeader s = none → t.saf.dev = .starting ∧ t.boot = { s.boot with fail := 1 }) ∧
      { t with saf := s.saf, boot := s.boot, fio := s.fio, clk := s.clk } = s) ∧
  (∀ (s : State) (r : StsResult), s.saf.dev = .selftest → s.saf.stsSince.isSome = true →
    s.tb.master ≤ s.boot.since + 60000000 → s.saf.hold = false →
    (∀ i < 27, ∃ d, stsChk r (i + 1) = some (0, d)) → r.memFail = false →
    (∀ c : Fin 16, vget r.quads c.val 0 = 0 ∧ vget r.cause c.val 0 = 0) →
    Completes (.selftestEnd r) s fun t =>
      t.saf.dev = .selftest ∧ t.saf.stsSince = none ∧ smGet (fun _ => 0) t.saf.sts 1 = 0 ∧ t.saf.why.getLsbD 8 = false ∧
      t.saf.weirs = s.saf.weirs ∧ t.saf.latch = s.saf.latch ∧ t.boot.corePresent = 0xFFFF ∧
      (∀ c : Fin 16, vget t.boot.width c.val 1 = 0 ∧ (coreOf t c.val).quads = 0) ∧
      t.od = s.od ∧ t.parts = s.parts ∧ t.flash = s.flash ∧ t.tb.master = s.tb.master) ∧
  (∀ (s : State) (r : StsResult) (i : Nat), s.saf.dev = .selftest → s.saf.stsSince.isSome = true →
    s.tb.master ≤ s.boot.since + 60000000 → s.saf.hold = false → i < 27 →
    (s.saf.why ≠ 0 → s.saf.pinA = false ∧ s.saf.pinB = false) →
    (stsChk r (i + 1) = none ∨ ∃ n d, stsChk r (i + 1) = some (n + 1, d)) →
    Completes (.selftestEnd r) s fun t =>
      t.saf.dev = .safe ∧ smGet (fun _ => 0) t.saf.sts 1 = 2 ∧ t.saf.why.getLsbD 8 = true ∧ t.saf.pinA = false ∧
      t.saf.pinB = false ∧ Raised .stsChecker 23 t ∧ t.saf.stsFail.getLsbD (i + 1) = true ∧ (i = 25 →
      t.saf.latch = true) ∧
      t.od = s.od ∧ t.parts = s.parts ∧ t.flash = s.flash ∧ t.tb.master = s.tb.master) ∧
  (∀ (s : State) (r : StsResult), s.saf.dev = .selftest → s.saf.stsSince.isSome = true →
    s.tb.master ≤ s.boot.since + 60000000 → s.saf.hold = false → r.memFail = true →
    Completes (.selftestEnd r) s fun t =>
      t.saf.dev = .safe ∧ t.saf.why.getLsbD 8 = true ∧ Raised .stsMemory 23 t ∧ t.od = s.od ∧ t.parts = s.parts) ∧
  ∀ (s : State) (r : StsResult), s.saf.dev = .selftest → s.saf.stsSince.isSome = true →
    s.boot.since + 60000000 < s.tb.master → s.saf.hold = false →
    Completes (.selftestTimeout r) s fun t =>
      t.saf.dev = .safe ∧ t.saf.stsSince = none ∧ smGet (fun _ => 0) t.saf.sts 1 = 2 ∧ t.saf.why.getLsbD 8 = true ∧
      Raised .stsTime 23 t ∧ t.od = s.od ∧ t.parts = s.parts ∧ t.flash = s.flash ∧ t.tb.master = s.tb.master

/-- After the self-test, MGT boots from the first slot of its list that passes the checks, and not where none does or
no header is found. Training with MGT up records the fitted capacity; bring-up makes STATE READY, clocks every island
and clears reason START. A warm reset stops every core and job and starts the device again, keeping the dictionary,
the partition records, the journal's banks, the fuses and the flash; a pulse too short to be taken does nothing.
POWER_ON_RESET keeps the fuses, the flash and the results of the last self-test and loses the dictionary's values.
(R442, R444, R448, R493, R541, R543, R544, R546, R548) -/
def Obligations.StartUpAndResets : Prop :=
  (∀ (s : State) (h : List Byte), s.saf.dev = .selftest → s.saf.stsSince = none → s.saf.mgtUp = false →
  s.saf.hold = false →
    s.boot.stage = 1 → bootHeader s = some h → s.boot.slot = 2 →
    Completes .mgtBoot s fun t =>
      (slotCheck s (slotAt h 2) = 0 ∧ mgtCheck s (slotAt h 2) = 0 → t.saf.mgtUp = true ∧ t.saf.dev = .bringup ∧
        t.boot.stage = 3 ∧ t.boot.mgtImage = slotMgt s (slotAt h 2)) ∧
      (slotCheck s (slotAt h 2) ≠ 0 → t.saf.mgtUp = false ∧ t.saf.dev = .selftest ∧ t.boot.stage = 1 ∧
        t.boot.fail = slotCheck s (slotAt h 2)) ∧
      t.flash = s.flash ∧ t.fuses = s.fuses ∧ t.tb = s.tb ∧ t.parts = s.parts ∧ t.kc = s.kc) ∧
  (∀ s : State, s.saf.dev = .selftest → s.saf.stsSince = none → s.saf.mgtUp = false → s.saf.hold = false →
    s.boot.stage = 1 → bootHeader s = none →
    Completes .mgtBoot s fun t => t = { s with boot := { s.boot with fail := 1 } }) ∧
  (∀ (s : State) (cap : Fin 4), s.saf.dev = .bringup → s.saf.mgtUp = true → cap.val ≠ 0 → s.saf.hold = false →
    Completes (.dramTrainingComplete cap) s fun t =>
      t = { s with boot := { s.boot with memcap := if cap.val = 3 ∧
      s.fuses.aq2m = false then 2 else cap.val, stage := 4 } }) ∧
  (∀ s : State, s.saf.dev = .bringup → s.boot.memcap ≠ 0 → s.saf.hold = false → s.saf.latch = false →
    Completes .bringupComplete s fun t =>
      isReady t = true ∧ t.saf.everReady = true ∧ t.saf.why.getLsbD 15 = false ∧ t.clk.run = 0xFFFFFF ∧ t.boot.stage = 5 ∧
      t.od = s.od ∧ t.parts = s.parts ∧ t.kc = s.kc ∧ t.hst = s.hst ∧ t.tb.master = s.tb.master) ∧
  (∀ s : State, s.saf.tapHold = false → (s.saf.why ≠ 0 → s.saf.pinA = false ∧ s.saf.pinB = false) →
    Completes (.warmReset true) s fun t =>
      t.saf.dev = .starting ∧ t.saf.why.getLsbD 15 = true ∧ t.saf.pinA = false ∧ t.saf.pinB = false ∧
      t.saf.mgtUp = false ∧
      t.saf.latch = s.saf.latch ∧ t.hst.jobs = [] ∧ (∀ c : Fin 16, (coreOf t c.val).active = none) ∧
      (∀ p : Fin 8, recOf t p.val = recOf s p.val ∧ (ringsOf t p.val).en = false) ∧
      (∀ x : Fin 128, ctxEn t x.val = ctxEn s x.val) ∧ t.od = s.od ∧ t.jr.bank0 = s.jr.bank0 ∧ t.jr.bank1 = s.jr.bank1 ∧
      t.fuses = s.fuses ∧ t.flash = s.flash ∧ t.boot.cause = 8 + (if s.saf.pwrFail then 1 else 0)) ∧
  (∀ s : State, Completes (.warmReset false) s fun t => t = s) ∧
  ∀ (s : State) (pgood : Bool), Completes (.powerOnReset pgood) s fun t =>
    t.saf.dev = .starting ∧ t.saf.latch = false ∧ t.saf.hold = false ∧ t.saf.pinA = false ∧ t.saf.pinB = false ∧
    t.od = [] ∧
    t.hst.jobs = [] ∧ t.kc = State.reset.kc ∧ t.parts = State.reset.parts ∧ t.fuses = s.fuses ∧ t.flash = s.flash ∧
    t.saf.sts = s.saf.sts ∧ t.boot.cause = (if pgood then 4 else 2) + (if s.saf.pwrFail then 1 else 0)

/-- A SYSCLK window of 248 to 252 edges raises nothing; another raises SYSCLK_LOSS (no edges) or OSC_DIFF once until a
window passes. An island's clock off by more than 5 % raises ISLAND_CLOCK once, within it clears. A rail out of its
range loses its bit and raises RAIL_UNDER or RAIL_OVER. A slope tick grants at most S/5 levels, each of one, toward 16
where a context runs and toward 0 elsewhere. Below 140 degrees a sample sets each target as R574 says and raises
THERMAL_CRIT at 125 degrees newly reached; at 140 degrees the islands are held; the next core in turn steps by one
toward its target, and its first step below 16 raises THERMAL_THROTTLE. (R530, R536, R537, R538, R548, R567, R573,
R574, R575, R576) -/
def Obligations.ClocksRailsAndTemperature : Prop :=
  (∀ (s : State) (n : Nat), 248 ≤ n → n ≤ 252 →
    Completes (.clockMonitorWindow (.sysclk n)) s fun t => t = { s with clk := { s.clk with osc := n, sysFailing := false } }) ∧
  (∀ (s : State) (n : Nat), n < 248 ∨ 252 < n → s.clk.sysFailing = false →
    Completes (.clockMonitorWindow (.sysclk n)) s fun t =>
      Raised (if n = 0 then .sysclkLoss else .oscDiff) 23 t ∧
      t.clk = { s.clk with osc := min n 511, sysFailing := true } ∧
      { t with clk := s.clk, saf := s.saf, tb := s.tb } = s) ∧
  (∀ (s : State) (i : Fin 24) (d : Int), 50 < d.natAbs → s.clk.run.getLsbD i.val = true →
  s.clk.failing.getLsbD i.val = false →
    Completes (.clockMonitorWindow (.island i d)) s fun t =>
      Raised .islandClock 23 t ∧ t.clk.fail = s.clk.fail ||| (1#24 <<< i.val) ∧ t.clk.failing.getLsbD i.val = true ∧
      { t with clk := s.clk, saf := s.saf, tb := s.tb } = s) ∧
  (∀ (s : State) (i : Fin 24) (d : Int), d.natAbs ≤ 50 → s.clk.run.getLsbD i.val = true →
    Completes (.clockMonitorWindow (.island i d)) s fun t =>
      t = { s with clk := { s.clk with failing := s.clk.failing &&& ~~~(1#24 <<< i.val) } }) ∧
  (∀ (s : State) (r : Fin 7) (o : Bool), Completes (.railFault r o) s fun t =>
    t.clk = { s.clk with railsOk := s.clk.railsOk &&& ~~~(1#7 <<< r.val) } ∧
    Raised (if o then .railOver else .railUnder) 23 t ∧ { t with clk := s.clk, saf := s.saf, tb := s.tb } = s) ∧
  (∀ s : State, (∀ c : Fin 16, vget s.clk.level c.val 0 ≤ 16) → Completes .slopeTick s fun t =>
    (∀ c : Fin 16, let l := vget s.clk.level c.val 0
      let l' := vget t.clk.level c.val 0
      if (coreOf s c.val).active.isSome then l ≤ l' ∧ l' ≤ 16 else l' ≤ l) ∧
    ((List.range 16).map fun c => (vget t.clk.level c 0 - vget s.clk.level c 0) + (vget s.clk.level c 0 - vget t.clk.level c 0)).sum
      ≤ s.clk.slope / 5 ∧
    { t with clk := s.clk, regs := s.regs } = s ∧ t.clk.k = s.clk.k ∧ t.clk.target = s.clk.target) ∧
  (∀ (s : State) (l : List Int) (p : Nat), (∀ x ∈ l, x < 2240) →
    Completes (.thermalGovern l p) s fun t =>
      (∀ c : Fin 16, let sensor := max (l.getD (2 * c.val) 0) (l.getD (2 * c.val + 1) 0)
        let k := vget s.clk.k c.val 16
        let old := vget s.clk.target c.val 16
        vget t.clk.target c.val 16 =
          if ∃ x ∈ l, 2000 ≤ x then 4
          else if 1840 ≤ sensor ∨ 950 < p then max 4 (k - 1)
          else if sensor ≤ 1760 ∧ p ≤ 900 then min 16 (old + 1) else old) ∧
      t.clk.k = s.clk.k ∧ t.clk.sensors = l ∧ t.clk.pAvg = p ∧
      ((∃ x ∈ l, 2000 ≤ x) → (∀ x ∈ s.clk.sensors, x < 2000) → Raised .thermalCrit 23 t) ∧
      { t with clk := s.clk, saf := s.saf, tb := s.tb } = s) ∧
  (∀ (s : State) (l : List Int) (p : Nat), (∃ x ∈ l, 2240 ≤ x) → s.saf.hold = false →
    Completes (.thermalGovern l p) s fun t =>
      t.saf.hold = true ∧ t.saf.dev = .starting ∧ isReady t = false ∧ t.hst.jobs = [] ∧
      t.tb.master = s.tb.master ∧ t.jr.bank0 = s.jr.bank0 ∧ t.jr.bank1 = s.jr.bank1 ∧ t.od = s.od) ∧
  (∀ s : State, (∀ c : Fin 16, vget s.clk.k c.val 16 = vget s.clk.target c.val 16) →
  Completes .kcClockStep s fun t => t = s) ∧
  ∀ (s : State) (c : Nat), stepNext s = some c →
    Completes .kcClockStep s fun t =>
      vget t.clk.k c 16 = (if vget s.clk.target c 16 < vget s.clk.k c 16 then vget s.clk.k c 16 - 1 else vget s.clk.k c 16 + 1) ∧
      (∀ d, d ≠ c → vget t.clk.k d 16 = vget s.clk.k d 16) ∧ t.clk.lastStep = c ∧ t.clk.target = s.clk.target ∧
      (vget s.clk.target c 16 < vget s.clk.k c 16 → s.clk.armed16 = true → Raised .thermalThrottle 23 t) ∧
      { t with clk := s.clk, saf := s.saf, tb := s.tb, node := s.node } = s

/-- With no reason in force and no latch the heartbeat leaves the pins at opposite levels, each at the level it had
not; otherwise it changes nothing. A read-back that newly differs raises OUT_READBACK and sets reason PIN. In AUTO
mode MISSp clears after SAFE_MIN once a later on-time result stands. A watchdog expiry of a sequencer raises
SEQ_WATCHDOG and sets the latch: both pins low, LATCHED, no job left, reason LATCH. A mismatch of MGT's pair raises
LOCKSTEP and stops MGT, dropping its sessions and transfers. A deadline passed by 16 ns or more releases the entry
with one MISS stamped with it, counted, and sets MISSp where SAFE_SRC and the class allow. (R439, R441, R446, R447,
R448, R449, R453, R455, R460) -/
def Obligations.SafePinsAndTheLatch : Prop :=
  (∀ s : State, s.saf.why = 0 → s.saf.latch = false → Completes .heartbeatToggle s fun t =>
    t.saf.pinA = (!s.saf.pinA) ∧ t.saf.pinB = s.saf.pinA ∧ t.saf.rbA = t.saf.pinA ∧ t.saf.rbB = t.saf.pinB ∧
    { t with saf := s.saf } = s ∧ t.saf.why = s.saf.why) ∧
  (∀ s : State, s.saf.why ≠ 0 ∨ s.saf.latch = true → Completes .heartbeatToggle s fun t => t = s) ∧
  (∀ (s : State) (a b : Bool), s.saf.rbA = s.saf.pinA → a ≠ s.saf.pinA →
    (s.saf.why ≠ 0 → s.saf.pinA = false ∧ s.saf.pinB = false) →
    Completes (.safePinReadback a b) s fun t =>
      Raised .outReadback 23 t ∧ t.saf.why = s.saf.why ||| 0x2000 ∧ t.saf.pinA = false ∧ t.saf.pinB = false ∧
      t.od = s.od ∧ t.hst = s.hst ∧ t.kc = s.kc ∧ t.parts = s.parts) ∧
  (∀ s : State, Completes (.safePinReadback s.saf.pinA s.saf.pinB) s fun t =>
    t = { s with saf := { s.saf with rbA := s.saf.pinA, rbB := s.saf.pinB } }) ∧
  (∀ (s : State) (p : Fin 8), odNat s 0x4000 2 = 1 → s.saf.why.getLsbD p.val = true →
  vget s.saf.onTime p.val false = true →
    vget s.saf.missAt p.val 0 + odNat s 0x4000 3 * 1000000 ≤ s.tb.master →
    Completes (.safeMinExpiry p) s fun t =>
      t.saf.why = s.saf.why &&& ~~~(1#16 <<< p.val) ∧ t.od = s.od ∧ t.hst = s.hst ∧ t.kc = s.kc ∧ t.parts = s.parts) ∧
  (∀ (s : State) (sh : Bool), s.saf.latch = false → s.saf.why.getLsbD 14 = false →
    Completes (.seqWatchdogExpiry sh) s fun t =>
      t.saf.latch = true ∧ devCode t = 5 ∧ t.saf.why = s.saf.why ||| 0x4000 ∧ t.saf.pinA = false ∧ t.saf.pinB = false ∧
      Raised .seqWatchdog 23 t ∧ t.hst.jobs = [] ∧ (∀ c : Fin 16, (coreOf t c.val).active = none) ∧
      t.od = s.od ∧ t.parts = s.parts ∧ t.dram = s.dram ∧ t.tb.master = s.tb.master ∧ t.out = s.out) ∧
  (∀ s : State, mgtRuns s = true → Completes .mgtLockstepMismatch s fun t =>
    Raised .lockstep 22 t ∧ t.saf.mgtDown = true ∧ mgtRuns t = false ∧ t.node.odq = [] ∧ t.node.can0.session = none ∧
    t.node.can1.session = none ∧ t.saf.why = s.saf.why ∧ { t with saf := s.saf, node := s.node, tb := s.tb } = s) ∧
  ∀ (s : State) (i : Fin 512) (e : MonEntry) (d : Nat), monGet s i.val = some e → e.deadline = some d →
  d + 16 ≤ s.tb.master →
    e.part < 8 →
    Completes (.deadlineExpiry i) s fun t =>
      monGet t i.val = none ∧ t.hst.misses = (s.hst.misses + 1) % 2 ^ 32 ∧
      (∃ f ∈ weirAll t 23, f.code = .miss ∧ f.ts = d ∧ f.job = some ⟨i.val, e.taggen⟩ ∧ f.part = some e.part) ∧
      (bitOf (odNat s 0x4000 1) e.part = true → partClass s e.part < 2 → t.saf.why.getLsbD e.part = true) ∧
      (bitOf (odNat s 0x4000 1) e.part = false ∨ 2 ≤ partClass s e.part → t.saf.why = s.saf.why) ∧
      (∀ j : Fin 512, j ≠ i → monGet t j.val = monGet s j.val) ∧
      t.hst.jobs = s.hst.jobs ∧ t.kc = s.kc ∧ t.od = s.od ∧ t.parts = s.parts

/-- With records waiting, JOURNAL_WRITE takes the first in canonical order, which is kept apart on each side of a backward
step of the master, gives it JSEQ, puts it into slot JSEQ mod 8192 and into the last-word registers, and leaves the
other slots; one queue, no other. NV_RECORD_WRITE appends the
oldest pending record to the active bank's next slot and leaves the other slots and bank. With none pending, a
compaction copies the next record of the active bank into the other, and after the last one the other bank becomes
active with GEN one higher. A failed verify sets FAIL. PWRFAIL sets reason PWR, cuts the pending queue to 8 with its
own record last, and changes no job, core or dictionary value. (R58, R60, R464, R465, R467, R468, R469, R471, R473) -/
def Obligations.TheJournal : Prop :=
  (∀ (s : State) (r : JRec) (rest : List JRec), takeMin jrecBefore s.jr.intake = some (r, rest) → s.jr.ringFail = false →
    Completes (.journalWrite true) s fun t =>
      t.jr.intake = rest ∧ t.jr.jseq = (s.jr.jseq + 1) % 2 ^ 32 ∧ t.jr.dropped = false ∧
      (∃ x, smGet (fun _ => none) t.jr.ring (s.jr.jseq % 8192) = some x ∧ x.jseq = s.jr.jseq ∧ x.seq = r.seq ∧
      x.isl = r.isl ∧
        x.kind = r.kind ∧ x.code = r.code ∧ x.ts = r.ts ∧ x.tag = r.tag ∧ x.a0 = r.a0 ∧ x.a1 = r.a1 ∧ x.a2 = r.a2 ∧
        t.jr.lastw0 = bytesWords (jrecBytes x) ∧
        (nvEligible r = false → t.jr.nvPend = s.jr.nvPend) ∧
        (nvEligible r = true → bitOf r.flags 4 = false → s.jr.nvFail = false → s.saf.pwrFail = false →
        s.jr.nvClosed = false →
          s.jr.nvPend.length < 64 → t.jr.nvPend = s.jr.nvPend ++ [x])) ∧
      (∀ n, n ≠ s.jr.jseq % 8192 → smGet (fun _ => none) t.jr.ring n = smGet (fun _ => none) s.jr.ring n) ∧
      (∀ x ∈ rest, r.side < x.side ∨ (r.side = x.side ∧ (r.ts < x.ts ∨ (r.ts = x.ts ∧ r.isl ≤ x.isl)))) ∧
      t.jr.bank0 = s.jr.bank0 ∧ t.jr.bank1 = s.jr.bank1 ∧ { t with jr := s.jr, regs := s.regs } = s) ∧
  (∀ s : State, s.jr.intake = [] → ∀ ok, Completes (.journalWrite ok) s fun t => t = s) ∧
  (∀ (s : State) (r : JRec) (rest : List JRec), s.jr.nvPend = r :: rest → s.jr.nvFail = false → s.jr.nvClosed = false →
    s.saf.pwrFail = false → (activeBank s).used < 1791 → s.jr.compact = none →
    Completes (.nvRecordWrite true) s fun t =>
      t.jr.nvPend = rest ∧ smGet slotEmpty (activeBank t).slots ((activeBank s).used + 1) = .full r ∧
      (activeBank t).used = (activeBank s).used + 1 ∧ otherBank t = otherBank s ∧
      (∀ n, n ≠ (activeBank s).used + 1 →
      smGet slotEmpty (activeBank t).slots n = smGet slotEmpty (activeBank s).slots n) ∧
      { t with jr := s.jr } = s) ∧
  (∀ (s : State) (k : Compaction), s.jr.compact = some k → s.saf.pwrFail = false → s.jr.nvPend = [] →
    k.src ≤ (activeBank s).used → Completes (.nvCompactCopy true) s fun t =>
      t.jr.compact = some ⟨k.src + 1, k.copied + 1⟩ ∧ activeBank t = activeBank s ∧
      smGet slotEmpty (otherBank t).slots ((otherBank s).used + 1) = smGet slotEmpty (activeBank s).slots k.src ∧
      (otherBank t).used = (otherBank s).used + 1 ∧ { t with jr := s.jr } = s) ∧
  (∀ (s : State) (k : Compaction), s.jr.compact = some k → s.saf.pwrFail = false → s.jr.nvPend = [] →
    (activeBank s).used < k.src → Completes (.nvCompactCopy true) s fun t =>
      t.jr.compact = none ∧ t.jr.active1 = (!s.jr.active1) ∧ (activeBank t).gen = some ((activeBank s).gen.getD 0 + 1) ∧
      (activeBank t).slots = (otherBank s).slots ∧ otherBank t = activeBank s ∧ { t with jr := s.jr } = s) ∧
  (∀ (s : State) (r : JRec) (rest : List JRec), s.jr.nvPend = r :: rest → s.jr.nvFail = false → s.jr.nvClosed = false →
    Completes (.nvRecordWrite false) s fun t => t.jr.nvFail = true ∧ t.jr.bank0 = s.jr.bank0 ∧ t.jr.bank1 = s.jr.bank1) ∧
  ∀ s : State, s.saf.pwrFail = false → s.jr.nvFail = false →
    (s.saf.why ≠ 0 → s.saf.pinA = false ∧ s.saf.pinB = false) →
    Completes .pwrfail s fun t =>
      t.saf.pwrFail = true ∧ t.saf.why = s.saf.why ||| 0x1000 ∧ t.saf.pinA = false ∧ t.saf.pinB = false ∧
      t.jr.nvPend.length = min 8 (s.jr.nvPend.length + 1) ∧
      (t.jr.nvPend.getLast?.map fun r => (r.code, r.ts, bitOf r.flags 4)) = some (0x0A08, s.tb.master, true) ∧
      t.hst = s.hst ∧ t.kc = s.kc ∧ t.od = s.od ∧ t.parts = s.parts ∧ t.jr.bank0 = s.jr.bank0 ∧ t.jr.bank1 = s.jr.bank1

/-- On a live channel, for its own node-ID or 0, Start, Stop and Enter pre-operational set the channel's NMT state and
change nothing else; Reset node and Reset communication end its USDO session, apply the channel's settings of OD index
0x2080, give the heartbeat time its default of 100 ms, send the boot-up message where the channel is enabled, and
enter PRE-OPERATIONAL. The other channel keeps its NMT state, session and settings, and no job, core, partition or
safety reason changes. A command for another node changes nothing. (R483, R486, R487) -/
def Obligations.NmtCommands : Prop :=
  (∀ (s : State) (ch : Fin 2) (n : Nat), chLive s ch.val = true → (n = 0 ∨ n = (chGet s ch.val).node) →
    Completes (.nmtStart ch n) s fun t => t = chPut ch.val { chGet s ch.val with nmt := .operational } s) ∧
  (∀ (s : State) (ch : Fin 2) (n : Nat), chLive s ch.val = true → (n = 0 ∨ n = (chGet s ch.val).node) →
    Completes (.nmtStop ch n) s fun t => t = chPut ch.val { chGet s ch.val with nmt := .stopped } s) ∧
  (∀ (s : State) (ch : Fin 2) (n : Nat), chLive s ch.val = true → (n = 0 ∨ n = (chGet s ch.val).node) →
    Completes (.nmtEnterPreoperational ch n) s fun t => t = chPut ch.val { chGet s ch.val with nmt := .preop } s) ∧
  (∀ (s : State) (ch : Fin 2) (n : Nat), chLive s ch.val = true → (n = 0 ∨ n = (chGet s ch.val).node) →
    let P (t : State) : Prop :=
      (chGet t ch.val).nmt = .preop ∧ (chGet t ch.val).session = none ∧
      (chGet t ch.val).enabled = bitOf (odNat s 0x2080 5) ch.val ∧ (chGet t ch.val).node = odNat s 0x2080 (1 + ch.val) ∧
      (chGet t ch.val).arb = odNat s 0x2080 3 ∧ (chGet t ch.val).data = odNat s 0x2080 4 ∧
      odNat t 0x1017 0 = 100 ∧
      t.out = s.out ++ (if bitOf (odNat s 0x2080 5) ch.val then [.can ch.val (0x700 + odNat s 0x2080 (1 + ch.val)) [0]] else []) ∧
      { chGet t (1 - ch.val) with hbNext := none } = { chGet s (1 - ch.val) with hbNext := none } ∧
      { t with node := s.node, out := s.out, od := s.od } = s
    Completes (.nmtResetNode ch n) s P ∧ Completes (.nmtResetCommunication ch n) s P) ∧
  ∀ (s : State) (ch : Fin 2) (n : Nat), n ≠ 0 → n ≠ (chGet s ch.val).node →
    (Completes (.nmtStart ch n) s fun t => t = s) ∧ (Completes (.nmtStop ch n) s fun t => t = s) ∧
    (Completes (.nmtEnterPreoperational ch n) s fun t => t = s) ∧ (Completes (.nmtResetNode ch n) s fun t => t = s) ∧
    Completes (.nmtResetCommunication ch n) s fun t => t = s

/-- A live channel that enters bus-off has no session and no pending heartbeat, remembers its NMT state and raises
CAN_BUSOFF; recovery makes it error-active again in the NMT state it held before, with a boot-up message where it is
enabled; error-passive and error-active move only the error state; an ignored frame is counted in CANERR modulo 2^32.
None touches a job, a core, a partition or the dictionary. (R482, R484) -/
def Obligations.CanChannelErrors : Prop :=
  (∀ (s : State) (ch : Fin 2), chLive s ch.val = true → Completes (.canBusoff ch) s fun t =>
    (chGet t ch.val).err = .busoff ∧ (chGet t ch.val).session = none ∧ (chGet t ch.val).hbNext = none ∧
    (chGet t ch.val).nmtBack = (chGet s ch.val).nmt ∧ Raised .canBusoff 22 t ∧
    t.od = s.od ∧ t.hst = s.hst ∧ t.kc = s.kc ∧ t.parts = s.parts ∧ t.out = s.out) ∧
  (∀ (s : State) (ch : Fin 2), mgtRuns s = true → (chGet s ch.val).err = .busoff →
    Completes (.busoffRecovery ch) s fun t =>
      (chGet t ch.val).err = .active ∧ (chGet t ch.val).nmt = (chGet s ch.val).nmtBack ∧
      t.out = s.out ++ (if (chGet s ch.val).enabled then [.can ch.val (0x700 + (chGet s ch.val).node) [0]] else []) ∧
      { t with node := s.node, out := s.out } = s) ∧
  (∀ (s : State) (ch : Fin 2), chLive s ch.val = true → (chGet s ch.val).err = .active →
    Completes (.canErrorPassive ch) s fun t =>
      (chGet t ch.val).err = .passive ∧ (chGet t ch.val).nmt = (chGet s ch.val).nmt ∧
      (chGet t ch.val).session = (chGet s ch.val).session ∧ { t with node := s.node } = s) ∧
  (∀ (s : State) (ch : Fin 2), chLive s ch.val = true → (chGet s ch.val).err = .passive →
    Completes (.canErrorActive ch) s fun t =>
      (chGet t ch.val).err = .active ∧ (chGet t ch.val).nmt = (chGet s ch.val).nmt ∧
      (chGet t ch.val).session = (chGet s ch.val).session ∧ { t with node := s.node } = s) ∧
  ∀ (s : State) (ch : Fin 2), chLive s ch.val = true → Completes (.canFrameIgnored ch) s fun t =>
    t = { s with node := { s.node with canErr := (s.node.canErr + 1) % 2 ^ 32 } }

/-- A heartbeat that is due on a live channel is one byte with the NMT state as CiA 1301 codes it, on identifier 0x700
plus the node-ID, and the next one follows by the heartbeat time in force. The first queued emergency frame of a live,
error-active channel leaves on 0x080 plus the node-ID with the 16 bytes of R488; the error history gains its entry at
the front, and keeps at most 16, where the frame carries an event not yet entered, and stays as it was otherwise.
(R487, R488, R489, R499) -/
def Obligations.HeartbeatsAndEmergencies : Prop :=
  (∀ (s : State) (ch : Fin 2) (due : Nat), chLive s ch.val = true → (chGet s ch.val).hbNext = some due →
    due ≤ s.tb.master → Completes (.heartbeatSend ch) s fun t =>
      t.out = s.out ++ [.can ch.val (0x700 + (chGet s ch.val).node) [BitVec.ofNat 8 (match (chGet s ch.val).nmt with
        | .initialising => 0 | .stopped => 4 | .operational => 5 | .preop => 127)]] ∧
      (chGet t ch.val).hbNext = (if odNat s 0x1017 0 = 0 then none else some (due + odNat s 0x1017 0 * 1000000)) ∧
      { chGet t ch.val with hbNext := none } = { chGet s ch.val with hbNext := none } ∧
      chGet t (1 - ch.val) = chGet s (1 - ch.val) ∧ { t with node := s.node, out := s.out } = s) ∧
  (∀ (s : State) (ch : Fin 2) (e : Emcy) (rest : List Emcy), chLive s ch.val = true → (chGet s ch.val).err = .active →
    (chGet s ch.val).emq = e :: rest → e.evs ≠ [] → Completes (.emcySend ch) s fun t =>
      t.out = s.out ++ [.can ch.val (0x80 + (chGet s ch.val).node) (emcyBytes e)] ∧ (emcyBytes e).length = 16 ∧
      t.node.history = ((0xFF00 + e.fcode / 256 + e.fcode * 65536) :: s.node.history).take 16 ∧
      (chGet t ch.val).emq.length = rest.length ∧ { t with node := s.node, out := s.out } = s) ∧
  ∀ (s : State) (ch : Fin 2) (e : Emcy) (rest : List Emcy), chLive s ch.val = true → (chGet s ch.val).err = .active →
    (chGet s ch.val).emq = e :: rest → e.evs = [] → Completes (.emcySend ch) s fun t =>
      t.out = s.out ++ [.can ch.val (0x80 + (chGet s ch.val).node) (emcyBytes e)] ∧
      t.node.history = s.node.history ∧ (chGet t ch.val).emq = rest ∧ { t with node := s.node, out := s.out } = s

/-- A whole upload or download on a live channel in PRE-OPERATIONAL or OPERATIONAL without a session opens one and
hands MGT one transfer behind those that wait; with a session open it is answered with SDO abort code 0x0800_0020 and
no transfer starts. A session whose client has been silent for 1 s ends with 0x0504_0000. A mailbox command of a
linked port, with MGT up and the mailbox not BUSY, makes it BUSY and hands MGT one transfer with the index and sub-
index of HST_MBX_ADDR and, for a write, LEN bytes of its buffer. The dictionary itself does not change yet. (R491,
R495, R496) -/
def Obligations.TransfersReachTheDictionary : Prop :=
  (∀ (s : State) (ch : Fin 2) (i j : Nat), chLive s ch.val = true →
    (chGet s ch.val).nmt = .preop ∨ (chGet s ch.val).nmt = .operational → (chGet s ch.val).session = none →
    Completes (.usdoRequest ch (.upload i j)) s fun t =>
      t.node.odq = s.node.odq ++ [⟨ch.val, false, i, j, [], true⟩] ∧ (chGet t ch.val).session.isSome = true ∧
      { t with node := s.node } = s) ∧
  (∀ (s : State) (ch : Fin 2) (i j : Nat) (d : List Byte), chLive s ch.val = true →
    (chGet s ch.val).nmt = .preop ∨ (chGet s ch.val).nmt = .operational → (chGet s ch.val).session = none →
    Completes (.usdoRequest ch (.download i j d)) s fun t =>
      t.node.odq = s.node.odq ++ [⟨ch.val, true, i, j, d, true⟩] ∧ (chGet t ch.val).session.isSome = true ∧
      { t with node := s.node } = s) ∧
  (∀ (s : State) (ch : Fin 2) (i j : Nat), chLive s ch.val = true →
    (chGet s ch.val).nmt = .preop ∨ (chGet s ch.val).nmt = .operational → (chGet s ch.val).session ≠ none →
    Completes (.usdoRequest ch (.upload i j)) s fun t =>
      t = { s with out := s.out ++ [.usdo ch.val (0x580 + (chGet s ch.val).node) 0x08000020 []] }) ∧
  (∀ (s : State) (ch : Fin 2) (x : Usdo), chLive s ch.val = true → (chGet s ch.val).session = some x →
    x.last + 1000000000 ≤ s.tb.master → Completes (.usdoTimeout ch) s fun t =>
      (chGet t ch.val).session = none ∧ t.out = s.out ++ [.usdo ch.val (0x580 + (chGet s ch.val).node) 0x05040000 []] ∧
      { t with node := s.node, out := s.out } = s) ∧
  (∀ (s : State) (h : Fin 4), linked s (.host h) = true → mgtRuns s = true → (mbxGet s h.val).state ≠ 1 →
    Completes (.mbxRead (.host h)) s fun t =>
      (mbxGet t h.val).state = 1 ∧ t.node.odq = s.node.odq ++
        [⟨2 + h.val, false, (mbxGet s h.val).addr % 65536, (mbxGet s h.val).addr / 65536 % 256, [], true⟩] ∧
      { t with node := s.node } = s) ∧
  ∀ (s : State) (h : Fin 4), linked s (.host h) = true → mgtRuns s = true → (mbxGet s h.val).state ≠ 1 →
    Completes (.mbxWrite (.host h)) s fun t =>
      (mbxGet t h.val).state = 1 ∧ t.node.odq = s.node.odq ++
        [⟨2 + h.val, true, (mbxGet s h.val).addr % 65536, (mbxGet s h.val).addr / 65536 % 256,
          smGetList byteZero (mbxGet s h.val).data 0 (min (mbxGet s h.val).len 32768), true⟩] ∧
      { t with node := s.node } = s

/-- With MGT running and no other transfer waiting, a read of an existing sub-index that is not WO answers abort code
0 and the entry's value, one of an index that does not exist 0x0602_0000, one of a sub-index that does not exist
0x0609_0011, one of a WO entry 0x0601_0001; beside that answer nothing changes. The answer of a command without a
waiting transfer is an output (log entry 7). (R495, R497) -/
def Obligations.DictionaryReads : Prop :=
  (∀ (s : State) (r : OdReq) (i j : Nat) (row : OdRow), mgtRuns s = true → s.node.odq = [] → odRow i j = some row →
    row.acc ≠ .wo → Completes (.odRead r i j) s fun t =>
      t = { s with out := s.out ++ [.od (odReqNo r) 0 (odValue s (odReqNo r) i j)] }) ∧
  (∀ (s : State) (r : OdReq) (i j : Nat), mgtRuns s = true → s.node.odq = [] → odRows i = [] →
    Completes (.odRead r i j) s fun t => t = { s with out := s.out ++ [.od (odReqNo r) 0x06020000 []] }) ∧
  (∀ (s : State) (r : OdReq) (i j : Nat), mgtRuns s = true → s.node.odq = [] → odRows i ≠ [] → odRow i j = none →
    Completes (.odRead r i j) s fun t => t = { s with out := s.out ++ [.od (odReqNo r) 0x06090011 []] }) ∧
  ∀ (s : State) (r : OdReq) (i j : Nat) (row : OdRow), mgtRuns s = true → s.node.odq = [] → odRow i j = some row →
    row.acc = .wo → Completes (.odRead r i j) s fun t => t = { s with out := s.out ++ [.od (odReqNo r) 0x06010001 []] }

/-- With MGT running, no other transfer waiting and the device neither latched nor held after READY, a CAN client's
write of a deadline budget EXPECTp up to 16 stores the value and changes nothing else but its answer; one above 16 is
refused with 0x0609_0030. For any entry outside the partition table: a write of an RO or CONST entry is refused with
0x0601_0002, one of the wrong length with 0x0607_0010, and one before READY with 0x0800_0022, each leaving everything
but the answer as it was. The debug port's mailbox refuses every write of an existing entry with 0x0601_0000. (R451,
R490, R495, R497) -/
def Obligations.DictionaryWrites : Prop :=
  (∀ (s : State) (c : Fin 2) (p : Fin 8) (n : Nat), mgtRuns s = true → s.node.odq = [] → s.saf.everReady = true →
    s.saf.latch = false → held s = false → n ≤ 16 →
    Completes (.odWrite (.can c) 0x4001 (0x20 + p.val) [BitVec.ofNat 8 n]) s fun t =>
      odNat t 0x4001 (0x20 + p.val) = n ∧ t.out = s.out ++ [.od c.val 0 []] ∧
      (∀ i j, odKey i j ≠ odKey 0x4001 (0x20 + p.val) → odGet t i j = odGet s i j) ∧
      { t with od := s.od, out := s.out } = s) ∧
  (∀ (s : State) (c : Fin 2) (p : Fin 8) (n : Nat), mgtRuns s = true → s.node.odq = [] → s.saf.everReady = true →
    s.saf.latch = false → held s = false → 16 < n → n < 256 →
    Completes (.odWrite (.can c) 0x4001 (0x20 + p.val) [BitVec.ofNat 8 n]) s fun t =>
      t = { s with out := s.out ++ [.od c.val 0x06090030 []] }) ∧
  (∀ (s : State) (c : Fin 2) (i j : Nat) (v : List Byte) (row : OdRow), mgtRuns s = true → s.node.odq = [] → i ≠ 0x2100 →
    odRow i j = some row → (row.acc = .ro ∨ row.acc = .const) → Completes (.odWrite (.can c) i j v) s fun t =>
      t = { s with out := s.out ++ [.od c.val 0x06010002 []] }) ∧
  (∀ (s : State) (c : Fin 2) (i j : Nat) (v : List Byte) (row : OdRow), mgtRuns s = true → s.node.odq = [] → i ≠ 0x2100 →
    odRow i j = some row → (row.acc = .rw ∨ row.acc = .wo) → v.length ≠ row.len →
    Completes (.odWrite (.can c) i j v) s fun t => t = { s with out := s.out ++ [.od c.val 0x06070010 []] }) ∧
  (∀ (s : State) (c : Fin 2) (i j : Nat) (v : List Byte) (row : OdRow), mgtRuns s = true → s.node.odq = [] → i ≠ 0x2100 →
    odRow i j = some row → (row.acc = .rw ∨ row.acc = .wo) → v.length = row.len → s.saf.everReady = false →
    s.saf.latch = false → Completes (.odWrite (.can c) i j v) s fun t =>
      t = { s with out := s.out ++ [.od c.val 0x08000022 []] }) ∧
  ∀ (s : State) (i j : Nat) (v : List Byte) (row : OdRow), mgtRuns s = true → s.node.odq = [] → i ≠ 0x2100 →
    odRow i j = some row → Completes (.odWrite .dbg i j v) s fun t =>
      t = { s with out := s.out ++ [.od 6 0x06010000 []] }

/-- With MGT running, no other transfer waiting and the device neither latched nor held after READY, over CAN FD: a
write of 0 to OD index 0x1003 empties the error history; SAFE_ACK clears exactly the MISSp reasons it names and leaves
reasons 8 to 15; TRIGGER starts a capture where none is held and source 1 is enabled, with the trigger instant of now
and the next capture number; REARM releases a held capture. With the recovery latch set and the device not held,
LATCH_CLR with its key clears the latch and reason LATCH and starts the device again, keeping the master count and
trim. (R449, R460, R475, R477, R499) -/
def Obligations.DictionaryCommandsAct : Prop :=
  (∀ (s : State) (c : Fin 2), mgtRuns s = true → s.node.odq = [] → s.saf.everReady = true → s.saf.latch = false →
    held s = false → Completes (.errorHistoryClear (.can c) 0) s fun t =>
      t.node.history = [] ∧ t.od = s.od ∧ t.jr = s.jr ∧ t.saf = s.saf ∧ t.hst = s.hst) ∧
  (∀ (s : State) (c : Fin 2) (v : Nat), mgtRuns s = true → s.node.odq = [] → s.saf.everReady = true →
  s.saf.latch = false →
    held s = false → v < 256 → Completes (.safeAck (.can c) v) s fun t =>
      t.saf.why = s.saf.why &&& ~~~(BitVec.ofNat 16 v) ∧ t.od = s.od ∧ t.hst = s.hst ∧ t.kc = s.kc ∧ t.parts = s.parts) ∧
  (∀ (s : State) (c : Fin 2), mgtRuns s = true → s.node.odq = [] → s.saf.everReady = true → s.saf.latch = false →
    held s = false → bitOf (odNat s 0x4200 1) 1 = true → s.img.phase = .empty →
    Completes (.imagoTrigger (.can c) 1) s fun t =>
      t.img.phase = .pending ∧ t.img.capno = (s.img.capno + 1) % 2 ^ 32 ∧ t.img.trig = s.tb.master ∧ t.img.src = 2 ∧
      t.od = s.od ∧ t.saf = s.saf ∧ t.hst = s.hst) ∧
  (∀ (s : State) (c : Fin 2), mgtRuns s = true → s.node.odq = [] → s.saf.everReady = true → s.saf.latch = false →
    held s = false → s.img.phase = .held → Completes (.imagoRearm (.can c) 1) s fun t =>
      t.img = { s.img with phase := .empty } ∧ t.od = s.od ∧ t.saf = s.saf ∧ t.hst = s.hst) ∧
  ∀ (s : State) (c : Fin 2), mgtRuns s = true → s.node.odq = [] → s.saf.latch = true → held s = false →
    Completes (.latchClear (.can c) 0x524C4352) s fun t =>
      t.saf.latch = false ∧ t.saf.why.getLsbD 14 = false ∧ t.saf.why.getLsbD 15 = true ∧ t.saf.dev = .starting ∧
      t.tb.master = s.tb.master ∧ t.tb.trim = s.tb.trim ∧ t.od = s.od ∧ t.fuses = s.fuses ∧ t.flash = s.flash

/-- With MGT running, no other transfer waiting and the device neither latched nor held after READY, over CAN FD: a
record of 320 bytes for which no reason of R391 holds becomes the partition's record, and the records of the other
partitions stand; a record for which a reason holds changes no record, and the requester's REJ becomes the first
reason. A write of p to RESET by a requester of WRITERS, while Pp does not reset, sets Pp's bit of RESETTING from the
present instant and keeps its record and the other partitions' records; while Pp resets it is refused with
0x0800_0022. (R389, R391, R395) -/
def Obligations.PartitionTableCommands : Prop :=
  (∀ (s : State) (c : Fin 2) (p : Fin 8) (n : List Byte), mgtRuns s = true → s.node.odq = [] → s.saf.everReady = true →
    s.saf.latch = false → held s = false → n.length = 320 → partReason s c.val p.val n = 0 →
    Completes (.partitionRecordWrite (.can c) (0x10 + p.val) n) s fun t =>
      (partOf t p.val).record = n ∧ (∀ q : Fin 8, q ≠ p → (partOf t q.val).record = (partOf s q.val).record) ∧
      t.od = s.od ∧ t.hst = s.hst ∧ t.node = s.node) ∧
  (∀ (s : State) (c : Fin 2) (p : Fin 8) (n : List Byte), mgtRuns s = true → s.node.odq = [] → s.saf.everReady = true →
    s.saf.latch = false → held s = false → n.length = 320 → partReason s c.val p.val n ≠ 0 →
    Completes (.partitionRecordWrite (.can c) (0x10 + p.val) n) s fun t =>
      t.parts = s.parts ∧ vget t.node.rej c.val 0 = partReason s c.val p.val n ∧
      { t with node := s.node, out := s.out } = s) ∧
  (∀ (s : State) (c : Fin 2) (p : Fin 8), mgtRuns s = true → s.node.odq = [] → s.saf.everReady = true →
    s.saf.latch = false → held s = false → bitOf (odNat s 0x2100 1) 0 = true → (partOf s p.val).reset = none →
    Completes (.partitionReset (.can c) p.val) s fun t =>
      (partOf t p.val).reset = some ⟨s.tb.master⟩ ∧ (∀ q : Fin 8, (partOf t q.val).record = (partOf s q.val).record) ∧
      t.tb.master = s.tb.master ∧ t.od = s.od) ∧
  ∀ (s : State) (c : Fin 2) (p : Fin 8), mgtRuns s = true → s.node.odq = [] → s.saf.everReady = true →
    s.saf.latch = false → held s = false → bitOf (odNat s 0x2100 1) 0 = true → (partOf s p.val).reset ≠ none →
    Completes (.partitionReset (.can c) p.val) s fun t => t = { s with out := s.out ++ [.od c.val 0x08000022 []] }

/-- With MGT running, no other transfer waiting and the device neither latched nor held after READY, over CAN FD:
where the context is disabled and no reason of R70 or R103 refuses it, CONTEXT_ENABLE enables it and stores ENABLE 1;
where one refuses it, the write is refused with 0x0609_0030 and no context changes its enable. CONTEXT_DISABLE of an
enabled context disables it and stores ENABLE 0. The other contexts keep their enables. (R70, R103) -/
def Obligations.StreamContextsEnableAndDisable : Prop :=
  (∀ (s : State) (c : Fin 2) (x : Fin 128), mgtRuns s = true → s.node.odq = [] → s.saf.everReady = true →
    s.saf.latch = false → held s = false → ctxEn s x.val = false → ingReject s x.val = false → voxReason s x.val = 0 →
    Completes (.contextEnable (.can c) x) s fun t =>
      ctxEn t x.val = true ∧ odNat t (0x2300 + x.val) 1 = 1 ∧ (∀ y : Fin 128, y ≠ x → ctxEn t y.val = ctxEn s y.val) ∧
      t.hst = s.hst ∧ t.kc = s.kc ∧ t.parts = s.parts) ∧
  (∀ (s : State) (c : Fin 2) (x : Fin 128), mgtRuns s = true → s.node.odq = [] → s.saf.everReady = true →
    s.saf.latch = false → held s = false → ctxEn s x.val = false → (ingReject s x.val = true ∨ voxReason s x.val ≠ 0) →
    Completes (.contextEnable (.can c) x) s fun t =>
      t.out = s.out ++ [.od c.val 0x06090030 []] ∧ t.ing = s.ing ∧ t.od = s.od ∧
      { t with vox := s.vox, out := s.out } = s) ∧
  ∀ (s : State) (c : Fin 2) (x : Fin 128), mgtRuns s = true → s.node.odq = [] → s.saf.everReady = true →
    s.saf.latch = false → held s = false → ctxEn s x.val = true →
    Completes (.contextDisable (.can c) x) s fun t =>
      ctxEn t x.val = false ∧ odNat t (0x2300 + x.val) 1 = 0 ∧ (∀ y : Fin 128, y ≠ x → ctxEn t y.val = ctxEn s y.val)

/-- With MGT running and a new 100 ms window of the master begun since the last summary, CONFLICT_SUMMARY_WINDOW
stamps WINDOW of OD index 0x5100 with the instant at which that window ended, clears no counter and changes nothing
but the summaries; with the same window, nothing changes. (R507) -/
def Obligations.ConflictSummaries : Prop :=
  (∀ s : State, mgtRuns s = true → odNat s 0x5100 0x11 / 100000000 < s.tb.master / 100000000 →
    s.tb.master < 2 ^ 64 → Completes .conflictSummaryWindow s fun t =>
      odNat t 0x5100 0x11 = s.tb.master / 100000000 * 100000000 ∧ t.regs = s.regs ∧
      { t with od := s.od, node := s.node } = s) ∧
  ∀ s : State, s.tb.master / 100000000 ≤ odNat s 0x5100 0x11 / 100000000 →
    Completes .conflictSummaryWindow s fun t => t = s

/-- IDCODE and BYPASS load the TAP's instruction and change nothing else; SAMPLE/PRELOAD also captures the levels and
loads the update stage, and changes nothing else. EXTEST, CLAMP and HIGHZ put every island in reset as under PORST_N
and hold it: the time base returns to 0 in FREERUN, both SAFE pins are low, no stream context is enabled; fuses, flash
and the nonvolatile journal stand. Under that hold each of them loads its instruction only (EXTEST its cells too), and
a step with nothing commanded changes nothing. (R549, R550, R551, R43) -/
def Obligations.TapInstructions : Prop :=
  (∀ s : State, Completes .idcode s fun t => t = { s with dbg := { s.dbg with ir := 0x02 } }) ∧
  (∀ s : State, Completes .bypass s fun t => t = { s with dbg := { s.dbg with ir := 0xFF } }) ∧
  (∀ (s : State) (a b : List Bool), Completes (.samplePreload a b) s fun t =>
    t = { s with dbg := { s.dbg with ir := 0x01, bsr := a, bsrOut := b } }) ∧
  (∀ (s : State) (a : List Bool), s.saf.tapHold = false →
    let P (t : State) : Prop :=
      t.saf.tapHold = true ∧ t.saf.hold = true ∧ t.tb.master = 0 ∧ t.tb.mode = .freerun ∧ t.saf.pinA = false ∧
      t.saf.pinB = false ∧ (∀ x : Fin 128, ctxEn t x.val = false) ∧ t.fuses = s.fuses ∧ t.flash = s.flash ∧
      t.jr.bank0 = s.jr.bank0 ∧ t.jr.bank1 = s.jr.bank1 ∧ t.pending = s.pending
    (Completes (.extest a) s fun t => P t ∧ t.dbg.ir = 0x00 ∧ t.dbg.bsrOut = a) ∧
    (Completes .clamp s fun t => P t ∧ t.dbg.ir = 0x03 ∧ t.dbg.bsrOut = s.dbg.bsrOut) ∧
    Completes .highz s fun t => P t ∧ t.dbg.ir = 0x04) ∧
  (∀ (s : State) (a : List Bool), s.saf.tapHold = true → Completes (.extest a) s fun t =>
    t = { s with dbg := { s.dbg with ir := 0x00, bsrOut := a } }) ∧
  (∀ s : State, s.saf.tapHold = true → Completes .clamp s fun t => t = { s with dbg := { s.dbg with ir := 0x03 } }) ∧
  (∀ s : State, s.saf.tapHold = true → Completes .highz s fun t => t = { s with dbg := { s.dbg with ir := 0x04 } }) ∧
  ∀ s : State, s.saf.tapHold = true → s.pending = [] → step s = .next s

/-- With debug access enabled and the debug port linked, a DBG_HALT of one core whose running context debug reaches,
running outside a locked sequence, halts that core for cause 1 and clears its reservation; inside a locked sequence it
only stays pending, and HALT_FORCE_TIMEOUT then halts the core forced, with its staged words discarded and the pc back
at the first QPUSH of the sequence. DBG_RESUME of a halted core lets it run again, DBG_STEP also marks the step. A
write of the selected register of a halted core, other than x0, reaches both harts of the pair. The memories and
contexts of that core and every other core stand. (R332, R557, R558, R559) -/
def Obligations.HaltsAndSteps : Prop :=
  (∀ (s : State) (c : Fin 16), linked s .dbg = true → s.dbg.en = true → dbgReach s c.val = true →
    (coreOf s c.val).run.cc.st = .running → (coreOf s c.val).run.cc.halt = none →
    ccLocked (coreOf s c.val).run.cc = false →
    Completes (.dbgHalt (1#16 <<< c.val)) s fun t =>
      (coreOf t c.val).run.cc.st = .halted ∧ (coreOf t c.val).run.cc.halt = some (1, false) ∧
      (coreOf t c.val).run.cc.rsv = none ∧ (coreOf t c.val).run.cc.leader = (coreOf s c.val).run.cc.leader ∧
      (coreOf t c.val).basin = (coreOf s c.val).basin ∧ (coreOf t c.val).ctx = (coreOf s c.val).ctx ∧
      (∀ d : Fin 16, d ≠ c → coreOf t d.val = coreOf s d.val) ∧ { t with kc := s.kc, dbg := s.dbg } = s) ∧
  (∀ (s : State) (c : Fin 16), linked s .dbg = true → s.dbg.en = true → dbgReach s c.val = true →
    (coreOf s c.val).run.cc.halt = none → ccLocked (coreOf s c.val).run.cc = true →
    Completes (.dbgHalt (1#16 <<< c.val)) s fun t =>
      (haltOf t c.val).pending = true ∧ { t with dbg := s.dbg } = s) ∧
  (∀ (s : State) (c : Fin 16) (pc : Nat), dbgReach s c.val = true → (haltOf s c.val).pending = true →
    (haltOf s c.val).stepping = false → haltable (coreOf s c.val).run.cc = true →
    (coreOf s c.val).run.cc.seqPc = some pc → Completes (.haltForceTimeout c) s fun t =>
      (coreOf t c.val).run.cc.st = .halted ∧ (coreOf t c.val).run.cc.halt = some (1, true) ∧
      (coreOf t c.val).run.cc.leader.pc = pc ∧ (coreOf t c.val).run.cc.checker.pc = pc ∧
      (coreOf t c.val).run.cc.written = 0 ∧ (haltOf t c.val).pending = false ∧
      (∀ d : Fin 16, d ≠ c → coreOf t d.val = coreOf s d.val) ∧ { t with kc := s.kc, dbg := s.dbg } = s) ∧
  (∀ (s : State) (c : Fin 16) (x : Nat × Bool), linked s .dbg = true → s.dbg.en = true →
    (coreOf s c.val).active.isSome = true → (coreOf s c.val).run.cc.halt = some x → (coreOf s c.val).run.cc.st = .halted →
    Completes (.dbgResume (1#16 <<< c.val)) s fun t =>
      (coreOf t c.val).run.cc.halt = none ∧ (coreOf t c.val).run.cc.st = .running ∧ (haltOf t c.val).stepping = false ∧
      (∀ d : Fin 16, d ≠ c → coreOf t d.val = coreOf s d.val) ∧ { t with kc := s.kc, dbg := s.dbg } = s) ∧
  (∀ (s : State) (c : Fin 16) (x : Nat × Bool), linked s .dbg = true → s.dbg.en = true →
    (coreOf s c.val).active.isSome = true → (coreOf s c.val).run.cc.halt = some x → (coreOf s c.val).run.cc.st = .halted →
    Completes (.dbgStep (1#16 <<< c.val)) s fun t =>
      (coreOf t c.val).run.cc.halt = none ∧ (coreOf t c.val).run.cc.st = .running ∧ (haltOf t c.val).stepping = true ∧
      (∀ d : Fin 16, d ≠ c → coreOf t d.val = coreOf s d.val) ∧ { t with kc := s.kc, dbg := s.dbg } = s) ∧
  ∀ (s : State) (v : Nat), linked s .dbg = true → s.dbg.en = true → s.dbg.core < 16 → dbgReach s s.dbg.core = true →
    (coreOf s s.dbg.core).run.cc.halt.isSome = true → 0 < s.dbg.gpr → s.dbg.gpr < 32 →
    Completes (.dbgGprWrite v) s fun t =>
      vget (coreOf t s.dbg.core).run.cc.leader.x s.dbg.gpr 0 = BitVec.ofNat 32 v ∧
      vget (coreOf t s.dbg.core).run.cc.checker.x s.dbg.gpr 0 = BitVec.ofNat 32 v ∧
      (coreOf t s.dbg.core).run.cc.leader.pc = (coreOf s s.dbg.core).run.cc.leader.pc ∧
      (∀ d : Fin 16, d.val ≠ s.dbg.core → coreOf t d.val = coreOf s d.val) ∧ { t with kc := s.kc } = s

/-- With the debug port linked and access off, a write of EN 1 enables access at once in mode OPEN; in mode AUTH
without an earlier authentication it takes the nonce, starts the check and leaves access off; in mode CLOSED it is
ignored and counted. The end of a check that passed enables access, that of one that failed sets AUTHFAIL and leaves
access off. A read of DBG_NONCE0 draws 32 fresh bytes from the random source, whose values are free (log entry 6), and
returns the first four. SVN advances by exactly 1 in mode AUTH with its key and the next value, and no other fuse
changes. (R553, R554, R562) -/
def Obligations.DebugAuthentication : Prop :=
  (∀ s : State, linked s .dbg = true → s.dbg.en = false → s.fuses.dbgMode = 0 → Completes (.debugEnable 1) s fun t =>
    t.dbg.en = true ∧ t.dbg.pmask = 0 ∧ t.fuses = s.fuses ∧ t.hst = s.hst ∧ t.parts = s.parts) ∧
  (∀ s : State, linked s .dbg = true → s.dbg.en = false → s.fuses.dbgMode = 1 → s.dbg.authOk = false →
    s.dbg.checking = none → Completes (.debugEnable 1) s fun t =>
      t = { s with dbg := { s.dbg with checking := some (authFinds s), nonceFresh := false } }) ∧
  (∀ (s : State) (v : Nat), linked s .dbg = true → s.dbg.en = false → 2 ≤ s.fuses.dbgMode →
    Completes (.debugEnable v) s fun t => t = ignWrite .dbg s) ∧
  (∀ s : State, s.dbg.checking = some true → Completes .authCheckComplete s fun t =>
    t = { s with dbg := { s.dbg with checking := none, authOk := true, authFail := false, en := true } }) ∧
  (∀ s : State, s.dbg.checking = some false → Completes .authCheckComplete s fun t =>
    t = { s with dbg := { s.dbg with checking := none, authFail := true } }) ∧
  (∀ (s : State) (r : Requester), linked s r = true → Completes (.nonceRead r) s fun t =>
    t.dbg.nonce = (List.range 32).map (fun i => Config.random (s.free + i)) ∧ t.dbg.nonceFresh = true ∧
    t.free = s.free + 32 ∧ vget t.reply (reqCode r) 0 = BitVec.ofNat 64 (field t.dbg.nonce 0 4) ∧
    { t with dbg := s.dbg, free := s.free, reply := s.reply } = s) ∧
  (∀ (s : State) (v : Nat), linked s .dbg = true → s.dbg.en = true → s.fuses.dbgMode = 1 → v / 65536 = 0x5356 →
    v % 65536 = (s.fuses.svn + 1) % 65536 → Completes (.dbgSvnAdvance v) s fun t =>
      t = { s with fuses := { s.fuses with svn := s.fuses.svn + 1 } }) ∧
  ∀ (s : State) (v : Nat), linked s .dbg = true → s.dbg.en = true → s.fuses.dbgMode ≠ 1 →
    Completes (.dbgSvnAdvance v) s fun t => t = ignWrite .dbg s

/-- DBGAP_READ captures the word at the addressed register with status 0, loads its instruction, and of the register
state changes nothing: an RC counter keeps its value. DBGAP_WRITE of DBG_CORE while debug access is on selects the
core; a write to a register that no debug access writes is counted and shown as status 2. (R552, R555, R556, R562) -/
def Obligations.DebugPortAccesses : Prop :=
  (∀ s : State, linked s .dbg = true →
    Completes (.dbgapRead 8) s fun t =>
      t.dbg.apData = (regGet s (rkey 9 0x20)).toNat ∧ t.dbg.apStat = 0 ∧ t.dbg.ir = 0x20 ∧
      { t with dbg := s.dbg, reply := s.reply } = s) ∧
  (∀ (s : State) (v : Nat), linked s .dbg = true → s.dbg.en = true →
    Completes (.dbgapWrite 0x102804 v) s fun t =>
      t = { s with dbg := { s.dbg with core := v % 16, ir := 0x20, apStat := 0 } }) ∧
  ∀ (s : State) (v : Nat), linked s .dbg = true → (regGet s (rkey 9 0x20)).toNat < 2 ^ 32 - 1 →
    Completes (.dbgapWrite 8 v) s fun t =>
      t.dbg = { s.dbg with ir := 0x20, apStat := 2 } ∧ regGet t (rkey 9 0x20) = regGet s (rkey 9 0x20) + 1 ∧
      { t with dbg := s.dbg, regs := s.regs } = s

/-- With the device READY: a UDP frame that a context takes and the receive buffer holds joins its MAC's queue for the
lowest matching context, stamped by ING; without room it is counted as an overflow and not queued; a bad frame, and
one that no context takes, is counted and not queued. An injection that R66 accepts joins the port's queue, and
otherwise counts as rejected. A block read without error leaves the queue and waits for its parser, stamped; lock
events set the MAC's link bit. Nothing else changes but the counters and ING's stamp. (R63, R64, R65, R66, R67, R99)
-/
def Obligations.FramesAndInjectedBlocks : Prop :=
  (∀ (s : State) (m : Fin 8) (f : List Byte) (ok : Bool) (p : UdpPkt) (c : Nat), isReady s = true →
    frameKind s m.val f ok = .udp p → c < 128 → ctxMatches s m.val p c = true →
    (∀ d < c, ctxMatches s m.val p d = false) →
    ((vget s.ing.macs m.val []).map (·.room)).sum + f.length ≤ 262144 →
    Completes (.frameRx m f ok) s fun t =>
      vget t.ing.macs m.val [] = vget s.ing.macs m.val [] ++ [⟨c, stampOf s 17 0, p.payload, f.length⟩] ∧
      (∀ j : Fin 8, j ≠ m → vget t.ing.macs j.val [] = vget s.ing.macs j.val []) ∧
      regGet t (ingMacReg m.val 0) = regGet s (ingMacReg m.val 0) + 1 ∧
      (∀ k, k ≠ ingMacReg m.val 0 → regGet t k = regGet s k) ∧ t.ing.ctx = s.ing.ctx ∧
      { t with ing := s.ing, regs := s.regs, tb := s.tb } = s) ∧
  (∀ (s : State) (m : Fin 8) (f : List Byte) (ok : Bool), isReady s = true →
    (frameKind s m.val f ok = .err ∨ ∃ p, frameKind s m.val f ok = .udp p ∧ ∀ d < 128, ctxMatches s m.val p d = false) →
    Completes (.frameRx m f ok) s fun t =>
      let k := ingMacReg m.val (if frameKind s m.val f ok = .err then 4 else 8)
      (regGet t k).toNat = min ((regGet s k).toNat + 1) (2 ^ 32 - 1) ∧ { t with regs := s.regs } = s) ∧
  (∀ (s : State) (m : Fin 8) (f : List Byte) (ok : Bool) (p : UdpPkt) (c : Nat), isReady s = true →
    frameKind s m.val f ok = .udp p → c < 128 → ctxMatches s m.val p c = true →
    262144 < ((vget s.ing.macs m.val []).map (·.room)).sum + f.length →
    Completes (.frameRx m f ok) s fun t =>
      t.ing.macs = s.ing.macs ∧
      (regGet t (ingMacReg m.val 0x0C)).toNat = min ((regGet s (ingMacReg m.val 0x0C)).toNat + 1) (2 ^ 32 - 1) ∧
      (∀ d < 128, ctxNat s d 2 = m.val → (ingCtx s d).sweepOpen = true → (ingCtx t d).degraded = true) ∧
      t.vox = s.vox ∧ t.hst = s.hst ∧ t.od = s.od) ∧
  (∀ (s : State) (h : Fin 4) (v : Nat), linked s (.host h) = true → isReady s = true →
    let q := vget s.ing.inj h.val []
    let a := (regGet s (injReg h.val 0x200)).toNat + 2 ^ 32 * (regGet s (injReg h.val 0x204)).toNat
    let n := (regGet s (injReg h.val 0x208)).toNat
    let good := q.length < 16 ∧ ctxEn s (v % 128) = true ∧ ctxNat s (v % 128) 2 = 0x10 + h.val ∧ a % 64 = 0 ∧ 1 ≤ n ∧
    n ≤ 16384
    (good → Completes (.injEnqueue (.host h) v) s fun t =>
      vget t.ing.inj h.val [] = q ++ [⟨v % 128, a, n⟩] ∧ (∀ j : Fin 4, j ≠ h →
      vget t.ing.inj j.val [] = vget s.ing.inj j.val []) ∧
      { t with ing := { t.ing with inj := s.ing.inj } } = s) ∧
    (¬ good → Completes (.injEnqueue (.host h) v) s fun t =>
      (regGet t (injReg h.val 0x218)).toNat % 65536 = min ((regGet s (injReg h.val 0x218)).toNat % 65536 + 1) 65535 ∧
      { t with regs := s.regs } = s)) ∧
  (∀ (s : State) (h : Fin 4) (b : InjBlk) (rest : List InjBlk) (d : List Byte), isReady s = true →
    vget s.ing.inj h.val [] = b :: rest →
    Completes (.injBlockReadDone h (.ok d)) s fun t =>
      vget t.ing.inj h.val [] = rest ∧ t.ing.blocks = s.ing.blocks ++ [⟨b.ctx, stampOf s 17 0, slice d 0 b.len, 0⟩] ∧
      regGet t (injReg h.val 0x214) = regGet s (injReg h.val 0x214) + 1 ∧ t.ing.ctx = s.ing.ctx ∧
      t.ing.macs = s.ing.macs ∧
      { t with ing := s.ing, regs := s.regs, tb := s.tb } = s) ∧
  ∀ (s : State) (m : Fin 8) (l : Bool), Completes (.blockLock m l) s fun t =>
    t.ing.link.getLsbD m.val = l ∧ (∀ j : Fin 8, j ≠ m → t.ing.link.getLsbD j.val = s.ing.link.getLsbD j.val) ∧
    { t with ing := { t.ing with link := s.ing.link } } = s

/-- A packet shorter than its layout's minimum is dropped and counted and no point of it counts. Of a packet of one
block and one point, whose decoded point falls inside the open slice of the open sweep and meets no boundary, the
point waits for the deskew unit with the slice's index and transform and the low word of its time, and the sweep's
points and the device's point count grow by one. The deskew unit turns the oldest point into its record by range,
geometry and transform, rounding each operation to FP32, stamps it and hands it to VOX; while the Weir to VOX holds 8
entries it stalls and nothing changes. Other queues, contexts and islands stand. (R20, R53, R71, R74, R75, R77, R78,
R84, R92, R96, R531) -/
def Obligations.PacketsToPoints : Prop :=
  (∀ (s : State) (m : Fin 8) (k : Pkt) (rest : List Pkt), isReady s = true → vget s.ing.macs m.val [] = k :: rest →
    ctxRuns (ingCtx s k.ctx) = true → k.payload.length < Pld.minLen ⟨slice (ctxGet s k.ctx 7) 0 128⟩ →
    Completes (.packetParse (m.castLE (by decide))) s fun t =>
      vget t.ing.macs m.val [] = rest ∧ (∀ j : Fin 8, j ≠ m → vget t.ing.macs j.val [] = vget s.ing.macs j.val []) ∧
      (regGet t (ingMacReg m.val 0x10)).toNat = min ((regGet s (ingMacReg m.val 0x10)).toNat + 1) (2 ^ 32 - 1) ∧
      (∀ c, (ingCtx t c).pts = (ingCtx s c).pts ∧ (ingCtx t c).sweepOpen = (ingCtx s c).sweepOpen) ∧
      t.ing.deskew = s.ing.deskew ∧ t.vox = s.vox ∧ t.hst = s.hst ∧ t.od = s.od) ∧
  (∀ (s : State) (m : Fin 8) (k : Pkt) (rest : List Pkt) (d : Decoded) (sl : SliceSt), isReady s = true →
    vget s.ing.macs m.val [] = k :: rest → k.ctx < 128 →
    let p : Pld := ⟨slice (ctxGet s k.ctx 7) 0 128⟩
    let x := ingCtx s k.ctx
    ctxRuns x = true → p.minLen ≤ k.payload.length → p.nblk = 1 → p.npt = 1 → (p.f 0x20).level = 0 → p.ptmode = 0 →
    p.w 0x4C ≤ ctxNat s k.ctx 0x16 →
    decodePoint s k.ctx p k.payload k.at_ ((k.at_ : Int) - p.w 0x4C) 0 0 = some (some d) →
    x.sweepOpen = true → (∀ b, boundaryMet s k.ctx b d = false) → sweepExpired s k.ctx = false → x.slice = some sl →
    sl.start ≤ d.t → d.t < sliceEnd s k.ctx sl → sl.nopose = false →
    (s.ing.deskew = [] ∨ (∃ q l, s.ing.deskew = .pt q :: l) ∨ voxRoom s = false) →
    Completes (.packetParse (m.castLE (by decide))) s fun t =>
      vget t.ing.macs m.val [] = rest ∧
      t.ing.deskew = s.ing.deskew ++ [.pt ⟨k.ctx, d.row, d.col, d.range, d.int, d.ret, false, false, sl.idx, sl.xf, d.t % 2 ^ 32⟩] ∧
      (ingCtx t k.ctx).pts = x.pts + 1 ∧ (ingCtx t k.ctx).drops = x.drops ∧
      t.hst.points = min (s.hst.points + 1) (2 ^ 64 - 1) ∧ t.hst.jobs = s.hst.jobs ∧
      (∀ c, c ≠ k.ctx → ingCtx t c = ingCtx s c) ∧ { t with ing := s.ing, hst := s.hst } = s) ∧
  (∀ (s : State) (k : Pkt) (rest : List Pkt), isReady s = true → s.ing.blocks = k :: rest →
  ctxRuns (ingCtx s k.ctx) = false →
    (ingCtx s k.ctx).closing = false →
    Completes (.packetParse 8) s fun t => t = { s with ing := { s.ing with blocks := rest } }) ∧
  (∀ s : State, voxRoom s = false → Completes .deskewPoint s fun t => t = s) ∧
  ∀ (s : State) (p : RawPt) (l : List IngItem), isReady s = true → voxRoom s = true → s.ing.deskew = .pt p :: l →
    (l = [] ∨ ∃ q r, l = .pt q :: r) →
    let g := ctxNat s p.ctx 8
    let el := odGet s (0x23A0 + g) 1
    let az := odGet s (0x23A0 + g) 2
    let h := mul32 p.range (field el (8 * p.row + 4) 4)
    let xs := mul32 h (field az (8 * p.col + 4) 4)
    let ys := mul32 h (field az (8 * p.col) 4)
    let zs := mul32 p.range (field el (8 * p.row) 4)
    Completes .deskewPoint s fun t =>
      t.ing.deskew = l ∧ { t with ing := s.ing, vox := s.vox, tb := s.tb } = s ∧
      ∃ r : PointRec, t.vox = { s.vox with weir := s.vox.weir ++ [.pt r] } ∧ r.ctx = p.ctx ∧ r.int = p.int ∧
      r.row = p.row ∧
        r.slice = p.slice ∧ r.x = xfRow p.xf 0 xs ys zs ∧ r.y = xfRow p.xf 1 xs ys zs ∧ r.z = xfRow p.xf 2 xs ys zs ∧
        r.colw % 4096 = p.col % 4096 ∧ r.ts = stampOf s 17 0

/-- At MAX_SWEEP an open sweep closes DEGRADED, its summary stamped by ING follows its points, to VOX where its Weir has
room, and SWEEP_FORCED is raised where ING's Weir into SAF has room; a silent enabled context advances its sequence by
a gap summary and raises STREAM_SILENT once; a slice past its end and grace closes, its close stamped. A sweep summary
that has crossed to VOX and reaches a context with no closed sweep seals it; a gap sends a skipped sweep-ready at once;
behind a closed sweep it waits. POSE_PORT's commit adds the staged record, quaternion normalised,
as the newest of 64 and empties the staging; a record not later than its epoch's newest is refused with reason 1.
(R52, R53, R80, R82, R83, R84, R87, R88, R117, R118, R531, R533) -/
def Obligations.SweepsGapsAndPoses : Prop :=
  (∀ (s : State) (c : Fin 128), isReady s = true → sweepExpired s c.val = true → s.ing.deskew = [] → voxRoom s = true →
    (vget s.saf.weirs 17 []).length < 32 → vget s.saf.stalls 17 [] = [] →
    Completes (.sweepMaxExpiry c) s fun t =>
      (ingCtx t c.val).sweepOpen = false ∧ (ingCtx t c.val).slice = none ∧ (ingCtx t c.val).seq = (ingCtx s c.val).seq ∧
      t.vox.weir = s.vox.weir ++ [.sum { sweepSumOf c.val (ingCtx s c.val) (stampOf s 17 0) with degraded := true }] ∧
      t.ing.deskew = [] ∧ Raised .sweepForced 17 t ∧ (∀ d, d ≠ c.val → ingCtx t d = ingCtx s d) ∧
      { t with ing := s.ing, vox := s.vox, regs := s.regs, saf := s.saf, tb := s.tb } = s) ∧
  (∀ (s : State) (c : Fin 128), isReady s = true → sweepExpired s c.val = true →
    ((∃ q l, s.ing.deskew = .pt q :: l) ∨ voxRoom s = false) →
    Completes (.sweepMaxExpiry c) s fun t =>
      (ingCtx t c.val).sweepOpen = false ∧ t.vox = s.vox ∧
      t.ing.deskew = s.ing.deskew ++ [.sum { sweepSumOf c.val (ingCtx s c.val) (stampOf s 17 0) with degraded := true }]) ∧
  (∀ (s : State) (c : Fin 128), let x := ingCtx s c.val
    let tg := x.gapFrom + ctxNat s c.val 0x10
    isReady s = true → x.en = true → x.sweepOpen = false → tg ≤ replica s 17 → s.ing.deskew = [] →
    voxRoom s = true → (vget s.saf.weirs 17 []).length < 32 → vget s.saf.stalls 17 [] = [] →
    Completes (.streamGap c) s fun t =>
      (ingCtx t c.val).seq = x.nextSeq ∧ (ingCtx t c.val).nextSeq = (x.nextSeq + 1) % 2 ^ 32 ∧
      (ingCtx t c.val).gapFrom = tg ∧ (ingCtx t c.val).sweepOpen = false ∧
      (∃ g, t.vox.weir = s.vox.weir ++ [.sum g] ∧ g.ctx = c.val ∧ g.seq = x.nextSeq ∧ g.tref = tg ∧ g.gap = true ∧
        g.degraded = true ∧ g.pts = 0) ∧
      (x.silent = false → Raised .streamSilent 17 t) ∧ (∀ d, d ≠ c.val → ingCtx t d = ingCtx s d) ∧
      { t with ing := s.ing, vox := s.vox, regs := s.regs, saf := s.saf, tb := s.tb } = s) ∧
  (∀ (s : State) (c : Fin 128) (sl : SliceSt), isReady s = true → (ingCtx s c.val).slice = some sl →
    sl.start + ctxNat s c.val 0x11 + ctxNat s c.val 0x13 ≤ replica s 17 →
    Completes (.sliceGraceExpiry c) s fun t =>
      t = keepStamp 17 (stampOf s 17 0)
        (setIngCtx c.val { ingCtx s c.val with slice := none, sliceTs := (sl.openTs, stampOf s 17 0) } s)) ∧
  (∀ (s : State) (x : SweepSum) (r : List VoxIn), isReady s = true → s.vox.weir = .sum x :: r → x.ctx < 128 →
    crossed s 18 x.close = true → (s.ing.deskew = [] ∨ ∃ q l, s.ing.deskew = .pt q :: l) →
    (voxCtx s x.ctx).sealed = none →
    Completes .sweepSummary s fun t =>
      t.vox.weir = r ∧ t.vox.hold = s.vox.hold ∧ { t with vox := s.vox } = s ∧
      (∀ d, d ≠ x.ctx → voxCtx t d = voxCtx s d) ∧
      (x.gap = false → (voxCtx t x.ctx) = { voxCtx s x.ctx with sealed := some x, req := none } ∧
      t.vox.ready = s.vox.ready) ∧
      (x.gap = true → (voxCtx t x.ctx).seq = x.seq ∧ (voxCtx t x.ctx).sealed = none ∧
        t.vox.ready = s.vox.ready ++ [⟨x.ctx, x.seq, true, sweepRefs x.ctx x.seq s⟩])) ∧
  (∀ (s : State) (x : SweepSum) (r : List VoxIn), isReady s = true → s.vox.weir = .sum x :: r →
    crossed s 18 x.close = true → (s.ing.deskew = [] ∨ ∃ q l, s.ing.deskew = .pt q :: l) →
    (voxCtx s x.ctx).sealed.isSome = true →
    Completes .sweepSummary s fun t => t.vox.weir = r ∧ t.vox.hold = s.vox.hold ++ [.sum x] ∧ t.vox.ctx = s.vox.ctx) ∧
  (∀ (s : State) (h : Fin 4) (v : Nat),
    let b := ((List.range 15).flatMap fun k => leBytes 4 (regGet s (ingReg (0x100 + 4 * k))).toNat) ++ leBytes 4 v
    linked s (.host h) = true → isReady s = true → h.val = odNat s 0x2400 9 → poseReject s b = 0 →
    Completes (.poseCommit (.host h) v) s fun t =>
      t.ing.poses = keepLast 64 (s.ing.poses ++ [poseOf b]) ∧ (∀ k : Fin 16, regGet t (ingReg (0x100 + 4 * k.val)) = 0) ∧
      t.ing.ctx = s.ing.ctx ∧ { t with ing := s.ing, regs := s.regs } = s) ∧
  ∀ (s : State) (h : Fin 4) (v : Nat),
    let b := ((List.range 15).flatMap fun k => leBytes 4 (regGet s (ingReg (0x100 + 4 * k))).toNat) ++ leBytes 4 v
    linked s (.host h) = true → isReady s = true → h.val = odNat s 0x2400 9 →
    (∃ p ∈ s.ing.poses, p.epoch = field b 0x3C 1 ∧ field b 0 8 ≤ p.ts) →
    Completes (.poseCommit (.host h) v) s fun t =>
      t.ing.poses = s.ing.poses ∧ t.ing.poseRej = 1 ∧ (∀ k : Fin 16, regGet t (ingReg (0x100 + 4 * k.val)) = 0) ∧
      t.ing.ctx = s.ing.ctx ∧ t.vox = s.vox ∧ t.hst = s.hst ∧ t.od = s.od

/-- The oldest point whose context has no closed sweep is keyed by its level: outside the region it is counted and
nothing is stored; where the home slot is empty and without error the voxel goes there with count 1 and the point's
sample, stamped after the point, LIVE one higher; where the home slot holds its key the entry's count grows, its stamp
and LIVE stand; every other slot and context stands. A fold's end leaves no LIVE entry of the level below. (R52, R105,
R106, R108, R109, R111, R114, R127) -/
def Obligations.PondInsertion : Prop :=
  (∀ (s : State) (p : PointRec) (r : List VoxIn), isReady s = true → s.vox.weir = .pt p :: r → p.ctx < 128 →
    crossed s 18 p.ts = true → (s.ing.deskew = [] ∨ ∃ q l, s.ing.deskew = .pt q :: l) →
    (voxCtx s p.ctx).sealed = none → voxIndices s p = none →
    Completes .voxPointInsert s fun t =>
      t.vox.weir = r ∧ (voxCtx t p.ctx).table = (voxCtx s p.ctx).table ∧ (voxCtx t p.ctx).live = (voxCtx s p.ctx).live ∧
      (regGet t (voxCtxReg p.ctx 0x10)).toNat = min ((regGet s (voxCtxReg p.ctx 0x10)).toNat + 1) (2 ^ 32 - 1) ∧
      (∀ d, d ≠ p.ctx → voxCtx t d = voxCtx s d) ∧ { t with vox := s.vox, regs := s.regs } = s) ∧
  (∀ (s : State) (p : PointRec) (r : List VoxIn) (ix iy iz : Nat), isReady s = true → s.vox.weir = .pt p :: r →
  p.ctx < 128 →
    crossed s 18 p.ts = true → (s.ing.deskew = [] ∨ ∃ q l, s.ing.deskew = .pt q :: l) →
    let x := voxCtx s p.ctx
    let k := voxKey (ix / 2 ^ x.level) (iy / 2 ^ x.level) (iz / 2 ^ x.level) x.level
    let j := pondHome k (pondCap x)
    x.sealed = none → voxIndices s p = some (ix, iy, iz) → x.req = none → x.pages ≠ 0 →
    (∀ n ∈ pondWords j, smGet upZero x.up n = 0) →
    smGet slotDflt x.table j = .empty →
    Completes .voxPointInsert s fun t =>
      let y := voxCtx t p.ctx
      t.vox.weir = r ∧ y.live = x.live + 1 ∧ y.level = x.level ∧
      (∃ e, smGet slotDflt y.table j = .live e ∧ e.key = k ∧ e.count = 1 ∧ e.x = p.x ∧ e.y = p.y ∧ e.z = p.z ∧
      e.int = p.int ∧
        e.colw = p.colw ∧ e.row = p.row ∧ e.slice = p.slice ∧ e.ts = stampOf s 18 p.ts % 2 ^ 32) ∧
      (∀ i, i ≠ j → smGet slotDflt y.table i = smGet slotDflt x.table i) ∧
      (∀ d, d ≠ p.ctx → voxCtx t d = voxCtx s d) ∧ { t with vox := s.vox, tb := s.tb } = s) ∧
  (∀ (s : State) (p : PointRec) (r : List VoxIn) (ix iy iz : Nat) (e : PondEntry), isReady s = true →
  s.vox.weir = .pt p :: r →
    p.ctx < 128 → crossed s 18 p.ts = true → (s.ing.deskew = [] ∨ ∃ q l, s.ing.deskew = .pt q :: l) →
    let x := voxCtx s p.ctx
    let k := voxKey (ix / 2 ^ x.level) (iy / 2 ^ x.level) (iz / 2 ^ x.level) x.level
    let j := pondHome k (pondCap x)
    x.sealed = none → voxIndices s p = some (ix, iy, iz) → x.req = none → x.pages ≠ 0 →
    (∀ n ∈ pondWords j, smGet upZero x.up n = 0) →
    smGet slotDflt x.table j = .live e → e.key = k →
    Completes .voxPointInsert s fun t =>
      let y := voxCtx t p.ctx
      t.vox.weir = r ∧ y.live = x.live ∧ y.level = x.level ∧
      (∃ e', smGet slotDflt y.table j = .live e' ∧ e'.key = k ∧ e'.count = min (e.count + 1) 65535 ∧ e'.ts = e.ts ∧
        ((e'.x, e'.y, e'.z) = (e.x, e.y, e.z) ∨ (e'.x, e'.y, e'.z) = (p.x, p.y, p.z))) ∧
      (∀ i, i ≠ j → smGet slotDflt y.table i = smGet slotDflt x.table i) ∧
      (∀ d, d ≠ p.ctx → voxCtx t d = voxCtx s d) ∧ { t with vox := s.vox, tb := s.tb } = s) ∧
  ∀ (s : State) (c : Fin 128), isReady s = true → (voxCtx s c.val).folding = true → (voxCtx s c.val).level ≤ 3 →
    smWf slotDflt (voxCtx s c.val).table = true →
    Completes (.foldComplete c) s fun t =>
      (voxCtx t c.val).folding = false ∧ (voxCtx t c.val).level = (voxCtx s c.val).level ∧
      (∀ j e, smGet slotDflt (voxCtx t c.val).table j = .live e → keyLevel e.key + 1 ≠ (voxCtx s c.val).level) ∧
      (∀ d, d ≠ c.val → voxCtx t d = voxCtx s d) ∧ t.ing = s.ing ∧ t.hst = s.hst ∧ t.od = s.od

/-- In a slot that admits a partition of the context, first in the round robin of an OPEN slot, a closed sweep whose ring
slot no admitted job names starts its emission, and an OPEN slot notes the partition served; where a job names it, the
sweep is skipped: EMIT_SKIP counted, a skipped sweep-ready sent. The end of an
emission sends the sweep-ready, records the sweep in its ring slot with the sites of its level and starts the
clearing; a sweep emitted to a Basin stands there header first. A cleared allotment holds nothing and starts at
START_LEVEL; a disabled context's pages return. (R103, R104, R118, R119, R120, R123, R124, R409) -/
def Obligations.Emission : Prop :=
  (∀ (s : State) (c : Fin 128) (m : SweepSum) (p : Nat), isReady s = true →
    let x := voxCtx s c.val
    let n := m.seq % ctxNat s c.val 0x24
    x.sealed = some m → x.folding = false → x.emitting = false → x.clearing = false →
    emitReader s c.val = some p → openTurn s 0 p (emitWaits s) = true →
    (∀ i, vget x.slots n none = some i → slotBusy s c.val i.seq = false) →
    Completes (.emissionStart c) s fun t =>
      (voxCtx t c.val).emitting = true ∧ (voxCtx t c.val).sealed = some m ∧ (n < 16 →
      vget (voxCtx t c.val).slots n none = none) ∧
      (slotCode s 0x20 = 8 → vget t.openLast 0 7 = p) ∧
      t.vox.ready = s.vox.ready ∧ (∀ d, d ≠ c.val → voxCtx t d = voxCtx s d) ∧ t.od = s.od ∧ t.ing = s.ing) ∧
  (∀ (s : State) (c : Fin 128) (m : SweepSum) (p : Nat) (i : EmitInfo), isReady s = true →
    let x := voxCtx s c.val
    x.sealed = some m → x.folding = false → x.emitting = false → x.clearing = false →
    emitReader s c.val = some p → openTurn s 0 p (emitWaits s) = true →
    vget x.slots (m.seq % ctxNat s c.val 0x24) none = some i → slotBusy s c.val i.seq = true →
    Completes (.emissionStart c) s fun t =>
      (voxCtx t c.val).clearing = true ∧ (voxCtx t c.val).emitting = false ∧
      t.vox.ready = s.vox.ready ++ [⟨c.val, m.seq, true, sweepRefs c.val m.seq s⟩] ∧ (voxCtx t c.val).slots = x.slots ∧
      (regGet t (voxCtxReg c.val 0x1C)).toNat = min ((regGet s (voxCtxReg c.val 0x1C)).toNat + 1) (2 ^ 32 - 1) ∧
      t.kc = s.kc ∧ t.dram = s.dram ∧ t.hst = s.hst ∧ (∀ d, d ≠ c.val → voxCtx t d = voxCtx s d)) ∧
  (∀ (s : State) (c : Fin 128) (m : SweepSum), isReady s = true →
    let x := voxCtx s c.val
    let n := m.seq % ctxNat s c.val 0x24
    x.sealed = some m → x.emitting = true → n < 16 →
    Completes (.emissionComplete c) s fun t =>
      (voxCtx t c.val).emitting = false ∧ (voxCtx t c.val).clearing = true ∧ (voxCtx t c.val).peak = x.high ∧
      t.vox.ready = s.vox.ready ++ [⟨c.val, m.seq, false, sweepRefs c.val m.seq s⟩] ∧
      (∃ i, vget (voxCtx t c.val).slots n none = some i ∧ i.seq = m.seq ∧ i.tref = m.tref ∧
        i.nsites = ((liveEntries x).filter fun e => keyLevel e.2.key == x.level).length ∧ i.noroom = x.noroom) ∧
      (∀ d, d ≠ c.val → voxCtx t d = voxCtx s d) ∧ t.od = s.od ∧ t.hst = s.hst ∧ t.ing = s.ing ∧
      (ctxNat s c.val 0x22 = 1 → ctxNat s c.val 0x26 < 16 →
        let a := ctxNat s c.val 0x23 + n * ctxNat s c.val 0x25
        winOf (coreOf s (ctxNat s c.val 0x26)) (a / 4096) = none →
        leNat (smGetList byteZero (coreOf t (ctxNat s c.val 0x26)).basin a 2) = 0x5658 ∧
        leNat (smGetList byteZero (coreOf t (ctxNat s c.val 0x26)).basin (a + 4) 4) = m.seq % 2 ^ 32 ∧
        leNat (smGetList byteZero (coreOf t (ctxNat s c.val 0x26)).basin (a + 8) 8) = m.tref % 2 ^ 64)) ∧
  ∀ (s : State) (c : Fin 128), isReady s = true → (voxCtx s c.val).clearing = true → (∀ v ∈ s.vox.hold, inCtx v ≠ c.val) →
    Completes (.allotmentCleared c) s fun t =>
      let y := voxCtx t c.val
      y.table = [] ∧ y.live = 0 ∧ y.sealed = none ∧ y.clearing = false ∧ y.level = startLevel s c.val ∧
      (ctxRuns (ingCtx s c.val) = true → (voxCtx s c.val).renew = false → y.pages = (voxCtx s c.val).pages) ∧
      (ctxRuns (ingCtx s c.val) = false → voxQuiet t c.val = true → y.pages = 0) ∧
      t.vox.hold = s.vox.hold ∧ (∀ d, d ≠ c.val → voxCtx t d = voxCtx s d) ∧ { t with vox := s.vox } = s

/-- A scrubber step at a line of words without error, not the last of its block, moves to the next line and changes no
byte; words its code corrects are rewritten without error; an uncorrectable word raises BASIN_UE, and a VALID block
whose bytes no longer give its CRC raises WEIGHT_CRC at its last line. A patrol step moves to the next line, rewrites
a single-bit error of an ECC line, raises DRAM_UE for a worse one, and changes no byte. A remote write inside the
target's region and outside weight windows, which no earlier line of a SEND precedes, stores its line there and
nowhere else and its descriptor waits for one access fewer; outside the region it is not made and its descriptor fails
with REMOTE_DENY; a remote access older than 1 ms is dropped. (R57, R186, R188, R189, R190, R191, R398) -/
def Obligations.ScrubberPatrolAndRemoteAccesses : Prop :=
  (∀ (s : State) (c : Fin 16), let x := coreOf s c.val
    isReady s = true → x.scrub % 64 ≠ 63 →
    (∀ k < 8, smGet upZero x.basinUp (8 * x.scrub + k) ≤ eccReach (smGet clsFalse x.basinCls (8 * x.scrub + k))) →
    Completes (.scrubLine c) s fun t =>
      let y := coreOf t c.val
      y.scrub = (x.scrub + 1) % 131072 ∧ (∀ a, smGet byteZero y.basin a = smGet byteZero x.basin a) ∧
      (∀ k < 8, smGet upZero y.basinUp (8 * x.scrub + k) = 0) ∧ y.cis = x.cis ∧ y.dmem = x.dmem ∧ y.ctx = x.ctx ∧
      y.run = x.run ∧
      (∀ d, d ≠ c.val → coreOf t d = coreOf s d) ∧ { t with kc := s.kc, regs := s.regs } = s ∧
      ((∀ k < 8, smGet upZero x.basinUp (8 * x.scrub + k) = 0) → t.regs = s.regs)) ∧
  (∀ (s : State) (c : Fin 16) (k : Nat), let x := coreOf s c.val
    isReady s = true → k < 8 →
    eccReach (smGet clsFalse x.basinCls (8 * x.scrub + k)) < smGet upZero x.basinUp (8 * x.scrub + k) →
    Completes (.scrubLine c) s fun t =>
      Raised .basinUe c.val t ∧ (coreOf t c.val).scrub = (x.scrub + 1) % 131072 ∧
      (∀ a, smGet byteZero (coreOf t c.val).basin a = smGet byteZero x.basin a)) ∧
  (∀ (s : State) (c : Fin 16), let x := coreOf s c.val
    let b := x.scrub / 64
    isReady s = true → x.scrub % 64 = 63 → (wblkOf x b).1 = 3 → x.scrubOk = true →
    (∀ k < 8, smGet upZero x.basinUp (8 * x.scrub + k) = 0) → crc32c (basinBytes x (b * 4096) 4096) ≠ (wblkOf x b).2 →
    Completes (.scrubLine c) s fun t => Raised .weightCrc c.val t ∧ (wblkOf (coreOf t c.val) b).1 = 4) ∧
  (∀ s : State, isReady s = true → (dramEcc s s.dram.patrol = true → smGet upZero s.dram.upset s.dram.patrol = 0 ∧
    freshLine s s.dram.patrol = false) →
    Completes .dramPatrolRead s fun t =>
      t = { s with dram := { s.dram with patrol := if s.dram.patrol + 64 < carveOut s then s.dram.patrol + 64 else 0 } }) ∧
  (∀ s : State, isReady s = true → dramEcc s s.dram.patrol = true → smGet upZero s.dram.upset s.dram.patrol = 1 →
    Completes .dramPatrolRead s fun t =>
      smGet upZero t.dram.upset s.dram.patrol = 0 ∧ (∀ l, l ≠ s.dram.patrol →
      smGet upZero t.dram.upset l = smGet upZero s.dram.upset l) ∧
      t.dram.mem = s.dram.mem ∧ { t with dram := s.dram, regs := s.regs } = s) ∧
  (∀ s : State, isReady s = true → dramEcc s s.dram.patrol = true → 2 ≤ smGet upZero s.dram.upset s.dram.patrol →
    Completes .dramPatrolRead s fun t =>
      Raised .dramUe 20 t ∧ t.dram.mem = s.dram.mem ∧
      { t with dram := s.dram, regs := s.regs, saf := s.saf, tb := s.tb } = s) ∧
  (∀ (s : State) (r : RemReq) (rest : List RemReq) (off l : Nat) (bs : List Byte) (f : Flight), isReady s = true →
    s.fab.remote = r :: rest → replica s r.dst ≤ r.ts + 1000000 → r.op = .write off bs → bs.length = 64 → r.dst < 16 →
    r.src < 16 → r.src ≠ r.dst →
    flightOf s r.src r.commit r.taggen r.part = some f → remLine s r.part r.dst off = some l →
    winOf (coreOf s r.dst) (l / 64) = none →
    (s.fab.landing.any fun m => m.src == r.src && m.dst == r.dst && decide (m.ord < r.ord)) = false →
    Completes .remoteAccess s fun t =>
      t.fab = { s.fab with remote := rest } ∧ smGetList byteZero (coreOf t r.dst).basin (l * 64) 64 = bs ∧
      (∀ a, a < l * 64 ∨ l * 64 + 64 ≤ a →
      smGet byteZero (coreOf t r.dst).basin a = smGet byteZero (coreOf s r.dst).basin a) ∧
      (coreOf t r.dst).cis = (coreOf s r.dst).cis ∧ (coreOf t r.dst).dmem = (coreOf s r.dst).dmem ∧
      (coreOf t r.src).run = putFlight { f with outst := f.outst - 1 } (coreOf s r.src).run ∧
      (∀ d, d ≠ r.src → d ≠ r.dst → coreOf t d = coreOf s d) ∧ { t with kc := s.kc, fab := s.fab } = s) ∧
  (∀ (s : State) (r : RemReq) (rest : List RemReq), isReady s = true → s.fab.remote = r :: rest →
    r.ts + 1000000 < replica s r.dst →
    (s.fab.landing.any fun l => l.src == r.src && l.dst == r.dst && decide (l.ord < r.ord)) = false →
    Completes .remoteAccess s fun t => t = { s with fab := { s.fab with remote := rest } }) ∧
  ∀ (s : State) (r : RemReq) (rest : List RemReq) (off : Nat) (bs : List Byte) (f : Flight), isReady s = true →
    s.fab.remote = r :: rest → replica s r.dst ≤ r.ts + 1000000 → r.op = .write off bs → r.src < 16 → f.eng ≠ 2 →
    flightOf s r.src r.commit r.taggen r.part = some f → remLine s r.part r.dst off = none →
    (s.fab.landing.any fun l => l.src == r.src && l.dst == r.dst && decide (l.ord < r.ord)) = false →
    Completes .remoteAccess s fun t =>
      t.fab = { s.fab with remote := rest } ∧ Raised .remoteDeny r.src t ∧
      (∀ d, (coreOf t d).basin = (coreOf s d).basin ∧ (coreOf t d).cis = (coreOf s d).cis ∧
      (coreOf t d).dmem = (coreOf s d).dmem) ∧
      (∃ ts, (coreOf t r.src).run = putFlight { f with
        failed := some (0x010D, ts), failIsl := r.src, failOrd := s.saf.raised, loading := false } (coreOf s r.src).run) ∧
      t.dram = s.dram ∧ t.hst = s.hst

/-- A waiting GetS of a line that no cache has modified, its set not full, brings the DRAM bytes into the requester's
cache and adds it as a sharer; with an owner it forwards and waits. A GetM with no other holder makes the requester
the owner of the DRAM bytes; with sharers each of them is sent an invalidation and the request waits for them. An
owner's PutM writes its line to DRAM, ends its entry and is acknowledged; another's is acknowledged only. An agent's
read recalls a modified line; its write with no holder stores exactly that line, with holders invalidates them first.
A full set gives up at most one entry, of an idle line of that set, whose line no cache then holds. A write of a line
with a transaction waits; a request that has travelled for over 1 ms is not performed, its line is poisoned and
DIR_TIMEOUT raised. Other lines, caches and memory stand. (R57, R416, R417, R418, R419) -/
def Obligations.DirectoryRequests : Prop :=
  (∀ (s : State) (c : Fin 16) (l : Nat) (j : Option JobRef) (tw : Nat) (rest : List DirWait), isReady s = true →
    s.dir.wait = ⟨.getS c.val l, j, tw⟩ :: rest → (∀ x ∈ rest, reqLine x.req ≠ l) → replica s 16 ≤ tw + 1000000 →
    lineBusy s l = false → smGet upZero s.dir.upset l = 0 →
    s.dir.poisoned.contains l = false → (∀ o, dirOf s l ≠ some (.m o)) → dramEcc s l = false →
    (∀ x ∈ (coreOf s c.val).dc.lines, x.line ≠ l) → dirFull s l = false →
    Completes (.dirGets c) s fun t =>
      (coreOf t c.val).dc.lines = ⟨l, false, dramLine s l, []⟩ :: (coreOf s c.val).dc.lines ∧
      dirOf t l = some (withSharer (dirOf s l) c.val) ∧ (∀ m, m ≠ l → dirOf t m = dirOf s m) ∧ t.dir.wait = rest ∧
      t.dir.txns = s.dir.txns ∧ t.dir.toCache = s.dir.toCache ∧ (∀ d, d ≠ c.val → coreOf t d = coreOf s d) ∧
      { t with kc := s.kc, dir := s.dir } = s) ∧
  (∀ (s : State) (c : Fin 16) (l o : Nat) (j : Option JobRef) (tw : Nat) (rest : List DirWait) (ex : Bool), isReady s = true →
    s.dir.wait = ⟨if ex then .getM c.val l else .getS c.val l, j, tw⟩ :: rest → (∀ x ∈ rest, reqLine x.req ≠ l) →
    replica s 16 ≤ tw + 1000000 → lineBusy s l = false →
    smGet upZero s.dir.upset l = 0 → s.dir.poisoned.contains l = false → dirOf s l = some (.m o) → o < 16 →
    Completes (if ex then .dirGetm c else .dirGets c) s fun t =>
      t.dir.txns = s.dir.txns ++ [⟨if ex then .getM c.val l else .getS c.val l, l, [o], j, s.tb.master⟩] ∧
      vget t.dir.toCache o [] = vget s.dir.toCache o [] ++ [if ex then .fwdM l c.val else .fwdS l c.val] ∧
      (∀ d : Fin 16, d.val ≠ o → vget t.dir.toCache d.val [] = vget s.dir.toCache d.val []) ∧ t.dir.wait = rest ∧
      t.dir.entries = s.dir.entries ∧ { t with dir := s.dir } = s) ∧
  (∀ (s : State) (c : Fin 16) (l : Nat) (j : Option JobRef) (tw : Nat) (rest : List DirWait), isReady s = true →
    s.dir.wait = ⟨.getM c.val l, j, tw⟩ :: rest → (∀ x ∈ rest, reqLine x.req ≠ l) → replica s 16 ≤ tw + 1000000 →
    lineBusy s l = false → smGet upZero s.dir.upset l = 0 →
    s.dir.poisoned.contains l = false → dirOf s l = none → dramEcc s l = false →
    (∀ x ∈ (coreOf s c.val).dc.lines, x.line ≠ l) →
    dirFull s l = false →
    Completes (.dirGetm c) s fun t =>
      (coreOf t c.val).dc.lines = ⟨l, true, dramLine s l, []⟩ :: (coreOf s c.val).dc.lines ∧ dirOf t l = some (.m c.val) ∧
      (∀ m, m ≠ l → dirOf t m = dirOf s m) ∧ t.dir.wait = rest ∧ t.dir.txns = s.dir.txns ∧
      (∀ d, d ≠ c.val → coreOf t d = coreOf s d) ∧ { t with kc := s.kc, dir := s.dir } = s) ∧
  (∀ (s : State) (c d : Fin 16) (l : Nat) (m : BitVec 16) (j : Option JobRef) (tw : Nat) (rest : List DirWait),
    isReady s = true → s.dir.wait = ⟨.getM c.val l, j, tw⟩ :: rest → (∀ x ∈ rest, reqLine x.req ≠ l) →
    replica s 16 ≤ tw + 1000000 → lineBusy s l = false →
    smGet upZero s.dir.upset l = 0 → s.dir.poisoned.contains l = false → dirOf s l = some (.s m) → d ≠ c →
    m.getLsbD d.val = true →
    Completes (.dirGetm c) s fun t =>
      (∃ w, t.dir.txns = s.dir.txns ++ [⟨.getM c.val l, l, w, j, s.tb.master⟩] ∧
        ∀ e : Fin 16, e.val ∈ w ↔ (e ≠ c ∧ m.getLsbD e.val = true)) ∧
      (∀ e : Fin 16, vget t.dir.toCache e.val [] = vget s.dir.toCache e.val [] ++
        if e ≠ c ∧ m.getLsbD e.val = true then [.inv l] else []) ∧
      t.dir.wait = rest ∧ t.dir.entries = s.dir.entries ∧ { t with dir := s.dir } = s) ∧
  (∀ (s : State) (c : Fin 16) (l : Nat) (b : List Byte) (j : Option JobRef) (tw : Nat) (rest : List DirWait), isReady s = true →
    s.dir.wait = ⟨.putM c.val l b, j, tw⟩ :: rest → (∀ x ∈ rest, reqLine x.req ≠ l) → replica s 16 ≤ tw + 1000000 →
    lineBusy s l = false → smGet upZero s.dir.upset l = 0 →
    b.length = 64 →
    Completes (.dirPutm c) s fun t =>
      (dirOf s l = some (.m c.val) → dramLine t l = b ∧ dirOf t l = none ∧
        ∀ a, a < l ∨ l + 64 ≤ a → smGet byteZero t.dram.mem a = smGet byteZero s.dram.mem a) ∧
      (dirOf s l ≠ some (.m c.val) → t.dram = s.dram ∧ t.dir.entries = s.dir.entries) ∧
      vget t.dir.toCache c.val [] = vget s.dir.toCache c.val [] ++ [.putAck l] ∧ (∀ m, m ≠ l → dirOf t m = dirOf s m) ∧
      t.dir.wait = rest ∧ { t with dir := s.dir, dram := s.dram } = s) ∧
  (∀ (s : State) (a o : Nat), isReady s = true → lineBusy s (lineOf a) = false →
  (∀ x ∈ s.dir.wait, reqLine x.req ≠ lineOf a) →
    smGet upZero s.dir.upset (lineOf a) = 0 → s.dir.poisoned.contains (lineOf a) = false →
    dirOf s (lineOf a) = some (.m o) → o < 16 →
    Completes (.dirAgentRead a) s fun t =>
      t.dir.txns = s.dir.txns ++ [⟨.read (lineOf a), lineOf a, [o], none, s.tb.master⟩] ∧
      vget t.dir.toCache o [] = vget s.dir.toCache o [] ++ [.recallKeep (lineOf a)] ∧ { t with dir := s.dir } = s) ∧
  (∀ (s : State) (a : Nat) (b : List Byte), isReady s = true → lineBusy s (lineOf a) = false →
    (∀ x ∈ s.dir.wait, reqLine x.req ≠ lineOf a) → smGet upZero s.dir.upset (lineOf a) = 0 →
    s.dir.poisoned.contains (lineOf a) = false → dirOf s (lineOf a) = none → b.length = 64 →
    Completes (.dirAgentWrite a b) s fun t =>
      dramLine t (lineOf a) = b ∧ dirOf t (lineOf a) = none ∧
      (∀ k, k < lineOf a ∨ lineOf a + 64 ≤ k → smGet byteZero t.dram.mem k = smGet byteZero s.dram.mem k) ∧
      { t with dir := s.dir, dram := s.dram } = s) ∧
  (∀ (s : State) (l m : Nat), let u := dirMakeRoom l s
    (dirFull s l = false → u = s) ∧
    (dirOf u m = dirOf s m ∨ (m ≠ l ∧ dirSetOf m = dirSetOf l ∧ lineBusy s m = false ∧ dirOf u m = none ∧
      ∀ c < 16, ∀ y ∈ (coreOf u c).dc.lines, y.line ≠ m))) ∧
  (∀ (s : State) (c : Fin 16) (l : Nat) (j : Option JobRef) (tw : Nat) (rest : List DirWait), isReady s = true →
    s.dir.wait = ⟨.getS c.val l, j, tw⟩ :: rest → (∀ x ∈ rest, reqLine x.req ≠ l) → lineBusy s l = false →
    dirFull s l = false →
    tw + 1000000 < replica s 16 →
    Completes (.dirGets c) s fun t =>
      t.dir.poisoned.contains l = true ∧ t.dir.wait = rest ∧ Raised .dirTimeout c.val t ∧
      (coreOf t c.val).dc.lines = (coreOf s c.val).dc.lines ∧ t.dir.entries = s.dir.entries ∧ t.dram = s.dram) ∧
  ∀ (s : State) (a : Nat) (b : List Byte), isReady s = true → lineBusy s (lineOf a) = true →
    Completes (.dirAgentWrite a b) s fun t =>
      t = { s with dir := { s.dir with wait := s.dir.wait ++ [⟨.write (lineOf a) (slice b 0 64), none, replica s 16⟩] } }

/-- For a line without error, which the core has not reserved within the last 64 cycles, a forward of a GetS and a
recall-keep answer with the line's bytes and leave it clean; a forward of a GetM answers and gives the line up; an
invalidation drops the line and acknowledges; a PutM's acknowledgement frees the eviction buffer. The owner's data ends
a GetS with the line in DRAM, both as sharers and the bytes in the requester's cache; the last acknowledgement of an
agent's write stores it; an answer that is not the last is only taken off. An answer older than 1 ms, and a message
whose transaction is, are not performed; a time-out of such a transaction poisons the line, ends it and raises
DIR_TIMEOUT. (R57, R331, R332, R417, R418, R419) -/
def Obligations.CachesAnswerTheDirectory : Prop :=
  (∀ (s : State) (c : Fin 16) (l : Nat) (m : DirMsg) (rest : List DirMsg) (x : DcLine), isReady s = true →
    vget s.dir.toCache c.val [] = m :: rest → dcFind (coreOf s c.val).dc l = some x →
    (∀ n ∈ x.up, n = 0) → snoopWaits c.val m s = false → msgLost c.val m s = false →
    let P (t : State) : Prop :=
      t.dir.toDir = s.dir.toDir ++ [.data l c.val (some x.bytes) (replica s c.val)] ∧ vget t.dir.toCache c.val [] = rest ∧
      ((coreOf s c.val).dc.lines.find? (·.line == l) = some x →
        ∃ y, dcFind (coreOf t c.val).dc l = some y ∧ y.dirty = false ∧ y.bytes = x.bytes) ∧
      (coreOf t c.val).dc.lines.length = (coreOf s c.val).dc.lines.length ∧
      (∀ d, d ≠ c.val → coreOf t d = coreOf s d) ∧ { t with kc := s.kc, dir := s.dir } = s
    ((∃ q, m = .fwdS l q) → Completes (.cacheFwdS c) s P) ∧ (m = .recallKeep l → Completes (.cacheRecallKeep c) s P)) ∧
  (∀ (s : State) (c : Fin 16) (l q : Nat) (rest : List DirMsg) (x : DcLine), isReady s = true →
    vget s.dir.toCache c.val [] = .fwdM l q :: rest → dcFind (coreOf s c.val).dc l = some x → (∀ n ∈ x.up, n = 0) →
    snoopWaits c.val (.fwdM l q) s = false → msgLost c.val (.fwdM l q) s = false →
    Completes (.cacheFwdM c) s fun t =>
      t.dir.toDir = s.dir.toDir ++ [.data l c.val (some x.bytes) (replica s c.val)] ∧ vget t.dir.toCache c.val [] = rest ∧
      (∀ y ∈ (coreOf t c.val).dc.lines, y.line ≠ l) ∧
      (∀ y, y.line ≠ l → (y ∈ (coreOf t c.val).dc.lines ↔ y ∈ (coreOf s c.val).dc.lines)) ∧
      (∀ d, d ≠ c.val → coreOf t d = coreOf s d) ∧ { t with kc := s.kc, dir := s.dir } = s) ∧
  (∀ (s : State) (c : Fin 16) (l : Nat) (rest : List DirMsg), isReady s = true →
  vget s.dir.toCache c.val [] = .inv l :: rest →
    snoopWaits c.val (.inv l) s = false → msgLost c.val (.inv l) s = false →
    Completes (.cacheInv c) s fun t =>
      t.dir.toDir = s.dir.toDir ++ [.ack l c.val (replica s c.val)] ∧ vget t.dir.toCache c.val [] = rest ∧
      (∀ y ∈ (coreOf t c.val).dc.lines, y.line ≠ l) ∧ (coreOf t c.val).run.cc.rsv.bind (·.2) ≠ some l ∧
      (∀ d, d ≠ c.val → coreOf t d = coreOf s d) ∧ { t with kc := s.kc, dir := s.dir } = s) ∧
  (∀ (s : State) (c : Fin 16) (l : Nat) (rest : List DirMsg), isReady s = true →
  vget s.dir.toCache c.val [] = .putAck l :: rest →
    Completes (.cachePutAck c) s fun t =>
      (coreOf t c.val).dc = { (coreOf s c.val).dc with evict := (coreOf s c.val).dc.evict.filter (·.line != l) } ∧
      vget t.dir.toCache c.val [] = rest ∧ t.dir.toDir = s.dir.toDir ∧ (∀ d, d ≠ c.val → coreOf t d = coreOf s d) ∧
      { t with kc := s.kc, dir := s.dir } = s) ∧
  (∀ (s : State) (l c o : Nat) (b : List Byte) (j : Option JobRef) (ts tw : Nat) (rest : List DirAns) (xs : List DirTxn), isReady s = true →
    s.dir.toDir = .data l o (some b) tw :: rest → replica s 16 ≤ tw + 1000000 →
    s.dir.txns = ⟨.getS c l, l, [o], j, ts⟩ :: xs → (∀ y ∈ s.dir.wait, reqLine y.req ≠ l) →
    dirOf s l = some (.m o) → b.length = 64 → c < 16 → (∀ y ∈ (coreOf s c).dc.lines, y.line ≠ l) →
    Completes .dirAck s fun t =>
      dramLine t l = b ∧ dirOf t l = some (.s ((1#16 <<< c) ||| (1#16 <<< o))) ∧ t.dir.txns = xs ∧ t.dir.toDir = rest ∧
      (coreOf t c).dc.lines = ⟨l, false, b, []⟩ :: (coreOf s c).dc.lines ∧
      (∀ a, a < l ∨ l + 64 ≤ a → smGet byteZero t.dram.mem a = smGet byteZero s.dram.mem a) ∧
      (∀ d, d ≠ c → coreOf t d = coreOf s d) ∧ { t with kc := s.kc, dir := s.dir, dram := s.dram } = s) ∧
  (∀ (s : State) (l c : Nat) (b : List Byte) (j : Option JobRef) (ts tw : Nat) (rest : List DirAns) (xs : List DirTxn), isReady s = true →
    s.dir.toDir = .ack l c tw :: rest → replica s 16 ≤ tw + 1000000 → s.dir.txns = ⟨.write l b, l, [c], j, ts⟩ :: xs →
    (∀ y ∈ s.dir.wait, reqLine y.req ≠ l) → b.length = 64 →
    Completes .dirAck s fun t =>
      dramLine t l = b ∧ dirOf t l = none ∧ t.dir.txns = xs ∧ t.dir.toDir = rest ∧
      { t with dir := s.dir, dram := s.dram } = s) ∧
  (∀ (s : State) (l c : Nat) (q : DirReq) (w : List Nat) (j : Option JobRef) (ts tw : Nat) (rest : List DirAns), isReady s = true →
    s.dir.toDir = .ack l c tw :: rest → replica s 16 ≤ tw + 1000000 → s.dir.txns = [⟨q, l, w, j, ts⟩] → (∃ d ∈ w, d ≠ c) →
    Completes .dirAck s fun t =>
      t = { s with dir := { s.dir with toDir := rest, txns := [⟨q, l, w.filter (· != c), j, ts⟩] } }) ∧
  (∀ (s : State) (c : Fin 16) (m : DirMsg) (rest : List DirMsg), isReady s = true →
  vget s.dir.toCache c.val [] = m :: rest →
    snoopWaits c.val m s = false → msgLost c.val m s = true →
    let u := { s with dir := { s.dir with toCache := vset s.dir.toCache c.val rest } }
    match m with
    | .fwdS _ _ => Completes (.cacheFwdS c) s fun t => t = u
    | .fwdM _ _ => Completes (.cacheFwdM c) s fun t => t = u
    | .recallKeep _ => Completes (.cacheRecallKeep c) s fun t => t = u
    | .inv _ => Completes (.cacheInv c) s fun t => t = u
    | .putAck _ => False) ∧
  (∀ (s : State) (a : DirAns) (rest : List DirAns), isReady s = true → s.dir.toDir = a :: rest →
    ansTs a + 1000000 < replica s 16 →
    Completes .dirAck s fun t => t = { s with dir := { s.dir with toDir := rest } }) ∧
  ∀ (s : State) (a c : Nat) (j : Option JobRef) (w : List Nat) (ts : Nat) (xs : List DirTxn), isReady s = true →
    s.dir.txns = ⟨.getS c (lineOf a), lineOf a, w, j, ts⟩ :: xs → c < 16 → (∀ y ∈ s.dir.wait, reqLine y.req ≠ lineOf a) →
    ts + 1000000 < replica s 16 →
    Completes (.dirTimeout a) s fun t =>
      t.dir.poisoned.contains (lineOf a) = true ∧ (∀ k, k ≠ lineOf a →
      t.dir.poisoned.contains k = s.dir.poisoned.contains k) ∧
      t.dir.txns = xs.filter (·.line != lineOf a) ∧ Raised .dirTimeout c t ∧
      (coreOf t c).dc.miss = none ∧ (coreOf t c).dc.lines = (coreOf s c).dc.lines ∧
      (∀ d, d ≠ c → coreOf t d = coreOf s d) ∧ t.dram = s.dram

/-- Fetched with its harts in agreement and no halt asked, an instruction that reaches nothing outside the hart writes
its result to rd, x0 staying 0, moves to its next address and counts as retired. A naturally aligned DMEM load inside
the task's bounds, over words without error, gives the bytes extended; a store puts its bytes there and nowhere else.
SC.W without a matching reservation stores nothing and gives 1. A fetch that ends in an exception stops the core and
raises CC_TRAP. Nothing else in the device changes but the cycle count. (R323, R325, R326, R329, R332, R345) -/
def Obligations.ControlCoreInstructions : Prop :=
  (∀ (s u w : State) (c : Fin 16) (op : RvOp) (len b : Nat), Fetches s c.val op len u → NoHalt w c.val →
    ccRun (ccBits c.val len) u = (.ok b, w) → (coreOf w c.val).run.cc.st = .running →
    ((∃ rd v, op = .lui rd v) ∨ (∃ rd v, op = .auipc rd v) ∨ (∃ rd o, op = .jal rd o) ∨ (∃ rd r o, op = .jalr rd r o) ∨
      (∃ o a b i, op = .br o a b i) ∨ (∃ o rd r v, op = .aluI o rd r v) ∨ (∃ o rd a b, op = .alu o rd a b) ∨
      (∃ o rd r, op = .un o rd r) ∨ op = .fence) →
    Completes (.ccInstruction c) s fun t =>
      let k := (coreOf w c.val).run.cc
      HartsGo k (coreOf t c.val).run.cc (nextPc op len k.leader) (aluRes op len k.leader).1 (aluRes op len k.leader).2 ∧
      (coreOf t c.val).run.cc.st = .running ∧ (coreOf t c.val).run.cc.rsv = k.rsv ∧ OnlyCc c.val w t ∧
      { t with kc := w.kc, free := w.free } = w) ∧
  (∀ (s u w : State) (c : Fin 16) (n rd r len b p : Nat) (sg : Bool) (off : Int), Fetches s c.val (.load n sg rd r off) len u →
    NoHalt w c.val → ccRun (ccBits c.val len) u = (.ok b, w) → (coreOf w c.val).run.cc.st = .running →
    let k := (coreOf w c.val).run.cc
    let a := hAddr k.leader r off
    (n = 1 ∨ n = 2 ∨ n = 4) → a % n = 0 → a < 0x10000 → relocDmem (coreOf w c.val) a n = some p →
    smGet upZero (coreOf w c.val).dmemUp (p / 4) = 0 → p % n = 0 →
    Completes (.ccInstruction c) s fun t =>
      HartsGo k (coreOf t c.val).run.cc ((k.leader.pc + len) % 2 ^ 32) rd (loadVal n sg (leNat (dmemBytes (coreOf w c.val) p n))) ∧
      OnlyCc c.val w t ∧ { t with kc := w.kc, free := w.free } = w) ∧
  (∀ (s u w : State) (c : Fin 16) (n r1 r2 len b p : Nat) (off : Int), Fetches s c.val (.store n r1 r2 off) len u →
    NoHalt w c.val → ccRun (ccBits c.val len) u = (.ok b, w) → (coreOf w c.val).run.cc.st = .running →
    let k := (coreOf w c.val).run.cc
    let a := hAddr k.leader r1 off
    (n = 1 ∨ n = 2 ∨ n = 4) → a % n = 0 → a < 0x10000 → relocDmem (coreOf w c.val) a n = some p →
    smGet upZero (coreOf w c.val).dmemUp (p / 4) = 0 → p % n = 0 →
    Completes (.ccInstruction c) s fun t =>
      HartsGo k (coreOf t c.val).run.cc ((k.leader.pc + len) % 2 ^ 32) 0 0 ∧
      dmemBytes (coreOf t c.val) p n = leBytes n (hx k.leader r2).toNat ∧
      (∀ i, i < p ∨ p + n ≤ i → smGet byteZero (coreOf t c.val).dmem i = smGet byteZero (coreOf w c.val).dmem i) ∧
      (coreOf t c.val).basin = (coreOf w c.val).basin ∧ (coreOf t c.val).cis = (coreOf w c.val).cis ∧
      (coreOf t c.val).ctx = (coreOf w c.val).ctx ∧ (∀ d, d ≠ c.val → coreOf t d = coreOf w d) ∧
      { t with kc := w.kc, free := w.free } = w) ∧
  (∀ (s u w : State) (c : Fin 16) (rd r1 r2 len b : Nat), Fetches s c.val (.sc rd r1 r2) len u → NoHalt w c.val →
    ccRun (ccBits c.val len) u = (.ok b, w) → (coreOf w c.val).run.cc.st = .running →
    let k := (coreOf w c.val).run.cc
    (hx k.leader r1).toNat % 4 = 0 → k.rsv.map (·.1) ≠ some (hx k.leader r1).toNat →
    Completes (.ccInstruction c) s fun t =>
      HartsGo k (coreOf t c.val).run.cc ((k.leader.pc + len) % 2 ^ 32) rd 1 ∧ (coreOf t c.val).run.cc.rsv = none ∧
      OnlyCc c.val w t ∧ { t with kc := w.kc, free := w.free } = w) ∧
  ∀ (s u : State) (c : Fin 16) (cause tv : Nat), ccReady s c.val = true → (coreOf s c.val).mismatch = false →
    (coreOf s c.val).run.cc.leader.pc = (coreOf s c.val).run.cc.checker.pc →
    ccRun (ccFetch c.val) s = (.error (.trap cause tv .ccTrap), u) →
    Completes (.ccInstruction c) s fun t =>
      Raised .ccTrap c.val t ∧ (coreOf t c.val).run.cc.st = .stopped ∧
      (coreOf t c.val).run.cc.leader = (coreOf u c.val).run.cc.leader ∧ OnlyCc c.val u t ∧
      { t with kc := u.kc, regs := u.regs, saf := u.saf, tb := u.tb } = u

/-- QPUSH stages rs1 in the word it names and marks it written. REDRD gives the reduction register or the GE value.
TSRD.LO gives the low word of the core's stamp and keeps the high word, which TSRD.HI gives. SWAIT on an owned
semaphore whose turn it is, after the Runnels' ready heads and the waiters that came before, takes its count and
retires; without, the core waits and takes nothing until SWAIT_RELEASE finds its turn. SSET adds its count; a semaphore
the partition does not own raises SEM_DENY, also with a count of 0, a sum past 65,535 SEM_OVERFLOW, and nothing is
taken or added. Other semaphores, cores and memories stand. (R164, R165, R166, R302, R334, R336, R337, R338) -/
def Obligations.ControlCoreDeviceInstructions : Prop :=
  (∀ (s u : State) (c : Fin 16) (r1 i len : Nat), Fetches s c.val (.qpush r1 i) len u → NoHalt u c.val → i < 16 →
    (coreOf u c.val).run.cc.st = .running →
    Completes (.qpush c) s fun t =>
      let k := (coreOf u c.val).run.cc
      let k' := (coreOf t c.val).run.cc
      k'.stage = vset k.stage i (hx k.leader r1) ∧ k'.written = k.written ||| (1#16 <<< i) ∧
      k'.leader = { k.leader with pc := (k.leader.pc + len) % 2 ^ 32 } ∧ k'.commit = k.commit ∧
      k'.seqPc = (if k.written = 0 then some k.leader.pc else k.seqPc) ∧ OnlyCc c.val u t ∧
      { t with kc := u.kc, free := u.free } = u) ∧
  (∀ (s u : State) (c : Fin 16) (rd n len : Nat), Fetches s c.val (.redrd rd n) len u → NoHalt u c.val →
    (coreOf u c.val).run.cc.st = .running →
    Completes (.redrd c) s fun t =>
      let k := (coreOf u c.val).run.cc
      HartsGo k (coreOf t c.val).run.cc ((k.leader.pc + len) % 2 ^ 32) rd (if n = 8 then k.ge else vget k.red n 0) ∧
      OnlyCc c.val u t ∧ { t with kc := u.kc, free := u.free } = u) ∧
  (∀ (s u : State) (c : Fin 16) (rd len : Nat), Fetches s c.val (.tsrdLo rd) len u → NoHalt u c.val →
    (coreOf u c.val).run.cc.st = .running →
    Completes (.tsrdLo c) s fun t =>
      let k := (coreOf u c.val).run.cc
      HartsGo k (coreOf t c.val).run.cc ((k.leader.pc + len) % 2 ^ 32) rd (BitVec.ofNat 32 (stampOf u c.val 0)) ∧
      (coreOf t c.val).run.cc.tsrd = stampOf u c.val 0 / 2 ^ 32 % 2 ^ 32 ∧ OnlyCc c.val u t ∧
      t.tb = (keepStamp c.val (stampOf u c.val 0) u).tb ∧
      { t with kc := u.kc, free := u.free, tb := u.tb } = u) ∧
  (∀ (s u : State) (c : Fin 16) (rd len : Nat), Fetches s c.val (.tsrdHi rd) len u → NoHalt u c.val →
    (coreOf u c.val).run.cc.st = .running →
    Completes (.tsrdHi c) s fun t =>
      let k := (coreOf u c.val).run.cc
      HartsGo k (coreOf t c.val).run.cc ((k.leader.pc + len) % 2 ^ 32) rd (BitVec.ofNat 32 k.tsrd) ∧ OnlyCc c.val u t ∧
      { t with kc := u.kc, free := u.free } = u) ∧
  (∀ (s u : State) (c : Fin 16) (r1 r2 len : Nat), Fetches s c.val (.swait r1 r2) len u → NoHalt u c.val →
    (coreOf u c.val).run.cc.st = .running →
    let k := (coreOf u c.val).run.cc
    let q := (hx k.leader r1).toNat % 128
    let n := (hx k.leader r2).toNat % 65536
    (q < 32 ∨ 64 ≤ q) → semOwned u (ctxOf (coreOf u c.val)).part q = true →
    Completes (.swait c) s fun t =>
      (n = 0 ∨ swaitTurn u c.val q n = true → semGet t c.val q = semGet u c.val q - n ∧
        HartsGo k (coreOf t c.val).run.cc ((k.leader.pc + len) % 2 ^ 32) 0 0) ∧
      (n ≠ 0 → swaitTurn u c.val q n = false → (coreOf t c.val).run.cc.st = .swait ∧
      (coreOf t c.val).run.cc.pendWait = some (q, n) ∧
        (coreOf t c.val).run.cc.leader = k.leader ∧ semGet t c.val q = semGet u c.val q) ∧
      (∀ d e, d < 16 → e < 128 → (e < 64 → d ≠ c.val ∨ e ≠ q) → (64 ≤ e → e ≠ q) → semGet t d e = semGet u d e) ∧
      (∀ d, d ≠ c.val → coreOf t d = coreOf u d) ∧
      { t with kc := u.kc, free := u.free, sems := u.sems, fab := { t.fab with semq := u.fab.semq } } = u) ∧
  (∀ (s u : State) (c : Fin 16) (r1 r2 len : Nat), Fetches s c.val (.swait r1 r2) len u →
    let q := (hx (coreOf u c.val).run.cc.leader r1).toNat % 128
    (q < 32 ∨ 64 ≤ q) → semOwned u (ctxOf (coreOf u c.val)).part q = false →
    Completes (.swait c) s fun t =>
      Raised .semDeny c.val t ∧ (coreOf t c.val).run.cc.st = .stopped ∧ t.sems = u.sems ∧
      (coreOf t c.val).run.sems = (coreOf u c.val).run.sems) ∧
  (∀ (s : State) (c : Fin 16) (q n : Nat), isReady s = true → (coreOf s c.val).active.isSome = true →
    (ctxOf (coreOf s c.val)).st = .running → (coreOf s c.val).stop = none → (coreOf s c.val).run.cc.st = .swait →
    (coreOf s c.val).run.cc.pendWait = some (q, n) → swaitTurn s c.val q n = true → (q < 32 ∨ (64 ≤ q ∧ q < 128)) →
    NoHalt s c.val →
    Completes (.swaitRelease c) s fun t =>
      let k := (coreOf s c.val).run.cc
      semGet t c.val q = semGet s c.val q - n ∧ (coreOf t c.val).run.cc.st = .running ∧
      (coreOf t c.val).run.cc.pendWait = none ∧ HartsGo k (coreOf t c.val).run.cc ((k.leader.pc + 4) % 2 ^ 32) 0 0 ∧
      (∀ d, d ≠ c.val → coreOf t d = coreOf s d) ∧
      { t with kc := s.kc, free := s.free, sems := s.sems, fab := { t.fab with semq := s.fab.semq } } = s) ∧
  (∀ (s u : State) (c : Fin 16) (r1 r2 len : Nat), Fetches s c.val (.sset r1 r2) len u → NoHalt u c.val →
    (coreOf u c.val).run.cc.st = .running →
    let k := (coreOf u c.val).run.cc
    let q := (hx k.leader r1).toNat % 128
    let n := (hx k.leader r2).toNat % 65536
    (q < 32 ∨ 64 ≤ q) → semOwned u (ctxOf (coreOf u c.val)).part q = true → semGet u c.val q + n ≤ 65535 →
    Completes (.sset c) s fun t =>
      semGet t c.val q = semGet u c.val q + n ∧
      HartsGo k (coreOf t c.val).run.cc ((k.leader.pc + len) % 2 ^ 32) 0 0 ∧
      (∀ d, d ≠ c.val → coreOf t d = coreOf u d) ∧ { t with kc := u.kc, free := u.free, sems := u.sems } = u) ∧
  ∀ (s u : State) (c : Fin 16) (r1 r2 len : Nat), Fetches s c.val (.sset r1 r2) len u →
    let k := (coreOf u c.val).run.cc
    let q := (hx k.leader r1).toNat % 128
    let n := (hx k.leader r2).toNat % 65536
    (q < 32 ∨ 64 ≤ q) →
    (semOwned u (ctxOf (coreOf u c.val)).part q = false ∨ 65535 < semGet u c.val q + n) →
    Completes (.sset c) s fun t =>
      Raised (if semOwned u (ctxOf (coreOf u c.val)).part q = false then .semDeny else .semOverflow) c.val t ∧
      (coreOf t c.val).run.cc.st = .stopped ∧ t.sems = u.sems ∧ (coreOf t c.val).run.sems = (coreOf u c.val).run.sems

/-- With no break to meet, a commit whose words pass R307 and whose Runnel has room appends exactly those words with
the commit number and their parity, gives that number in rd, advances it, empties the staging and counts a visible
item; with the
Runnel full nothing is placed and the core stalls; refused words raise DESC_INVALID (TEMPLATE_CRC for a template's
CRC) and place nothing. A service call 0 ends the control core: staged words are gone and the job counts this core as
ended; a service call 1 stops it and raises CC_ABORT. Other Runnels and cores stand. (R155, R307, R316, R321, R322,
R335, R342, R377) -/
def Obligations.CommitsAndEnds : Prop :=
  (∀ (s u : State) (c : Fin 16) (rd r1 len : Nat) (tpl : Option Nat) (w : List Word), NoHalt u c.val →
    (coreOf u c.val).run.cc.st = .running → brkHit u c.val = false →
    let x := coreOf u c.val
    let k := x.run.cc
    let j := jobOf u (ctxOf x).slot
    let e := wbits w 0 8 3
    let vis := bitOf (w.getD 0 0).toNat 11
    commitWords u c.val tpl = .ok w → (vis = true → j.items < j.nitem) →
    (vget x.run.runnels e []).length < runnelDepth e →
    let P (t : State) : Prop :=
      let y := coreOf t c.val
      e < 5 ∧ vget y.run.runnels e [] = vget x.run.runnels e [] ++ [⟨w, k.commit, parOf w⟩] ∧
      (∀ f, f ≠ e → vget y.run.runnels f [] = vget x.run.runnels f []) ∧ y.run.cc.commit = (k.commit + 1) % 2 ^ 32 ∧
      y.run.cc.stage = stageEmpty ∧ y.run.cc.written = 0 ∧ y.run.cc.leader.pc = (k.leader.pc + 4) % 2 ^ 32 ∧
      (rd ≠ 0 → rd < 32 → vget y.run.cc.leader.x rd 0 = BitVec.ofNat 32 k.commit) ∧
      vget y.run.cc.leader.x 0 0 = vget k.leader.x 0 0 ∧
      (jobOf t (ctxOf x).slot).items = j.items + (if vis then 1 else 0) ∧ y.run.flight = x.run.flight ∧
      y.basin = x.basin ∧
      (∀ d, d ≠ c.val → coreOf t d = coreOf u d) ∧
      { t with kc := u.kc, free := u.free, hst := u.hst, regs := u.regs, fab := { t.fab with semq := u.fab.semq } } = u
    (tpl = none → Fetches s c.val (.qcommit rd) len u → Completes (.qcommit c) s P) ∧
    (tpl = some ((hx k.leader r1).toNat % 64) → Fetches s c.val (.qcommitT rd r1) len u → Completes (.qcommitT c) s P)) ∧
  (∀ (s u : State) (c : Fin 16) (rd len : Nat) (w : List Word), Fetches s c.val (.qcommit rd) len u →
  brkHit u c.val = false →
    let x := coreOf u c.val
    let j := jobOf u (ctxOf x).slot
    commitWords u c.val none = .ok w → (bitOf (w.getD 0 0).toNat 11 = true → j.items < j.nitem) →
    runnelDepth (wbits w 0 8 3) ≤ (vget x.run.runnels (wbits w 0 8 3) []).length →
    Completes (.qcommit c) s fun t =>
      (coreOf t c.val).run.cc.st = .qcommit ∧ (coreOf t c.val).run.cc.pendCommit = some (rd, none) ∧
      (coreOf t c.val).run.runnels = x.run.runnels ∧ (coreOf t c.val).run.cc.leader = x.run.cc.leader ∧ OnlyCc c.val u t ∧
      { t with kc := u.kc, regs := u.regs } = u) ∧
  (∀ (s u : State) (c : Fin 16) (rd r1 len n : Nat) (w : List Word), Fetches s c.val (.qcommitT rd r1) len u →
  brkHit u c.val = false →
    commitWords u c.val (some ((hx (coreOf u c.val).run.cc.leader r1).toNat % 64)) = .error (n, w) →
    Completes (.qcommitT c) s fun t =>
      Raised (if n = 6 then .templateCrc else .descInvalid) c.val t ∧ (coreOf t c.val).run.cc.st = .stopped ∧
      (coreOf t c.val).run.runnels = (coreOf u c.val).run.runnels ∧
      (coreOf t c.val).run.cc.commit = (coreOf u c.val).run.cc.commit ∧ OnlyCc c.val u t ∧ t.hst = u.hst) ∧
  (∀ (s u : State) (c : Fin 16) (len : Nat), Fetches s c.val .ecall len u → hx (coreOf s c.val).run.cc.leader 17 = 0 →
    Completes (.ecallEnd c) s fun t =>
      let x := coreOf u c.val
      (coreOf t c.val).run.cc.st = .ended ∧ (coreOf t c.val).run.cc.stage = stageEmpty ∧
      (coreOf t c.val).run.cc.rsv = none ∧
      (jobOf t (ctxOf x).slot).live = (jobOf u (ctxOf x).slot).live.filter (· != c.val) ∧
      (jobOf t (ctxOf x).slot).endTs = stampOf u c.val 0 ∧ OnlyCc c.val u t ∧
      (∀ i, i ≠ (ctxOf x).slot → jobOf t i = jobOf u i) ∧ { t with kc := u.kc, hst := u.hst, tb := u.tb } = u) ∧
  ∀ (s u : State) (c : Fin 16) (len : Nat), Fetches s c.val .ecall len u → hx (coreOf s c.val).run.cc.leader 17 = 1 →
    Completes (.ecallAbort c) s fun t =>
      Raised .ccAbort c.val t ∧ (coreOf t c.val).run.cc.st = .stopped ∧
      (coreOf t c.val).run.cc.leader = (coreOf u c.val).run.cc.leader ∧ OnlyCc c.val u t ∧ t.hst = u.hst

/-- For NOP, MM, MMP, RUN, RESCALE, HASH_BUILD, OUTSITES, KMAP, SORT, GATHER, SCATTER, MASK, XFER, FILL, COPY, WLOAD,
SELREQ, RINGSET, SETUP and SEND: where the head of the engine's Runnel carries the command's operation code and is
ready, it issues, and the engine performs exactly that operation on it: without a fault the descriptor stands in flight
as the work leaves it, with a fault the fault is raised and the descriptor has failed, at a wait it stays in flight for a
later try; a commit that stalled on a full Runnel tries again. Absent or blocked, nothing changes; with a parity error or
a wait on a semaphore that is not the partition's, its fault is raised and no semaphore moves. The issue takes the head
from its Runnel and no other, puts it in flight with its stamp, adds its regions to the scoreboard, makes its engine the
last to have issued, takes its waits from their semaphores and leaves every semaphore it does not name. A NOP then stands
done, and its regions stay in the scoreboard. (R155, R156, R157, R158, R159, R160, R166, R275, R305, R306) -/
def Obligations.EnginesIssueReadyHeads : Prop :=
  (∀ (i : Instr) (s : State) (c eng opc : Nat) (work : Acc → Flight →
  EngM Flight), engineCmd i = some (c, eng, opc, work) →
    (headState s c eng opc = .absent ∨ headState s c eng opc = .blocked → exec i s = .next s) ∧
    (∀ d code, headState s c eng opc = .bad d code → Completes i s fun t =>
      Raised code c t ∧ vget (coreOf t c).run.runnels eng [] = (vget (coreOf s c).run.runnels eng []).drop 1 ∧
      (∃ f ∈ (coreOf t c).run.flight, f.d = d ∧ f.eng = eng ∧ f.failed = some (code.num, stampOf s c 0)) ∧
      (coreOf t c).run.sems = (coreOf s c).run.sems ∧ t.sems = s.sems ∧ (coreOf t c).run.cc = (coreOf s c).run.cc ∧
      (coreOf t c).basin = (coreOf s c).basin ∧ (∀ e, e ≠ c → coreOf t e = coreOf s e)) ∧
    (∀ d, headState s c eng opc = .ready d →
      let f := (issueCycle c eng d s).1
      let u := headCheck c eng (semArrive c (issueCycle c eng d s).2)
      (∀ g v, engRun (work ⟨c, f.eng, f.d.w⟩ f) u = (.ok g, v) →
      exec i s = .next (commitResume c (modRun c (putFlight g) v))) ∧
      (∀ code k v, engRun (work ⟨c, f.eng, f.d.w⟩ f) u = (.error (.fault code k), v) →
        exec i s = .next (commitResume c (failFlight c f code k v))) ∧
      (∀ v, engRun (work ⟨c, f.eng, f.d.w⟩ f) u = (.error .wait, v) → exec i s = .next (commitResume c u)))) ∧
  (∀ (s : State) (c : Fin 16) (eng : Fin 5) (opc : Nat) (d : QDesc), headState s c.val eng.val opc = .ready d →
    let f := (issueCycle c.val eng.val d s).1
    let t := (issueCycle c.val eng.val d s).2
    let r := (coreOf s c.val).run
    let r' := (coreOf t c.val).run
    f.eng = eng.val ∧ f.d = d ∧ f.issueTs = stampOf s c.val 0 ∧ f.done = false ∧ f.failed = none ∧
    vget r.runnels eng.val [] = d :: vget r'.runnels eng.val [] ∧ (∀ e, e ≠ eng.val →
    vget r'.runnels e [] = vget r.runnels e []) ∧
    r'.flight = r.flight ++ [f] ∧ r'.sb = r.sb ++ sbEntries (ctxOf (coreOf s c.val)) eng.val d.commit d.w ∧
    r'.cc = r.cc ∧ r'.rings = r.rings ∧ r'.vregs = r.vregs ∧ (coreOf t c.val).rr = eng.val ∧
    (∀ q, ((waitsOf d.w).all fun e => e.1 != q) → ((setsOf d.w false).all fun e => e.1 != q) →
    semGet t c.val q = semGet s c.val q) ∧
    (∀ q n, waitsOf d.w = [(q, n)] → ((setsOf d.w false).all fun e => e.1 != q) → (q < 32 ∨ (64 ≤ q ∧ q < 128)) →
      n ≤ semGet s c.val q ∧ semGet t c.val q = semGet s c.val q - n) ∧
    (∀ q n, setsOf d.w false = [(q, n)] → ((waitsOf d.w).all fun e => e.1 != q) → (q < 32 ∨ (64 ≤ q ∧ q < 128)) →
      semOwned s (ctxOf (coreOf s c.val)).part q = true → semGet s c.val q + n ≤ 65535 →
      semGet t c.val q = semGet s c.val q + n) ∧
    (coreOf t c.val).basin = (coreOf s c.val).basin ∧ (coreOf t c.val).cis = (coreOf s c.val).cis ∧
    (coreOf t c.val).dmem = (coreOf s c.val).dmem ∧ (∀ e, e ≠ c.val → coreOf t e = coreOf s e)) ∧
  ∀ (s : State) (c : Fin 16) (eng : Fin 5) (d : QDesc), Issues s c.val eng.val 0 d →
    Completes (.nop c eng) s fun t =>
      let u := (issueCycle c.val eng.val d s).2
      DoneWith (coreOf t c.val) d (fun _ => True) ∧ (coreOf t c.val).run.sb = (coreOf u c.val).run.sb ∧
      (coreOf t c.val).run.runnels = (coreOf u c.val).run.runnels ∧
      (coreOf t c.val).run.sems = (coreOf u c.val).run.sems ∧
      (coreOf t c.val).run.cc = (coreOf u c.val).run.cc ∧ (coreOf t c.val).basin = (coreOf s c.val).basin ∧
      (∀ e, e ≠ c.val → coreOf t e = coreOf s e) ∧
      { t with kc := s.kc, fab := s.fab } = { u with kc := s.kc, fab := s.fab }

/-- MM and MMP whose pass keeps its shape, width and class: at issue the weight and check lines, and with INIT 1 the bias
lines, stand loaded for the pass; a pass that does not keep them raises its fault. PASS_START runs the pass that stands
loaded in the ME, and changes nothing where none does, the core does not run or the pass has failed. A site of a pass
without a parity error puts into each of its row's entries: with INIT 0 the accumulation of the column's sum, with INIT 1
the bias and the sum, with INIT 2 the sum from zero; where no row contributes, INIT 0 leaves the entries, INIT 1 writes
the bias, INIT 2 writes zero; entries outside the row are untouched. A pass with K = 0 and INIT 2 thus ends with every
entry of its rows zero and no other changed. (R144, R145, R200, R201, R203, R204, R208, R209, R215) -/
def Obligations.PassesAndTheirSites : Prop :=
  (let Loads (i : Fin 16 → Instr) (opc : Nat) : Prop := ∀ (s : State) (c : Fin 16) (d : QDesc), Issues s c.val 0 opc d →
    let x := coreOf s c.val
    let p := passOf d.w
    let nw := weightLines p
    let np := checkBytes p / 64 + (if p.init = 1 then 4 else 0)
    (passFault s c.val p = none → passEmpty p = false → p.wsrc = false → 0 < p.k →
      WeightsOpen s c.val d.w p.wtOff nw → WeightsOpen s c.val d.w p.paramOff np → NoErrors x →
      Completes (i c) s fun t =>
        (∃ f ∈ (coreOf t c.val).run.flight, f.d = d ∧ f.loading = true ∧ f.done = false ∧ f.failed = none ∧
          f.tile = ((List.range nw).map fun k => lineBytes x (p.wtOff + k)) ++
            (List.range np).map fun k => lineBytes x (p.paramOff + k)) ∧
        (coreOf t c.val).basin = x.basin ∧ (coreOf t c.val).cis = x.cis ∧ (coreOf t c.val).dmem = x.dmem ∧
        ∀ e, e ≠ c.val → coreOf t e = coreOf s e) ∧
    (∀ code, passFault s c.val p = some code → Completes (i c) s fun t =>
        Raised code c.val t ∧ (∃ f ∈ (coreOf t c.val).run.flight, f.d = d ∧ f.loading = false ∧ f.failed.isSome) ∧
        (coreOf t c.val).basin = x.basin ∧ (coreOf t c.val).cis = x.cis ∧ ∀ e, e ≠ c.val → coreOf t e = coreOf s e)
  Loads .mm 1 ∧ Loads .mmp 2) ∧
  (∀ (s : State) (c : Fin 16) (f : Flight),
    (coreOf s c.val).run.flight.find? (fun f => f.eng == 0 && f.loading) = some f → f.failed = none →
    isReady s = true → (coreOf s c.val).active.isSome = true → (ctxOf (coreOf s c.val)).st = .running →
    exec (.passStart c) s = .next (runWork c.val f mePassRun s)) ∧
  (∀ (s : State) (c : Fin 16),
    (coreOf s c.val).run.flight.all (fun f => !(f.eng == 0 && f.loading)) = true ∨ isReady s = false ∨
      (ctxOf (coreOf s c.val)).st ≠ .running ∨
      (∃ f, (coreOf s c.val).run.flight.find? (fun f => f.eng == 0 && f.loading) = some f ∧ f.failed.isSome = true) →
    exec (.passStart c) s = .next s) ∧
  (∀ (a : Acc) (p : Pass) (tile bias : List (List Byte)) (q m : Nat) (els : List Nat) (s t : State), a.c < 16 →
  p.init < 3 →
    engRun (meSite a p tile bias q m els) s = (.ok (), t) →
    let x := coreOf s a.c
    let y := coreOf t a.c
    let row0 := if p.mmp then (if passInt4 p then 64 else 32) * (q / 2) else 0
    let col0 := if p.mmp then 32 * (q % 2) else 0
    let rows := contrib p row0 els
    let sum (n : Nat) : Nat := (passSum p tile rows (col0 + n)).getD 0
    let base := (ctxOf x).cisBase * 1024 + passRow p q m
    (∀ n < p.n, smGet wordZero y.cis (base + n) =
      if rows = [] then
        if p.init = 0 then smGet wordZero x.cis (base + n)
        else if p.init = 1 then BitVec.ofNat 32 (biasAt bias (col0 + n)) else 0
      else if p.init = 0 then accWord (!passInt p) (smGet wordZero x.cis (base + n)) (BitVec.ofNat 32 (sum n))
      else BitVec.ofNat 32 (accAdd (passInt p) (if p.init = 1 then biasAt bias (col0 + n) else 0) (sum n))) ∧
    (∀ e, e < base ∨ base + p.n ≤ e → smGet wordZero y.cis e = smGet wordZero x.cis e) ∧
    y.basin = x.basin ∧ y.dmem = x.dmem ∧ y.run = x.run ∧ (∀ d, d ≠ a.c → coreOf t d = coreOf s d)) ∧
  ∀ (s : State) (c : Fin 16) (f : Flight),
    let x := coreOf s c.val
    let p := passOf f.d.w
    let base := (ctxOf x).cisBase * 1024
    x.run.flight = [f] → f.eng = 0 → f.loading = true → f.failed = none → isReady s = true → x.active.isSome = true →
    (ctxOf x).st = .running → x.feedBad = none → p.mmp = false → p.wsrc = false → p.k = 0 → p.init = 2 → p.epi = false →
    (∀ m < p.m, base + passRow p 0 m + p.n ≤ (ctxOf x).cisBound * 1024 ∧
      ∀ n < p.n, declared f.d.w true ((passRow p 0 m + n) / 16) true = true) →
    Completes (.passStart c) s fun t =>
      let y := coreOf t c.val
      (∀ m < p.m, ∀ n < p.n, smGet wordZero y.cis (base + passRow p 0 m + n) = 0) ∧
      (∀ e, (∀ m < p.m, e < base + passRow p 0 m ∨ base + passRow p 0 m + p.n ≤ e) →
        smGet wordZero y.cis e = smGet wordZero x.cis e) ∧
      y.run = { x.run with
        flight := [{ f with done := true, loading := false, tile := [] }]
        sb := x.run.sb.filter fun e => !(e.commit == f.d.commit && !e.write) } ∧
      y.basin = x.basin ∧ { t with kc := s.kc, regs := s.regs } = s ∧ ∀ d, d ≠ c.val → coreOf t d = coreOf s d

/-- On lines that are declared, inside the task, outside every weight window and in no ring: FILL of Basin repeats its
64-bit pattern over its lines; COPY leaves at its destination what the source held at issue, overlapping or not; XFER
from Basin to another core's Basin sends one remote write per line, in order; SELREQ hands its 128-byte request block
to SEL and counts an item for a BOXES request. WLOAD of one block, its CRC and lines read, leaves the block CLEAN where
the
CRC agrees; where it does not, the block is FAILED and WEIGHT_CRC is raised. RINGSET with its fields in range stands done;
its ring is defined when it retires. An XFER_HOST_PIECE in its turn puts up to 64 lines of the host's data at its place,
raises HOST_XFER where the read failed, and moves nothing in a slot that does not admit the partition or out of its turn.
Bytes outside the stored lines, the Cistern and the DMEM stand. (R163, R171, R181, R182, R185, R186, R191, R275, R314,
R377,
R409, R410) -/
def Obligations.DmaResults : Prop :=
  (∀ (s : State) (c : Fin 16) (d : QDesc), Issues s c.val 3 0x61 d →
    let x := coreOf s c.val
    let u := wbits d.w 11 0 17
    let n := wbits d.w 12 0 18
    wbits d.w 0 12 1 = 0 → LinesOpen x d.w u n true →
    Completes (.fill c) s fun t =>
      BasinBecomes x (coreOf t c.val) ((taskLine x + u) * 64) (64 * n)
        (fun b => (leBytes 4 (wbits d.w 13 0 32) ++ leBytes 4 (wbits d.w 14 0 32)).getD (b % 8) 0) ∧
      (coreOf t c.val).cis = x.cis ∧ (coreOf t c.val).dmem = x.dmem ∧ (∀ e, e ≠ c.val → coreOf t e = coreOf s e) ∧
      DoneWith (coreOf t c.val) d fun _ => True) ∧
  (∀ (s : State) (c : Fin 16) (d : QDesc), Issues s c.val 3 0x62 d →
    let x := coreOf s c.val
    let u := wbits d.w 11 0 17
    let v := wbits d.w 12 0 17
    let n := wbits d.w 13 0 18
    LinesOpen x d.w u n false → LinesOpen x d.w v n true → (∀ k, smGet upZero x.basinUp k = 0) →
    Completes (.copy c) s fun t =>
      BasinBecomes x (coreOf t c.val) ((taskLine x + v) * 64) (64 * n)
        (fun b => smGet byteZero x.basin ((taskLine x + u) * 64 + b)) ∧
      (coreOf t c.val).cis = x.cis ∧ (coreOf t c.val).dmem = x.dmem ∧ (∀ e, e ≠ c.val → coreOf t e = coreOf s e) ∧
      DoneWith (coreOf t c.val) d fun _ => True) ∧
  (∀ (s : State) (c : Fin 16) (d : QDesc), Issues s c.val 3 0x60 d →
    let x := coreOf s c.val
    let q := xferOf d.w
    let n := q.len / 64
    opRangeOk 64 d.w = true → q.ssp = 0 → q.dsp = 5 → LinesOpen x d.w (q.saddr / 64) n false →
    (∀ k, smGet upZero x.basinUp k = 0) →
    Completes (.xfer c) s fun t =>
      t.fab.remote = s.fab.remote ++ (List.range n).map (fun k =>
        ⟨c.val, 3, d.commit, (ctxOf x).taggen, (ctxOf x).part, q.dcore,
          .write (q.daddr + 64 * k) (taskBytes x (q.saddr + 64 * k) 64),
          replica s c.val, s.fab.next + k, 0⟩) ∧
      DoneWith (coreOf t c.val) d (fun f => f.outst = n) ∧
      (coreOf t c.val).basin = x.basin ∧ (coreOf t c.val).cis = x.cis ∧ (coreOf t c.val).dmem = x.dmem ∧
      ∀ e, e ≠ c.val → coreOf t e = coreOf s e) ∧
  (∀ (s : State) (c : Fin 16) (d : QDesc), Issues s c.val 3 0x64 d →
    let x := coreOf s c.val
    let tx := ctxOf x
    let u := wbits d.w 11 0 17
    let blk := basinBytes x ((taskLine x + u) * 64) 128
    let boxes := field blk 0 1 == 1
    (jobOf s tx.slot).st = .running → LinesOpen x d.w u 2 false → (∀ k, smGet upZero x.basinUp k = 0) →
    (boxes = true → (jobOf s tx.slot).items < (jobOf s tx.slot).nitem) →
    Completes (.selreq c) s fun t =>
      t.sel = { s.sel with arr := s.sel.arr ++ [{ part := tx.part, slot := tx.slot, taggen := tx.taggen, core := c.val,
                                                  commit := d.commit, attempt := (jobOf s tx.slot).attempt, blk := blk,
                                                  ts := replica s c.val }] } ∧
      (jobOf t tx.slot).items = (jobOf s tx.slot).items + (if boxes then 1 else 0) ∧
      (∃ f ∈ (coreOf t c.val).run.flight, f.d = d ∧ f.selw = true ∧ f.done = false ∧ f.failed = none) ∧
      (coreOf t c.val).run.sb = (issueCycle c.val 3 d s |>.2 |> (coreOf · c.val)).run.sb ∧
      (coreOf t c.val).basin = x.basin ∧ ∀ e, e ≠ c.val → coreOf t e = coreOf s e) ∧
  (∀ (s : State) (c : Fin 16) (d : QDesc), Issues s c.val 3 0x63 d →
    let x := coreOf s c.val
    let part := (ctxOf x).part
    let src := wbits d.w 11 0 32 + wbits d.w 12 0 16 * 2 ^ 32
    let crct := wbits d.w 13 0 32 + wbits d.w 14 0 16 * 2 ^ 32
    let dst := wbits d.w 14 16 11
    let blk := (ctxOf x).basinBase + dst
    let u := semArrive c.val (issueCycle c.val 3 d s).2
    wbits d.w 12 16 12 = 1 → blk + 1 ≤ (ctxOf x).basinBound → wloadWindow x part blk 1 = true →
    ∀ (b : List Byte) (v w : State) (ls : List (List Byte)),
      iovaReadBytes (agentDe c.val) part crct 4 u = (.ok b, v) → ctxOf (coreOf v c.val) = ctxOf x →
      engRun (wloadLines ⟨c.val, 3, d.w⟩ part src (64 * dst) blk (leNat b) 0 64) v = (.ok ls, w) →
      (coreOf w c.val).run.cc.pendCommit = none →
      (crc32c ls.flatten = leNat b → ∃ f : Flight, f.d = d ∧ f.done = true ∧ f.failed = none ∧
      Completes (.wload c) s fun t =>
        (coreOf t c.val).wblk = (wblkSet blk (3, leNat b) (coreOf w c.val)).wblk ∧
        (coreOf t c.val).basin = (coreOf w c.val).basin ∧
        (coreOf t c.val).run = putFlight f (releaseReads d.commit (coreOf w c.val).run) ∧
        ∀ e, e ≠ c.val → coreOf t e = coreOf w e) ∧
      (crc32c ls.flatten ≠ leNat b → Completes (.wload c) s fun t =>
        Raised .weightCrc c.val t ∧ (coreOf t c.val).wblk = (wblkSet blk (4, leNat b) (coreOf w c.val)).wblk ∧
        (coreOf t c.val).basin = (coreOf w c.val).basin ∧ ∀ e, e ≠ c.val → coreOf t e = coreOf w e)) ∧
  (∀ (s : State) (c : Fin 16) (d : QDesc), Issues s c.val 3 0x65 d → opRangeOk 64 d.w = true →
    Completes (.ringset c) s fun t =>
      DoneWith (coreOf t c.val) d (fun _ => True) ∧ (coreOf t c.val).run.rings = (coreOf s c.val).run.rings ∧
      (coreOf t c.val).basin = (coreOf s c.val).basin ∧ (coreOf t c.val).cis = (coreOf s c.val).cis ∧
      (coreOf t c.val).dmem = (coreOf s c.val).dmem ∧ ∀ e, e ≠ c.val → coreOf t e = coreOf s e) ∧
  (∀ (s : State) (c : Fin 16) (f : Flight) (data : List Byte),
    let x := coreOf s c.val
    let q := xferOf f.d.w
    let k := 64 * f.pos
    let n := min 64 (q.len / 64 - k)
    hostFlight x = some f → isReady s = true → (ctxOf x).st = .running ∨ (ctxOf x).st = .draining → x.stop = none →
    codeAdmits (slotCode s 0x22) (ctxOf x).part = true → openTurn s 2 (ctxOf x).part (pieceWaits s) = true →
    (ownerOf (partOf s (ctxOf x).part)).isSome = true →
    q.ssp = 4 → q.dsp = 0 → q.daddr % 64 = 0 → LinesOpen x f.d.w (q.daddr / 64 + k) n true →
    Completes (.xferHostPiece c (.ok data)) s fun t =>
      BasinBecomes x (coreOf t c.val) ((taskLine x + k) * 64 + q.daddr) (64 * n) (fun b => (slice data 0 (64 * n)).getD b 0) ∧
      (coreOf t c.val).cis = x.cis ∧ (coreOf t c.val).dmem = x.dmem ∧ (∀ e, e ≠ c.val → coreOf t e = coreOf s e) ∧
      ∃ g ∈ (coreOf t c.val).run.flight, g.d = f.d ∧ g.pos = f.pos + 1 ∧ g.done = decide (q.len / 64 ≤ k + n)) ∧
  ∀ (s : State) (c : Fin 16) (f : Flight), hostFlight (coreOf s c.val) = some f →
    let x := coreOf s c.val
    (∀ data, codeAdmits (slotCode s 0x22) (ctxOf x).part = false ∨ openTurn s 2 (ctxOf x).part (pieceWaits s) = false →
      exec (.xferHostPiece c data) s = .next s) ∧
    (isReady s = true → (ctxOf x).st = .running ∨ (ctxOf x).st = .draining → x.stop = none →
      codeAdmits (slotCode s 0x22) (ctxOf x).part = true → openTurn s 2 (ctxOf x).part (pieceWaits s) = true →
      (ownerOf (partOf s (ctxOf x).part)).isSome = true → (xferOf f.d.w).ssp = 4 →
      Completes (.xferHostPiece c .err) s fun t =>
        Raised .hostXfer c.val t ∧ (coreOf t c.val).basin = x.basin ∧ (coreOf t c.val).cis = x.cis ∧
        (coreOf t c.val).dmem = x.dmem ∧ (∃ g ∈ (coreOf t c.val).run.flight, g.d = f.d ∧ g.failed.isSome ∧
        g.pos = f.pos) ∧
        ∀ e, e ≠ c.val → coreOf t e = coreOf s e)

/-- SETUP on a ring of the job whose producer is PEER, inside the partition's region on the target core, binds the
channel with as many credits as slots, advances the 4-bit setup count and empties the ring; a target core without a
region raises REMOTE_DENY. SEND with a credit reads one slot's lines, sends one landing write per line and takes one
credit. A landing write of the live setup stores its line at its slot, the last one marking the slot full; one whose
job is gone, or of another setup, stores nothing and is counted, as is a credit of another setup. A credit of the live
setup adds one, never past the slot count. A landing write or credit older than 1 ms is dropped. (R57, R190, R268,
R269, R270, R271) -/
def Obligations.ForwardChannels : Prop :=
  (∀ (s : State) (c : Fin 16) (d : QDesc) (n : Nat) (g : Ring), Issues s c.val 4 0x80 d →
    let tx := ctxOf (coreOf s c.val)
    let ch := wbits d.w 11 0 3
    let tc := wbits d.w 11 3 4
    let tr := wbits d.w 11 7 4
    let rg := prBasin (recOf s tx.part) tc
    let q := ((vget (coreOf s c.val).run.fwd ch {}).setup + 1) % 16
    (rg.2 ≤ rg.1 → Completes (.setup c) s fun t => Raised .remoteDeny c.val t ∧ t.fab.landing = s.fab.landing ∧
      (coreOf t c.val).run.fwd = (coreOf s c.val).run.fwd ∧
      ∀ e, e ≠ c.val → coreOf t e = coreOf s e) ∧
    (rg.1 < rg.2 → ctxByTag s tc tx.part tx.taggen = some n → vget (ctxRunOf s tc n).rings tr none = some g → g.prod = 4 →
      ringInRegion s tx.part tc ((tctx (coreOf s tc) n).basinBase * 64) g = true →
      Completes (.setup c) s fun t =>
        vget (coreOf t c.val).run.fwd ch {} = ⟨true, tc, tr, q, g.full.length, g.full.length, g.slotl, 0⟩ ∧
        (∀ i, i ≠ ch → vget (coreOf t c.val).run.fwd i {} = vget (coreOf s c.val).run.fwd i {}) ∧
        vget (ctxRunOf t tc n).rings tr none =
          some { g with full := List.replicate g.full.length false, wr := 0, rd := 0, feeder := some (c.val, ch, q) } ∧
        (∀ i, i ≠ tr → vget (ctxRunOf t tc n).rings i none = vget (ctxRunOf s tc n).rings i none) ∧
        DoneWith (coreOf t c.val) d (fun _ => True) ∧
        (∀ e, e ≠ c.val → e ≠ tc → coreOf t e = coreOf s e) ∧ ∀ e, (coreOf t e).basin = (coreOf s e).basin)) ∧
  (∀ (s : State) (c : Fin 16) (d : QDesc), Issues s c.val 4 0x81 d →
    let x := coreOf s c.val
    let ch := wbits d.w 11 0 3
    let u := wbits d.w 12 0 17
    let w := vget x.run.fwd ch {}
    LinesOpen x d.w u w.slotl false → (∀ k, smGet upZero x.basinUp k = 0) →
    Completes (.send c) s fun t =>
      t.fab.landing = s.fab.landing ++ (List.range w.slotl).map (fun k =>
        ⟨c.val, d.commit, ch, (ctxOf x).taggen, (ctxOf x).part, w.setup, w.tcore, w.tring, w.next, k,
          lineBytes x (u + k), k + 1 == w.slotl, replica s c.val, s.fab.next + k⟩) ∧
      t.fab.credit = s.fab.credit ∧ 0 < w.credits ∧
      vget (coreOf t c.val).run.fwd ch {} = { w with credits := w.credits - 1, next := (w.next + 1) % w.slots } ∧
      DoneWith (coreOf t c.val) d (fun f => f.outst = w.slotl) ∧
      (coreOf t c.val).basin = x.basin ∧ ∀ e, e ≠ c.val → coreOf t e = coreOf s e) ∧
  (∀ (s : State) (l : Landing) (rest : List Landing), s.fab.landing = l :: rest → isReady s = true → l.src < 16 →
  l.dst < 16 →
    (∀ r ∈ s.fab.remote, remBasin r = true → r.src = l.src → r.dst = l.dst → l.ord ≤ r.ord) →
    replica s l.dst ≤ l.ts + 1000000 →
    (ctxByTag s l.dst l.part l.taggen = none → Completes .peerLandingWrite s fun t =>
      t.fab.landing = rest ∧ t.kc = s.kc ∧
      (regGet t (kreg l.dst 0x2864)).toNat = min ((regGet s (kreg l.dst 0x2864)).toNat + 1) (2 ^ 32 - 1)) ∧
    (∀ n g, ctxByTag s l.dst l.part l.taggen = some n → vget (ctxRunOf s l.dst n).rings l.ring none = some g →
      g.feeder ≠ some (l.src, l.ch, l.setup) → Completes .peerLandingWrite s fun t =>
      t.fab.landing = rest ∧ t.kc = s.kc ∧
      (regGet t (kreg l.dst 0x2864)).toNat = min ((regGet s (kreg l.dst 0x2864)).toNat + 1) (2 ^ 32 - 1)) ∧
    (∀ n g f, ctxByTag s l.dst l.part l.taggen = some n → vget (ctxRunOf s l.dst n).rings l.ring none = some g →
      g.feeder = some (l.src, l.ch, l.setup) → flightOf s l.src l.commit l.taggen l.part = some f →
      let line := (tctx (coreOf s l.dst) n).basinBase * 64 + g.base + l.slot * g.slotl + l.k
      let r := prBasin (recOf s l.part) l.dst
      r.1 * 64 ≤ line → line < r.2 * 64 → winOf (coreOf s l.dst) (line / 64) = none →
      Completes .peerLandingWrite s fun t =>
        t.fab.landing = rest ∧ t.fab.credit = s.fab.credit ∧
        BasinBecomes (coreOf s l.dst) (coreOf t l.dst) (line * 64) l.line.length (fun b => l.line.getD b 0) ∧
        vget (ctxRunOf t l.dst n).rings l.ring none = some { g with full := if l.last then g.full.set l.slot true else g.full } ∧
        (∃ h ∈ (coreOf t l.src).run.flight, h = { f with outst := f.outst - 1 }) ∧
        ∀ e, e ≠ l.dst → e ≠ l.src → coreOf t e = coreOf s e)) ∧
  (∀ (s : State) (l : Landing), s.fab.landing = [l] →
    (∃ r ∈ s.fab.remote, remBasin r = true ∧ r.src = l.src ∧ r.dst = l.dst ∧ r.ord < l.ord) →
    exec .peerLandingWrite s = .next s) ∧
  (∀ (s : State) (l : Landing) (rest : List Landing), s.fab.landing = l :: rest → isReady s = true →
    (∀ r ∈ s.fab.remote, remBasin r = true → r.src = l.src → r.dst = l.dst → l.ord ≤ r.ord) →
    l.ts + 1000000 < replica s l.dst →
    Completes .peerLandingWrite s fun t => t = { s with fab := { s.fab with landing := rest } }) ∧
  (∀ (s : State) (k : Credit) (rest : List Credit), s.fab.credit = k :: rest → isReady s = true →
  k.ts + 1000000 < replica s k.dst →
    Completes .creditReturn s fun t => t = { s with fab := { s.fab with credit := rest } }) ∧
  ∀ (s : State) (k : Credit) (rest : List Credit) (n : Nat), s.fab.credit = k :: rest → isReady s = true → k.dst < 16 →
    replica s k.dst ≤ k.ts + 1000000 → ctxByTag s k.dst k.part k.taggen = some n →
    let w := vget (ctxRunOf s k.dst n).fwd k.ch {}
    Completes .creditReturn s fun t =>
      t.fab.credit = rest ∧ t.fab.landing = s.fab.landing ∧ (∀ e, e ≠ k.dst → coreOf t e = coreOf s e) ∧
      (w.valid = true → w.setup = k.setup →
        vget (ctxRunOf t k.dst n).fwd k.ch {} = { w with credits := min w.slots (w.credits + 1) } ∧ t.regs = s.regs) ∧
      (w.setup ≠ k.setup → t.kc = s.kc ∧
        (regGet t (kreg k.dst 0x2864)).toNat = min ((regGet s (kreg k.dst 0x2864)).toNat + 1) (2 ^ 32 - 1))

/-- In a running context of a job that runs, with no stop asked and the last message of the core taken by HST, where no
descriptor of the engine has work to resume, the engine's oldest descriptor with every access made leaves the engine;
all its scoreboard entries are released; its RETIRE sets are
added to their semaphores and no other semaphore changes; its GE value and reduction registers are posted; its job's
watchdog count returns to 0; a RINGSET's ring stands defined and empty; a visible descriptor's item is recorded. With
no such descriptor, or while HST cannot take the item's message, nothing changes. (R52, R158, R169, R256, R302, R313,
R314, R377, R435) -/
def Obligations.DescriptorsRetire : Prop :=
  (∀ (s : State) (c : Fin 16) (eng : Fin 5) (f : Flight),
    let x := coreOf s c.val
    let tx := ctxOf x
    let sets := setsOf f.d.w true
    isReady s = true → x.active.isSome = true → tx.st = .running → x.stop = none → (jobOf s tx.slot).st = .running →
    (∀ g ∈ x.run.flight, g.eng = eng.val → resumes x g = false) → retirable x eng.val = some f →
    x.run.cc.pendCommit = none →
    (haltOf s c.val).stopWait = false → crossed s islHst (stampOf s c.val 0) = true →
    Completes (.descriptorRetire c eng) s fun t =>
      let y := coreOf t c.val
      let ts := stampOf s c.val 0
      f ∈ x.run.flight ∧ f.eng = eng.val ∧ y.run.flight = x.run.flight.filter (·.d.commit != f.d.commit) ∧
      y.run.sb = x.run.sb.filter (·.commit != f.d.commit) ∧ y.run.runnels = x.run.runnels ∧
      y.run.cc.ge = (match f.geVal with
        | some v => BitVec.ofNat 32 (min v 0xFFFFFFFF)
        | none => x.run.cc.ge) ∧
      (f.reds = [] → y.run.cc.red = x.run.cc.red) ∧ (∀ i v, f.reds = [(i, v)] → i < 8 → vget y.run.cc.red i 0 = v) ∧
      y.run.cc.leader = x.run.cc.leader ∧
      (∀ q, (sets.all fun e => e.1 != q) → semGet t c.val q = semGet s c.val q) ∧
      (∀ q n, sets = [(q, n)] → (q < 32 ∨ (64 ≤ q ∧ q < 128)) → semOwned s tx.part q = true →
      semGet s c.val q + n ≤ 65535 →
        semGet t c.val q = semGet s c.val q + n) ∧
      (jobOf t tx.slot).wd = 0 ∧ (jobOf t tx.slot).lastRetire = ts ∧
      (bitOf (f.d.w.getD 0 0).toNat 11 = true → (jobOf s tx.slot).silent = false →
        (jobOf t tx.slot).itemsAll = (jobOf s tx.slot).itemsAll + 1) ∧
      (bitOf (f.d.w.getD 0 0).toNat 11 = false → (jobOf t tx.slot).itemsAll = (jobOf s tx.slot).itemsAll) ∧
      (wbits f.d.w 0 0 8 ≠ 0x65 → y.run.rings = x.run.rings) ∧
      (wbits f.d.w 0 0 8 = 0x65 → vget y.run.rings (wbits f.d.w 12 8 4) none =
        some { base := wbits f.d.w 11 0 17, slotl := wbits f.d.w 11 17 11, prod := wbits f.d.w 12 12 3,
               cons := wbits f.d.w 12 15 3, checked := wbits f.d.w 12 18 1 = 1,
               full := List.replicate (wbits f.d.w 12 0 8 + 1) false }) ∧
      y.basin = x.basin ∧ y.cis = x.cis ∧ y.dmem = x.dmem ∧ (∀ e, e ≠ c.val → coreOf t e = coreOf s e) ∧ t.fab = s.fab) ∧
  (∀ (s : State) (c : Fin 16) (eng : Fin 5), crossed s islHst (stampOf s c.val 0) = false →
    exec (.descriptorRetire c eng) s = .next s) ∧
  ∀ (s : State) (c : Fin 16) (eng : Fin 5), (∀ g ∈ (coreOf s c.val).run.flight, g.eng = eng.val →
  resumes (coreOf s c.val) g = false) →
    retirable (coreOf s c.val) eng.val = none → exec (.descriptorRetire c eng) s = .next s

/-- On lines and entries that are declared, inside the task, outside every weight window, in no ring and without error,
each
operation of the VE and the GE stands done with its result: RUN of one word with one ALU operation, of no conversion, puts
the operation of each lane into its destination register and changes no other; RESCALE multiplies each entry of its
rows by
its row's factor. HASH_BUILD zeroes its hash lines and puts a single site under its key at its home slot; OUTSITES of one
site on the strided grid adds the new site to list, hash and block; KMAP of one output and one offset whose key stands in
the hash writes the pair and the table; SORT of one pair writes work list, chunk and pair; GATHER of one row of a table in
direct mode copies the row and marks the hit; SCATTER of one row on its own core accumulates it; MASK of one row puts its
bit. An insertion into a site hash that is new puts the site under its key, so that a search for that key then gives that
site; an insertion of a key that a search finds changes no byte and reports a duplicate; an insertion whose four lines
hold
neither raises SITEHASH_FULL and changes no byte. (R229, R232, R233, R236, R237, R239, R245, R252, R265, R273, R311) -/
def Obligations.VectorAndGatherResults : Prop :=
  (∀ (s : State) (c : Fin 16) (d : QDesc) (o : VeAluOp), Issues s c.val 1 0x20 d →
    let x := coreOf s c.val
    let entry := wbits d.w 0 12 12
    let tbl := wbits d.w 13 0 17
    let lanes := (List.range 64).map fun l => veAlu1 o.op (o.src.map fun z => (vreg x.run z.reg).getD l 0)
    wbits d.w 11 0 28 = 0 → LinesOpen x d.w tbl 1 false → NoErrors x →
    (∀ i < 6, veStrmBad x.run i (veStrmOf (taskBytes x (64 * tbl) 48) i) = false) →
    Config.veDecode (smGet (fun _ => []) x.ukern entry) =
      { alu0 := some o, alu1 := none, sf := none, ld := none, st := none, red := none } →
    (∀ f st ns, o.op ≠ .cvt f st ns) → (∀ z ∈ o.src, z.epoch = false) →
    Completes (.run c) s fun t =>
      let r := (coreOf t c.val).run
      DoneWith (coreOf t c.val) d (fun f => f.reds = []) ∧
      vreg r o.dst = patch (vreg x.run o.dst) 0 (if o.bf16 then lanes.map bf16Round else lanes) ∧
      (∀ i, i % 64 ≠ o.dst % 64 → vreg r i = vreg x.run i) ∧ r.gens = seedGens (d.w.getD 12 0) ∧
      (coreOf t c.val).basin = x.basin ∧ (coreOf t c.val).cis = x.cis ∧ ∀ e, e ≠ c.val → coreOf t e = coreOf s e) ∧
  (∀ (s : State) (c : Fin 16) (d : QDesc), Issues s c.val 1 0x21 d →
    let x := coreOf s c.val
    let e0 := 4 * wbits d.w 11 0 16
    let stride := 4 * wbits d.w 11 16 8
    let chn := wbits d.w 12 0 17
    let m := wbits d.w 12 17 13
    let n := wbits d.w 13 17 7
    m ≤ 4096 → n ≤ 64 → n ≤ stride → LinesOpen x d.w chn ((16 * m + 63) / 64) false → NoErrors x →
    (∀ i < m, EntriesOpen x d.w (e0 + i * stride) n true) →
    Completes (.rescale c) s fun t =>
      let y := coreOf t c.val
      DoneWith y d (fun _ => True) ∧
      (∀ i < m, ∀ j < n, smGet wordZero y.cis (taskEntry x (e0 + i * stride + j)) = BitVec.ofNat 32
        (mul32 (smGet wordZero x.cis (taskEntry x (e0 + i * stride + j))).toNat (field (taskBytes x (64 * chn + 16 * i) 16) 8 4))) ∧
      (∀ k, (∀ i < m, k < taskEntry x (e0 + i * stride) ∨ taskEntry x (e0 + i * stride) + n ≤ k) →
        smGet wordZero y.cis k = smGet wordZero x.cis k) ∧
      y.basin = x.basin ∧ ∀ e, e ≠ c.val → coreOf t e = coreOf s e) ∧
  (∀ (s : State) (c : Fin 16) (d : QDesc), Issues s c.val 2 0x40 d →
    let x := coreOf s c.val
    let b := lineBytes x (wbits d.w 12 0 17)
    let list := field b 0 4 % 131072 * 64
    let n := field b 4 4 % 1048576
    let hash := field b 8 4 % 131072
    let lines := field b 12 4
    let key := leNat (taskBytes x list 8) % 2 ^ 44
    let home := hash + hashHome key lines % lines
    n ≤ 1 → 1 ≤ lines → lines ≤ 65536 → LinesOpen x d.w (wbits d.w 12 0 17) 1 false → LinesOpen x d.w hash lines true →
    LinesOpen x d.w (list / 64) 1 false → (list / 64 < hash ∨ hash + lines ≤ list / 64) → NoErrors x →
    Completes (.hashBuild c) s fun t =>
      DoneWith (coreOf t c.val) d (fun f => f.geVal = some 0) ∧
      BasinHolds x (coreOf t c.val)
        ((if n = 1 then [(64 * home, leBytes 8 (key + 2 ^ 44))] else []) ++ [(64 * hash, zeros (64 * lines))]) ∧
      (coreOf t c.val).cis = x.cis ∧ ∀ e, e ≠ c.val → coreOf t e = coreOf s e) ∧
  (∀ (s : State) (c : Fin 16) (d : QDesc), Issues s c.val 2 0x41 d →
    let x := coreOf s c.val
    let g := geomOf (wbits d.w 11 0 11)
    let ib := lineBytes x (wbits d.w 12 0 17)
    let out := wbits d.w 13 0 17
    let ob := lineBytes x out
    let ilist := field ib 0 4 % 131072
    let olist := field ob 0 4 % 131072
    let lines := field ob 12 4
    let k := leNat (taskBytes x (64 * ilist) 8) % 2 ^ 48
    let q := coordOf k
    let key := coordKey ⟨q.x / g.sx, q.y / g.sy, q.z / g.sz⟩
    let home := field ob 8 4 % 131072 + hashHome key lines % lines
    g.mode = 2 → field ib 4 4 % 1048576 = 1 → 1 ≤ lines → lines ≤ 65536 → 1 ≤ field ob 16 4 % 1048576 →
    LinesOpen x d.w (wbits d.w 12 0 17) 1 false → LinesOpen x d.w out 1 true → LinesOpen x d.w ilist 1 false →
    LinesOpen x d.w olist 1 true → LinesOpen x d.w home 1 true → lineBytes x home = zeros 64 →
    home ≠ olist → home ≠ out → olist ≠ out → NoErrors x →
    Completes (.outsites c) s fun t =>
      DoneWith (coreOf t c.val) d (fun f => f.geVal = some 1) ∧
      BasinHolds x (coreOf t c.val) [(64 * home, leBytes 8 (key + 2 ^ 44)),
        (64 * olist, leBytes 8 (key + bits k 44 4 * 2 ^ 44)), (64 * out + 4, leBytes 4 1)] ∧
      (coreOf t c.val).cis = x.cis ∧ ∀ e, e ≠ c.val → coreOf t e = coreOf s e) ∧
  (∀ (s : State) (c : Fin 16) (d : QDesc) (v : Nat), Issues s c.val 2 0x42 d →
    let x := coreOf s c.val
    let ib := lineBytes x (wbits d.w 12 0 17)
    let ob := lineBytes x (wbits d.w 13 0 17)
    let obeg := wbits d.w 0 12 20
    let off := field ob 0 4 % 131072 * 64 + 8 * obeg
    let lines := field ib 12 4
    let key := leNat (taskBytes x off 8) % 2 ^ 44
    let home := field ib 8 4 % 131072 + hashHome key lines % lines
    wbits d.w 11 0 8 = 0 → wbits d.w 11 11 17 = 1 → 1 ≤ lines → lines ≤ 65536 →
    LinesOpen x d.w (wbits d.w 12 0 17) 1 false → LinesOpen x d.w (wbits d.w 13 0 17) 1 false →
    LinesOpen x d.w (off / 64) 1 false → LinesOpen x d.w home 1 false →
    scanSlots 44 key home (lineBytes x home) (List.range 8) = some (.found v) →
    LinesOpen x d.w (wbits d.w 14 0 17) 1 true → LinesOpen x d.w (wbits d.w 15 0 17) 1 true →
    wbits d.w 14 0 17 ≠ wbits d.w 15 0 17 → NoErrors x →
    Completes (.kmap c) s fun t =>
      DoneWith (coreOf t c.val) d (fun f => f.geVal = some 1) ∧
      BasinHolds x (coreOf t c.val) [(64 * wbits d.w 14 0 17, leBytes 4 v ++ leBytes 4 obeg),
        (64 * wbits d.w 15 0 17, leBytes 4 1 ++ leBytes 4 0)] ∧
      (coreOf t c.val).kmc = [(key, some v)] ∧ (coreOf t c.val).cis = x.cis ∧ ∀ e, e ≠ c.val → coreOf t e = coreOf s e) ∧
  (∀ (s : State) (c : Fin 16) (d : QDesc), Issues s c.val 2 0x43 d →
    let x := coreOf s c.val
    let e := taskBytes x (64 * wbits d.w 12 0 17) 8
    let off := 64 * wbits d.w 13 0 17 + 8 * field e 4 4
    let p := taskBytes x off 8
    let wl := wbits d.w 14 0 17
    let sp := wbits d.w 15 0 17
    wbits d.w 12 17 7 = 1 → wbits d.w 12 24 1 = 0 → wbits d.w 13 17 11 = 0 → field e 0 4 = 1 → 1 ≤ wbits d.w 11 16 16 →
    (wbits d.w 11 0 16 = 0 ∨ 64 ≤ wbits d.w 11 0 16) →
    LinesOpen x d.w (wbits d.w 12 0 17) 1 false → LinesOpen x d.w (off / 64) 1 false →
    LinesOpen x d.w wl 1 true → LinesOpen x d.w sp 1 true → wl ≠ sp → NoErrors x →
    Completes (.sort c) s fun t =>
      DoneWith (coreOf t c.val) d (fun f => f.geVal = some 1) ∧
      BasinHolds x (coreOf t c.val) [(64 * wl, leBytes 4 1 ++ leBytes 4 1 ++ zeros 8),
        (64 * wl + 16, leBytes 4 0 ++ leBytes 2 1 ++ zeros 4 ++ leBytes 2 0xFFFF ++ leBytes 4 (field p 4 4)), (64 * sp, p)] ∧
      (coreOf t c.val).cis = x.cis ∧ ∀ e, e ≠ c.val → coreOf t e = coreOf s e) ∧
  (∀ (s : State) (c : Fin 16) (d : QDesc), Issues s c.val 2 0x44 d →
    let x := coreOf s c.val
    let tbl := wbits d.w 13 0 17
    let h := tblHeadOf (lineBytes x tbl)
    let k := leNat (taskBytes x (64 * wbits d.w 12 0 17) 4)
    let row := tbl + (h.rowsOff + k * h.rowb) / 64
    let dst := wbits d.w 15 0 17
    let hit := wbits d.w 12 17 15 * 4
    wbits d.w 0 12 17 = 1 → wbits d.w 0 29 2 = 2 → tblHeadOk (lineBytes x tbl) = true → h.mode = 0 → k < h.nrow →
    LinesOpen x d.w tbl 1 false → LinesOpen x d.w (wbits d.w 12 0 17) 1 false → LinesOpen x d.w row (h.rowb / 64) false →
    LinesOpen x d.w dst (h.rowb / 64) true → LinesOpen x d.w hit 1 true → (hit < dst ∨ dst + h.rowb / 64 ≤ hit) →
    NoErrors x →
    Completes (.gather c) s fun t =>
      DoneWith (coreOf t c.val) d (fun f => f.geVal = some 1) ∧
      BasinHolds x (coreOf t c.val) [(64 * dst, taskBytes x (64 * row) h.rowb), (64 * hit, leBytes 8 1)] ∧
      (coreOf t c.val).cis = x.cis ∧ ∀ e, e ≠ c.val → coreOf t e = coreOf s e) ∧
  (∀ (s : State) (c : Fin 16) (d : QDesc), Issues s c.val 2 0x45 d →
    let x := coreOf s c.val
    let n := wbits d.w 11 24 7
    let off := 64 * wbits d.w 12 0 17 + 8 * wbits d.w 11 0 24
    let o := (field (taskBytes x off 8) 4 4 + 2 ^ 32 - wbits d.w 0 12 20) % 2 ^ 32
    let src := 4 * wbits d.w 13 0 16
    let dst := 4 * (wbits d.w 14 0 16 + o * wbits d.w 14 16 8)
    n ≤ 64 → wbits d.w 12 17 11 = 0 → wbits d.w 12 28 4 = c.val → wbits d.w 15 0 17 = 1 →
    LinesOpen x d.w (off / 64) 1 false →
    EntriesOpen x d.w src n false → EntriesOpen x d.w dst n true → NoErrors x →
    Completes (.scatter c) s fun t =>
      let y := coreOf t c.val
      DoneWith y d (fun f => f.outst = 0) ∧
      (∀ j < n, smGet wordZero y.cis (taskEntry x (dst + j)) = accWord (wbits d.w 11 31 1 = 1)
        (smGet wordZero x.cis (taskEntry x (dst + j))) (smGet wordZero x.cis (taskEntry x (src + j)))) ∧
      (∀ k, k < taskEntry x dst ∨ taskEntry x dst + n ≤ k → smGet wordZero y.cis k = smGet wordZero x.cis k) ∧
      y.basin = x.basin ∧ t.fab.remote = s.fab.remote ∧ ∀ e, e ≠ c.val → coreOf t e = coreOf s e) ∧
  (∀ (s : State) (c : Fin 16) (d : QDesc), Issues s c.val 2 0x46 d →
    let x := coreOf s c.val
    let slot := (ctxOf x).slot
    let n := wbits d.w 11 24 7
    let src := 4 * wbits d.w 11 0 16
    let base := wbits d.w 13 0 17
    let old := taskBytes x (64 * base) 1
    let one := decide ((d.w.getD 12 0).toNat ≤
      maskScore ((List.range n).map fun j => smGet wordZero x.cis (taskEntry x (src + j))))
    n ≤ 64 → wbits d.w 0 12 20 = 0 → wbits d.w 11 31 1 = 0 → wbits d.w 13 17 13 = 1 → LinesOpen x d.w base 1 true →
    EntriesOpen x d.w src n false → NoErrors x →
    Completes (.mask c) s fun t =>
      DoneWith (coreOf t c.val) d (fun f => f.geVal = some (if one then 1 else 0)) ∧
      BasinHolds x (coreOf t c.val) [(64 * base, leBytes 1 (putBit (leNat old) 0 one) ++ zeros 7)] ∧
      (jobOf t slot).predicted = ((jobOf s slot).predicted || !one) ∧
      (coreOf t c.val).cis = x.cis ∧ ∀ e, e ≠ c.val → coreOf t e = coreOf s e) ∧
  ∀ (a : Acc) (b : SiteBlock) (key site idx : Nat) (s : State), a.c < 16 → key < 2 ^ 44 → site + 1 < 2 ^ 20 →
  0 < b.lines →
    (∀ i < b.lines, LinesOpen (coreOf s a.c) a.w (b.hash + i) 1 true) → (∀ k, smGet upZero (coreOf s a.c).basinUp k = 0) →
    (∀ t, engRun (hashInsert a b key site idx) s = (.ok true, t) →
      (∃ u, engRun (hashFind a 44 b.hash b.lines key) t = (.ok (.found site), u)) ∧
      (∀ l, (l < taskLine (coreOf s a.c) + b.hash ∨ taskLine (coreOf s a.c) + b.hash + b.lines ≤ l) →
        basinBytes (coreOf t a.c) (l * 64) 64 = basinBytes (coreOf s a.c) (l * 64) 64)) ∧
    (∀ v u, engRun (hashFind a 44 b.hash b.lines key) s = (.ok (.found v), u) →
      ∃ t, engRun (hashInsert a b key site idx) s = (.ok false, t) ∧ (coreOf t a.c).basin = (coreOf s a.c).basin) ∧
    ∀ u, engRun (hashFind a 44 b.hash b.lines key) s = (.ok .full, u) →
      ∃ t, engRun (hashInsert a b key site idx) s = (.error (.fault .sitehashFull idx), t) ∧
        (coreOf t a.c).basin = (coreOf s a.c).basin

/-- A request that has crossed to SEL, whose fields pass R278 and whose bound fits a window, joins its partition's
queue at
the end; else it is not queued and SEL_SHAPE or SEL_WINDOW is raised. A TOPK or KNN request that may start leaves its
queue
and, its work done, has its 16-byte status record written and its SELREQ done; where the work meets a fault, that fault is
raised by SEL and the descriptor failed. One with no source element, and with no query for KNN, completes with a status
record of zero counts. Without a request that may start nothing changes. The selection takes the first k
candidates by descending key, then ascending index, and TOPK writes their entries in that order. (R278, R279, R281,
R282, R283, R284, R289, R299) -/
def Obligations.SelectionRequests : Prop :=
  (∀ (s : State) (q : SelReq) (rest : List SelReq), s.sel.arr = q :: rest → isReady s = true → q.part < 8 →
    crossed s islSel q.ts = true → replica s islSel ≤ q.ts + 1000000 →
    (selShapeOk q.blk = false → Completes .selRequestArrival s fun t =>
      Raised .selShape islSel t ∧ t.sel = { s.sel with arr := rest }) ∧
    (selShapeOk q.blk = true → selTooLong s q.part (selBound (selOf q.blk)) = true →
    Completes .selRequestArrival s fun t =>
      Raised .selWindow islSel t ∧ t.sel = { s.sel with arr := rest }) ∧
    (selShapeOk q.blk = true → selTooLong s q.part (selBound (selOf q.blk)) = false →
    Completes .selRequestArrival s fun t =>
      t.sel.arr = rest ∧ vget t.sel.queue q.part [] = vget s.sel.queue q.part [] ++ [q] ∧
      (∀ p, p ≠ q.part → vget t.sel.queue p [] = vget s.sel.queue p []) ∧
      { t with sel := s.sel, tb := s.tb } = s)) ∧
  (let Runs (cmd : Fin 8 → Instr) (kind : Nat) (work : SelReq → EngM (Nat × Nat × Nat)) : Prop :=
    ∀ (s : State) (p : Fin 8) (q : SelReq), selHead s p.val kind = some q → q.part = p.val →
    let c := selCyc (openServe 1 p.val (selPop p.val s))
    (∀ a b d u v, engRun (work q) c.2 = (.ok (a, b, d), u) →
      engRun (selWrite q q.core (selOf q.blk).statOff (statusRec a b d c.1)) u = (.ok (), v) →
      Completes (cmd p) s fun t =>
        q :: vget t.sel.queue p.val [] = vget s.sel.queue p.val [] ∧ t.sel.done = none ∧
        (∀ n, ctxByTag s q.core q.part q.taggen = some n → (ctxRunOf t q.core n).flight =
          (ctxRunOf s q.core n).flight.map fun g =>
            if g.d.commit == q.commit && g.selw then { g with done := true, selw := false } else g) ∧
        ∀ e, (coreOf t e).basin = (coreOf v e).basin ∧ (coreOf t e).cis = (coreOf s e).cis) ∧
    (∀ code i u, engRun (work q) c.2 = (.error (.fault code i), u) → Completes (cmd p) s fun t =>
        Raised code islSel t ∧ q :: vget t.sel.queue p.val [] = vget s.sel.queue p.val [] ∧ t.sel.done = none ∧
        (∀ n, ctxByTag s q.core q.part q.taggen = some n → (ctxRunOf t q.core n).flight =
          (ctxRunOf s q.core n).flight.map fun g =>
            if g.d.commit == q.commit && g.selw then
              { g with failed := some (code.num, stampOf u islSel 0), failIsl := islSel, failOrd := u.saf.raised, selw := false }
            else g) ∧
        ∀ e, (coreOf t e).basin = (coreOf u e).basin) ∧
    ((selOf q.blk).total = 0 → (kind = 2 → (selOf q.blk).nq = 0) → s.sel.up = 0 → StatusOpen s q →
      Completes (cmd p) s fun t =>
        q :: vget t.sel.queue p.val [] = vget s.sel.queue p.val [] ∧
        BasinBecomes (coreOf s q.core) (coreOf t q.core) (selBase s q q.core + (selOf q.blk).statOff) 16
          (fun b => (statusRec 0 0 0 c.1).getD b 0) ∧
        (∀ n, ctxByTag s q.core q.part q.taggen = some n → (ctxRunOf t q.core n).flight =
          (ctxRunOf s q.core n).flight.map fun g =>
            if g.d.commit == q.commit && g.selw then { g with done := true, selw := false } else g) ∧
        ∀ e, e ≠ q.core → coreOf t e = coreOf s e)
  Runs .selTopk 0 (fun q => topkWork q (selOf q.blk)) ∧ Runs .selKnn 2 (fun q => knnWork q (selOf q.blk))) ∧
  (∀ (s : State) (p : Fin 8), (selHead s p.val 0 = none → exec (.selTopk p) s = .next s) ∧
    (selHead s p.val 1 = none → exec (.selBoxes p) s = .next s) ∧ (selHead s p.val 2 = none →
    exec (.selKnn p) s = .next s)) ∧
  (∀ (q : SelReq) (f : SelF) (s t u : State) (x : Nat × Nat × Nat) (cs : List Cand) (nover : Nat), q.core < 16 →
    engRun (selLoad q f) s = (.ok (cs, nover), u) → engRun (topkWork q f) s = (.ok x, t) →
    x = (cs.length, (selectTop f.k cs).length, nover) ∧
    ((selectTop f.k cs).length ≤ 4096 →
      basinBytes (coreOf t q.core) (selBase s q q.core + f.outOff) (8 * (selectTop f.k cs).length) =
        (selectTop f.k cs).flatMap (candEntry f.swallow))) ∧
  ∀ (k : Nat) (cs : List Cand), (cs.map (·.idx)).Nodup →
    let sel := selectTop k cs
    sel.length = min k cs.length ∧ sel.Pairwise (fun a b => candBefore a b = true) ∧ (∀ c ∈ sel, c ∈ cs) ∧
    ∀ c ∈ cs, c ∉ sel → ∀ d ∈ sel, candBefore d c = true

/-- A BOXES request that may start with room in the result ring runs: its box records go to the host behind its
header's place, after a pad header where it does not fit before the ring's end, and SEL keeps header and status; one with
no source element completes with no box; without room it stays at the head and its wait begins, with nothing written.
The hand-off frees SEL and queues the
result. The commit, once the result has crossed to HST, writes the header's bytes 4 to 127, then bytes 0 to 3, moves the
result tail behind the boxes, holds the stamp of the commit in the header and counts the result; under PWRFAIL nothing is
committed, and a result for a port that was reset or of a job that is gone is dropped. After 100 ms without room the
request is discarded and RESULT_NOSPACE raised,
before that nothing happens. (R280, R291, R297, R298, R381, R382, R385) -/
def Obligations.ResultsReachTheHost : Prop :=
  (∀ (s : State) (p : Fin 8) (q : SelReq) (h : Nat) (pl : Nat × Bool), selHead s p.val 1 = some q → q.part = p.val →
    ownerOf (partOf s p.val) = some h → resPlace s p.val (resAlloc (selOf q.blk).maxBox) = some pl →
    let g := ringsOf s p.val
    let s1 := if pl.2 then resWrite p.val (resTail s p.val) padHeader s else s
    let c := selCyc (openServe 1 p.val (selPop p.val s1))
    let pad : List OutEvent := if pl.2 then [.hostWrite h (g.rqBase + resTail s p.val % 2 ^ g.rqLog) padHeader] else []
    (∀ hd boxes nc nover u, engRun (boxesWork q (selOf q.blk)) c.2 = (.ok (hd, boxes, nc, nover), u) →
      Completes (.selBoxes p) s fun t =>
        q :: vget t.sel.queue p.val [] = vget s.sel.queue p.val [] ∧
        t.sel.done = some ⟨q, hd, pl.1, boxes.length, statusRec nc boxes.length nover c.1, 0⟩ ∧
        t.out = s.out ++ pad
          ++ (if boxes = [] then [] else [.hostWrite h (g.rqBase + (pl.1 + 128) % 2 ^ g.rqLog) boxes.flatten]) ∧
        t.parts = s.parts ∧ ∀ e, (coreOf t e).basin = (coreOf s e).basin) ∧
    ((selOf q.blk).total = 0 → s.sel.up = 0 → q.core < 16 → SelReadable s q q.core (boxReqOf q.blk).clsOff 128 →
      SelReadable s q q.core (boxReqOf q.blk).smapOff 64 →
      Completes (.selBoxes p) s fun t =>
        q :: vget t.sel.queue p.val [] = vget s.sel.queue p.val [] ∧ t.out = s.out ++ pad ∧ t.kc = s.kc ∧
        ∃ hd, t.sel.done = some ⟨q, hd, pl.1, 0, statusRec 0 0 0 c.1, 0⟩ ∧ hd.length = 128 ∧ field hd 0x0C 2 = 0)) ∧
  (∀ (s : State) (p : Fin 8) (q : SelReq), selHead s p.val 1 = some q → q.part = p.val →
    resPlace s p.val (resAlloc (selOf q.blk).maxBox) = none →
    Completes (.selBoxes p) s fun t =>
      vget t.sel.queue p.val [] =
        (if q.waits.isSome then q else { q with waits := some s.tb.master }) :: (vget s.sel.queue p.val []).drop 1 ∧
      (∀ e, e ≠ p.val → vget t.sel.queue e [] = vget s.sel.queue e []) ∧ { t with sel := s.sel } = s) ∧
  (∀ (s : State) (r : SelRes), s.sel.done = some r → isReady s = true →
    let ts := stampOf s islSel 0
    Completes .resultHandoff s fun t =>
      t = { keepStamp islSel ts s with sel := { s.sel with done := none, handed := s.sel.handed ++ [{ r with ts := ts }] } }) ∧
  (∀ (s : State) (r : SelRes) (rest : List SelRes) (h : Nat), s.sel.handed = r :: rest → isReady s = true →
  s.saf.pwrFail = false →
    crossed s islHst r.ts = true → tagGen (jobOf s r.req.slot) = r.req.taggen → (jobOf s r.req.slot).silent = false →
    r.req.part < 8 → ownerOf (partOf s r.req.part) = some h → r.header.length = 128 →
    let g := ringsOf s r.req.part
    let n := 2 ^ g.rqLog
    Completes .resultCommit s fun t =>
      t.sel.handed = rest ∧ (ringsOf t r.req.part).rqTail = (r.alloc + resAlloc r.nbox) % (2 * n) ∧
      t.hst.results = (s.hst.results + 1) % 2 ^ 32 ∧
      ∃ hd more, t.out = s.out ++ [.hostWrite h (g.rqBase + (r.alloc + 4) % n) (hd.drop 4),
          .hostWrite h (g.rqBase + r.alloc % n) (hd.take 4)] ++ more ∧
        hd.length = 128 ∧ field hd 0x20 8 = stampOf s islHst r.ts % 2 ^ 64 ∧ slice hd 0 0x0E = slice r.header 0 0x0E ∧
        field hd 0x3C 4 = crc32c (slice hd 0 0x3C ++ slice hd 0x40 0x40)) ∧
  (∀ (s : State) (r : SelRes) (rest : List SelRes), s.sel.handed = r :: rest → isReady s = true → s.saf.pwrFail = false →
    crossed s islHst r.ts = true →
    (tagGen (jobOf s r.req.slot) = r.req.taggen → (jobOf s r.req.slot).silent = true →
      Completes .resultCommit s fun t => t = { s with sel := { s.sel with handed := rest } }) ∧
    (tagGen (jobOf s r.req.slot) ≠ r.req.taggen → Completes .resultCommit s fun t =>
      t.sel = { s.sel with handed := rest } ∧ t.out = s.out ∧ t.parts = s.parts ∧ t.kc = s.kc ∧
      t.hst.results = s.hst.results)) ∧
  (∀ s : State, (s.sel.handed = [] ∨ isReady s = false ∨ s.saf.pwrFail = true ∨
      (∃ r rest, s.sel.handed = r :: rest ∧ crossed s islHst r.ts = false) → exec .resultCommit s = .next s) ∧
    (s.sel.done = none → exec .resultHandoff s = .next s)) ∧
  ∀ (s : State) (p : Fin 8) (q : SelReq) (rest : List SelReq) (t0 : Nat), vget s.sel.queue p.val [] = q :: rest →
  q.waits = some t0 →
    isReady s = true → resPlace s p.val (resAlloc (selOf q.blk).maxBox) = none →
    (t0 + 100000000 ≤ s.tb.master → Completes (.resultSpaceTimeout p) s fun t =>
      Raised .resultNospace islHst t ∧ vget t.sel.queue p.val [] = rest ∧
      (∀ e, e ≠ p.val → vget t.sel.queue e [] = vget s.sel.queue e []) ∧ t.out = s.out) ∧
    (s.tb.master < t0 + 100000000 → exec (.resultSpaceTimeout p) s = .next s)

/-- From the owning port with the load channel free, a load or unload request takes its registers and waits in command
order; a busy channel ignores and counts it, another port's write is denied. The loader serves one request at a time:
a load begins its copy and protection; an unload frees its program's slot and ends DONE, or is refused where an
admitted job names the program or no such program is held. A copy that fails is rejected with LOAD_IO (0x0613); one
that succeeds is read back and verified: the first check that fails rejects with its code and offset and installs nothing.
Installation records the program under a free slot and a new generation, puts its templates and microkernels in place
and ends DONE with the handle. (R39, R348, R349, R353, R354, R357, R358, R361, R364) -/
def Obligations.LoadsAndUnloads : Prop :=
  (let Asks (cmd : Requester → Fin 8 → Nat → Instr) (op : Nat) : Prop :=
    ∀ (s : State) (h : Fin 4) (p : Fin 8) (v : Nat), linked s (.host h) = true → isReady s = true → s.saf.latch = false →
    (ownerOf (partOf s p.val) ≠ some h.val → Completes (cmd (.host h) p v) s fun t => t = denyAccess (.host h) s) ∧
    (ownerOf (partOf s p.val) = some h.val → ldBusy s p.val = true ∨ v % 4 = 0 ∨ v % 4 = 3 →
      Completes (cmd (.host h) p v) s fun t => t = ignWrite (.host h) s) ∧
    (ownerOf (partOf s p.val) = some h.val → ldBusy s p.val = false → v % 4 = op →
    Completes (cmd (.host h) p v) s fun t =>
      (partOf t p.val).ld.req = some { unload := v % 4 == 2, handle := bits v 8 16, src := ldReg s p.val 0 + ldReg s p.val 4 * 2 ^ 32,
                                       dst := ldReg s p.val 8 + ldReg s p.val 0x0C * 2 ^ 32, len := ldReg s p.val 0x10,
                                       cores := BitVec.ofNat 16 (ldReg s p.val 0x14), form := bits (ldReg s p.val 0x14) 16 2,
                                       stage := 0, prot := false } ∧
      (partOf t p.val).ld.state = (if v % 4 = 1 then 1 else 4) ∧ t.hst.ldQueue = s.hst.ldQueue ++ [p.val] ∧
      (∀ q, q ≠ p.val → partOf t q = partOf s q) ∧ { t with hst := s.hst, parts := s.parts } = s)
  Asks .load 1 ∧ Asks .unload 2) ∧
  (∀ (s : State) (p : Fin 8) (rest : List Nat) (q : LoadReq), isReady s = true → ldServing s = false →
  s.hst.ldQueue = p.val :: rest →
    (partOf s p.val).ld.req = some q →
    Completes .loaderServeStart s fun t =>
      t.hst.ldQueue = rest ∧ (∀ e, e ≠ p.val → partOf t e = partOf s e) ∧
      (q.unload = false → (partOf t p.val).ld.req = some { q with stage := 1, prot := true } ∧ t.kc = s.kc ∧
      t.hst.progs = s.hst.progs) ∧
      (q.unload = true → (partOf t p.val).ld.req = none) ∧
      (q.unload = true → progOf s p.val q.handle = none →
        (partOf t p.val).ld.state = 6 ∧ (partOf t p.val).ld.busy = false ∧ t.hst.progs = s.hst.progs) ∧
      (q.unload = true → (progOf s p.val q.handle).isSome = true → progNamed s p.val q.handle = true →
        (partOf t p.val).ld.state = 6 ∧ (partOf t p.val).ld.busy = true ∧ t.hst.progs = s.hst.progs) ∧
      (q.unload = true → (progOf s p.val q.handle).isSome = true → progNamed s p.val q.handle = false →
        (partOf t p.val).ld.state = 5 ∧ (partOf t p.val).ld.doneCnt = ((partOf s p.val).ld.doneCnt + 1) % 2 ^ 32 ∧
        vget t.hst.progs (q.handle % 64) none = none ∧
        ∀ i, i ≠ q.handle % 64 → vget t.hst.progs i none = vget s.hst.progs i none)) ∧
  (∀ s : State, isReady s = false ∨ ldServing s = true ∨ s.hst.ldQueue = [] → exec .loaderServeStart s = .next s) ∧
  (∀ (s : State) (p : Fin 8) (q : LoadReq), isReady s = true → (partOf s p.val).ld.req = some q → q.stage = 1 →
    (Completes (.loadCopyComplete p .err) s fun t =>
      Raised (.load 0x13) islHst t ∧ (partOf t p.val).ld.req = none ∧ (partOf t p.val).ld.state = 6 ∧
      (partOf t p.val).ld.rej = 0x0613 ∧ t.hst.progs = s.hst.progs) ∧
    (∀ (d b : List Byte) (v w : State), (ownerOf (partOf s p.val)).isSome = true →
      copyLines false p.val q.dst (chunk64 ((q.len + 63) / 64) (slice d 0 q.len)) s = (.ok (), v) →
      iovaReadBytes agentHst p.val q.dst q.len v = (.ok b, w) →
      (imageCheck w (chkOf p.val q b) = none → Completes (.loadCopyComplete p (.ok d)) s fun t =>
        t = modLd p.val (fun x => { x with req := some { q with stage := 2 }, state := 3 }) w) ∧
      (∀ n off, imageCheck w (chkOf p.val q b) = some (n, off) → Completes (.loadCopyComplete p (.ok d)) s fun t =>
        Raised (.load (Fin.ofNat 32 n)) islHst t ∧ (partOf t p.val).ld.req = none ∧ (partOf t p.val).ld.state = 6 ∧
        (partOf t p.val).ld.rej = 0x0600 + n % 32 ∧ (partOf t p.val).ld.rejOff = off ∧ t.hst = w.hst ∧ t.kc = w.kc))) ∧
  ∀ (s : State) (p : Fin 8) (q : LoadReq) (slot : Nat) (b : List Byte) (u w : State), isReady s = true →
    (partOf s p.val).ld.req = some q → q.stage = 2 → freeProgSlot s = some slot →
    iovaReadLines agentHst p.val q.dst ((q.len + 63) / 64) s = (.ok b, u) →
    let k := chkOf p.val q b
    let new := k.relocs.foldl (relocPut k) b
    relocLines p.val q.dst b new ((q.len + 63) / 64) u = (.ok (), w) →
    Completes (.loadInstallComplete p) s fun t =>
      slot < 64 ∧ vget s.hst.progs slot none = none ∧
      vget t.hst.progs slot none = some (progRec { k with b := new } ((vget w.hst.progGen slot 0 + 1) % 256)) ∧
      (∀ i, i ≠ slot → vget t.hst.progs i none = vget w.hst.progs i none) ∧
      (partOf t p.val).ld.req = none ∧ (partOf t p.val).ld.state = 5 ∧
      (partOf t p.val).ld.handle = slot + (vget w.hst.progGen slot 0 + 1) % 256 * 256 ∧
      (partOf t p.val).ld.doneCnt = ((partOf w p.val).ld.doneCnt + 1) % 2 ^ 32 ∧
      (∀ e, (coreOf t e).basin = (coreOf w e).basin ∧ (coreOf t e).run = (coreOf w e).run) ∧
      { t with kc := w.kc, hst := w.hst, parts := w.parts } = w

/-- From the owning port: a submission, completion or result doorbell moves its pointer where R365 allows, else the
write is ignored and counted; from another port it is denied. EN = 1 sets every pointer 0 and the phase 1, and clears the
ring error of a set that was disabled; EN = 0 takes effect only without a job other than FREE. An entry of an enabled
ring is fetched and passes
to its decision, or is refused with ENTRY_BAD; a read that fails stops the ring and raises RING_READ. Records left
unsignalled for COALT are signalled: the message is sent, or pends while its vector is masked. A port of a booted MGT
trains within its settings. (R364, R365, R366, R368, R379, R386, R387, R545) -/
def Obligations.RingsAndDoorbells : Prop :=
  (∀ (s : State) (h : Fin 4) (p : Fin 8) (v : Nat), linked s (.host h) = true → isReady s = true → s.saf.latch = false →
    let g := ringsOf s p.val
    let own := ownerOf (partOf s p.val) = some h.val
    let sv := v % 8192 % (2 * 2 ^ g.sqLog)
    let cv := v % 131072 % (2 * 2 ^ g.cqLog)
    let rv := v % 134217728
    (¬own → ∀ cmd : Instr, (cmd = .sqDoorbell (.host h) p v ∨ cmd = .cqDoorbell (.host h) p v ∨ cmd = .resultDoorbell (.host h) p v ∨
      cmd = .ringSetEnable (.host h) p v ∨ cmd = .ringSetDisable (.host h) p v) →
      exec cmd s = .next (denyAccess (.host h) s)) ∧
    (own → Completes (.sqDoorbell (.host h) p v) s fun t =>
      t = if ptrDiff (2 ^ g.sqLog) sv g.sqHead ≤ 2 ^ g.sqLog then setRings p.val { g with sqTail := sv } s
        else ignWrite (.host h) s) ∧
    (own → Completes (.cqDoorbell (.host h) p v) s fun t =>
      t = if ptrDiff (2 ^ g.cqLog) cv g.cqHead ≤ ptrDiff (2 ^ g.cqLog) g.cqTail g.cqHead
        then setRings p.val { g with cqHead := cv } s else ignWrite (.host h) s) ∧
    (own → Completes (.resultDoorbell (.host h) p v) s fun t =>
      t = if rv % 128 = 0 ∧ ptrDiff (2 ^ g.rqLog) (rv % (2 * 2 ^ g.rqLog)) g.rqHead ≤ ptrDiff (2 ^ g.rqLog) g.rqTail g.rqHead
        then setRings p.val { g with rqHead := rv % (2 * 2 ^ g.rqLog) } s else ignWrite (.host h) s) ∧
    (own → Completes (.ringSetEnable (.host h) p v) s fun t =>
      (partOf t p.val).fetched = none ∧ ringsOf t p.val = { g with
        vec := bits v 8 6, coal := bits v 16 8, coalt := bits v 24 8, en := true, sqTail := 0, sqHead := 0, cqHead := 0,
        cqTail := 0, rqHead := 0, rqTail := 0, ringErr := g.en && g.ringErr, phase := true, unsig := 0 } ∧
      (∀ q, q ≠ p.val → partOf t q = partOf s q) ∧ { t with parts := s.parts } = s) ∧
    (own → liveJobs s p.val ≠ [] → Completes (.ringSetDisable (.host h) p v) s fun t => t = ignWrite (.host h) s) ∧
    (own → liveJobs s p.val = [] → Completes (.ringSetDisable (.host h) p v) s fun t =>
      t = setRings p.val { g with vec := bits v 8 6, coal := bits v 16 8, coalt := bits v 24 8, en := false } s)) ∧
  (∀ (s : State) (p : Fin 8), let x := partOf s p.val
    let g := x.rings
    isReady s = true → (ownerOf x).isSome = true → g.en = true → g.ringErr = false → x.fetched = none →
    g.sqTail ≠ g.sqHead →
    0 < cqFree g →
    (Completes (.entryFetch p .err) s fun t => Raised .ringRead 21 t ∧ ringsOf t p.val = { g with ringErr := true } ∧
      (partOf t p.val).fetched = none ∧ t.out = s.out) ∧
    ∀ d : List Byte, let b := slice d 0 128
      (entryBad s p.val b = false → Completes (.entryFetch p (.ok d)) s fun t =>
        (partOf t p.val).fetched = some (g.sqHead % 2 ^ g.sqLog, b) ∧
        ringsOf t p.val = { g with sqHead := (g.sqHead + 1) % (2 * 2 ^ g.sqLog) } ∧ { t with parts := s.parts } = s) ∧
      (entryBad s p.val b = true → Completes (.entryFetch p (.ok d)) s fun t =>
        Raised .entryBad 21 t ∧ (partOf t p.val).fetched = none ∧
        (ringsOf t p.val).sqHead = (g.sqHead + 1) % (2 * 2 ^ g.sqLog) ∧
        (ringsOf t p.val).refuse = min (g.refuse + 1) (2 ^ 32 - 1) ∧ (ringsOf t p.val).accept = g.accept)) ∧
  (∀ (s : State) (p : Fin 8) (data : HostRead), isReady s = false ∨ (ringsOf s p.val).en = false ∨ (ringsOf s p.val).ringErr = true ∨
      (partOf s p.val).fetched.isSome = true ∨ (ringsOf s p.val).sqTail = (ringsOf s p.val).sqHead ∨ cqFree (ringsOf s p.val) = 0 →
    exec (.entryFetch p data) s = .next s) ∧
  (∀ (s : State) (p : Fin 8) (h : Nat), let g := ringsOf s p.val
    ownerOf (partOf s p.val) = some h → isReady s = true → s.saf.latch = false → g.en = true → 0 < g.unsig → 0 < g.coalt →
    g.unsigAt + g.coalt * 1000 ≤ s.tb.master →
    Completes (.msixCoalesceTimeout p) s fun t =>
      ringsOf t p.val = { g with unsig := 0 } ∧
      ((vget s.hst.ports h {}).mask.getLsbD g.vec = false → t.out = s.out ++ [.msix h g.vec]) ∧
      ((vget s.hst.ports h {}).mask.getLsbD g.vec = true → t.out = s.out ∧
        (vget t.hst.ports h {}).pba = (vget s.hst.ports h {}).pba ||| (1#64 <<< g.vec)) ∧
      { t with hst := s.hst, parts := s.parts, out := s.out } = s) ∧
  (∀ (s : State) (p : Fin 8), ((ringsOf s p.val).unsig = 0 ∨ (ringsOf s p.val).coalt = 0 ∨
      s.tb.master < (ringsOf s p.val).unsigAt + (ringsOf s p.val).coalt * 1000) →
      exec (.msixCoalesceTimeout p) s = .next s) ∧
  ∀ (s : State) (h : Fin 4) (speed width : Nat), let m := odNat s 0x2200 (1 + h.val)
    let x := vget s.hst.ports h.val {}
    (s.saf.mgtUp = true → x.linkUp = false → 1 ≤ speed → speed ≤ m % 8 → 1 ≤ width → width ≤ m / 16 →
      Completes (.portLinkUp h speed width) s fun t =>
        vget t.hst.ports h.val {} = { x with linkUp := true, speed := speed, width := width, perst := false } ∧
        (∀ k, k ≠ h.val → vget t.hst.ports k {} = vget s.hst.ports k {}) ∧ { t with hst := s.hst } = s) ∧
    (s.saf.mgtUp = false ∨ m % 8 < speed ∨ m / 16 < width → exec (.portLinkUp h speed width) s = .next s)

/-- A fetched SUBMIT whose program is held, with a free slot, a free tag and good bindings, makes a QUEUED job there
under a new generation, reserves one completion slot and counts as accepted; the first failing check refuses it with
its code and makes no job. A CANCEL of an unknown tag is refused; of a running job, drains it; of one that drains,
marks it. A sweep's arrival
resolves the binding of a job that waits for it. Admission of a job whose program fits, with a free context on each
target core, makes it RUNNING there, takes its deadline and reserves its records; without a free context it waits. A
job with all cores ended, nothing in flight, no fault under way and the message of its last event at HST ends DONE with
its
contexts free. Four microseconds
after its end its slot is FREE. (R342, R368, R369, R371, R372, R373, R375, R376, R377, R380, R452) -/
def Obligations.JobsRunThroughTheirStates : Prop :=
  (∀ (s : State) (p : Fin 8) (idx slot : Nat) (b : List Byte) (g : Program), (partOf s p.val).fetched = some (idx, b) →
    isReady s = true → field b 0 1 = 0 → field b 7 1 = 0 → progOf s p.val (field b 4 2) = some g →
    jobSlot s p.val = some slot →
    jobByTag s p.val (field b 2 2) = none →
    Completes (.jobSubmit p) s fun t =>
      let j := jobOf t slot
      let gen := (smGet genDflt (partOf s p.val).gens (field b 2 2) + 1) % 256
      j.st = .queued ∧ j.part = p.val ∧ j.tag = field b 2 2 ∧ j.gen = gen ∧ j.handle = field b 4 2 ∧
      j.nitem = field b 8 2 ∧
      j.args = slice b 0x40 64 ∧ j.rsv = 1 ∧ j.cores = [] ∧ j.attempt = 0 ∧
      j.budget = (if field b 0x0C 4 = 0 then odNat s 0x4001 (0x10 + p.val) else field b 0x0C 4) ∧
      (∀ i, i ≠ slot → jobOf t i = jobOf s i) ∧ (partOf t p.val).fetched = none ∧
      (ringsOf t p.val).cqRsv = (ringsOf s p.val).cqRsv + 1 ∧
      (ringsOf t p.val).accept = ((ringsOf s p.val).accept + 1) % 2 ^ 32 ∧
      (odNat s 0x4001 (0x20 + p.val) ≠ 0 →
      monGet t slot = some ⟨tagGen j, p.val, odNat s 0x4001 (0x20 + p.val), none, 0⟩) ∧
      t.kc = s.kc ∧ t.out = s.out) ∧
  (∀ (s : State) (p : Fin 8) (idx : Nat) (b : List Byte) (code : FaultCode), (partOf s p.val).fetched = some (idx, b) →
    isReady s = true → field b 0 1 = 0 →
    (progOf s p.val (field b 4 2) = none ∧ code = .handleBad ∨
      (progOf s p.val (field b 4 2)).isSome ∧ jobSlot s p.val = none ∧ code = .jobFull ∨
      (progOf s p.val (field b 4 2)).isSome ∧ (jobSlot s p.val).isSome ∧ (jobByTag s p.val (field b 2 2)).isSome ∧
      code = .tagBusy ∨
      (progOf s p.val (field b 4 2)).isSome ∧ (jobSlot s p.val).isSome ∧ jobByTag s p.val (field b 2 2) = none ∧
        bindsOf s p.val b = none ∧ code = .bindBad) →
    Completes (.jobSubmit p) s fun t =>
      Raised code 21 t ∧ (partOf t p.val).fetched = none ∧ t.hst.jobs = s.hst.jobs ∧
      (ringsOf t p.val).refuse = min ((ringsOf s p.val).refuse + 1) (2 ^ 32 - 1)) ∧
  (∀ (s : State) (p : Fin 8) (idx : Nat) (b : List Byte), (partOf s p.val).fetched = some (idx, b) → isReady s = true →
    field b 0 1 = 1 →
    let hit := (liveJobs s p.val).find? fun e => e.2.tag == field b 2 2 && e.2.st != .done && e.2.st != .failed && !e.2.silent
    (hit = none → Completes (.jobCancel p) s fun t => Raised .tagUnknown 21 t ∧ t.hst.jobs = s.hst.jobs) ∧
    (∀ slot j, hit = some (slot, j) → (j.st = .running ∨ j.st = .preempted) → jobOf s slot = j →
    Completes (.jobCancel p) s fun t =>
      (jobOf t slot).st = .draining ∧ (jobOf t slot).cancelled = true ∧
      (jobOf t slot).abortTo = j.cores.map (·.1) ++ [32, 33] ∧ (∀ c, (jobOf t slot).cause = some c → c.code = 0x0B0A ∧
      c.cancel = true) ∧
      (jobOf t slot).cause.isSome ∧ (∀ i, i ≠ slot → jobOf t i = jobOf s i) ∧
      (ringsOf t p.val).accept = ((ringsOf s p.val).accept + 1) % 2 ^ 32 ∧ t.kc = s.kc ∧ t.out = s.out) ∧
    (∀ slot j, hit = some (slot, j) → j.st = .draining → jobOf s slot = j → Completes (.jobCancel p) s fun t =>
      (jobOf t slot).st = .draining ∧ (jobOf t slot).cancelled = true ∧ (jobOf t slot).cause = j.cause ∧
      (∀ i, i ≠ slot → jobOf t i = jobOf s i) ∧ t.kc = s.kc) ∧
    (∀ slot j, hit = some (slot, j) → j.st = .queued → jobOf s slot = j → j.cores = [] → j.silent = false →
    Completes (.jobCancel p) s fun t =>
      (jobOf t slot).st = .failed ∧ (jobOf t slot).rsv = 0 ∧ t.kc = s.kc)) ∧
  (∀ (s : State) (x : Ready) (rest : List Ready) (e : EmitInfo) (slot : Nat) (j : Job), s.vox.ready = x :: rest →
    isReady s = true → x.skipped = false → (∀ r ∈ x.refs, refStale s r = false) → heldSweep s x.ctx x.seq = some e →
    s.hst.jobs = [(slot, j)] → j.st = .queued →
    j.binds = [.stream x.ctx false x.seq] → j.res = [none] →
    Completes .sweepReady s fun t =>
      t.vox.ready = rest ∧ (jobOf t slot).res = [some (streamRes s j.part x.ctx e)] ∧ (jobOf t slot).st = .queued ∧
      (∀ m, monGet s slot = some m → m.deadline = none →
        monGet t slot = some { m with deadline := some ((streamRes s j.part x.ctx e).tref + j.budget * 1000) }) ∧
        t.kc = s.kc) ∧
  (∀ (s : State) (p : Fin 8) (slot : Nat) (g : Program), let j := jobOf s slot
    admitNext s p.val = some slot → isReady s = true → (partOf s p.val).reset = none → j.st = .queued →
    j.part = p.val → j.binds = [] →
    progOf s p.val j.handle = some g → progFits s p.val g = true →
    j.nitem * (j.restart + 1) ≤ cqOpen s p.val →
    (freeCtxs s g.cores = none → exec (.jobAdmit p) s = .next s) ∧
    ∀ cs, freeCtxs s g.cores = some cs → Completes (.jobAdmit p) s fun t =>
      let y := jobOf t slot
      y.st = .running ∧ y.cores = cs ∧ y.live = cs.map (·.1) ∧ y.admitTs = stampOf s islHst 0 ∧ y.tref = y.admitTs ∧
      y.deadline = some (y.admitTs + j.budget * 1000) ∧ y.cls = partClass s p.val ∧
      y.rsv = j.rsv + j.nitem * (j.restart + 1) ∧
      (ringsOf t p.val).cqRsv = (ringsOf s p.val).cqRsv + j.nitem * (j.restart + 1) ∧
      (∀ e ∈ cs, e.1 < 16 → (tctx (coreOf s e.1) e.2).st = .free ∧ (tctx (coreOf t e.1) e.2).slot = slot ∧
        (tctx (coreOf t e.1) e.2).taggen = tagGen j ∧ (tctx (coreOf t e.1) e.2).part = p.val) ∧
      (∀ c, c ∉ cs.map (·.1) → coreOf t c = coreOf s c)) ∧
  (∀ (s : State) (slot : Fin 512), isReady s = true → jobComplete s slot.val = true → faultWins s slot.val = false →
    crossed s islHst (lastEvent (jobOf s slot.val)) = true → (jobOf s slot.val).silent = false →
    Completes (.jobComplete slot) s fun t =>
      (jobOf t slot.val).st = .done ∧ (jobOf t slot.val).rsv = 0 ∧ (jobOf t slot.val).cores = [] ∧
      (∀ i, i ≠ slot.val → jobOf t i = jobOf s i)) ∧
  (∀ (s : State) (slot : Fin 512), isReady s = false ∨ jobComplete s slot.val = false ∨ faultWins s slot.val = true ∨
      crossed s islHst (lastEvent (jobOf s slot.val)) = false →
    exec (.jobComplete slot) s = .next s) ∧
  ∀ (s : State) (slot : Fin 512), let j := jobOf s slot.val
    ((j.st = .done ∨ j.st = .failed) → j.finalTs + 4000 ≤ s.tb.master → Completes (.tagRelease slot) s fun t =>
      jobOf t slot.val = { ts := stampOf s islHst 0 } ∧ (∀ i, i ≠ slot.val → jobOf t i = jobOf s i) ∧
      { t with hst := s.hst, tb := s.tb } = s) ∧
    (s.tb.master < j.finalTs + 4000 ∨ (j.st ≠ .done ∧ j.st ≠ .failed) → exec (.tagRelease slot) s = .next s)

/-- A Sluice refill gives each bucket the tokens of the whole microseconds since the last one, up to its depth. A slot
boundary takes the slot the master stands in, and a new major frame the budgets that wait. From the owning port: INVAL
drops the partition's cached translations; COPY starts or is refused
with its reason; while a copy runs either is ignored and counted. A copy that ends well leaves no cached translation,
a failed read ends it REJECTED with 4. A table command is refused with its code, or accepted with one completion slot
reserved, SWAP and DROP pausing admission; none runs beside another. A LOAD copied whole and verified becomes the standby
version; a failed one leaves no standby version. The
pause ends when every job it waits for has: the versions are exchanged or the entry emptied, and VER counts. A
partition reset clears Basin, Cistern and semaphores of an enabled partition once its millisecond is over. (R166, R197,
R395,
R403, R405, R406, R408, R409, R412, R413, R414) -/
def Obligations.PartitionsAndTables : Prop :=
  (∀ s : State, Completes .sluiceRefill s fun t =>
    (∀ p < 8, ∀ ch < 8, vget (partOf t p).memTok ch 0 =
      min (vget (partOf s p).memTok ch 0 + (s.tb.master / 1000 - s.sluiceUs) * field (budgetOf s p) 0 2) (field (budgetOf s p) 2 2)) ∧
    (∀ p < 8, (partOf t p).fabTok =
        min ((partOf s p).fabTok + (s.tb.master / 1000 - s.sluiceUs) * field (budgetOf s p) 4 2) (field (budgetOf s p) 6 2) ∧
      (partOf t p).record = (partOf s p).record ∧ (partOf t p).rings = (partOf s p).rings) ∧
    t.sluiceUs = s.tb.master / 1000 ∧ { t with parts := s.parts, sluiceUs := s.sluiceUs } = s) ∧
  (∀ s : State, Completes .slotBoundary s fun t =>
    t.slotNo = s.tb.master % 1000000 / 15625 ∧ t.slotNo < 64 ∧ t.frameNo = s.tb.master / 1000000 ∧
    (t.frameNo = s.frameNo → t.budget = s.budget) ∧
    (t.frameNo ≠ s.frameNo → ∀ u ∈ frameSubs, smGet odDefault t.budget (odKey 0x2500 u) = odGet s 0x2500 u) ∧
    { t with slotNo := s.slotNo, frameNo := s.frameNo, budget := s.budget } = s) ∧
  (∀ (s : State) (h : Fin 4) (p : Fin 8), linked s (.host h) = true → isReady s = true → s.saf.latch = false →
    ownerOf (partOf s p.val) = some h.val →
    let x := partOf s p.val
    let src := mmuReg s p.val 0x100 + mmuReg s p.val 0x104 * 2 ^ 32
    let dst := mmuReg s p.val 0x108 + mmuReg s p.val 0x10C * 2 ^ 32
    let len := mmuReg s p.val 0x110
    (x.mmuCopy.isSome → exec (.mmuCopy (.host h) p) s = .next (ignWrite (.host h) s) ∧
      exec (.mmuInval (.host h) p) s = .next (ignWrite (.host h) s)) ∧
    (x.mmuCopy = none → Completes (.mmuInval (.host h) p) s fun t =>
      (∀ e ∈ t.tc, e.part ≠ p.val ∧ e ∈ s.tc) ∧ (∀ e ∈ s.tc, e.part ≠ p.val → e ∈ t.tc) ∧
      { t with tc := s.tc, regs := s.regs } = s) ∧
    (x.mmuCopy = none → mmuReason s p.val src dst len = 0 → Completes (.mmuCopy (.host h) p) s fun t =>
      t = setPart p.val { x with mmuCopy := some (src, dst, len, 0), mmuState := 1, mmuRej := 0 } s) ∧
    (x.mmuCopy = none → mmuReason s p.val src dst len ≠ 0 → Completes (.mmuCopy (.host h) p) s fun t =>
      t = setPart p.val { x with mmuState := 3, mmuRej := mmuReason s p.val src dst len } s)) ∧
  (∀ (s : State) (p : Fin 8), isReady s = true → (partOf s p.val).mmuCopy.isSome →
    (Completes (.mmuCopyComplete p .err) s fun t =>
      t = setPart p.val { partOf s p.val with mmuCopy := none, mmuState := 3, mmuRej := 4 } s) ∧
    ∀ d : List Byte, Completes (.mmuCopyComplete p (.ok d)) s fun t =>
      (partOf t p.val).mmuCopy = none ∧ (partOf t p.val).mmuState = 2 ∧ ∀ e ∈ t.tc, e.part ≠ p.val) ∧
  (let Asks (cmd : Requester → Fin 8 → Nat → Instr) (op : Nat) : Prop :=
    ∀ (s : State) (h : Fin 4) (p : Fin 8) (v : Nat), linked s (.host h) = true → isReady s = true → s.saf.latch = false →
    ownerOf (partOf s p.val) = some h.val → v % 4 = op →
    let x := partOf s p.val
    let id := bits v 8 4
    let k := tblRefusal s p.val op id
    (x.tblOp.isSome → exec (cmd (.host h) p v) s = .next (ignWrite (.host h) s)) ∧
    (x.tblOp = none → k ≠ 0 → Completes (cmd (.host h) p v) s fun t =>
      t = setPart p.val { x with tblState := 6, tblId := id, tblCode := k } s) ∧
    (x.tblOp = none → k = 0 → Completes (cmd (.host h) p v) s fun t =>
      (∃ o, (partOf t p.val).tblOp = some o ∧ o.op = op ∧ o.id = id ∧ o.len = mmuReg s p.val 0x10110 ∧
        o.crc = mmuReg s p.val 0x10114 ∧ o.waits = if op = 1 then [] else admittedRefs s p.val) ∧
      (partOf t p.val).tblPause = (op != 1) ∧ (partOf t p.val).tables = x.tables ∧
      (ringsOf t p.val).cqRsv = (ringsOf s p.val).cqRsv + 1 ∧ (∀ q, q ≠ p.val → partOf t q = partOf s q) ∧
      { t with parts := s.parts } = s)
  Asks .tableLoad 1 ∧ Asks .tableSwap 2 ∧ Asks .tableDrop 3) ∧
  (∀ (s : State) (p : Fin 8) (o : TblOp), isReady s = true → (partOf s p.val).tblOp = some o → o.op = 1 → o.id < 16 →
    (Completes (.tableLoadComplete p .err) s fun t =>
      Raised (.load 0x13) islHst t ∧ (partOf t p.val).tblOp = none ∧ (partOf t p.val).tblState = 5 ∧
      (partOf t p.val).tblCode = 0x0613 ∧
      vget (partOf t p.val).tables o.id {} = { vget (partOf s p.val).tables o.id {} with standby := none }) ∧
    (∀ d : List Byte, tblShapeBad s p.val o = true → Completes (.tableLoadComplete p (.ok d)) s fun t =>
      Raised .tableBad islHst t ∧ (partOf t p.val).tblOp = none ∧ (partOf t p.val).tblState = 5 ∧
      vget (partOf t p.val).tables o.id {} = { vget (partOf s p.val).tables o.id {} with standby := none }) ∧
    ∀ (d : List Byte) (w : State), tblShapeBad s p.val o = false →
      let x := partOf s p.val
      let b := slice d 0 o.len
      copyLines true p.val o.dst (chunk64 ((o.len + 63) / 64) b)
        (setPart p.val { x with tables := vset x.tables o.id { vget x.tables o.id {} with standby := none } } s) = (.ok (), w) →
      crc32c b = o.crc → ((List.range o.shards).all (tblShardOk o b)) = true →
      Completes (.tableLoadComplete p (.ok d)) s fun t =>
        (partOf t p.val).tblOp = none ∧ (partOf t p.val).tblState = 4 ∧ (partOf t p.val).tblCode = 0 ∧
        vget (partOf t p.val).tables o.id {} =
          { vget (partOf w p.val).tables o.id {} with standby := some ⟨o.dst, o.shards, o.shstride, o.len⟩ } ∧
          t.kc = w.kc) ∧
  (∀ (s : State) (p : Fin 8) (o : TblOp), isReady s = true → (partOf s p.val).tblOp = some o → o.op ≠ 1 → o.id < 16 →
    let e := vget (partOf s p.val).tables o.id {}
    (o.waits.all (refEnded s) = false → exec (.tablePauseEnd p) s = .next s) ∧
    (o.waits.all (refEnded s) = true → Completes (.tablePauseEnd p) s fun t =>
      vget (partOf t p.val).tables o.id {} = (if o.op = 2
        then { cur := e.standby, standby := e.cur, ver := (e.ver + 1) % 2 ^ 16 } else { ver := (e.ver + 1) % 2 ^ 16 }) ∧
      (partOf t p.val).tblPause = false ∧ (partOf t p.val).tblOp = none ∧ (partOf t p.val).tblState = 4)) ∧
  ∀ (s : State) (p : Fin 8) (since : Nat), (partOf s p.val).reset = some ⟨since⟩ →
    (s.tb.master < since + 1000000 → exec (.partitionResetClear p) s = .next s) ∧
    (since + 1000000 ≤ s.tb.master → (∀ e ∈ liveJobs s p.val, e.2.st = .done ∨ e.2.st = .failed) →
      Completes (.partitionResetClear p) s fun t =>
        let r := recOf s p.val
        (partOf t p.val).reset = none ∧ recOf t p.val = r ∧ (prEn r = false → t.kc = s.kc ∧ t.sems = s.sems) ∧
        (prEn r = true →
        (∀ c < 16, ∀ a, (prBasin r c).1 * 4096 ≤ a → a < (prBasin r c).2 * 4096 →
        smGet byteZero (coreOf t c).basin a = 0) ∧
        (∀ c < 16, ∀ a, a < (prBasin r c).1 * 4096 ∨ (prBasin r c).2 * 4096 ≤ a →
          smGet byteZero (coreOf t c).basin a = smGet byteZero (coreOf s c).basin a) ∧
        (∀ c < 16, ∀ e, (prCis r c).1 * 1024 ≤ e → e < (prCis r c).2 * 1024 → smGet wordZero (coreOf t c).cis e = 0) ∧
        (∀ i < 64, vget t.sems i 0 = if bitOf (prSems r) i then 0 else vget s.sems i 0)) ∧ t.hst = s.hst ∧
        ∀ c, (coreOf t c).run = (coreOf s c).run ∧ (coreOf t c).dmem = (coreOf s c).dmem)

/-- With every engine at its stopping point, and no fault of the job under way, a stop begins its save; the save leaves
the
context PREEMPTED under its header, holding all it ran with and what it had still to send, and counts, or raises
SAVE_FAULT;
where a fault met the job meanwhile no image is written and the context waits for its abort. A restore whose header holds
runs it again with exactly that, or raises RESTORE_FAULT; past its limit a stop whose engines have not stopped raises
STOP_TIMEOUT. The oldest fault of an island, once it has crossed, leaves its Weir, and a fault that aborts takes a running
job to DRAINING; a sequencer that disagrees sets the latch. An abort at a core stops its control core and discards its
Runnels; it reaches each unit once. Descriptors that drain at a core get 2 us. An attempt that has ended ends or
restarts its
job. A job whose count of stalled work runs out raises DEADLOCK and counts anew. A port's reset clears its rings, its
mailbox
and its link, raises HOST_RESET for its jobs and takes them to DRAINING. (R424, R425, R427, R428, R429, R430, R431, R432,
R434, R435, R459, R385) -/
def Obligations.PreemptionFaultsAndAborts : Prop :=
  (∀ (s : State) (c : Fin 16) (r : StopReq) (y : Nat), let x := coreOf s c.val
    x.stop = some r → x.active = some y → isReady s = true → y < 8 →
    (r.saving = false → (tctx x y).st = .running → stopped x.run = true → jobFaulted s (tctx x y).slot = false →
      Completes (.preemptStopped c) s fun t => t = setCore c.val { x with stop := some { r with saving := true } } s) ∧
    (r.saving = false → stopped x.run = false ∨ jobFaulted s (tctx x y).slot = true →
    exec (.preemptStopped c) s = .next s) ∧
    (r.saving = false → stopped x.run = true → exec (.stopTimeout c) s = .next s) ∧
    (r.saving = false → (tctx x y).st = .running → stopped x.run = false →
      (s.tb.master * vget s.clk.k c.val 16 < r.since * vget s.clk.k c.val 16 + 256000 →
      exec (.stopTimeout c) s = .next s) ∧
      (r.since * vget s.clk.k c.val 16 + 256000 ≤ s.tb.master * vget s.clk.k c.val 16 →
      Completes (.stopTimeout c) s fun t =>
        Raised .stopTimeout c.val t ∧ (coreOf t c.val).stop = none ∧ (tctx (coreOf t c.val) y).st = .draining ∧
        (coreOf t c.val).run = x.run ∧ ∀ e, e ≠ c.val → coreOf t e = coreOf s e)) ∧
    (r.saving = true → jobFaulted s (tctx x y).slot = false → Completes (.chrysalisSaveComplete c true) s fun t =>
      (tctx (coreOf t c.val) y).saved = some { x.run with
        rem := s.fab.remote.filter (remOf c.val (tctx x y)), land := s.fab.landing.filter (landOf c.val (tctx x y)) } ∧
      (∃ h, (tctx (coreOf t c.val) y).hdr = some h ∧ h.magic = 0x4843 ∧ h.taggen = (tctx x y).taggen ∧
        h.stopTs = x.run.stopTs ∧ h.commit = x.run.cc.commit) ∧
      (tctx (coreOf t c.val) y).st = .preempted ∧ (coreOf t c.val).stop = none ∧
      (coreOf t c.val).active ≠ some y ∧ (coreOf t c.val).basin = x.basin ∧ (coreOf t c.val).cis = x.cis ∧
      ∀ e, e ≠ c.val → coreOf t e = coreOf s e) ∧
    (∀ ok, r.saving = true → jobFaulted s (tctx x y).slot = true → Completes (.chrysalisSaveComplete c ok) s fun t =>
      (tctx (coreOf t c.val) y).st = .draining ∧ (tctx (coreOf t c.val) y).hdr = none ∧ (coreOf t c.val).active ≠ some y ∧
      t.saf = s.saf) ∧
    (r.saving = true → jobFaulted s (tctx x y).slot = false → Completes (.chrysalisSaveComplete c false) s fun t =>
      Raised .saveFault c.val t ∧ (tctx (coreOf t c.val) y).st = .draining ∧ (coreOf t c.val).active ≠ some y)) ∧
  (∀ (s : State) (c : Fin 16) (n : Nat), let x := coreOf s c.val
    isReady s = true → bestCtx s c.val = some n → x.active = none → x.stop = none → (tctx x n).st = .preempted →
    (∀ r, (tctx x n).saved = some r → chryHdrOk (tctx x n) = true → Completes (.chrysalisRestore c true) s fun t =>
      (coreOf t c.val).active = some n ∧ (tctx (coreOf t c.val) n).st = .running ∧
      (coreOf t c.val).run = { r with cc := { r.cc with st := ccResumed r.cc }, rem := [], land := [] } ∧
      t.fab.remote = s.fab.remote ++ r.rem.map (fun q => { q with ts := replica s c.val }) ∧
      ∀ e, e ≠ c.val → coreOf t e = coreOf s e) ∧
    (∀ ok, ok = false ∨ chryHdrOk (tctx x n) = false → Completes (.chrysalisRestore c ok) s fun t =>
      Raised .restoreFault c.val t ∧ (tctx (coreOf t c.val) n).st = .draining ∧ (coreOf t c.val).active ≠ some n)) ∧
  (∀ (s : State) (i : Fin 24) (agree : Bool), (vget s.saf.weirs i.val [] = [] ∨
      (∃ f rest, vget s.saf.weirs i.val [] = f :: rest ∧ crossed s 23 f.ts = false) →
      exec (.faultArrival i agree) s = .next s) ∧
    ∀ f rest slot tg, vget s.saf.weirs i.val [] = f :: rest → crossed s 23 f.ts = true → f.isl = i.val →
      resetCode f.code = false → f.quiet = false → f.job = some ⟨slot, tg⟩ →
      tg = tagGen (jobOf s slot) → (jobOf s slot).st = .running → (f.code.job = .restartable ∨ f.code.job = .aborts) →
      (jobOf s slot).startTs ≤ f.ts → jobEnded s slot = false →
      Completes (.faultArrival i agree) s fun t =>
        (agree = true → (jobOf t slot).st = .draining ∧
        (jobOf t slot).abortTo = (jobOf s slot).cores.map (·.1) ++ [32, 33] ∧
          (∃ k, (jobOf t slot).cause = some k ∧ k.code = f.code.num ∧ k.ts = f.ts ∧ k.isl = f.isl) ∧ t.kc = s.kc ∧
          ∀ e, e ≠ slot → jobOf t e = jobOf s e) ∧
        (agree = false → t.saf.latch = true ∧ t.saf.seqAgree = false ∧ (s.saf.latch = false → t.hst.jobs = []))) ∧
  (∀ (s : State) (slot : Fin 512) (u : Nat), let j := jobOf s slot.val
    (j.st ≠ .draining ∨ j.abortTo.contains u = false → exec (.jobAbort slot u) s = .next s) ∧
    (j.st = .draining → j.abortTo.contains u = true → Completes (.jobAbort slot u) s fun t =>
      (jobOf t slot.val).abortTo = j.abortTo.filter (· != u) ∧ (∀ i, i ≠ slot.val → jobOf t i = jobOf s i) ∧
      (u = 32 → (∀ q ∈ t.sel.arr, selMine slot.val (tagGen j) q = false) ∧
        (∀ p, ∀ q ∈ vget t.sel.queue p [], selMine slot.val (tagGen j) q = false) ∧ t.sel.handed = s.sel.handed ∧
        t.kc = s.kc) ∧
      (∀ n, u < 16 → jobCtxAt j u = some n → (coreOf s u).active = some n →
        ((coreOf s u).run.flight.any (drains (coreOf s u).run)) = true →
        (coreOf t u).run.cc.st = .stopped ∧ (∀ e, vget (coreOf t u).run.runnels e [] = []) ∧
        (coreOf t u).run.flight = (coreOf s u).run.flight.filter (drains (coreOf s u).run) ∧
        (jobOf t slot.val).draining = j.draining ++
          ((coreOf s u).run.flight.filter (drains (coreOf s u).run)).map (fun f => (u, f.d.commit, s.tb.master + 2000)) ∧
        (coreOf t u).basin = (coreOf s u).basin))) ∧
  (∀ (s : State) (slot : Fin 512), let j := jobOf s slot.val
    (j.st ≠ .draining ∨ (∀ e ∈ j.draining, s.tb.master < e.2.2) → exec (.drainTimeout slot) s = .next s) ∧
    (∀ c n k e, j.st = .draining → e ≤ s.tb.master → j.draining = [(c, n, e)] → c < 16 → (coreOf s c).active = some k →
      (coreOf s c).run.flight.length = 1 → (∀ f ∈ (coreOf s c).run.flight, f.d.commit = n) →
      (tctx (coreOf s c) k).st = .draining →
      Completes (.drainTimeout slot) s fun t =>
        (jobOf t slot.val).draining = [] ∧ (∀ i, i ≠ slot.val → jobOf t i = jobOf s i) ∧ (coreOf t c).active ≠ some k)) ∧
  (∀ (s : State) (slot : Fin 512) (k : EndCause), let j := jobOf s slot.val
    j.cause = some k → j.st = .draining → j.abortTo = [] → j.draining = [] → s.sel.handed = [] → j.silent = false →
    ((j.failRec ++ j.resRec).all fun r => crossed s islHst r.ev) = true →
    Completes (.attemptEnd slot) s fun t =>
      let y := jobOf t slot.val
      (k.restart = true → j.restarts < j.restart → j.cancelled = false → j.noRestart = false → j.deadline = none →
        y.st = .restarting ∧ y.attempt = j.attempt + 1 ∧ y.restarts = j.restarts + 1 ∧ y.items = 0 ∧ y.cores = [] ∧
        y.cause = none) ∧
      (k.restart = false ∨ j.restart ≤ j.restarts ∨ j.cancelled = true ∨ j.noRestart = true → y.st = .failed ∧
      y.rsv = 0 ∧ y.cores = [])) ∧
  (∀ (s : State) (slot : Fin 512), let j := jobOf s slot.val
    isReady s = true → j.st = .running → wdCycles j = 65536 →
    Completes (.watchdogExpiry slot) s fun t =>
      Raised .deadlock 16 t ∧ jobOf t slot.val = { j with wd := 0 } ∧ (∀ i, i ≠ slot.val → jobOf t i = jobOf s i) ∧
      t.kc = s.kc) ∧
  (∀ (s : State) (slot : Fin 512), isReady s = false ∨ (jobOf s slot.val).st ≠ .running ∨ wdCycles (jobOf s slot.val) ≠ 65536 →
    exec (.watchdogExpiry slot) s = .next s) ∧
  ∀ (s : State) (h : Fin 4), Completes (.portHotReset h) s fun t =>
    vget t.hst.ports h.val {} = {} ∧ mbxGet t h.val = {} ∧ vget t.ing.inj h.val [] = [] ∧
    (∀ p < 8, ownerOf (partOf s p) = some h.val → ringsOf t p = {} ∧ (partOf t p).fetched = none ∧
    vget t.sel.queue p [] = []) ∧
    (∀ p < 8, ownerOf (partOf s p) ≠ some h.val → partOf t p = partOf s p) ∧
    (∀ p < 8, ∀ slot j, ownerOf (partOf s p) = some h.val → s.hst.jobs = [(slot, j)] → j.part = p → j.st = .running →
      Raised .hostReset islHst t ∧ (jobOf t slot).silent = true ∧ (jobOf t slot).st = .draining ∧
      (jobOf t slot).abortTo = j.cores.map (·.1) ++ [32, 33]) ∧ t.kc = s.kc

/-- From every state in which both SAFE pins are low whenever a reason stands in SAF_SAFE_WHY or the recovery latch is
set, every step, whatever command is in front or none, gives a state in which they are. (R446, R447, R448, R460, R546,
95_what_each_step_holds.md) -/
def Obligations.SafePinsInvariant : Prop :=
  ∀ s t : State, LowWhenUnsafe s → step s = .next t → LowWhenUnsafe t

/-- For every instruction of the control core with its fields in range, RV32I, M, A, Zicsr, Zifencei, Zba, Zbb and the
device instructions: its word is a 32-bit word whose two low bits are 0b11, and the decoder reads from it that
instruction with each register, immediate and field. An instruction is thus never taken for another one. (R323, R333)
-/
def Obligations.ControlCoreWordsDecode : Prop :=
  ∀ op : RvOp, rvOk op = true → rvEncode op < 2 ^ 32 ∧ rvEncode op % 4 = 3 ∧ rv32 (rvEncode op) = some op
end

