-- ==== Sys2Proof/Laws/Map.lean ====
section
/-! SUPPORT. Sparse maps keep their canonical form; a read after a write; banks; little-endian bytes; counters. -/

namespace Sys2Proof.Machine

variable {α : Type}

/-! ### Reads after writes -/

theorem smGet_del_self (d : Nat → α) (k : Nat) (m : SMap α) : smGet d (smDel k m) k = d k := by
  induction m with
  | nil => rfl
  | cons e m ih =>
    obtain ⟨a, v⟩ := e
    unfold smDel
    split
    · exact ih
    · rename_i h; simp [smGet, h, ih]

theorem smGet_del_ne (d : Nat → α) {k j : Nat} (h : j ≠ k) (m : SMap α) : smGet d (smDel k m) j = smGet d m j := by
  induction m with
  | nil => rfl
  | cons e m ih =>
    obtain ⟨a, v⟩ := e
    unfold smDel
    split
    · rename_i e; subst e; simp [smGet, h, ih]
    · simp [smGet, ih]

theorem smGet_ins_self (d : Nat → α) (k : Nat) (v : α) (m : SMap α) : smGet d (smIns k v m) k = v := by
  induction m with
  | nil => simp [smIns, smGet]
  | cons e m ih =>
    obtain ⟨a, w⟩ := e
    unfold smIns
    split
    · simp [smGet]
    · split
      · simp [smGet]
      · rename_i h _; simp [smGet, h, ih]

theorem smGet_ins_ne (d : Nat → α) {k j : Nat} (h : j ≠ k) (v : α) (m : SMap α) :
    smGet d (smIns k v m) j = smGet d m j := by
  induction m with
  | nil => simp [smIns, smGet, h]
  | cons e m ih =>
    obtain ⟨a, w⟩ := e
    unfold smIns
    split
    · rename_i e; subst e; simp [smGet, h]
    · split
      · simp [smGet, h]
      · simp [smGet, ih]

/-- A read gives the value last written at its key. -/
theorem smGet_set_self [DecidableEq α] (d : Nat → α) (m : SMap α) (k : Nat) (v : α) : smGet d (smSet d m k v) k = v := by
  unfold smSet
  split
  · rename_i h; rw [smGet_del_self, h]
  · exact smGet_ins_self d k v m

/-- A write changes no other key. -/
theorem smGet_set_ne [DecidableEq α] (d : Nat → α) (m : SMap α) {k j : Nat} (h : j ≠ k) (v : α) :
    smGet d (smSet d m k v) j = smGet d m j := by
  unfold smSet
  split
  · exact smGet_del_ne d h m
  · exact smGet_ins_ne d h v m

/-- A write of several values changes no key outside them. -/
theorem smGet_setList_out [DecidableEq α] (d : Nat → α) (vs : List α) (m : SMap α) (k j : Nat)
    (h : j < k ∨ k + vs.length ≤ j) : smGet d (smSetList d m k vs) j = smGet d m j := by
  induction vs generalizing m k with
  | nil => rfl
  | cons v vs ih =>
    simp only [smSetList, List.length_cons] at *
    rw [ih _ _ (by omega), smGet_set_ne d m (by omega)]

/-- A write of several values puts each at its key. -/
theorem smGet_setList_in [DecidableEq α] (d : Nat → α) (vs : List α) (m : SMap α) (k i : Nat) (h : i < vs.length) :
    smGet d (smSetList d m k vs) (k + i) = vs[i] := by
  induction vs generalizing m k i with
  | nil => simp at h
  | cons v vs ih =>
    simp only [smSetList]
    cases i with
    | zero => rw [smGet_setList_out d vs _ _ _ (by omega)]; simp [smGet_set_self]
    | succ i =>
      have := ih (smSet d m k v) (k + 1) i (by simpa using h)
      simpa [Nat.add_assoc, Nat.add_comm 1 i] using this

theorem smGet_filter (d : Nat → α) (p : Nat → Bool) (k : Nat) (m : SMap α) :
    smGet d (m.filter fun e => p e.1) k = if p k then smGet d m k else d k := by
  induction m with
  | nil => simp [smGet]
  | cons e m ih =>
    obtain ⟨a, v⟩ := e
    rw [List.filter_cons]
    by_cases hk : k = a
    · subst hk
      cases h : p k <;> simp [smGet, ih, h]
    · cases h : p a <;> simp [smGet, ih, hk]

theorem smGet_clear_in (d : Nat → α) (lo hi k : Nat) (m : SMap α) (h : lo ≤ k ∧ k < hi) :
    smGet d (smClear lo hi m) k = d k := by
  unfold smClear
  rw [smGet_filter d (fun k => !(decide (lo ≤ k) && decide (k < hi)))]
  simp [h.1, h.2]

theorem smGet_clear_out (d : Nat → α) (lo hi k : Nat) (m : SMap α) (h : ¬(lo ≤ k ∧ k < hi)) :
    smGet d (smClear lo hi m) k = smGet d m k := by
  unfold smClear
  rw [smGet_filter d (fun k => !(decide (lo ≤ k) && decide (k < hi)))]
  rw [if_pos]
  simp
  omega

theorem smGetList_length (d : Nat → α) (m : SMap α) (k n : Nat) : (smGetList d m k n).length = n := by
  induction n generalizing k with
  | zero => rfl
  | succ n ih => simp [smGetList, ih]

theorem smGetList_congr {d : Nat → α} {m m' : SMap α} (k n : Nat)
    (h : ∀ j, k ≤ j → j < k + n → smGet d m j = smGet d m' j) : smGetList d m k n = smGetList d m' k n := by
  induction n generalizing k with
  | zero => rfl
  | succ n ih =>
    simp only [smGetList]
    rw [h k (by omega) (by omega), ih (k + 1) fun j h1 h2 => h j (by omega) (by omega)]

/-! ### The canonical form -/

/-- Every key of the map lies above `lo`. -/
def smAbove (lo : Nat) (m : SMap α) : Prop := ∀ e ∈ m, lo < e.1

theorem smSorted_cons {a : Nat} {v : α} {m : SMap α} : smSorted ((a, v) :: m) = true ↔ smAbove a m ∧ smSorted m = true := by
  induction m generalizing a v with
  | nil => simp [smSorted, smAbove]
  | cons e m ih =>
    obtain ⟨b, w⟩ := e
    constructor
    · intro h
      have h' : (decide (a < b) && smSorted ((b, w) :: m)) = true := h
      simp only [Bool.and_eq_true, decide_eq_true_eq] at h'
      refine ⟨?_, h'.2⟩
      intro e he
      rcases List.mem_cons.mp he with rfl | he
      · exact h'.1
      · exact Nat.lt_trans h'.1 ((ih.mp h'.2).1 e he)
    · intro h
      change (decide (a < b) && smSorted ((b, w) :: m)) = true
      simp only [Bool.and_eq_true, decide_eq_true_eq]
      exact ⟨h.1 (b, w) (by simp), h.2⟩

theorem smSorted_del (k : Nat) (m : SMap α) (h : smSorted m = true) : smSorted (smDel k m) = true ∧
    ∀ e ∈ smDel k m, e ∈ m := by
  induction m with
  | nil => simp [smDel, smSorted]
  | cons e m ih =>
    obtain ⟨a, v⟩ := e
    rw [smSorted_cons] at h
    obtain ⟨h1, h2⟩ := ih h.2
    unfold smDel
    split
    · exact ⟨h1, fun e he => List.mem_cons_of_mem _ (h2 e he)⟩
    · refine ⟨smSorted_cons.mpr ⟨fun e he => h.1 e (h2 e he), h1⟩, ?_⟩
      intro e he
      rcases List.mem_cons.mp he with rfl | he
      · simp
      · exact List.mem_cons_of_mem _ (h2 e he)

theorem smSorted_ins (k : Nat) (v : α) (m : SMap α) (h : smSorted m = true) : smSorted (smIns k v m) = true ∧
    ∀ e ∈ smIns k v m, e = (k, v) ∨ e ∈ m := by
  induction m with
  | nil => simp [smIns, smSorted]
  | cons e m ih =>
    obtain ⟨a, w⟩ := e
    have hc := smSorted_cons.mp h
    obtain ⟨h1, h2⟩ := ih hc.2
    unfold smIns
    split
    · rename_i e; subst e
      refine ⟨smSorted_cons.mpr hc, ?_⟩
      intro e he
      rcases List.mem_cons.mp he with rfl | he
      · exact .inl rfl
      · exact .inr (List.mem_cons_of_mem _ he)
    · split
      · rename_i hk
        refine ⟨smSorted_cons.mpr ⟨?_, h⟩, ?_⟩
        · intro e he
          rcases List.mem_cons.mp he with rfl | he
          · exact hk
          · exact Nat.lt_trans hk (hc.1 e he)
        · intro e he
          rcases List.mem_cons.mp he with rfl | he
          · exact .inl rfl
          · exact .inr he
      · rename_i hne hk
        refine ⟨smSorted_cons.mpr ⟨?_, h1⟩, ?_⟩
        · intro e he
          rcases h2 e he with rfl | he
          · exact Nat.lt_of_le_of_ne (Nat.le_of_not_lt hk) (fun x => hne x.symm)
          · exact hc.1 e he
        · intro e he
          rcases List.mem_cons.mp he with rfl | he
          · exact .inr (by simp)
          · rcases h2 e he with h | h
            · exact .inl h
            · exact .inr (List.mem_cons_of_mem _ h)

theorem smNoDefault_iff [DecidableEq α] (d : Nat → α) (m : SMap α) : smNoDefault d m = true ↔ ∀ e ∈ m, e.2 ≠ d e.1 := by
  induction m with
  | nil => simp [smNoDefault]
  | cons e m ih => obtain ⟨a, v⟩ := e; simp [smNoDefault, ih]

/-- A write keeps the canonical form. -/
theorem smWf_set [DecidableEq α] (d : Nat → α) (m : SMap α) (k : Nat) (v : α) (h : smWf d m = true) :
    smWf d (smSet d m k v) = true := by
  simp only [smWf, Bool.and_eq_true, smNoDefault_iff] at *
  unfold smSet
  split
  · obtain ⟨h1, h2⟩ := smSorted_del k m h.1
    exact ⟨h1, fun e he => h.2 e (h2 e he)⟩
  · rename_i hv
    obtain ⟨h1, h2⟩ := smSorted_ins k v m h.1
    refine ⟨h1, fun e he => ?_⟩
    rcases h2 e he with rfl | he
    · exact hv
    · exact h.2 e he

/-- A write of several values keeps the canonical form. -/
theorem smWf_setList [DecidableEq α] (d : Nat → α) (vs : List α) (m : SMap α) (k : Nat) (h : smWf d m = true) :
    smWf d (smSetList d m k vs) = true := by
  induction vs generalizing m k with
  | nil => exact h
  | cons v vs ih => exact ih _ _ (smWf_set d m k v h)

theorem smSorted_filter (p : Nat × α → Bool) (m : SMap α) (h : smSorted m = true) : smSorted (m.filter p) = true := by
  induction m with
  | nil => rfl
  | cons e m ih =>
    obtain ⟨a, v⟩ := e
    rw [smSorted_cons] at h
    rw [List.filter_cons]
    split
    · exact smSorted_cons.mpr ⟨fun e he => h.1 e (List.mem_filter.mp he).1, ih h.2⟩
    · exact ih h.2

/-- Unlisting some entries keeps the canonical form. -/
theorem smWf_filter [DecidableEq α] (d : Nat → α) (p : Nat × α → Bool) (m : SMap α) (h : smWf d m = true) :
    smWf d (m.filter p) = true := by
  simp only [smWf, Bool.and_eq_true, smNoDefault_iff] at *
  exact ⟨smSorted_filter p m h.1, fun e he => h.2 e (List.mem_filter.mp he).1⟩

theorem smWf_clear [DecidableEq α] (d : Nat → α) (lo hi : Nat) (m : SMap α) (h : smWf d m = true) :
    smWf d (smClear lo hi m) = true := smWf_filter d _ m h

/-! ### Banks -/

theorem vget_vset_self {n : Nat} (v : Vector α n) (i : Nat) (x d : α) (h : i < n) : vget (vset v i x) i d = x := by
  simp [vget, vset, h]

theorem vget_vset_ne {n : Nat} (v : Vector α n) {i j : Nat} (x d : α) (h : i ≠ j) : vget (vset v i x) j d = vget v j d := by
  simp [vget, vset, Vector.getElem?_setIfInBounds_ne h]

theorem vget_replicate {n : Nat} (x : α) (i : Nat) (h : i < n) (d : α) : vget (Vector.replicate n x) i d = x := by
  simp [vget, h]

/-! ### Little-endian bytes, counters -/

theorem leBytes_length (n x : Nat) : (leBytes n x).length = n := by
  induction n generalizing x with
  | zero => rfl
  | succ n ih => simp [leBytes, ih]

/-- Bytes and the number they spell agree. -/
theorem leNat_leBytes (n x : Nat) : leNat (leBytes n x) = x % 256 ^ n := by
  induction n generalizing x with
  | zero => simp [leBytes, leNat, Nat.mod_one]
  | succ n ih =>
    simp only [leBytes, leNat, ih, BitVec.toNat_ofNat]
    have : (256 : Nat) ^ (n + 1) = 256 * 256 ^ n := by rw [Nat.pow_succ, Nat.mul_comm]
    rw [this, Nat.mod_mul]

theorem satAdd_le (n x d : Nat) : satAdd n x d ≤ 2 ^ n - 1 := Nat.min_le_right _ _

theorem wrapAdd_lt (n x d : Nat) : wrapAdd n x d < 2 ^ n := Nat.mod_lt _ (Nat.two_pow_pos n)

end Sys2Proof.Machine
end

