-- ==== Sys2Proof/Laws/State.lean ====
section
/-! SUPPORT. Each update of `State` leaves every other field: one lemma per field per update; reads after updates. -/

namespace Sys2Proof.Machine

variable (s : State)

/-! ### `regPut` changes `regs` only -/

@[simp] theorem regPut_pending (k : Nat) (v : Word) : (regPut k v s).pending = s.pending := rfl
@[simp] theorem regPut_free (k : Nat) (v : Word) : (regPut k v s).free = s.free := rfl
@[simp] theorem regPut_latch (k : Nat) (v : Word) : (regPut k v s).latch = s.latch := rfl
@[simp] theorem regPut_stage (k : Nat) (v : Word) : (regPut k v s).stage = s.stage := rfl
@[simp] theorem regPut_reply (k : Nat) (v : Word) : (regPut k v s).reply = s.reply := rfl
@[simp] theorem regPut_od (k : Nat) (v : Word) : (regPut k v s).od = s.od := rfl
@[simp] theorem regPut_budget (k : Nat) (v : Word) : (regPut k v s).budget = s.budget := rfl
@[simp] theorem regPut_slotNo (k : Nat) (v : Word) : (regPut k v s).slotNo = s.slotNo := rfl
@[simp] theorem regPut_frameNo (k : Nat) (v : Word) : (regPut k v s).frameNo = s.frameNo := rfl
@[simp] theorem regPut_sluiceUs (k : Nat) (v : Word) : (regPut k v s).sluiceUs = s.sluiceUs := rfl
@[simp] theorem regPut_openLast (k : Nat) (v : Word) : (regPut k v s).openLast = s.openLast := rfl
@[simp] theorem regPut_tb (k : Nat) (v : Word) : (regPut k v s).tb = s.tb := rfl
@[simp] theorem regPut_jr (k : Nat) (v : Word) : (regPut k v s).jr = s.jr := rfl
@[simp] theorem regPut_img (k : Nat) (v : Word) : (regPut k v s).img = s.img := rfl
@[simp] theorem regPut_saf (k : Nat) (v : Word) : (regPut k v s).saf = s.saf := rfl
@[simp] theorem regPut_node (k : Nat) (v : Word) : (regPut k v s).node = s.node := rfl
@[simp] theorem regPut_fio (k : Nat) (v : Word) : (regPut k v s).fio = s.fio := rfl
@[simp] theorem regPut_clk (k : Nat) (v : Word) : (regPut k v s).clk = s.clk := rfl
@[simp] theorem regPut_fuses (k : Nat) (v : Word) : (regPut k v s).fuses = s.fuses := rfl
@[simp] theorem regPut_flash (k : Nat) (v : Word) : (regPut k v s).flash = s.flash := rfl
@[simp] theorem regPut_boot (k : Nat) (v : Word) : (regPut k v s).boot = s.boot := rfl
@[simp] theorem regPut_dbg (k : Nat) (v : Word) : (regPut k v s).dbg = s.dbg := rfl
@[simp] theorem regPut_parts (k : Nat) (v : Word) : (regPut k v s).parts = s.parts := rfl
@[simp] theorem regPut_hst (k : Nat) (v : Word) : (regPut k v s).hst = s.hst := rfl
@[simp] theorem regPut_dir (k : Nat) (v : Word) : (regPut k v s).dir = s.dir := rfl
@[simp] theorem regPut_dram (k : Nat) (v : Word) : (regPut k v s).dram = s.dram := rfl
@[simp] theorem regPut_tc (k : Nat) (v : Word) : (regPut k v s).tc = s.tc := rfl
@[simp] theorem regPut_sems (k : Nat) (v : Word) : (regPut k v s).sems = s.sems := rfl
@[simp] theorem regPut_kc (k : Nat) (v : Word) : (regPut k v s).kc = s.kc := rfl
@[simp] theorem regPut_fab (k : Nat) (v : Word) : (regPut k v s).fab = s.fab := rfl
@[simp] theorem regPut_ing (k : Nat) (v : Word) : (regPut k v s).ing = s.ing := rfl
@[simp] theorem regPut_vox (k : Nat) (v : Word) : (regPut k v s).vox = s.vox := rfl
@[simp] theorem regPut_sel (k : Nat) (v : Word) : (regPut k v s).sel = s.sel := rfl
@[simp] theorem regPut_out (k : Nat) (v : Word) : (regPut k v s).out = s.out := rfl

/-! ### `regCount` changes `regs` only -/

@[simp] theorem regCount_pending (k d : Nat) : (regCount k d s).pending = s.pending := regPut_pending s _ _
@[simp] theorem regCount_free (k d : Nat) : (regCount k d s).free = s.free := regPut_free s _ _
@[simp] theorem regCount_latch (k d : Nat) : (regCount k d s).latch = s.latch := regPut_latch s _ _
@[simp] theorem regCount_stage (k d : Nat) : (regCount k d s).stage = s.stage := regPut_stage s _ _
@[simp] theorem regCount_reply (k d : Nat) : (regCount k d s).reply = s.reply := regPut_reply s _ _
@[simp] theorem regCount_od (k d : Nat) : (regCount k d s).od = s.od := regPut_od s _ _
@[simp] theorem regCount_budget (k d : Nat) : (regCount k d s).budget = s.budget := regPut_budget s _ _
@[simp] theorem regCount_slotNo (k d : Nat) : (regCount k d s).slotNo = s.slotNo := regPut_slotNo s _ _
@[simp] theorem regCount_frameNo (k d : Nat) : (regCount k d s).frameNo = s.frameNo := regPut_frameNo s _ _
@[simp] theorem regCount_sluiceUs (k d : Nat) : (regCount k d s).sluiceUs = s.sluiceUs := regPut_sluiceUs s _ _
@[simp] theorem regCount_openLast (k d : Nat) : (regCount k d s).openLast = s.openLast := regPut_openLast s _ _
@[simp] theorem regCount_tb (k d : Nat) : (regCount k d s).tb = s.tb := regPut_tb s _ _
@[simp] theorem regCount_jr (k d : Nat) : (regCount k d s).jr = s.jr := regPut_jr s _ _
@[simp] theorem regCount_img (k d : Nat) : (regCount k d s).img = s.img := regPut_img s _ _
@[simp] theorem regCount_saf (k d : Nat) : (regCount k d s).saf = s.saf := regPut_saf s _ _
@[simp] theorem regCount_node (k d : Nat) : (regCount k d s).node = s.node := regPut_node s _ _
@[simp] theorem regCount_fio (k d : Nat) : (regCount k d s).fio = s.fio := regPut_fio s _ _
@[simp] theorem regCount_clk (k d : Nat) : (regCount k d s).clk = s.clk := regPut_clk s _ _
@[simp] theorem regCount_fuses (k d : Nat) : (regCount k d s).fuses = s.fuses := regPut_fuses s _ _
@[simp] theorem regCount_flash (k d : Nat) : (regCount k d s).flash = s.flash := regPut_flash s _ _
@[simp] theorem regCount_boot (k d : Nat) : (regCount k d s).boot = s.boot := regPut_boot s _ _
@[simp] theorem regCount_dbg (k d : Nat) : (regCount k d s).dbg = s.dbg := regPut_dbg s _ _
@[simp] theorem regCount_parts (k d : Nat) : (regCount k d s).parts = s.parts := regPut_parts s _ _
@[simp] theorem regCount_hst (k d : Nat) : (regCount k d s).hst = s.hst := regPut_hst s _ _
@[simp] theorem regCount_dir (k d : Nat) : (regCount k d s).dir = s.dir := regPut_dir s _ _
@[simp] theorem regCount_dram (k d : Nat) : (regCount k d s).dram = s.dram := regPut_dram s _ _
@[simp] theorem regCount_tc (k d : Nat) : (regCount k d s).tc = s.tc := regPut_tc s _ _
@[simp] theorem regCount_sems (k d : Nat) : (regCount k d s).sems = s.sems := regPut_sems s _ _
@[simp] theorem regCount_kc (k d : Nat) : (regCount k d s).kc = s.kc := regPut_kc s _ _
@[simp] theorem regCount_fab (k d : Nat) : (regCount k d s).fab = s.fab := regPut_fab s _ _
@[simp] theorem regCount_ing (k d : Nat) : (regCount k d s).ing = s.ing := regPut_ing s _ _
@[simp] theorem regCount_vox (k d : Nat) : (regCount k d s).vox = s.vox := regPut_vox s _ _
@[simp] theorem regCount_sel (k d : Nat) : (regCount k d s).sel = s.sel := regPut_sel s _ _
@[simp] theorem regCount_out (k d : Nat) : (regCount k d s).out = s.out := regPut_out s _ _

/-! ### `regWrap` changes `regs` only -/

@[simp] theorem regWrap_pending (k d : Nat) : (regWrap k d s).pending = s.pending := regPut_pending s _ _
@[simp] theorem regWrap_free (k d : Nat) : (regWrap k d s).free = s.free := regPut_free s _ _
@[simp] theorem regWrap_latch (k d : Nat) : (regWrap k d s).latch = s.latch := regPut_latch s _ _
@[simp] theorem regWrap_stage (k d : Nat) : (regWrap k d s).stage = s.stage := regPut_stage s _ _
@[simp] theorem regWrap_reply (k d : Nat) : (regWrap k d s).reply = s.reply := regPut_reply s _ _
@[simp] theorem regWrap_od (k d : Nat) : (regWrap k d s).od = s.od := regPut_od s _ _
@[simp] theorem regWrap_budget (k d : Nat) : (regWrap k d s).budget = s.budget := regPut_budget s _ _
@[simp] theorem regWrap_slotNo (k d : Nat) : (regWrap k d s).slotNo = s.slotNo := regPut_slotNo s _ _
@[simp] theorem regWrap_frameNo (k d : Nat) : (regWrap k d s).frameNo = s.frameNo := regPut_frameNo s _ _
@[simp] theorem regWrap_sluiceUs (k d : Nat) : (regWrap k d s).sluiceUs = s.sluiceUs := regPut_sluiceUs s _ _
@[simp] theorem regWrap_openLast (k d : Nat) : (regWrap k d s).openLast = s.openLast := regPut_openLast s _ _
@[simp] theorem regWrap_tb (k d : Nat) : (regWrap k d s).tb = s.tb := regPut_tb s _ _
@[simp] theorem regWrap_jr (k d : Nat) : (regWrap k d s).jr = s.jr := regPut_jr s _ _
@[simp] theorem regWrap_img (k d : Nat) : (regWrap k d s).img = s.img := regPut_img s _ _
@[simp] theorem regWrap_saf (k d : Nat) : (regWrap k d s).saf = s.saf := regPut_saf s _ _
@[simp] theorem regWrap_node (k d : Nat) : (regWrap k d s).node = s.node := regPut_node s _ _
@[simp] theorem regWrap_fio (k d : Nat) : (regWrap k d s).fio = s.fio := regPut_fio s _ _
@[simp] theorem regWrap_clk (k d : Nat) : (regWrap k d s).clk = s.clk := regPut_clk s _ _
@[simp] theorem regWrap_fuses (k d : Nat) : (regWrap k d s).fuses = s.fuses := regPut_fuses s _ _
@[simp] theorem regWrap_flash (k d : Nat) : (regWrap k d s).flash = s.flash := regPut_flash s _ _
@[simp] theorem regWrap_boot (k d : Nat) : (regWrap k d s).boot = s.boot := regPut_boot s _ _
@[simp] theorem regWrap_dbg (k d : Nat) : (regWrap k d s).dbg = s.dbg := regPut_dbg s _ _
@[simp] theorem regWrap_parts (k d : Nat) : (regWrap k d s).parts = s.parts := regPut_parts s _ _
@[simp] theorem regWrap_hst (k d : Nat) : (regWrap k d s).hst = s.hst := regPut_hst s _ _
@[simp] theorem regWrap_dir (k d : Nat) : (regWrap k d s).dir = s.dir := regPut_dir s _ _
@[simp] theorem regWrap_dram (k d : Nat) : (regWrap k d s).dram = s.dram := regPut_dram s _ _
@[simp] theorem regWrap_tc (k d : Nat) : (regWrap k d s).tc = s.tc := regPut_tc s _ _
@[simp] theorem regWrap_sems (k d : Nat) : (regWrap k d s).sems = s.sems := regPut_sems s _ _
@[simp] theorem regWrap_kc (k d : Nat) : (regWrap k d s).kc = s.kc := regPut_kc s _ _
@[simp] theorem regWrap_fab (k d : Nat) : (regWrap k d s).fab = s.fab := regPut_fab s _ _
@[simp] theorem regWrap_ing (k d : Nat) : (regWrap k d s).ing = s.ing := regPut_ing s _ _
@[simp] theorem regWrap_vox (k d : Nat) : (regWrap k d s).vox = s.vox := regPut_vox s _ _
@[simp] theorem regWrap_sel (k d : Nat) : (regWrap k d s).sel = s.sel := regPut_sel s _ _
@[simp] theorem regWrap_out (k d : Nat) : (regWrap k d s).out = s.out := regPut_out s _ _

/-! ### `ignWrite` changes `regs` only -/

@[simp] theorem ignWrite_pending (r : Requester) : (ignWrite r s).pending = s.pending := regPut_pending s _ _
@[simp] theorem ignWrite_free (r : Requester) : (ignWrite r s).free = s.free := regPut_free s _ _
@[simp] theorem ignWrite_latch (r : Requester) : (ignWrite r s).latch = s.latch := regPut_latch s _ _
@[simp] theorem ignWrite_stage (r : Requester) : (ignWrite r s).stage = s.stage := regPut_stage s _ _
@[simp] theorem ignWrite_reply (r : Requester) : (ignWrite r s).reply = s.reply := regPut_reply s _ _
@[simp] theorem ignWrite_od (r : Requester) : (ignWrite r s).od = s.od := regPut_od s _ _
@[simp] theorem ignWrite_budget (r : Requester) : (ignWrite r s).budget = s.budget := regPut_budget s _ _
@[simp] theorem ignWrite_slotNo (r : Requester) : (ignWrite r s).slotNo = s.slotNo := regPut_slotNo s _ _
@[simp] theorem ignWrite_frameNo (r : Requester) : (ignWrite r s).frameNo = s.frameNo := regPut_frameNo s _ _
@[simp] theorem ignWrite_sluiceUs (r : Requester) : (ignWrite r s).sluiceUs = s.sluiceUs := regPut_sluiceUs s _ _
@[simp] theorem ignWrite_openLast (r : Requester) : (ignWrite r s).openLast = s.openLast := regPut_openLast s _ _
@[simp] theorem ignWrite_tb (r : Requester) : (ignWrite r s).tb = s.tb := regPut_tb s _ _
@[simp] theorem ignWrite_jr (r : Requester) : (ignWrite r s).jr = s.jr := regPut_jr s _ _
@[simp] theorem ignWrite_img (r : Requester) : (ignWrite r s).img = s.img := regPut_img s _ _
@[simp] theorem ignWrite_saf (r : Requester) : (ignWrite r s).saf = s.saf := regPut_saf s _ _
@[simp] theorem ignWrite_node (r : Requester) : (ignWrite r s).node = s.node := regPut_node s _ _
@[simp] theorem ignWrite_fio (r : Requester) : (ignWrite r s).fio = s.fio := regPut_fio s _ _
@[simp] theorem ignWrite_clk (r : Requester) : (ignWrite r s).clk = s.clk := regPut_clk s _ _
@[simp] theorem ignWrite_fuses (r : Requester) : (ignWrite r s).fuses = s.fuses := regPut_fuses s _ _
@[simp] theorem ignWrite_flash (r : Requester) : (ignWrite r s).flash = s.flash := regPut_flash s _ _
@[simp] theorem ignWrite_boot (r : Requester) : (ignWrite r s).boot = s.boot := regPut_boot s _ _
@[simp] theorem ignWrite_dbg (r : Requester) : (ignWrite r s).dbg = s.dbg := regPut_dbg s _ _
@[simp] theorem ignWrite_parts (r : Requester) : (ignWrite r s).parts = s.parts := regPut_parts s _ _
@[simp] theorem ignWrite_hst (r : Requester) : (ignWrite r s).hst = s.hst := regPut_hst s _ _
@[simp] theorem ignWrite_dir (r : Requester) : (ignWrite r s).dir = s.dir := regPut_dir s _ _
@[simp] theorem ignWrite_dram (r : Requester) : (ignWrite r s).dram = s.dram := regPut_dram s _ _
@[simp] theorem ignWrite_tc (r : Requester) : (ignWrite r s).tc = s.tc := regPut_tc s _ _
@[simp] theorem ignWrite_sems (r : Requester) : (ignWrite r s).sems = s.sems := regPut_sems s _ _
@[simp] theorem ignWrite_kc (r : Requester) : (ignWrite r s).kc = s.kc := regPut_kc s _ _
@[simp] theorem ignWrite_fab (r : Requester) : (ignWrite r s).fab = s.fab := regPut_fab s _ _
@[simp] theorem ignWrite_ing (r : Requester) : (ignWrite r s).ing = s.ing := regPut_ing s _ _
@[simp] theorem ignWrite_vox (r : Requester) : (ignWrite r s).vox = s.vox := regPut_vox s _ _
@[simp] theorem ignWrite_sel (r : Requester) : (ignWrite r s).sel = s.sel := regPut_sel s _ _
@[simp] theorem ignWrite_out (r : Requester) : (ignWrite r s).out = s.out := regPut_out s _ _

/-! ### `denyAccess` changes `regs` only -/

@[simp] theorem denyAccess_pending (r : Requester) : (denyAccess r s).pending = s.pending := regPut_pending s _ _
@[simp] theorem denyAccess_free (r : Requester) : (denyAccess r s).free = s.free := regPut_free s _ _
@[simp] theorem denyAccess_latch (r : Requester) : (denyAccess r s).latch = s.latch := regPut_latch s _ _
@[simp] theorem denyAccess_stage (r : Requester) : (denyAccess r s).stage = s.stage := regPut_stage s _ _
@[simp] theorem denyAccess_reply (r : Requester) : (denyAccess r s).reply = s.reply := regPut_reply s _ _
@[simp] theorem denyAccess_od (r : Requester) : (denyAccess r s).od = s.od := regPut_od s _ _
@[simp] theorem denyAccess_budget (r : Requester) : (denyAccess r s).budget = s.budget := regPut_budget s _ _
@[simp] theorem denyAccess_slotNo (r : Requester) : (denyAccess r s).slotNo = s.slotNo := regPut_slotNo s _ _
@[simp] theorem denyAccess_frameNo (r : Requester) : (denyAccess r s).frameNo = s.frameNo := regPut_frameNo s _ _
@[simp] theorem denyAccess_sluiceUs (r : Requester) : (denyAccess r s).sluiceUs = s.sluiceUs := regPut_sluiceUs s _ _
@[simp] theorem denyAccess_openLast (r : Requester) : (denyAccess r s).openLast = s.openLast := regPut_openLast s _ _
@[simp] theorem denyAccess_tb (r : Requester) : (denyAccess r s).tb = s.tb := regPut_tb s _ _
@[simp] theorem denyAccess_jr (r : Requester) : (denyAccess r s).jr = s.jr := regPut_jr s _ _
@[simp] theorem denyAccess_img (r : Requester) : (denyAccess r s).img = s.img := regPut_img s _ _
@[simp] theorem denyAccess_saf (r : Requester) : (denyAccess r s).saf = s.saf := regPut_saf s _ _
@[simp] theorem denyAccess_node (r : Requester) : (denyAccess r s).node = s.node := regPut_node s _ _
@[simp] theorem denyAccess_fio (r : Requester) : (denyAccess r s).fio = s.fio := regPut_fio s _ _
@[simp] theorem denyAccess_clk (r : Requester) : (denyAccess r s).clk = s.clk := regPut_clk s _ _
@[simp] theorem denyAccess_fuses (r : Requester) : (denyAccess r s).fuses = s.fuses := regPut_fuses s _ _
@[simp] theorem denyAccess_flash (r : Requester) : (denyAccess r s).flash = s.flash := regPut_flash s _ _
@[simp] theorem denyAccess_boot (r : Requester) : (denyAccess r s).boot = s.boot := regPut_boot s _ _
@[simp] theorem denyAccess_dbg (r : Requester) : (denyAccess r s).dbg = s.dbg := regPut_dbg s _ _
@[simp] theorem denyAccess_parts (r : Requester) : (denyAccess r s).parts = s.parts := regPut_parts s _ _
@[simp] theorem denyAccess_hst (r : Requester) : (denyAccess r s).hst = s.hst := regPut_hst s _ _
@[simp] theorem denyAccess_dir (r : Requester) : (denyAccess r s).dir = s.dir := regPut_dir s _ _
@[simp] theorem denyAccess_dram (r : Requester) : (denyAccess r s).dram = s.dram := regPut_dram s _ _
@[simp] theorem denyAccess_tc (r : Requester) : (denyAccess r s).tc = s.tc := regPut_tc s _ _
@[simp] theorem denyAccess_sems (r : Requester) : (denyAccess r s).sems = s.sems := regPut_sems s _ _
@[simp] theorem denyAccess_kc (r : Requester) : (denyAccess r s).kc = s.kc := regPut_kc s _ _
@[simp] theorem denyAccess_fab (r : Requester) : (denyAccess r s).fab = s.fab := regPut_fab s _ _
@[simp] theorem denyAccess_ing (r : Requester) : (denyAccess r s).ing = s.ing := regPut_ing s _ _
@[simp] theorem denyAccess_vox (r : Requester) : (denyAccess r s).vox = s.vox := regPut_vox s _ _
@[simp] theorem denyAccess_sel (r : Requester) : (denyAccess r s).sel = s.sel := regPut_sel s _ _
@[simp] theorem denyAccess_out (r : Requester) : (denyAccess r s).out = s.out := regPut_out s _ _

/-! ### `setReply` changes `reply` only -/

@[simp] theorem setReply_pending (r : Requester) (v : Nat) : (setReply r v s).pending = s.pending := rfl
@[simp] theorem setReply_free (r : Requester) (v : Nat) : (setReply r v s).free = s.free := rfl
@[simp] theorem setReply_regs (r : Requester) (v : Nat) : (setReply r v s).regs = s.regs := rfl
@[simp] theorem setReply_latch (r : Requester) (v : Nat) : (setReply r v s).latch = s.latch := rfl
@[simp] theorem setReply_stage (r : Requester) (v : Nat) : (setReply r v s).stage = s.stage := rfl
@[simp] theorem setReply_od (r : Requester) (v : Nat) : (setReply r v s).od = s.od := rfl
@[simp] theorem setReply_budget (r : Requester) (v : Nat) : (setReply r v s).budget = s.budget := rfl
@[simp] theorem setReply_slotNo (r : Requester) (v : Nat) : (setReply r v s).slotNo = s.slotNo := rfl
@[simp] theorem setReply_frameNo (r : Requester) (v : Nat) : (setReply r v s).frameNo = s.frameNo := rfl
@[simp] theorem setReply_sluiceUs (r : Requester) (v : Nat) : (setReply r v s).sluiceUs = s.sluiceUs := rfl
@[simp] theorem setReply_openLast (r : Requester) (v : Nat) : (setReply r v s).openLast = s.openLast := rfl
@[simp] theorem setReply_tb (r : Requester) (v : Nat) : (setReply r v s).tb = s.tb := rfl
@[simp] theorem setReply_jr (r : Requester) (v : Nat) : (setReply r v s).jr = s.jr := rfl
@[simp] theorem setReply_img (r : Requester) (v : Nat) : (setReply r v s).img = s.img := rfl
@[simp] theorem setReply_saf (r : Requester) (v : Nat) : (setReply r v s).saf = s.saf := rfl
@[simp] theorem setReply_node (r : Requester) (v : Nat) : (setReply r v s).node = s.node := rfl
@[simp] theorem setReply_fio (r : Requester) (v : Nat) : (setReply r v s).fio = s.fio := rfl
@[simp] theorem setReply_clk (r : Requester) (v : Nat) : (setReply r v s).clk = s.clk := rfl
@[simp] theorem setReply_fuses (r : Requester) (v : Nat) : (setReply r v s).fuses = s.fuses := rfl
@[simp] theorem setReply_flash (r : Requester) (v : Nat) : (setReply r v s).flash = s.flash := rfl
@[simp] theorem setReply_boot (r : Requester) (v : Nat) : (setReply r v s).boot = s.boot := rfl
@[simp] theorem setReply_dbg (r : Requester) (v : Nat) : (setReply r v s).dbg = s.dbg := rfl
@[simp] theorem setReply_parts (r : Requester) (v : Nat) : (setReply r v s).parts = s.parts := rfl
@[simp] theorem setReply_hst (r : Requester) (v : Nat) : (setReply r v s).hst = s.hst := rfl
@[simp] theorem setReply_dir (r : Requester) (v : Nat) : (setReply r v s).dir = s.dir := rfl
@[simp] theorem setReply_dram (r : Requester) (v : Nat) : (setReply r v s).dram = s.dram := rfl
@[simp] theorem setReply_tc (r : Requester) (v : Nat) : (setReply r v s).tc = s.tc := rfl
@[simp] theorem setReply_sems (r : Requester) (v : Nat) : (setReply r v s).sems = s.sems := rfl
@[simp] theorem setReply_kc (r : Requester) (v : Nat) : (setReply r v s).kc = s.kc := rfl
@[simp] theorem setReply_fab (r : Requester) (v : Nat) : (setReply r v s).fab = s.fab := rfl
@[simp] theorem setReply_ing (r : Requester) (v : Nat) : (setReply r v s).ing = s.ing := rfl
@[simp] theorem setReply_vox (r : Requester) (v : Nat) : (setReply r v s).vox = s.vox := rfl
@[simp] theorem setReply_sel (r : Requester) (v : Nat) : (setReply r v s).sel = s.sel := rfl
@[simp] theorem setReply_out (r : Requester) (v : Nat) : (setReply r v s).out = s.out := rfl

/-! ### `odPut` changes `od` only -/

@[simp] theorem odPut_pending (i j : Nat) (v : List Byte) : (odPut i j v s).pending = s.pending := rfl
@[simp] theorem odPut_free (i j : Nat) (v : List Byte) : (odPut i j v s).free = s.free := rfl
@[simp] theorem odPut_regs (i j : Nat) (v : List Byte) : (odPut i j v s).regs = s.regs := rfl
@[simp] theorem odPut_latch (i j : Nat) (v : List Byte) : (odPut i j v s).latch = s.latch := rfl
@[simp] theorem odPut_stage (i j : Nat) (v : List Byte) : (odPut i j v s).stage = s.stage := rfl
@[simp] theorem odPut_reply (i j : Nat) (v : List Byte) : (odPut i j v s).reply = s.reply := rfl
@[simp] theorem odPut_budget (i j : Nat) (v : List Byte) : (odPut i j v s).budget = s.budget := rfl
@[simp] theorem odPut_slotNo (i j : Nat) (v : List Byte) : (odPut i j v s).slotNo = s.slotNo := rfl
@[simp] theorem odPut_frameNo (i j : Nat) (v : List Byte) : (odPut i j v s).frameNo = s.frameNo := rfl
@[simp] theorem odPut_sluiceUs (i j : Nat) (v : List Byte) : (odPut i j v s).sluiceUs = s.sluiceUs := rfl
@[simp] theorem odPut_openLast (i j : Nat) (v : List Byte) : (odPut i j v s).openLast = s.openLast := rfl
@[simp] theorem odPut_tb (i j : Nat) (v : List Byte) : (odPut i j v s).tb = s.tb := rfl
@[simp] theorem odPut_jr (i j : Nat) (v : List Byte) : (odPut i j v s).jr = s.jr := rfl
@[simp] theorem odPut_img (i j : Nat) (v : List Byte) : (odPut i j v s).img = s.img := rfl
@[simp] theorem odPut_saf (i j : Nat) (v : List Byte) : (odPut i j v s).saf = s.saf := rfl
@[simp] theorem odPut_node (i j : Nat) (v : List Byte) : (odPut i j v s).node = s.node := rfl
@[simp] theorem odPut_fio (i j : Nat) (v : List Byte) : (odPut i j v s).fio = s.fio := rfl
@[simp] theorem odPut_clk (i j : Nat) (v : List Byte) : (odPut i j v s).clk = s.clk := rfl
@[simp] theorem odPut_fuses (i j : Nat) (v : List Byte) : (odPut i j v s).fuses = s.fuses := rfl
@[simp] theorem odPut_flash (i j : Nat) (v : List Byte) : (odPut i j v s).flash = s.flash := rfl
@[simp] theorem odPut_boot (i j : Nat) (v : List Byte) : (odPut i j v s).boot = s.boot := rfl
@[simp] theorem odPut_dbg (i j : Nat) (v : List Byte) : (odPut i j v s).dbg = s.dbg := rfl
@[simp] theorem odPut_parts (i j : Nat) (v : List Byte) : (odPut i j v s).parts = s.parts := rfl
@[simp] theorem odPut_hst (i j : Nat) (v : List Byte) : (odPut i j v s).hst = s.hst := rfl
@[simp] theorem odPut_dir (i j : Nat) (v : List Byte) : (odPut i j v s).dir = s.dir := rfl
@[simp] theorem odPut_dram (i j : Nat) (v : List Byte) : (odPut i j v s).dram = s.dram := rfl
@[simp] theorem odPut_tc (i j : Nat) (v : List Byte) : (odPut i j v s).tc = s.tc := rfl
@[simp] theorem odPut_sems (i j : Nat) (v : List Byte) : (odPut i j v s).sems = s.sems := rfl
@[simp] theorem odPut_kc (i j : Nat) (v : List Byte) : (odPut i j v s).kc = s.kc := rfl
@[simp] theorem odPut_fab (i j : Nat) (v : List Byte) : (odPut i j v s).fab = s.fab := rfl
@[simp] theorem odPut_ing (i j : Nat) (v : List Byte) : (odPut i j v s).ing = s.ing := rfl
@[simp] theorem odPut_vox (i j : Nat) (v : List Byte) : (odPut i j v s).vox = s.vox := rfl
@[simp] theorem odPut_sel (i j : Nat) (v : List Byte) : (odPut i j v s).sel = s.sel := rfl
@[simp] theorem odPut_out (i j : Nat) (v : List Byte) : (odPut i j v s).out = s.out := rfl

/-! ### `odPutR` changes `od` only -/

@[simp] theorem odPutR_pending (q i j : Nat) (v : List Byte) : (odPutR q i j v s).pending = s.pending := rfl
@[simp] theorem odPutR_free (q i j : Nat) (v : List Byte) : (odPutR q i j v s).free = s.free := rfl
@[simp] theorem odPutR_regs (q i j : Nat) (v : List Byte) : (odPutR q i j v s).regs = s.regs := rfl
@[simp] theorem odPutR_latch (q i j : Nat) (v : List Byte) : (odPutR q i j v s).latch = s.latch := rfl
@[simp] theorem odPutR_stage (q i j : Nat) (v : List Byte) : (odPutR q i j v s).stage = s.stage := rfl
@[simp] theorem odPutR_reply (q i j : Nat) (v : List Byte) : (odPutR q i j v s).reply = s.reply := rfl
@[simp] theorem odPutR_budget (q i j : Nat) (v : List Byte) : (odPutR q i j v s).budget = s.budget := rfl
@[simp] theorem odPutR_slotNo (q i j : Nat) (v : List Byte) : (odPutR q i j v s).slotNo = s.slotNo := rfl
@[simp] theorem odPutR_frameNo (q i j : Nat) (v : List Byte) : (odPutR q i j v s).frameNo = s.frameNo := rfl
@[simp] theorem odPutR_sluiceUs (q i j : Nat) (v : List Byte) : (odPutR q i j v s).sluiceUs = s.sluiceUs := rfl
@[simp] theorem odPutR_openLast (q i j : Nat) (v : List Byte) : (odPutR q i j v s).openLast = s.openLast := rfl
@[simp] theorem odPutR_tb (q i j : Nat) (v : List Byte) : (odPutR q i j v s).tb = s.tb := rfl
@[simp] theorem odPutR_jr (q i j : Nat) (v : List Byte) : (odPutR q i j v s).jr = s.jr := rfl
@[simp] theorem odPutR_img (q i j : Nat) (v : List Byte) : (odPutR q i j v s).img = s.img := rfl
@[simp] theorem odPutR_saf (q i j : Nat) (v : List Byte) : (odPutR q i j v s).saf = s.saf := rfl
@[simp] theorem odPutR_node (q i j : Nat) (v : List Byte) : (odPutR q i j v s).node = s.node := rfl
@[simp] theorem odPutR_fio (q i j : Nat) (v : List Byte) : (odPutR q i j v s).fio = s.fio := rfl
@[simp] theorem odPutR_clk (q i j : Nat) (v : List Byte) : (odPutR q i j v s).clk = s.clk := rfl
@[simp] theorem odPutR_fuses (q i j : Nat) (v : List Byte) : (odPutR q i j v s).fuses = s.fuses := rfl
@[simp] theorem odPutR_flash (q i j : Nat) (v : List Byte) : (odPutR q i j v s).flash = s.flash := rfl
@[simp] theorem odPutR_boot (q i j : Nat) (v : List Byte) : (odPutR q i j v s).boot = s.boot := rfl
@[simp] theorem odPutR_dbg (q i j : Nat) (v : List Byte) : (odPutR q i j v s).dbg = s.dbg := rfl
@[simp] theorem odPutR_parts (q i j : Nat) (v : List Byte) : (odPutR q i j v s).parts = s.parts := rfl
@[simp] theorem odPutR_hst (q i j : Nat) (v : List Byte) : (odPutR q i j v s).hst = s.hst := rfl
@[simp] theorem odPutR_dir (q i j : Nat) (v : List Byte) : (odPutR q i j v s).dir = s.dir := rfl
@[simp] theorem odPutR_dram (q i j : Nat) (v : List Byte) : (odPutR q i j v s).dram = s.dram := rfl
@[simp] theorem odPutR_tc (q i j : Nat) (v : List Byte) : (odPutR q i j v s).tc = s.tc := rfl
@[simp] theorem odPutR_sems (q i j : Nat) (v : List Byte) : (odPutR q i j v s).sems = s.sems := rfl
@[simp] theorem odPutR_kc (q i j : Nat) (v : List Byte) : (odPutR q i j v s).kc = s.kc := rfl
@[simp] theorem odPutR_fab (q i j : Nat) (v : List Byte) : (odPutR q i j v s).fab = s.fab := rfl
@[simp] theorem odPutR_ing (q i j : Nat) (v : List Byte) : (odPutR q i j v s).ing = s.ing := rfl
@[simp] theorem odPutR_vox (q i j : Nat) (v : List Byte) : (odPutR q i j v s).vox = s.vox := rfl
@[simp] theorem odPutR_sel (q i j : Nat) (v : List Byte) : (odPutR q i j v s).sel = s.sel := rfl
@[simp] theorem odPutR_out (q i j : Nat) (v : List Byte) : (odPutR q i j v s).out = s.out := rfl

/-! ### `emitOut` changes `out` only -/

@[simp] theorem emitOut_pending (e : OutEvent) : (emitOut e s).pending = s.pending := rfl
@[simp] theorem emitOut_free (e : OutEvent) : (emitOut e s).free = s.free := rfl
@[simp] theorem emitOut_regs (e : OutEvent) : (emitOut e s).regs = s.regs := rfl
@[simp] theorem emitOut_latch (e : OutEvent) : (emitOut e s).latch = s.latch := rfl
@[simp] theorem emitOut_stage (e : OutEvent) : (emitOut e s).stage = s.stage := rfl
@[simp] theorem emitOut_reply (e : OutEvent) : (emitOut e s).reply = s.reply := rfl
@[simp] theorem emitOut_od (e : OutEvent) : (emitOut e s).od = s.od := rfl
@[simp] theorem emitOut_budget (e : OutEvent) : (emitOut e s).budget = s.budget := rfl
@[simp] theorem emitOut_slotNo (e : OutEvent) : (emitOut e s).slotNo = s.slotNo := rfl
@[simp] theorem emitOut_frameNo (e : OutEvent) : (emitOut e s).frameNo = s.frameNo := rfl
@[simp] theorem emitOut_sluiceUs (e : OutEvent) : (emitOut e s).sluiceUs = s.sluiceUs := rfl
@[simp] theorem emitOut_openLast (e : OutEvent) : (emitOut e s).openLast = s.openLast := rfl
@[simp] theorem emitOut_tb (e : OutEvent) : (emitOut e s).tb = s.tb := rfl
@[simp] theorem emitOut_jr (e : OutEvent) : (emitOut e s).jr = s.jr := rfl
@[simp] theorem emitOut_img (e : OutEvent) : (emitOut e s).img = s.img := rfl
@[simp] theorem emitOut_saf (e : OutEvent) : (emitOut e s).saf = s.saf := rfl
@[simp] theorem emitOut_node (e : OutEvent) : (emitOut e s).node = s.node := rfl
@[simp] theorem emitOut_fio (e : OutEvent) : (emitOut e s).fio = s.fio := rfl
@[simp] theorem emitOut_clk (e : OutEvent) : (emitOut e s).clk = s.clk := rfl
@[simp] theorem emitOut_fuses (e : OutEvent) : (emitOut e s).fuses = s.fuses := rfl
@[simp] theorem emitOut_flash (e : OutEvent) : (emitOut e s).flash = s.flash := rfl
@[simp] theorem emitOut_boot (e : OutEvent) : (emitOut e s).boot = s.boot := rfl
@[simp] theorem emitOut_dbg (e : OutEvent) : (emitOut e s).dbg = s.dbg := rfl
@[simp] theorem emitOut_parts (e : OutEvent) : (emitOut e s).parts = s.parts := rfl
@[simp] theorem emitOut_hst (e : OutEvent) : (emitOut e s).hst = s.hst := rfl
@[simp] theorem emitOut_dir (e : OutEvent) : (emitOut e s).dir = s.dir := rfl
@[simp] theorem emitOut_dram (e : OutEvent) : (emitOut e s).dram = s.dram := rfl
@[simp] theorem emitOut_tc (e : OutEvent) : (emitOut e s).tc = s.tc := rfl
@[simp] theorem emitOut_sems (e : OutEvent) : (emitOut e s).sems = s.sems := rfl
@[simp] theorem emitOut_kc (e : OutEvent) : (emitOut e s).kc = s.kc := rfl
@[simp] theorem emitOut_fab (e : OutEvent) : (emitOut e s).fab = s.fab := rfl
@[simp] theorem emitOut_ing (e : OutEvent) : (emitOut e s).ing = s.ing := rfl
@[simp] theorem emitOut_vox (e : OutEvent) : (emitOut e s).vox = s.vox := rfl
@[simp] theorem emitOut_sel (e : OutEvent) : (emitOut e s).sel = s.sel := rfl

/-! ### `keepStamp` changes `tb` only -/

@[simp] theorem keepStamp_pending (i ts : Nat) : (keepStamp i ts s).pending = s.pending := rfl
@[simp] theorem keepStamp_free (i ts : Nat) : (keepStamp i ts s).free = s.free := rfl
@[simp] theorem keepStamp_regs (i ts : Nat) : (keepStamp i ts s).regs = s.regs := rfl
@[simp] theorem keepStamp_latch (i ts : Nat) : (keepStamp i ts s).latch = s.latch := rfl
@[simp] theorem keepStamp_stage (i ts : Nat) : (keepStamp i ts s).stage = s.stage := rfl
@[simp] theorem keepStamp_reply (i ts : Nat) : (keepStamp i ts s).reply = s.reply := rfl
@[simp] theorem keepStamp_od (i ts : Nat) : (keepStamp i ts s).od = s.od := rfl
@[simp] theorem keepStamp_budget (i ts : Nat) : (keepStamp i ts s).budget = s.budget := rfl
@[simp] theorem keepStamp_slotNo (i ts : Nat) : (keepStamp i ts s).slotNo = s.slotNo := rfl
@[simp] theorem keepStamp_frameNo (i ts : Nat) : (keepStamp i ts s).frameNo = s.frameNo := rfl
@[simp] theorem keepStamp_sluiceUs (i ts : Nat) : (keepStamp i ts s).sluiceUs = s.sluiceUs := rfl
@[simp] theorem keepStamp_openLast (i ts : Nat) : (keepStamp i ts s).openLast = s.openLast := rfl
@[simp] theorem keepStamp_jr (i ts : Nat) : (keepStamp i ts s).jr = s.jr := rfl
@[simp] theorem keepStamp_img (i ts : Nat) : (keepStamp i ts s).img = s.img := rfl
@[simp] theorem keepStamp_saf (i ts : Nat) : (keepStamp i ts s).saf = s.saf := rfl
@[simp] theorem keepStamp_node (i ts : Nat) : (keepStamp i ts s).node = s.node := rfl
@[simp] theorem keepStamp_fio (i ts : Nat) : (keepStamp i ts s).fio = s.fio := rfl
@[simp] theorem keepStamp_clk (i ts : Nat) : (keepStamp i ts s).clk = s.clk := rfl
@[simp] theorem keepStamp_fuses (i ts : Nat) : (keepStamp i ts s).fuses = s.fuses := rfl
@[simp] theorem keepStamp_flash (i ts : Nat) : (keepStamp i ts s).flash = s.flash := rfl
@[simp] theorem keepStamp_boot (i ts : Nat) : (keepStamp i ts s).boot = s.boot := rfl
@[simp] theorem keepStamp_dbg (i ts : Nat) : (keepStamp i ts s).dbg = s.dbg := rfl
@[simp] theorem keepStamp_parts (i ts : Nat) : (keepStamp i ts s).parts = s.parts := rfl
@[simp] theorem keepStamp_hst (i ts : Nat) : (keepStamp i ts s).hst = s.hst := rfl
@[simp] theorem keepStamp_dir (i ts : Nat) : (keepStamp i ts s).dir = s.dir := rfl
@[simp] theorem keepStamp_dram (i ts : Nat) : (keepStamp i ts s).dram = s.dram := rfl
@[simp] theorem keepStamp_tc (i ts : Nat) : (keepStamp i ts s).tc = s.tc := rfl
@[simp] theorem keepStamp_sems (i ts : Nat) : (keepStamp i ts s).sems = s.sems := rfl
@[simp] theorem keepStamp_kc (i ts : Nat) : (keepStamp i ts s).kc = s.kc := rfl
@[simp] theorem keepStamp_fab (i ts : Nat) : (keepStamp i ts s).fab = s.fab := rfl
@[simp] theorem keepStamp_ing (i ts : Nat) : (keepStamp i ts s).ing = s.ing := rfl
@[simp] theorem keepStamp_vox (i ts : Nat) : (keepStamp i ts s).vox = s.vox := rfl
@[simp] theorem keepStamp_sel (i ts : Nat) : (keepStamp i ts s).sel = s.sel := rfl
@[simp] theorem keepStamp_out (i ts : Nat) : (keepStamp i ts s).out = s.out := rfl

/-! ### `setPart` changes `parts` only -/

@[simp] theorem setPart_pending (p : Nat) (x : Part) : (setPart p x s).pending = s.pending := rfl
@[simp] theorem setPart_free (p : Nat) (x : Part) : (setPart p x s).free = s.free := rfl
@[simp] theorem setPart_regs (p : Nat) (x : Part) : (setPart p x s).regs = s.regs := rfl
@[simp] theorem setPart_latch (p : Nat) (x : Part) : (setPart p x s).latch = s.latch := rfl
@[simp] theorem setPart_stage (p : Nat) (x : Part) : (setPart p x s).stage = s.stage := rfl
@[simp] theorem setPart_reply (p : Nat) (x : Part) : (setPart p x s).reply = s.reply := rfl
@[simp] theorem setPart_od (p : Nat) (x : Part) : (setPart p x s).od = s.od := rfl
@[simp] theorem setPart_budget (p : Nat) (x : Part) : (setPart p x s).budget = s.budget := rfl
@[simp] theorem setPart_slotNo (p : Nat) (x : Part) : (setPart p x s).slotNo = s.slotNo := rfl
@[simp] theorem setPart_frameNo (p : Nat) (x : Part) : (setPart p x s).frameNo = s.frameNo := rfl
@[simp] theorem setPart_sluiceUs (p : Nat) (x : Part) : (setPart p x s).sluiceUs = s.sluiceUs := rfl
@[simp] theorem setPart_openLast (p : Nat) (x : Part) : (setPart p x s).openLast = s.openLast := rfl
@[simp] theorem setPart_tb (p : Nat) (x : Part) : (setPart p x s).tb = s.tb := rfl
@[simp] theorem setPart_jr (p : Nat) (x : Part) : (setPart p x s).jr = s.jr := rfl
@[simp] theorem setPart_img (p : Nat) (x : Part) : (setPart p x s).img = s.img := rfl
@[simp] theorem setPart_saf (p : Nat) (x : Part) : (setPart p x s).saf = s.saf := rfl
@[simp] theorem setPart_node (p : Nat) (x : Part) : (setPart p x s).node = s.node := rfl
@[simp] theorem setPart_fio (p : Nat) (x : Part) : (setPart p x s).fio = s.fio := rfl
@[simp] theorem setPart_clk (p : Nat) (x : Part) : (setPart p x s).clk = s.clk := rfl
@[simp] theorem setPart_fuses (p : Nat) (x : Part) : (setPart p x s).fuses = s.fuses := rfl
@[simp] theorem setPart_flash (p : Nat) (x : Part) : (setPart p x s).flash = s.flash := rfl
@[simp] theorem setPart_boot (p : Nat) (x : Part) : (setPart p x s).boot = s.boot := rfl
@[simp] theorem setPart_dbg (p : Nat) (x : Part) : (setPart p x s).dbg = s.dbg := rfl
@[simp] theorem setPart_hst (p : Nat) (x : Part) : (setPart p x s).hst = s.hst := rfl
@[simp] theorem setPart_dir (p : Nat) (x : Part) : (setPart p x s).dir = s.dir := rfl
@[simp] theorem setPart_dram (p : Nat) (x : Part) : (setPart p x s).dram = s.dram := rfl
@[simp] theorem setPart_tc (p : Nat) (x : Part) : (setPart p x s).tc = s.tc := rfl
@[simp] theorem setPart_sems (p : Nat) (x : Part) : (setPart p x s).sems = s.sems := rfl
@[simp] theorem setPart_kc (p : Nat) (x : Part) : (setPart p x s).kc = s.kc := rfl
@[simp] theorem setPart_fab (p : Nat) (x : Part) : (setPart p x s).fab = s.fab := rfl
@[simp] theorem setPart_ing (p : Nat) (x : Part) : (setPart p x s).ing = s.ing := rfl
@[simp] theorem setPart_vox (p : Nat) (x : Part) : (setPart p x s).vox = s.vox := rfl
@[simp] theorem setPart_sel (p : Nat) (x : Part) : (setPart p x s).sel = s.sel := rfl
@[simp] theorem setPart_out (p : Nat) (x : Part) : (setPart p x s).out = s.out := rfl

/-! ### `chPut` changes `node` only -/

@[simp] theorem chPut_pending (i : Nat) (c : CanCh) : (chPut i c s).pending = s.pending := rfl
@[simp] theorem chPut_free (i : Nat) (c : CanCh) : (chPut i c s).free = s.free := rfl
@[simp] theorem chPut_regs (i : Nat) (c : CanCh) : (chPut i c s).regs = s.regs := rfl
@[simp] theorem chPut_latch (i : Nat) (c : CanCh) : (chPut i c s).latch = s.latch := rfl
@[simp] theorem chPut_stage (i : Nat) (c : CanCh) : (chPut i c s).stage = s.stage := rfl
@[simp] theorem chPut_reply (i : Nat) (c : CanCh) : (chPut i c s).reply = s.reply := rfl
@[simp] theorem chPut_od (i : Nat) (c : CanCh) : (chPut i c s).od = s.od := rfl
@[simp] theorem chPut_budget (i : Nat) (c : CanCh) : (chPut i c s).budget = s.budget := rfl
@[simp] theorem chPut_slotNo (i : Nat) (c : CanCh) : (chPut i c s).slotNo = s.slotNo := rfl
@[simp] theorem chPut_frameNo (i : Nat) (c : CanCh) : (chPut i c s).frameNo = s.frameNo := rfl
@[simp] theorem chPut_sluiceUs (i : Nat) (c : CanCh) : (chPut i c s).sluiceUs = s.sluiceUs := rfl
@[simp] theorem chPut_openLast (i : Nat) (c : CanCh) : (chPut i c s).openLast = s.openLast := rfl
@[simp] theorem chPut_tb (i : Nat) (c : CanCh) : (chPut i c s).tb = s.tb := rfl
@[simp] theorem chPut_jr (i : Nat) (c : CanCh) : (chPut i c s).jr = s.jr := rfl
@[simp] theorem chPut_img (i : Nat) (c : CanCh) : (chPut i c s).img = s.img := rfl
@[simp] theorem chPut_saf (i : Nat) (c : CanCh) : (chPut i c s).saf = s.saf := rfl
@[simp] theorem chPut_fio (i : Nat) (c : CanCh) : (chPut i c s).fio = s.fio := rfl
@[simp] theorem chPut_clk (i : Nat) (c : CanCh) : (chPut i c s).clk = s.clk := rfl
@[simp] theorem chPut_fuses (i : Nat) (c : CanCh) : (chPut i c s).fuses = s.fuses := rfl
@[simp] theorem chPut_flash (i : Nat) (c : CanCh) : (chPut i c s).flash = s.flash := rfl
@[simp] theorem chPut_boot (i : Nat) (c : CanCh) : (chPut i c s).boot = s.boot := rfl
@[simp] theorem chPut_dbg (i : Nat) (c : CanCh) : (chPut i c s).dbg = s.dbg := rfl
@[simp] theorem chPut_parts (i : Nat) (c : CanCh) : (chPut i c s).parts = s.parts := rfl
@[simp] theorem chPut_hst (i : Nat) (c : CanCh) : (chPut i c s).hst = s.hst := rfl
@[simp] theorem chPut_dir (i : Nat) (c : CanCh) : (chPut i c s).dir = s.dir := rfl
@[simp] theorem chPut_dram (i : Nat) (c : CanCh) : (chPut i c s).dram = s.dram := rfl
@[simp] theorem chPut_tc (i : Nat) (c : CanCh) : (chPut i c s).tc = s.tc := rfl
@[simp] theorem chPut_sems (i : Nat) (c : CanCh) : (chPut i c s).sems = s.sems := rfl
@[simp] theorem chPut_kc (i : Nat) (c : CanCh) : (chPut i c s).kc = s.kc := rfl
@[simp] theorem chPut_fab (i : Nat) (c : CanCh) : (chPut i c s).fab = s.fab := rfl
@[simp] theorem chPut_ing (i : Nat) (c : CanCh) : (chPut i c s).ing = s.ing := rfl
@[simp] theorem chPut_vox (i : Nat) (c : CanCh) : (chPut i c s).vox = s.vox := rfl
@[simp] theorem chPut_sel (i : Nat) (c : CanCh) : (chPut i c s).sel = s.sel := rfl
@[simp] theorem chPut_out (i : Nat) (c : CanCh) : (chPut i c s).out = s.out := rfl

/-! ### `mbxPut` changes `node` only -/

@[simp] theorem mbxPut_pending (i : Nat) (m : Mbx) : (mbxPut i m s).pending = s.pending := rfl
@[simp] theorem mbxPut_free (i : Nat) (m : Mbx) : (mbxPut i m s).free = s.free := rfl
@[simp] theorem mbxPut_regs (i : Nat) (m : Mbx) : (mbxPut i m s).regs = s.regs := rfl
@[simp] theorem mbxPut_latch (i : Nat) (m : Mbx) : (mbxPut i m s).latch = s.latch := rfl
@[simp] theorem mbxPut_stage (i : Nat) (m : Mbx) : (mbxPut i m s).stage = s.stage := rfl
@[simp] theorem mbxPut_reply (i : Nat) (m : Mbx) : (mbxPut i m s).reply = s.reply := rfl
@[simp] theorem mbxPut_od (i : Nat) (m : Mbx) : (mbxPut i m s).od = s.od := rfl
@[simp] theorem mbxPut_budget (i : Nat) (m : Mbx) : (mbxPut i m s).budget = s.budget := rfl
@[simp] theorem mbxPut_slotNo (i : Nat) (m : Mbx) : (mbxPut i m s).slotNo = s.slotNo := rfl
@[simp] theorem mbxPut_frameNo (i : Nat) (m : Mbx) : (mbxPut i m s).frameNo = s.frameNo := rfl
@[simp] theorem mbxPut_sluiceUs (i : Nat) (m : Mbx) : (mbxPut i m s).sluiceUs = s.sluiceUs := rfl
@[simp] theorem mbxPut_openLast (i : Nat) (m : Mbx) : (mbxPut i m s).openLast = s.openLast := rfl
@[simp] theorem mbxPut_tb (i : Nat) (m : Mbx) : (mbxPut i m s).tb = s.tb := rfl
@[simp] theorem mbxPut_jr (i : Nat) (m : Mbx) : (mbxPut i m s).jr = s.jr := rfl
@[simp] theorem mbxPut_img (i : Nat) (m : Mbx) : (mbxPut i m s).img = s.img := rfl
@[simp] theorem mbxPut_saf (i : Nat) (m : Mbx) : (mbxPut i m s).saf = s.saf := rfl
@[simp] theorem mbxPut_fio (i : Nat) (m : Mbx) : (mbxPut i m s).fio = s.fio := rfl
@[simp] theorem mbxPut_clk (i : Nat) (m : Mbx) : (mbxPut i m s).clk = s.clk := rfl
@[simp] theorem mbxPut_fuses (i : Nat) (m : Mbx) : (mbxPut i m s).fuses = s.fuses := rfl
@[simp] theorem mbxPut_flash (i : Nat) (m : Mbx) : (mbxPut i m s).flash = s.flash := rfl
@[simp] theorem mbxPut_boot (i : Nat) (m : Mbx) : (mbxPut i m s).boot = s.boot := rfl
@[simp] theorem mbxPut_dbg (i : Nat) (m : Mbx) : (mbxPut i m s).dbg = s.dbg := rfl
@[simp] theorem mbxPut_parts (i : Nat) (m : Mbx) : (mbxPut i m s).parts = s.parts := rfl
@[simp] theorem mbxPut_hst (i : Nat) (m : Mbx) : (mbxPut i m s).hst = s.hst := rfl
@[simp] theorem mbxPut_dir (i : Nat) (m : Mbx) : (mbxPut i m s).dir = s.dir := rfl
@[simp] theorem mbxPut_dram (i : Nat) (m : Mbx) : (mbxPut i m s).dram = s.dram := rfl
@[simp] theorem mbxPut_tc (i : Nat) (m : Mbx) : (mbxPut i m s).tc = s.tc := rfl
@[simp] theorem mbxPut_sems (i : Nat) (m : Mbx) : (mbxPut i m s).sems = s.sems := rfl
@[simp] theorem mbxPut_kc (i : Nat) (m : Mbx) : (mbxPut i m s).kc = s.kc := rfl
@[simp] theorem mbxPut_fab (i : Nat) (m : Mbx) : (mbxPut i m s).fab = s.fab := rfl
@[simp] theorem mbxPut_ing (i : Nat) (m : Mbx) : (mbxPut i m s).ing = s.ing := rfl
@[simp] theorem mbxPut_vox (i : Nat) (m : Mbx) : (mbxPut i m s).vox = s.vox := rfl
@[simp] theorem mbxPut_sel (i : Nat) (m : Mbx) : (mbxPut i m s).sel = s.sel := rfl
@[simp] theorem mbxPut_out (i : Nat) (m : Mbx) : (mbxPut i m s).out = s.out := rfl

/-! ### `odEnqueue` changes `node` only -/

@[simp] theorem odEnqueue_pending (x : OdXfer) : (odEnqueue x s).pending = s.pending := rfl
@[simp] theorem odEnqueue_free (x : OdXfer) : (odEnqueue x s).free = s.free := rfl
@[simp] theorem odEnqueue_regs (x : OdXfer) : (odEnqueue x s).regs = s.regs := rfl
@[simp] theorem odEnqueue_latch (x : OdXfer) : (odEnqueue x s).latch = s.latch := rfl
@[simp] theorem odEnqueue_stage (x : OdXfer) : (odEnqueue x s).stage = s.stage := rfl
@[simp] theorem odEnqueue_reply (x : OdXfer) : (odEnqueue x s).reply = s.reply := rfl
@[simp] theorem odEnqueue_od (x : OdXfer) : (odEnqueue x s).od = s.od := rfl
@[simp] theorem odEnqueue_budget (x : OdXfer) : (odEnqueue x s).budget = s.budget := rfl
@[simp] theorem odEnqueue_slotNo (x : OdXfer) : (odEnqueue x s).slotNo = s.slotNo := rfl
@[simp] theorem odEnqueue_frameNo (x : OdXfer) : (odEnqueue x s).frameNo = s.frameNo := rfl
@[simp] theorem odEnqueue_sluiceUs (x : OdXfer) : (odEnqueue x s).sluiceUs = s.sluiceUs := rfl
@[simp] theorem odEnqueue_openLast (x : OdXfer) : (odEnqueue x s).openLast = s.openLast := rfl
@[simp] theorem odEnqueue_tb (x : OdXfer) : (odEnqueue x s).tb = s.tb := rfl
@[simp] theorem odEnqueue_jr (x : OdXfer) : (odEnqueue x s).jr = s.jr := rfl
@[simp] theorem odEnqueue_img (x : OdXfer) : (odEnqueue x s).img = s.img := rfl
@[simp] theorem odEnqueue_saf (x : OdXfer) : (odEnqueue x s).saf = s.saf := rfl
@[simp] theorem odEnqueue_fio (x : OdXfer) : (odEnqueue x s).fio = s.fio := rfl
@[simp] theorem odEnqueue_clk (x : OdXfer) : (odEnqueue x s).clk = s.clk := rfl
@[simp] theorem odEnqueue_fuses (x : OdXfer) : (odEnqueue x s).fuses = s.fuses := rfl
@[simp] theorem odEnqueue_flash (x : OdXfer) : (odEnqueue x s).flash = s.flash := rfl
@[simp] theorem odEnqueue_boot (x : OdXfer) : (odEnqueue x s).boot = s.boot := rfl
@[simp] theorem odEnqueue_dbg (x : OdXfer) : (odEnqueue x s).dbg = s.dbg := rfl
@[simp] theorem odEnqueue_parts (x : OdXfer) : (odEnqueue x s).parts = s.parts := rfl
@[simp] theorem odEnqueue_hst (x : OdXfer) : (odEnqueue x s).hst = s.hst := rfl
@[simp] theorem odEnqueue_dir (x : OdXfer) : (odEnqueue x s).dir = s.dir := rfl
@[simp] theorem odEnqueue_dram (x : OdXfer) : (odEnqueue x s).dram = s.dram := rfl
@[simp] theorem odEnqueue_tc (x : OdXfer) : (odEnqueue x s).tc = s.tc := rfl
@[simp] theorem odEnqueue_sems (x : OdXfer) : (odEnqueue x s).sems = s.sems := rfl
@[simp] theorem odEnqueue_kc (x : OdXfer) : (odEnqueue x s).kc = s.kc := rfl
@[simp] theorem odEnqueue_fab (x : OdXfer) : (odEnqueue x s).fab = s.fab := rfl
@[simp] theorem odEnqueue_ing (x : OdXfer) : (odEnqueue x s).ing = s.ing := rfl
@[simp] theorem odEnqueue_vox (x : OdXfer) : (odEnqueue x s).vox = s.vox := rfl
@[simp] theorem odEnqueue_sel (x : OdXfer) : (odEnqueue x s).sel = s.sel := rfl
@[simp] theorem odEnqueue_out (x : OdXfer) : (odEnqueue x s).out = s.out := rfl

/-! ### `setCore` changes `kc` only -/

@[simp] theorem setCore_pending (c : Nat) (x : Core) : (setCore c x s).pending = s.pending := rfl
@[simp] theorem setCore_free (c : Nat) (x : Core) : (setCore c x s).free = s.free := rfl
@[simp] theorem setCore_regs (c : Nat) (x : Core) : (setCore c x s).regs = s.regs := rfl
@[simp] theorem setCore_latch (c : Nat) (x : Core) : (setCore c x s).latch = s.latch := rfl
@[simp] theorem setCore_stage (c : Nat) (x : Core) : (setCore c x s).stage = s.stage := rfl
@[simp] theorem setCore_reply (c : Nat) (x : Core) : (setCore c x s).reply = s.reply := rfl
@[simp] theorem setCore_od (c : Nat) (x : Core) : (setCore c x s).od = s.od := rfl
@[simp] theorem setCore_budget (c : Nat) (x : Core) : (setCore c x s).budget = s.budget := rfl
@[simp] theorem setCore_slotNo (c : Nat) (x : Core) : (setCore c x s).slotNo = s.slotNo := rfl
@[simp] theorem setCore_frameNo (c : Nat) (x : Core) : (setCore c x s).frameNo = s.frameNo := rfl
@[simp] theorem setCore_sluiceUs (c : Nat) (x : Core) : (setCore c x s).sluiceUs = s.sluiceUs := rfl
@[simp] theorem setCore_openLast (c : Nat) (x : Core) : (setCore c x s).openLast = s.openLast := rfl
@[simp] theorem setCore_tb (c : Nat) (x : Core) : (setCore c x s).tb = s.tb := rfl
@[simp] theorem setCore_jr (c : Nat) (x : Core) : (setCore c x s).jr = s.jr := rfl
@[simp] theorem setCore_img (c : Nat) (x : Core) : (setCore c x s).img = s.img := rfl
@[simp] theorem setCore_saf (c : Nat) (x : Core) : (setCore c x s).saf = s.saf := rfl
@[simp] theorem setCore_node (c : Nat) (x : Core) : (setCore c x s).node = s.node := rfl
@[simp] theorem setCore_fio (c : Nat) (x : Core) : (setCore c x s).fio = s.fio := rfl
@[simp] theorem setCore_clk (c : Nat) (x : Core) : (setCore c x s).clk = s.clk := rfl
@[simp] theorem setCore_fuses (c : Nat) (x : Core) : (setCore c x s).fuses = s.fuses := rfl
@[simp] theorem setCore_flash (c : Nat) (x : Core) : (setCore c x s).flash = s.flash := rfl
@[simp] theorem setCore_boot (c : Nat) (x : Core) : (setCore c x s).boot = s.boot := rfl
@[simp] theorem setCore_dbg (c : Nat) (x : Core) : (setCore c x s).dbg = s.dbg := rfl
@[simp] theorem setCore_parts (c : Nat) (x : Core) : (setCore c x s).parts = s.parts := rfl
@[simp] theorem setCore_hst (c : Nat) (x : Core) : (setCore c x s).hst = s.hst := rfl
@[simp] theorem setCore_dir (c : Nat) (x : Core) : (setCore c x s).dir = s.dir := rfl
@[simp] theorem setCore_dram (c : Nat) (x : Core) : (setCore c x s).dram = s.dram := rfl
@[simp] theorem setCore_tc (c : Nat) (x : Core) : (setCore c x s).tc = s.tc := rfl
@[simp] theorem setCore_sems (c : Nat) (x : Core) : (setCore c x s).sems = s.sems := rfl
@[simp] theorem setCore_fab (c : Nat) (x : Core) : (setCore c x s).fab = s.fab := rfl
@[simp] theorem setCore_ing (c : Nat) (x : Core) : (setCore c x s).ing = s.ing := rfl
@[simp] theorem setCore_vox (c : Nat) (x : Core) : (setCore c x s).vox = s.vox := rfl
@[simp] theorem setCore_sel (c : Nat) (x : Core) : (setCore c x s).sel = s.sel := rfl
@[simp] theorem setCore_out (c : Nat) (x : Core) : (setCore c x s).out = s.out := rfl

/-! ### `setJob` changes `hst` only -/

@[simp] theorem setJob_pending (n : Nat) (j : Job) : (setJob n j s).pending = s.pending := rfl
@[simp] theorem setJob_free (n : Nat) (j : Job) : (setJob n j s).free = s.free := rfl
@[simp] theorem setJob_regs (n : Nat) (j : Job) : (setJob n j s).regs = s.regs := rfl
@[simp] theorem setJob_latch (n : Nat) (j : Job) : (setJob n j s).latch = s.latch := rfl
@[simp] theorem setJob_stage (n : Nat) (j : Job) : (setJob n j s).stage = s.stage := rfl
@[simp] theorem setJob_reply (n : Nat) (j : Job) : (setJob n j s).reply = s.reply := rfl
@[simp] theorem setJob_od (n : Nat) (j : Job) : (setJob n j s).od = s.od := rfl
@[simp] theorem setJob_budget (n : Nat) (j : Job) : (setJob n j s).budget = s.budget := rfl
@[simp] theorem setJob_slotNo (n : Nat) (j : Job) : (setJob n j s).slotNo = s.slotNo := rfl
@[simp] theorem setJob_frameNo (n : Nat) (j : Job) : (setJob n j s).frameNo = s.frameNo := rfl
@[simp] theorem setJob_sluiceUs (n : Nat) (j : Job) : (setJob n j s).sluiceUs = s.sluiceUs := rfl
@[simp] theorem setJob_openLast (n : Nat) (j : Job) : (setJob n j s).openLast = s.openLast := rfl
@[simp] theorem setJob_tb (n : Nat) (j : Job) : (setJob n j s).tb = s.tb := rfl
@[simp] theorem setJob_jr (n : Nat) (j : Job) : (setJob n j s).jr = s.jr := rfl
@[simp] theorem setJob_img (n : Nat) (j : Job) : (setJob n j s).img = s.img := rfl
@[simp] theorem setJob_saf (n : Nat) (j : Job) : (setJob n j s).saf = s.saf := rfl
@[simp] theorem setJob_node (n : Nat) (j : Job) : (setJob n j s).node = s.node := rfl
@[simp] theorem setJob_fio (n : Nat) (j : Job) : (setJob n j s).fio = s.fio := rfl
@[simp] theorem setJob_clk (n : Nat) (j : Job) : (setJob n j s).clk = s.clk := rfl
@[simp] theorem setJob_fuses (n : Nat) (j : Job) : (setJob n j s).fuses = s.fuses := rfl
@[simp] theorem setJob_flash (n : Nat) (j : Job) : (setJob n j s).flash = s.flash := rfl
@[simp] theorem setJob_boot (n : Nat) (j : Job) : (setJob n j s).boot = s.boot := rfl
@[simp] theorem setJob_dbg (n : Nat) (j : Job) : (setJob n j s).dbg = s.dbg := rfl
@[simp] theorem setJob_parts (n : Nat) (j : Job) : (setJob n j s).parts = s.parts := rfl
@[simp] theorem setJob_dir (n : Nat) (j : Job) : (setJob n j s).dir = s.dir := rfl
@[simp] theorem setJob_dram (n : Nat) (j : Job) : (setJob n j s).dram = s.dram := rfl
@[simp] theorem setJob_tc (n : Nat) (j : Job) : (setJob n j s).tc = s.tc := rfl
@[simp] theorem setJob_sems (n : Nat) (j : Job) : (setJob n j s).sems = s.sems := rfl
@[simp] theorem setJob_kc (n : Nat) (j : Job) : (setJob n j s).kc = s.kc := rfl
@[simp] theorem setJob_fab (n : Nat) (j : Job) : (setJob n j s).fab = s.fab := rfl
@[simp] theorem setJob_ing (n : Nat) (j : Job) : (setJob n j s).ing = s.ing := rfl
@[simp] theorem setJob_vox (n : Nat) (j : Job) : (setJob n j s).vox = s.vox := rfl
@[simp] theorem setJob_sel (n : Nat) (j : Job) : (setJob n j s).sel = s.sel := rfl
@[simp] theorem setJob_out (n : Nat) (j : Job) : (setJob n j s).out = s.out := rfl

/-! ### `modDir` changes `dir` only -/

@[simp] theorem modDir_pending (f : Dir → Dir) : (modDir f s).pending = s.pending := rfl
@[simp] theorem modDir_free (f : Dir → Dir) : (modDir f s).free = s.free := rfl
@[simp] theorem modDir_regs (f : Dir → Dir) : (modDir f s).regs = s.regs := rfl
@[simp] theorem modDir_latch (f : Dir → Dir) : (modDir f s).latch = s.latch := rfl
@[simp] theorem modDir_stage (f : Dir → Dir) : (modDir f s).stage = s.stage := rfl
@[simp] theorem modDir_reply (f : Dir → Dir) : (modDir f s).reply = s.reply := rfl
@[simp] theorem modDir_od (f : Dir → Dir) : (modDir f s).od = s.od := rfl
@[simp] theorem modDir_budget (f : Dir → Dir) : (modDir f s).budget = s.budget := rfl
@[simp] theorem modDir_slotNo (f : Dir → Dir) : (modDir f s).slotNo = s.slotNo := rfl
@[simp] theorem modDir_frameNo (f : Dir → Dir) : (modDir f s).frameNo = s.frameNo := rfl
@[simp] theorem modDir_sluiceUs (f : Dir → Dir) : (modDir f s).sluiceUs = s.sluiceUs := rfl
@[simp] theorem modDir_openLast (f : Dir → Dir) : (modDir f s).openLast = s.openLast := rfl
@[simp] theorem modDir_tb (f : Dir → Dir) : (modDir f s).tb = s.tb := rfl
@[simp] theorem modDir_jr (f : Dir → Dir) : (modDir f s).jr = s.jr := rfl
@[simp] theorem modDir_img (f : Dir → Dir) : (modDir f s).img = s.img := rfl
@[simp] theorem modDir_saf (f : Dir → Dir) : (modDir f s).saf = s.saf := rfl
@[simp] theorem modDir_node (f : Dir → Dir) : (modDir f s).node = s.node := rfl
@[simp] theorem modDir_fio (f : Dir → Dir) : (modDir f s).fio = s.fio := rfl
@[simp] theorem modDir_clk (f : Dir → Dir) : (modDir f s).clk = s.clk := rfl
@[simp] theorem modDir_fuses (f : Dir → Dir) : (modDir f s).fuses = s.fuses := rfl
@[simp] theorem modDir_flash (f : Dir → Dir) : (modDir f s).flash = s.flash := rfl
@[simp] theorem modDir_boot (f : Dir → Dir) : (modDir f s).boot = s.boot := rfl
@[simp] theorem modDir_dbg (f : Dir → Dir) : (modDir f s).dbg = s.dbg := rfl
@[simp] theorem modDir_parts (f : Dir → Dir) : (modDir f s).parts = s.parts := rfl
@[simp] theorem modDir_hst (f : Dir → Dir) : (modDir f s).hst = s.hst := rfl
@[simp] theorem modDir_dram (f : Dir → Dir) : (modDir f s).dram = s.dram := rfl
@[simp] theorem modDir_tc (f : Dir → Dir) : (modDir f s).tc = s.tc := rfl
@[simp] theorem modDir_sems (f : Dir → Dir) : (modDir f s).sems = s.sems := rfl
@[simp] theorem modDir_kc (f : Dir → Dir) : (modDir f s).kc = s.kc := rfl
@[simp] theorem modDir_fab (f : Dir → Dir) : (modDir f s).fab = s.fab := rfl
@[simp] theorem modDir_ing (f : Dir → Dir) : (modDir f s).ing = s.ing := rfl
@[simp] theorem modDir_vox (f : Dir → Dir) : (modDir f s).vox = s.vox := rfl
@[simp] theorem modDir_sel (f : Dir → Dir) : (modDir f s).sel = s.sel := rfl
@[simp] theorem modDir_out (f : Dir → Dir) : (modDir f s).out = s.out := rfl

/-! ### `setIngCtx` changes `ing` only -/

@[simp] theorem setIngCtx_pending (c : Nat) (x : StreamCtx) : (setIngCtx c x s).pending = s.pending := rfl
@[simp] theorem setIngCtx_free (c : Nat) (x : StreamCtx) : (setIngCtx c x s).free = s.free := rfl
@[simp] theorem setIngCtx_regs (c : Nat) (x : StreamCtx) : (setIngCtx c x s).regs = s.regs := rfl
@[simp] theorem setIngCtx_latch (c : Nat) (x : StreamCtx) : (setIngCtx c x s).latch = s.latch := rfl
@[simp] theorem setIngCtx_stage (c : Nat) (x : StreamCtx) : (setIngCtx c x s).stage = s.stage := rfl
@[simp] theorem setIngCtx_reply (c : Nat) (x : StreamCtx) : (setIngCtx c x s).reply = s.reply := rfl
@[simp] theorem setIngCtx_od (c : Nat) (x : StreamCtx) : (setIngCtx c x s).od = s.od := rfl
@[simp] theorem setIngCtx_budget (c : Nat) (x : StreamCtx) : (setIngCtx c x s).budget = s.budget := rfl
@[simp] theorem setIngCtx_slotNo (c : Nat) (x : StreamCtx) : (setIngCtx c x s).slotNo = s.slotNo := rfl
@[simp] theorem setIngCtx_frameNo (c : Nat) (x : StreamCtx) : (setIngCtx c x s).frameNo = s.frameNo := rfl
@[simp] theorem setIngCtx_sluiceUs (c : Nat) (x : StreamCtx) : (setIngCtx c x s).sluiceUs = s.sluiceUs := rfl
@[simp] theorem setIngCtx_openLast (c : Nat) (x : StreamCtx) : (setIngCtx c x s).openLast = s.openLast := rfl
@[simp] theorem setIngCtx_tb (c : Nat) (x : StreamCtx) : (setIngCtx c x s).tb = s.tb := rfl
@[simp] theorem setIngCtx_jr (c : Nat) (x : StreamCtx) : (setIngCtx c x s).jr = s.jr := rfl
@[simp] theorem setIngCtx_img (c : Nat) (x : StreamCtx) : (setIngCtx c x s).img = s.img := rfl
@[simp] theorem setIngCtx_saf (c : Nat) (x : StreamCtx) : (setIngCtx c x s).saf = s.saf := rfl
@[simp] theorem setIngCtx_node (c : Nat) (x : StreamCtx) : (setIngCtx c x s).node = s.node := rfl
@[simp] theorem setIngCtx_fio (c : Nat) (x : StreamCtx) : (setIngCtx c x s).fio = s.fio := rfl
@[simp] theorem setIngCtx_clk (c : Nat) (x : StreamCtx) : (setIngCtx c x s).clk = s.clk := rfl
@[simp] theorem setIngCtx_fuses (c : Nat) (x : StreamCtx) : (setIngCtx c x s).fuses = s.fuses := rfl
@[simp] theorem setIngCtx_flash (c : Nat) (x : StreamCtx) : (setIngCtx c x s).flash = s.flash := rfl
@[simp] theorem setIngCtx_boot (c : Nat) (x : StreamCtx) : (setIngCtx c x s).boot = s.boot := rfl
@[simp] theorem setIngCtx_dbg (c : Nat) (x : StreamCtx) : (setIngCtx c x s).dbg = s.dbg := rfl
@[simp] theorem setIngCtx_parts (c : Nat) (x : StreamCtx) : (setIngCtx c x s).parts = s.parts := rfl
@[simp] theorem setIngCtx_hst (c : Nat) (x : StreamCtx) : (setIngCtx c x s).hst = s.hst := rfl
@[simp] theorem setIngCtx_dir (c : Nat) (x : StreamCtx) : (setIngCtx c x s).dir = s.dir := rfl
@[simp] theorem setIngCtx_dram (c : Nat) (x : StreamCtx) : (setIngCtx c x s).dram = s.dram := rfl
@[simp] theorem setIngCtx_tc (c : Nat) (x : StreamCtx) : (setIngCtx c x s).tc = s.tc := rfl
@[simp] theorem setIngCtx_sems (c : Nat) (x : StreamCtx) : (setIngCtx c x s).sems = s.sems := rfl
@[simp] theorem setIngCtx_kc (c : Nat) (x : StreamCtx) : (setIngCtx c x s).kc = s.kc := rfl
@[simp] theorem setIngCtx_fab (c : Nat) (x : StreamCtx) : (setIngCtx c x s).fab = s.fab := rfl
@[simp] theorem setIngCtx_vox (c : Nat) (x : StreamCtx) : (setIngCtx c x s).vox = s.vox := rfl
@[simp] theorem setIngCtx_sel (c : Nat) (x : StreamCtx) : (setIngCtx c x s).sel = s.sel := rfl
@[simp] theorem setIngCtx_out (c : Nat) (x : StreamCtx) : (setIngCtx c x s).out = s.out := rfl

/-! ### `setVoxCtx` changes `vox` only -/

@[simp] theorem setVoxCtx_pending (c : Nat) (x : VoxCtx) : (setVoxCtx c x s).pending = s.pending := rfl
@[simp] theorem setVoxCtx_free (c : Nat) (x : VoxCtx) : (setVoxCtx c x s).free = s.free := rfl
@[simp] theorem setVoxCtx_regs (c : Nat) (x : VoxCtx) : (setVoxCtx c x s).regs = s.regs := rfl
@[simp] theorem setVoxCtx_latch (c : Nat) (x : VoxCtx) : (setVoxCtx c x s).latch = s.latch := rfl
@[simp] theorem setVoxCtx_stage (c : Nat) (x : VoxCtx) : (setVoxCtx c x s).stage = s.stage := rfl
@[simp] theorem setVoxCtx_reply (c : Nat) (x : VoxCtx) : (setVoxCtx c x s).reply = s.reply := rfl
@[simp] theorem setVoxCtx_od (c : Nat) (x : VoxCtx) : (setVoxCtx c x s).od = s.od := rfl
@[simp] theorem setVoxCtx_budget (c : Nat) (x : VoxCtx) : (setVoxCtx c x s).budget = s.budget := rfl
@[simp] theorem setVoxCtx_slotNo (c : Nat) (x : VoxCtx) : (setVoxCtx c x s).slotNo = s.slotNo := rfl
@[simp] theorem setVoxCtx_frameNo (c : Nat) (x : VoxCtx) : (setVoxCtx c x s).frameNo = s.frameNo := rfl
@[simp] theorem setVoxCtx_sluiceUs (c : Nat) (x : VoxCtx) : (setVoxCtx c x s).sluiceUs = s.sluiceUs := rfl
@[simp] theorem setVoxCtx_openLast (c : Nat) (x : VoxCtx) : (setVoxCtx c x s).openLast = s.openLast := rfl
@[simp] theorem setVoxCtx_tb (c : Nat) (x : VoxCtx) : (setVoxCtx c x s).tb = s.tb := rfl
@[simp] theorem setVoxCtx_jr (c : Nat) (x : VoxCtx) : (setVoxCtx c x s).jr = s.jr := rfl
@[simp] theorem setVoxCtx_img (c : Nat) (x : VoxCtx) : (setVoxCtx c x s).img = s.img := rfl
@[simp] theorem setVoxCtx_saf (c : Nat) (x : VoxCtx) : (setVoxCtx c x s).saf = s.saf := rfl
@[simp] theorem setVoxCtx_node (c : Nat) (x : VoxCtx) : (setVoxCtx c x s).node = s.node := rfl
@[simp] theorem setVoxCtx_fio (c : Nat) (x : VoxCtx) : (setVoxCtx c x s).fio = s.fio := rfl
@[simp] theorem setVoxCtx_clk (c : Nat) (x : VoxCtx) : (setVoxCtx c x s).clk = s.clk := rfl
@[simp] theorem setVoxCtx_fuses (c : Nat) (x : VoxCtx) : (setVoxCtx c x s).fuses = s.fuses := rfl
@[simp] theorem setVoxCtx_flash (c : Nat) (x : VoxCtx) : (setVoxCtx c x s).flash = s.flash := rfl
@[simp] theorem setVoxCtx_boot (c : Nat) (x : VoxCtx) : (setVoxCtx c x s).boot = s.boot := rfl
@[simp] theorem setVoxCtx_dbg (c : Nat) (x : VoxCtx) : (setVoxCtx c x s).dbg = s.dbg := rfl
@[simp] theorem setVoxCtx_parts (c : Nat) (x : VoxCtx) : (setVoxCtx c x s).parts = s.parts := rfl
@[simp] theorem setVoxCtx_hst (c : Nat) (x : VoxCtx) : (setVoxCtx c x s).hst = s.hst := rfl
@[simp] theorem setVoxCtx_dir (c : Nat) (x : VoxCtx) : (setVoxCtx c x s).dir = s.dir := rfl
@[simp] theorem setVoxCtx_dram (c : Nat) (x : VoxCtx) : (setVoxCtx c x s).dram = s.dram := rfl
@[simp] theorem setVoxCtx_tc (c : Nat) (x : VoxCtx) : (setVoxCtx c x s).tc = s.tc := rfl
@[simp] theorem setVoxCtx_sems (c : Nat) (x : VoxCtx) : (setVoxCtx c x s).sems = s.sems := rfl
@[simp] theorem setVoxCtx_kc (c : Nat) (x : VoxCtx) : (setVoxCtx c x s).kc = s.kc := rfl
@[simp] theorem setVoxCtx_fab (c : Nat) (x : VoxCtx) : (setVoxCtx c x s).fab = s.fab := rfl
@[simp] theorem setVoxCtx_ing (c : Nat) (x : VoxCtx) : (setVoxCtx c x s).ing = s.ing := rfl
@[simp] theorem setVoxCtx_sel (c : Nat) (x : VoxCtx) : (setVoxCtx c x s).sel = s.sel := rfl
@[simp] theorem setVoxCtx_out (c : Nat) (x : VoxCtx) : (setVoxCtx c x s).out = s.out := rfl

/-! ### `setIr` changes `dbg` only -/

@[simp] theorem setIr_pending (n : Nat) : (setIr n s).pending = s.pending := rfl
@[simp] theorem setIr_free (n : Nat) : (setIr n s).free = s.free := rfl
@[simp] theorem setIr_regs (n : Nat) : (setIr n s).regs = s.regs := rfl
@[simp] theorem setIr_latch (n : Nat) : (setIr n s).latch = s.latch := rfl
@[simp] theorem setIr_stage (n : Nat) : (setIr n s).stage = s.stage := rfl
@[simp] theorem setIr_reply (n : Nat) : (setIr n s).reply = s.reply := rfl
@[simp] theorem setIr_od (n : Nat) : (setIr n s).od = s.od := rfl
@[simp] theorem setIr_budget (n : Nat) : (setIr n s).budget = s.budget := rfl
@[simp] theorem setIr_slotNo (n : Nat) : (setIr n s).slotNo = s.slotNo := rfl
@[simp] theorem setIr_frameNo (n : Nat) : (setIr n s).frameNo = s.frameNo := rfl
@[simp] theorem setIr_sluiceUs (n : Nat) : (setIr n s).sluiceUs = s.sluiceUs := rfl
@[simp] theorem setIr_openLast (n : Nat) : (setIr n s).openLast = s.openLast := rfl
@[simp] theorem setIr_tb (n : Nat) : (setIr n s).tb = s.tb := rfl
@[simp] theorem setIr_jr (n : Nat) : (setIr n s).jr = s.jr := rfl
@[simp] theorem setIr_img (n : Nat) : (setIr n s).img = s.img := rfl
@[simp] theorem setIr_saf (n : Nat) : (setIr n s).saf = s.saf := rfl
@[simp] theorem setIr_node (n : Nat) : (setIr n s).node = s.node := rfl
@[simp] theorem setIr_fio (n : Nat) : (setIr n s).fio = s.fio := rfl
@[simp] theorem setIr_clk (n : Nat) : (setIr n s).clk = s.clk := rfl
@[simp] theorem setIr_fuses (n : Nat) : (setIr n s).fuses = s.fuses := rfl
@[simp] theorem setIr_flash (n : Nat) : (setIr n s).flash = s.flash := rfl
@[simp] theorem setIr_boot (n : Nat) : (setIr n s).boot = s.boot := rfl
@[simp] theorem setIr_parts (n : Nat) : (setIr n s).parts = s.parts := rfl
@[simp] theorem setIr_hst (n : Nat) : (setIr n s).hst = s.hst := rfl
@[simp] theorem setIr_dir (n : Nat) : (setIr n s).dir = s.dir := rfl
@[simp] theorem setIr_dram (n : Nat) : (setIr n s).dram = s.dram := rfl
@[simp] theorem setIr_tc (n : Nat) : (setIr n s).tc = s.tc := rfl
@[simp] theorem setIr_sems (n : Nat) : (setIr n s).sems = s.sems := rfl
@[simp] theorem setIr_kc (n : Nat) : (setIr n s).kc = s.kc := rfl
@[simp] theorem setIr_fab (n : Nat) : (setIr n s).fab = s.fab := rfl
@[simp] theorem setIr_ing (n : Nat) : (setIr n s).ing = s.ing := rfl
@[simp] theorem setIr_vox (n : Nat) : (setIr n s).vox = s.vox := rfl
@[simp] theorem setIr_sel (n : Nat) : (setIr n s).sel = s.sel := rfl
@[simp] theorem setIr_out (n : Nat) : (setIr n s).out = s.out := rfl

/-! ### `tcInval` changes `tc` only -/

@[simp] theorem tcInval_pending (p : Nat) : (tcInval p s).pending = s.pending := rfl
@[simp] theorem tcInval_free (p : Nat) : (tcInval p s).free = s.free := rfl
@[simp] theorem tcInval_regs (p : Nat) : (tcInval p s).regs = s.regs := rfl
@[simp] theorem tcInval_latch (p : Nat) : (tcInval p s).latch = s.latch := rfl
@[simp] theorem tcInval_stage (p : Nat) : (tcInval p s).stage = s.stage := rfl
@[simp] theorem tcInval_reply (p : Nat) : (tcInval p s).reply = s.reply := rfl
@[simp] theorem tcInval_od (p : Nat) : (tcInval p s).od = s.od := rfl
@[simp] theorem tcInval_budget (p : Nat) : (tcInval p s).budget = s.budget := rfl
@[simp] theorem tcInval_slotNo (p : Nat) : (tcInval p s).slotNo = s.slotNo := rfl
@[simp] theorem tcInval_frameNo (p : Nat) : (tcInval p s).frameNo = s.frameNo := rfl
@[simp] theorem tcInval_sluiceUs (p : Nat) : (tcInval p s).sluiceUs = s.sluiceUs := rfl
@[simp] theorem tcInval_openLast (p : Nat) : (tcInval p s).openLast = s.openLast := rfl
@[simp] theorem tcInval_tb (p : Nat) : (tcInval p s).tb = s.tb := rfl
@[simp] theorem tcInval_jr (p : Nat) : (tcInval p s).jr = s.jr := rfl
@[simp] theorem tcInval_img (p : Nat) : (tcInval p s).img = s.img := rfl
@[simp] theorem tcInval_saf (p : Nat) : (tcInval p s).saf = s.saf := rfl
@[simp] theorem tcInval_node (p : Nat) : (tcInval p s).node = s.node := rfl
@[simp] theorem tcInval_fio (p : Nat) : (tcInval p s).fio = s.fio := rfl
@[simp] theorem tcInval_clk (p : Nat) : (tcInval p s).clk = s.clk := rfl
@[simp] theorem tcInval_fuses (p : Nat) : (tcInval p s).fuses = s.fuses := rfl
@[simp] theorem tcInval_flash (p : Nat) : (tcInval p s).flash = s.flash := rfl
@[simp] theorem tcInval_boot (p : Nat) : (tcInval p s).boot = s.boot := rfl
@[simp] theorem tcInval_dbg (p : Nat) : (tcInval p s).dbg = s.dbg := rfl
@[simp] theorem tcInval_parts (p : Nat) : (tcInval p s).parts = s.parts := rfl
@[simp] theorem tcInval_hst (p : Nat) : (tcInval p s).hst = s.hst := rfl
@[simp] theorem tcInval_dir (p : Nat) : (tcInval p s).dir = s.dir := rfl
@[simp] theorem tcInval_dram (p : Nat) : (tcInval p s).dram = s.dram := rfl
@[simp] theorem tcInval_sems (p : Nat) : (tcInval p s).sems = s.sems := rfl
@[simp] theorem tcInval_kc (p : Nat) : (tcInval p s).kc = s.kc := rfl
@[simp] theorem tcInval_fab (p : Nat) : (tcInval p s).fab = s.fab := rfl
@[simp] theorem tcInval_ing (p : Nat) : (tcInval p s).ing = s.ing := rfl
@[simp] theorem tcInval_vox (p : Nat) : (tcInval p s).vox = s.vox := rfl
@[simp] theorem tcInval_sel (p : Nat) : (tcInval p s).sel = s.sel := rfl
@[simp] theorem tcInval_out (p : Nat) : (tcInval p s).out = s.out := rfl

/-! ### `selPop` changes `sel` only -/

@[simp] theorem selPop_pending (p : Nat) : (selPop p s).pending = s.pending := rfl
@[simp] theorem selPop_free (p : Nat) : (selPop p s).free = s.free := rfl
@[simp] theorem selPop_regs (p : Nat) : (selPop p s).regs = s.regs := rfl
@[simp] theorem selPop_latch (p : Nat) : (selPop p s).latch = s.latch := rfl
@[simp] theorem selPop_stage (p : Nat) : (selPop p s).stage = s.stage := rfl
@[simp] theorem selPop_reply (p : Nat) : (selPop p s).reply = s.reply := rfl
@[simp] theorem selPop_od (p : Nat) : (selPop p s).od = s.od := rfl
@[simp] theorem selPop_budget (p : Nat) : (selPop p s).budget = s.budget := rfl
@[simp] theorem selPop_slotNo (p : Nat) : (selPop p s).slotNo = s.slotNo := rfl
@[simp] theorem selPop_frameNo (p : Nat) : (selPop p s).frameNo = s.frameNo := rfl
@[simp] theorem selPop_sluiceUs (p : Nat) : (selPop p s).sluiceUs = s.sluiceUs := rfl
@[simp] theorem selPop_openLast (p : Nat) : (selPop p s).openLast = s.openLast := rfl
@[simp] theorem selPop_tb (p : Nat) : (selPop p s).tb = s.tb := rfl
@[simp] theorem selPop_jr (p : Nat) : (selPop p s).jr = s.jr := rfl
@[simp] theorem selPop_img (p : Nat) : (selPop p s).img = s.img := rfl
@[simp] theorem selPop_saf (p : Nat) : (selPop p s).saf = s.saf := rfl
@[simp] theorem selPop_node (p : Nat) : (selPop p s).node = s.node := rfl
@[simp] theorem selPop_fio (p : Nat) : (selPop p s).fio = s.fio := rfl
@[simp] theorem selPop_clk (p : Nat) : (selPop p s).clk = s.clk := rfl
@[simp] theorem selPop_fuses (p : Nat) : (selPop p s).fuses = s.fuses := rfl
@[simp] theorem selPop_flash (p : Nat) : (selPop p s).flash = s.flash := rfl
@[simp] theorem selPop_boot (p : Nat) : (selPop p s).boot = s.boot := rfl
@[simp] theorem selPop_dbg (p : Nat) : (selPop p s).dbg = s.dbg := rfl
@[simp] theorem selPop_parts (p : Nat) : (selPop p s).parts = s.parts := rfl
@[simp] theorem selPop_hst (p : Nat) : (selPop p s).hst = s.hst := rfl
@[simp] theorem selPop_dir (p : Nat) : (selPop p s).dir = s.dir := rfl
@[simp] theorem selPop_dram (p : Nat) : (selPop p s).dram = s.dram := rfl
@[simp] theorem selPop_tc (p : Nat) : (selPop p s).tc = s.tc := rfl
@[simp] theorem selPop_sems (p : Nat) : (selPop p s).sems = s.sems := rfl
@[simp] theorem selPop_kc (p : Nat) : (selPop p s).kc = s.kc := rfl
@[simp] theorem selPop_fab (p : Nat) : (selPop p s).fab = s.fab := rfl
@[simp] theorem selPop_ing (p : Nat) : (selPop p s).ing = s.ing := rfl
@[simp] theorem selPop_vox (p : Nat) : (selPop p s).vox = s.vox := rfl
@[simp] theorem selPop_out (p : Nat) : (selPop p s).out = s.out := rfl

/-! ### `clearSems` changes `sems` only -/

@[simp] theorem clearSems_pending (m : Nat) : (clearSems m s).pending = s.pending := by unfold clearSems; rfl
@[simp] theorem clearSems_free (m : Nat) : (clearSems m s).free = s.free := by unfold clearSems; rfl
@[simp] theorem clearSems_regs (m : Nat) : (clearSems m s).regs = s.regs := by unfold clearSems; rfl
@[simp] theorem clearSems_latch (m : Nat) : (clearSems m s).latch = s.latch := by unfold clearSems; rfl
@[simp] theorem clearSems_stage (m : Nat) : (clearSems m s).stage = s.stage := by unfold clearSems; rfl
@[simp] theorem clearSems_reply (m : Nat) : (clearSems m s).reply = s.reply := by unfold clearSems; rfl
@[simp] theorem clearSems_od (m : Nat) : (clearSems m s).od = s.od := by unfold clearSems; rfl
@[simp] theorem clearSems_budget (m : Nat) : (clearSems m s).budget = s.budget := by unfold clearSems; rfl
@[simp] theorem clearSems_slotNo (m : Nat) : (clearSems m s).slotNo = s.slotNo := by unfold clearSems; rfl
@[simp] theorem clearSems_frameNo (m : Nat) : (clearSems m s).frameNo = s.frameNo := by unfold clearSems; rfl
@[simp] theorem clearSems_sluiceUs (m : Nat) : (clearSems m s).sluiceUs = s.sluiceUs := by unfold clearSems; rfl
@[simp] theorem clearSems_openLast (m : Nat) : (clearSems m s).openLast = s.openLast := by unfold clearSems; rfl
@[simp] theorem clearSems_tb (m : Nat) : (clearSems m s).tb = s.tb := by unfold clearSems; rfl
@[simp] theorem clearSems_jr (m : Nat) : (clearSems m s).jr = s.jr := by unfold clearSems; rfl
@[simp] theorem clearSems_img (m : Nat) : (clearSems m s).img = s.img := by unfold clearSems; rfl
@[simp] theorem clearSems_saf (m : Nat) : (clearSems m s).saf = s.saf := by unfold clearSems; rfl
@[simp] theorem clearSems_node (m : Nat) : (clearSems m s).node = s.node := by unfold clearSems; rfl
@[simp] theorem clearSems_fio (m : Nat) : (clearSems m s).fio = s.fio := by unfold clearSems; rfl
@[simp] theorem clearSems_clk (m : Nat) : (clearSems m s).clk = s.clk := by unfold clearSems; rfl
@[simp] theorem clearSems_fuses (m : Nat) : (clearSems m s).fuses = s.fuses := by unfold clearSems; rfl
@[simp] theorem clearSems_flash (m : Nat) : (clearSems m s).flash = s.flash := by unfold clearSems; rfl
@[simp] theorem clearSems_boot (m : Nat) : (clearSems m s).boot = s.boot := by unfold clearSems; rfl
@[simp] theorem clearSems_dbg (m : Nat) : (clearSems m s).dbg = s.dbg := by unfold clearSems; rfl
@[simp] theorem clearSems_parts (m : Nat) : (clearSems m s).parts = s.parts := by unfold clearSems; rfl
@[simp] theorem clearSems_hst (m : Nat) : (clearSems m s).hst = s.hst := by unfold clearSems; rfl
@[simp] theorem clearSems_dir (m : Nat) : (clearSems m s).dir = s.dir := by unfold clearSems; rfl
@[simp] theorem clearSems_dram (m : Nat) : (clearSems m s).dram = s.dram := by unfold clearSems; rfl
@[simp] theorem clearSems_tc (m : Nat) : (clearSems m s).tc = s.tc := by unfold clearSems; rfl
@[simp] theorem clearSems_kc (m : Nat) : (clearSems m s).kc = s.kc := by unfold clearSems; rfl
@[simp] theorem clearSems_fab (m : Nat) : (clearSems m s).fab = s.fab := by unfold clearSems; rfl
@[simp] theorem clearSems_ing (m : Nat) : (clearSems m s).ing = s.ing := by unfold clearSems; rfl
@[simp] theorem clearSems_vox (m : Nat) : (clearSems m s).vox = s.vox := by unfold clearSems; rfl
@[simp] theorem clearSems_sel (m : Nat) : (clearSems m s).sel = s.sel := by unfold clearSems; rfl
@[simp] theorem clearSems_out (m : Nat) : (clearSems m s).out = s.out := by unfold clearSems; rfl

/-! ### `latchPut` changes `latch` only -/

@[simp] theorem latchPut_pending (r : Requester) (a v : Nat) : (latchPut r a v s).pending = s.pending := by unfold latchPut; rfl
@[simp] theorem latchPut_free (r : Requester) (a v : Nat) : (latchPut r a v s).free = s.free := by unfold latchPut; rfl
@[simp] theorem latchPut_regs (r : Requester) (a v : Nat) : (latchPut r a v s).regs = s.regs := by unfold latchPut; rfl
@[simp] theorem latchPut_stage (r : Requester) (a v : Nat) : (latchPut r a v s).stage = s.stage := by unfold latchPut; rfl
@[simp] theorem latchPut_reply (r : Requester) (a v : Nat) : (latchPut r a v s).reply = s.reply := by unfold latchPut; rfl
@[simp] theorem latchPut_od (r : Requester) (a v : Nat) : (latchPut r a v s).od = s.od := by unfold latchPut; rfl
@[simp] theorem latchPut_budget (r : Requester) (a v : Nat) : (latchPut r a v s).budget = s.budget := by unfold latchPut; rfl
@[simp] theorem latchPut_slotNo (r : Requester) (a v : Nat) : (latchPut r a v s).slotNo = s.slotNo := by unfold latchPut; rfl
@[simp] theorem latchPut_frameNo (r : Requester) (a v : Nat) : (latchPut r a v s).frameNo = s.frameNo := by unfold latchPut; rfl
@[simp] theorem latchPut_sluiceUs (r : Requester) (a v : Nat) : (latchPut r a v s).sluiceUs = s.sluiceUs := by unfold latchPut; rfl
@[simp] theorem latchPut_openLast (r : Requester) (a v : Nat) : (latchPut r a v s).openLast = s.openLast := by unfold latchPut; rfl
@[simp] theorem latchPut_tb (r : Requester) (a v : Nat) : (latchPut r a v s).tb = s.tb := by unfold latchPut; rfl
@[simp] theorem latchPut_jr (r : Requester) (a v : Nat) : (latchPut r a v s).jr = s.jr := by unfold latchPut; rfl
@[simp] theorem latchPut_img (r : Requester) (a v : Nat) : (latchPut r a v s).img = s.img := by unfold latchPut; rfl
@[simp] theorem latchPut_saf (r : Requester) (a v : Nat) : (latchPut r a v s).saf = s.saf := by unfold latchPut; rfl
@[simp] theorem latchPut_node (r : Requester) (a v : Nat) : (latchPut r a v s).node = s.node := by unfold latchPut; rfl
@[simp] theorem latchPut_fio (r : Requester) (a v : Nat) : (latchPut r a v s).fio = s.fio := by unfold latchPut; rfl
@[simp] theorem latchPut_clk (r : Requester) (a v : Nat) : (latchPut r a v s).clk = s.clk := by unfold latchPut; rfl
@[simp] theorem latchPut_fuses (r : Requester) (a v : Nat) : (latchPut r a v s).fuses = s.fuses := by unfold latchPut; rfl
@[simp] theorem latchPut_flash (r : Requester) (a v : Nat) : (latchPut r a v s).flash = s.flash := by unfold latchPut; rfl
@[simp] theorem latchPut_boot (r : Requester) (a v : Nat) : (latchPut r a v s).boot = s.boot := by unfold latchPut; rfl
@[simp] theorem latchPut_dbg (r : Requester) (a v : Nat) : (latchPut r a v s).dbg = s.dbg := by unfold latchPut; rfl
@[simp] theorem latchPut_parts (r : Requester) (a v : Nat) : (latchPut r a v s).parts = s.parts := by unfold latchPut; rfl
@[simp] theorem latchPut_hst (r : Requester) (a v : Nat) : (latchPut r a v s).hst = s.hst := by unfold latchPut; rfl
@[simp] theorem latchPut_dir (r : Requester) (a v : Nat) : (latchPut r a v s).dir = s.dir := by unfold latchPut; rfl
@[simp] theorem latchPut_dram (r : Requester) (a v : Nat) : (latchPut r a v s).dram = s.dram := by unfold latchPut; rfl
@[simp] theorem latchPut_tc (r : Requester) (a v : Nat) : (latchPut r a v s).tc = s.tc := by unfold latchPut; rfl
@[simp] theorem latchPut_sems (r : Requester) (a v : Nat) : (latchPut r a v s).sems = s.sems := by unfold latchPut; rfl
@[simp] theorem latchPut_kc (r : Requester) (a v : Nat) : (latchPut r a v s).kc = s.kc := by unfold latchPut; rfl
@[simp] theorem latchPut_fab (r : Requester) (a v : Nat) : (latchPut r a v s).fab = s.fab := by unfold latchPut; rfl
@[simp] theorem latchPut_ing (r : Requester) (a v : Nat) : (latchPut r a v s).ing = s.ing := by unfold latchPut; rfl
@[simp] theorem latchPut_vox (r : Requester) (a v : Nat) : (latchPut r a v s).vox = s.vox := by unfold latchPut; rfl
@[simp] theorem latchPut_sel (r : Requester) (a v : Nat) : (latchPut r a v s).sel = s.sel := by unfold latchPut; rfl
@[simp] theorem latchPut_out (r : Requester) (a v : Nat) : (latchPut r a v s).out = s.out := by unfold latchPut; rfl

/-! ### `stagePut` changes `stage` only -/

@[simp] theorem stagePut_pending (r : Requester) (a v : Nat) : (stagePut r a v s).pending = s.pending := by unfold stagePut; rfl
@[simp] theorem stagePut_free (r : Requester) (a v : Nat) : (stagePut r a v s).free = s.free := by unfold stagePut; rfl
@[simp] theorem stagePut_regs (r : Requester) (a v : Nat) : (stagePut r a v s).regs = s.regs := by unfold stagePut; rfl
@[simp] theorem stagePut_latch (r : Requester) (a v : Nat) : (stagePut r a v s).latch = s.latch := by unfold stagePut; rfl
@[simp] theorem stagePut_reply (r : Requester) (a v : Nat) : (stagePut r a v s).reply = s.reply := by unfold stagePut; rfl
@[simp] theorem stagePut_od (r : Requester) (a v : Nat) : (stagePut r a v s).od = s.od := by unfold stagePut; rfl
@[simp] theorem stagePut_budget (r : Requester) (a v : Nat) : (stagePut r a v s).budget = s.budget := by unfold stagePut; rfl
@[simp] theorem stagePut_slotNo (r : Requester) (a v : Nat) : (stagePut r a v s).slotNo = s.slotNo := by unfold stagePut; rfl
@[simp] theorem stagePut_frameNo (r : Requester) (a v : Nat) : (stagePut r a v s).frameNo = s.frameNo := by unfold stagePut; rfl
@[simp] theorem stagePut_sluiceUs (r : Requester) (a v : Nat) : (stagePut r a v s).sluiceUs = s.sluiceUs := by unfold stagePut; rfl
@[simp] theorem stagePut_openLast (r : Requester) (a v : Nat) : (stagePut r a v s).openLast = s.openLast := by unfold stagePut; rfl
@[simp] theorem stagePut_tb (r : Requester) (a v : Nat) : (stagePut r a v s).tb = s.tb := by unfold stagePut; rfl
@[simp] theorem stagePut_jr (r : Requester) (a v : Nat) : (stagePut r a v s).jr = s.jr := by unfold stagePut; rfl
@[simp] theorem stagePut_img (r : Requester) (a v : Nat) : (stagePut r a v s).img = s.img := by unfold stagePut; rfl
@[simp] theorem stagePut_saf (r : Requester) (a v : Nat) : (stagePut r a v s).saf = s.saf := by unfold stagePut; rfl
@[simp] theorem stagePut_node (r : Requester) (a v : Nat) : (stagePut r a v s).node = s.node := by unfold stagePut; rfl
@[simp] theorem stagePut_fio (r : Requester) (a v : Nat) : (stagePut r a v s).fio = s.fio := by unfold stagePut; rfl
@[simp] theorem stagePut_clk (r : Requester) (a v : Nat) : (stagePut r a v s).clk = s.clk := by unfold stagePut; rfl
@[simp] theorem stagePut_fuses (r : Requester) (a v : Nat) : (stagePut r a v s).fuses = s.fuses := by unfold stagePut; rfl
@[simp] theorem stagePut_flash (r : Requester) (a v : Nat) : (stagePut r a v s).flash = s.flash := by unfold stagePut; rfl
@[simp] theorem stagePut_boot (r : Requester) (a v : Nat) : (stagePut r a v s).boot = s.boot := by unfold stagePut; rfl
@[simp] theorem stagePut_dbg (r : Requester) (a v : Nat) : (stagePut r a v s).dbg = s.dbg := by unfold stagePut; rfl
@[simp] theorem stagePut_parts (r : Requester) (a v : Nat) : (stagePut r a v s).parts = s.parts := by unfold stagePut; rfl
@[simp] theorem stagePut_hst (r : Requester) (a v : Nat) : (stagePut r a v s).hst = s.hst := by unfold stagePut; rfl
@[simp] theorem stagePut_dir (r : Requester) (a v : Nat) : (stagePut r a v s).dir = s.dir := by unfold stagePut; rfl
@[simp] theorem stagePut_dram (r : Requester) (a v : Nat) : (stagePut r a v s).dram = s.dram := by unfold stagePut; rfl
@[simp] theorem stagePut_tc (r : Requester) (a v : Nat) : (stagePut r a v s).tc = s.tc := by unfold stagePut; rfl
@[simp] theorem stagePut_sems (r : Requester) (a v : Nat) : (stagePut r a v s).sems = s.sems := by unfold stagePut; rfl
@[simp] theorem stagePut_kc (r : Requester) (a v : Nat) : (stagePut r a v s).kc = s.kc := by unfold stagePut; rfl
@[simp] theorem stagePut_fab (r : Requester) (a v : Nat) : (stagePut r a v s).fab = s.fab := by unfold stagePut; rfl
@[simp] theorem stagePut_ing (r : Requester) (a v : Nat) : (stagePut r a v s).ing = s.ing := by unfold stagePut; rfl
@[simp] theorem stagePut_vox (r : Requester) (a v : Nat) : (stagePut r a v s).vox = s.vox := by unfold stagePut; rfl
@[simp] theorem stagePut_sel (r : Requester) (a v : Nat) : (stagePut r a v s).sel = s.sel := by unfold stagePut; rfl
@[simp] theorem stagePut_out (r : Requester) (a v : Nat) : (stagePut r a v s).out = s.out := by unfold stagePut; rfl

/-! ### Reads after updates -/

theorem regGet_put_self (k : Nat) (v : Word) : regGet (regPut k v s) k = v := smGet_set_self _ _ _ _

theorem regGet_put_ne {k j : Nat} (h : j ≠ k) (v : Word) : regGet (regPut k v s) j = regGet s j := smGet_set_ne _ _ h _

theorem odGet_put_self (i j : Nat) (v : List Byte) : odGet (odPut i j v s) i j = v := smGet_set_self _ _ _ _

theorem odGet_put_ne {i j i' j' : Nat} (h : odKey i' j' ≠ odKey i j) (v : List Byte) :
    odGet (odPut i j v s) i' j' = odGet s i' j' := smGet_set_ne _ _ h _

theorem partOf_setPart_self {p : Nat} (h : p < 8) (x : Part) : partOf (setPart p x s) p = x := vget_vset_self _ _ _ _ h

theorem partOf_setPart_ne {p q : Nat} (h : p ≠ q) (x : Part) : partOf (setPart p x s) q = partOf s q := vget_vset_ne _ _ _ h

theorem coreOf_setCore_self {c : Nat} (h : c < 16) (x : Core) : coreOf (setCore c x s) c = x := vget_vset_self _ _ _ _ h

theorem coreOf_setCore_ne {c d : Nat} (h : c ≠ d) (x : Core) : coreOf (setCore c x s) d = coreOf s d := vget_vset_ne _ _ _ h

theorem jobOf_setJob_self (n : Nat) (j : Job) : jobOf (setJob n j s) n = j := smGet_set_self _ _ _ _

theorem jobOf_setJob_ne {n m : Nat} (h : m ≠ n) (j : Job) : jobOf (setJob n j s) m = jobOf s m := smGet_set_ne _ _ h _

theorem ingCtx_set_self {c : Nat} (h : c < 128) (x : StreamCtx) : ingCtx (setIngCtx c x s) c = x := vget_vset_self _ _ _ _ h

theorem voxCtx_set_self {c : Nat} (h : c < 128) (x : VoxCtx) : voxCtx (setVoxCtx c x s) c = x := vget_vset_self _ _ _ _ h

theorem mbxGet_put_self {i : Nat} (h : i < 5) (m : Mbx) : mbxGet (mbxPut i m s) i = m := vget_vset_self _ _ _ _ h

/-- A channel's own state after an update of it. -/
theorem chGet_put_self (i : Nat) (c : CanCh) : chGet (chPut i c s) i = c := by
  unfold chGet chPut; split <;> rfl

/-- The other channel stands. -/
theorem chGet_put_other (i : Nat) (hi : i < 2) (c : CanCh) : chGet (chPut i c s) (1 - i) = chGet s (1 - i) := by
  have : i = 0 ∨ i = 1 := by omega
  rcases this with rfl | rfl <;> rfl

end Sys2Proof.Machine
end

