-- ==== Sys2Proof/Laws/Ops.lean ====
section
/-! SUPPORT. What each operation of `Machine/Ops.lean` that several commands share can do: the journal's intake, the fault
path, the reasons of the safe state, the CAN channels. -/

namespace Sys2Proof.Machine

/-! ### The journal's intake -/

/-- A record that reaches the intake changes the intake, its dropped mark and `JNL_DROP_CNT`, nothing else. -/
theorem intakePut_frame (r : JRec) (s : State) : ∃ q d g, intakePut r s = { s with
    jr := { s.jr with intake := q, dropped := d }, regs := g } := by
  unfold intakePut
  split
  · exact ⟨_, s.jr.dropped, s.regs, rfl⟩
  · exact ⟨s.jr.intake, true, _, by unfold regCount regPut; rfl⟩

theorem intakePut_room (r : JRec) (s : State) (h : s.jr.intake.length < 256) :
    intakePut r s = { s with jr := { s.jr with intake := s.jr.intake ++ [r] } } := by
  unfold intakePut; rw [if_pos h]

theorem intakePut_full (r : JRec) (s : State) (h : ¬ s.jr.intake.length < 256) :
    intakePut r s = regCount (rkey 0 0x0402008) 1 { s with jr := { s.jr with dropped := true } } := by
  unfold intakePut; rw [if_neg h]

/-- Originating a record changes the intake and the island's sequence number. -/
theorem journal_frame (i k c ts tg a b d : Nat) (s : State) : ∃ q x g l, journal i k c ts tg a b d s = { s with
    jr := { s.jr with intake := q, dropped := x }, regs := g, tb := { s.tb with seq := l } } := by
  unfold journal
  obtain ⟨q, x, g, h⟩ := intakePut_frame _ _
  exact ⟨q, x, g, _, h⟩

theorem journal_intake (i k c ts tg a b d : Nat) (s : State) (h : s.jr.intake.length < 256) :
    (journal i k c ts tg a b d s).jr.intake.length = s.jr.intake.length + 1 := by
  simp [journal, intakePut, h]

/-! ### The fault path -/

/-- A fault on its way to SAF changes the Weirs, the faults that wait at their sources and the lost events. -/
theorem weirPut_frame (f : FaultRec) (s : State) : ∃ w q l, weirPut f s = { s with
    saf := { s.saf with weirs := w, stalls := q, lost := l } } := by
  unfold weirPut weirStall
  simp only []
  split
  · exact ⟨_, s.saf.stalls, s.saf.lost, rfl⟩
  · split
    · exact ⟨s.saf.weirs, s.saf.stalls, _, rfl⟩
    · split
      · exact ⟨s.saf.weirs, _, s.saf.lost, rfl⟩
      · split
        · exact ⟨_, s.saf.stalls, _, rfl⟩
        · split
          · exact ⟨_, s.saf.stalls, s.saf.lost, rfl⟩
          · exact ⟨s.saf.weirs, _, s.saf.lost, rfl⟩

/-- A fault that waits at its source is on its way to SAF. -/
theorem weirStall_mem (f : FaultRec) (s : State) (hi : f.isl < 24) : f ∈ weirAll (weirStall f s) f.isl := by
  simp [weirAll, weirStall, vget_vset_self _ _ _ _ hi]

/-- A fault of a class other than 0x08 always stands in its Weir or waits for it. -/
theorem weirPut_mem (f : FaultRec) (s : State) (h : (f.code.cls == 8) = false) (hi : f.isl < 24) :
    f ∈ weirAll (weirPut f s) f.isl := by
  unfold weirPut
  simp only [h, Bool.false_eq_true, if_false]
  split
  · simp [weirAll, vget_vset_self _ _ _ _ hi]
  · split
    · exact weirStall_mem f s hi
    · split
      · simp [weirAll, vget_vset_self _ _ _ _ hi]
      · split
        · simp [weirAll, vget_vset_self _ _ _ _ hi]
        · exact weirStall_mem f s hi

/-- Raising a fault changes the fault path and the island's last stamp. -/
theorem raise_frame (f : FaultRec) (s : State) : ∃ w q l n x, raise f s = { s with
    saf := { s.saf with weirs := w, stalls := q, lost := l, raised := n }, tb := { s.tb with last := x } } := by
  unfold raise
  obtain ⟨w, q, l, h⟩ := weirPut_frame { f with ts := stampOf s f.isl f.ts }
    { keepStamp f.isl (stampOf s f.isl f.ts) s with saf := { s.saf with raised := s.saf.raised + 1 } }
  exact ⟨w, q, l, _, _, h⟩

/-- A raised fault of a class other than 0x08 is on its way to SAF. -/
theorem raise_raised (f : FaultRec) (s : State) (h : (f.code.cls == 8) = false) (hi : f.isl < 24) :
    Raised f.code f.isl (raise f s) := by
  unfold raise
  exact ⟨_, weirPut_mem { f with ts := stampOf s f.isl f.ts } _ h hi, rfl⟩

theorem raiseNoJob_frame (c : FaultCode) (i : Nat) (s : State) : ∃ w q l n x, raiseNoJob c i s = { s with
    saf := { s.saf with weirs := w, stalls := q, lost := l, raised := n }, tb := { s.tb with last := x } } := raise_frame _ _

theorem raiseNoJob_raised (c : FaultCode) (i : Nat) (s : State) (h : (c.cls == 8) = false) (hi : i < 24) :
    Raised c i (raiseNoJob c i s) := raise_raised (plainFault c i none) s h hi

/-! ### Emergency messages and the reasons of the safe state -/

theorem emcyQueue_frame (c p ts : Nat) (s : State) : ∃ x, emcyQueue c p ts s = { s with node := x } := ⟨_, rfl⟩

theorem emcyEvent_frame (c p ts : Nat) (s : State) : ∃ x, emcyEvent c p ts s = { s with node := x } := by
  unfold emcyEvent
  simp only []
  split
  · exact ⟨s.node, rfl⟩
  · split
    · exact ⟨_, rfl⟩
    · exact ⟨_, rfl⟩

theorem erCheck_frame (s : State) : ∃ x, erCheck s = { s with node := x } := by
  unfold erCheck
  simp only []
  split
  · exact ⟨s.node, rfl⟩
  · split <;> exact ⟨_, rfl⟩

/-- `drivePins` changes the pins and the levels read back only. -/
theorem drivePins_frame (s : State) : ∃ a b c d, drivePins s = { s with
    saf := { s.saf with pinA := a, pinB := b, rbA := c, rbB := d } } := by
  unfold drivePins
  split
  · exact ⟨_, _, _, _, rfl⟩
  · split
    · exact ⟨_, _, _, _, rfl⟩
    · exact ⟨s.saf.pinA, s.saf.pinB, s.saf.rbA, s.saf.rbB, rfl⟩

/-- With a reason or the latch set both SAFE pins are low; otherwise they stand at opposite levels (R446). -/
theorem drivePins_level (s : State) : ((drivePins s).saf.pinA = false ∧ (drivePins s).saf.pinB = false) ∨
    ((s.saf.why = 0 ∧ s.saf.latch = false) ∧ (drivePins s).saf.pinA ≠ (drivePins s).saf.pinB) := by
  unfold drivePins
  split
  · exact .inl ⟨rfl, rfl⟩
  · rename_i h
    have h : s.saf.why = 0 ∧ s.saf.latch = false := by simpa using h
    split
    · exact .inr ⟨h, by simp⟩
    · rename_i h2; exact .inr ⟨h, by simpa using h2⟩

/-- What `setWhy` leaves: the reasons word, and every field but SAF's pins, the journal's intake, the emergency queue. -/
theorem setWhy_frame (w : BitVec 16) (c ts : Nat) (s : State) : ∃ a b e f jr g tb n, setWhy w c ts s = { s with
    saf := { s.saf with why := w, pinA := a, pinB := b, rbA := e, rbB := f }, jr := jr, regs := g, tb := tb, node := n } := by
  unfold setWhy
  split
  · rename_i h; subst h
    exact ⟨s.saf.pinA, s.saf.pinB, s.saf.rbA, s.saf.rbB, s.jr, s.regs, s.tb, s.node, rfl⟩
  · obtain ⟨q, x, g, l, hj⟩ := journal_frame 23 2 c ts (noJobTag none) s.saf.why.toNat w.toNat 1
      { s with saf := { s.saf with why := w } }
    obtain ⟨a, b, e, f, hd⟩ := drivePins_frame (journal 23 2 c ts (noJobTag none) s.saf.why.toNat w.toNat 1
      { s with saf := { s.saf with why := w } })
    obtain ⟨n, he⟩ := erCheck_frame (drivePins (journal 23 2 c ts (noJobTag none) s.saf.why.toNat w.toNat 1
      { s with saf := { s.saf with why := w } }))
    exact ⟨a, b, e, f, { s.jr with intake := q, dropped := x }, g, { s.tb with seq := l }, n, by rw [he, hd, hj]⟩

theorem setWhy_why (w : BitVec 16) (c ts : Nat) (s : State) : (setWhy w c ts s).saf.why = w := by
  obtain ⟨a, b, e, f, j, g, tb, n, h⟩ := setWhy_frame w c ts s
  rw [h]

/-! ### Lists of messages -/

theorem gptpSendAll_out (f : Nat → OutEvent) (ms : List Nat) (s : State) :
    gptpSendAll f ms s = { s with out := s.out ++ ms.map f } := by
  induction ms generalizing s with
  | nil => simp [gptpSendAll]
  | cons m ms ih => simp [gptpSendAll, ih, emitOut]

/-! ### Banks changed element by element -/

theorem vset_size {α : Type} {n : Nat} (v : Vector α n) (i : Nat) (x : α) : vset v i x = v.setIfInBounds i x := rfl

theorem vget_foldl_out {α : Type} {n : Nat} (d : α) (f : Nat → α → α) (l : List Nat) (v : Vector α n) (j : Nat) (h : j ∉ l) :
    vget (l.foldl (fun w i => vmod w i d (f i)) v) j d = vget v j d := by
  induction l generalizing v with
  | nil => rfl
  | cons a l ih =>
    simp only [List.foldl_cons]
    rw [ih _ (fun e => h (List.mem_cons_of_mem _ e))]
    exact vget_vset_ne _ _ _ (fun e => h (by simp [e]))

theorem vget_foldl_in {α : Type} {n : Nat} (d : α) (f : Nat → α → α) (l : List Nat) (v : Vector α n) (j : Nat) (h : j ∈ l)
    (hd : l.Nodup) (hj : j < n) : vget (l.foldl (fun w i => vmod w i d (f i)) v) j d = f j (vget v j d) := by
  induction l generalizing v with
  | nil => simp at h
  | cons a l ih =>
    simp only [List.foldl_cons]
    have hd' := List.nodup_cons.mp hd
    by_cases e : j = a
    · subst e
      rw [vget_foldl_out d f l _ _ hd'.1]
      exact vget_vset_self _ _ _ _ hj
    · rw [ih _ (by simpa [e] using h) hd'.2]
      congr 1
      exact vget_vset_ne _ _ _ (fun x => e x.symm)

/-- `vmap` changes every element. -/
theorem vget_vmap {α : Type} {n : Nat} (v : Vector α n) (d : α) (f : Nat → α → α) (j : Nat) (hj : j < n) :
    vget (vmap v d f) j d = f j (vget v j d) :=
  vget_foldl_in d f (List.range n) v j (List.mem_range.mpr hj) List.nodup_range hj

end Sys2Proof.Machine
end

