-- ==== Sys2Proof/WellFormed.lean ====
section
/-! DEFINITION. What a command's operands must satisfy to stand for something the outside can send. -/

namespace Sys2Proof

/-- A value fits in an access of `size` bytes. -/
def fits (size v : Nat) : Bool := decide (v < 2 ^ (8 * size))

/-- BAR0 is 64 MiB (R37); PCIe accesses are 1 to 8 bytes. -/
def accessOk (addr size : Nat) : Bool := decide (addr < 2 ^ 26) && decide (0 < size) && decide (size ≤ 8)

/-- The command is one that the outside can send. -/
def Instr.wf : Instr → Bool
  | .registerWrite _ a n v | .pairHiWrite _ a n v | .apertureWrite _ a n v => accessOk a n && fits n v
  | .rcRead _ a n | .pairLoRead _ a n | .apertureRead _ a n => accessOk a n
  | .odRead _ i s => decide (i < 2 ^ 16) && decide (s < 256)
  | .odWrite _ i s d => decide (i < 2 ^ 16) && decide (s < 256) && decide (d.length ≤ 32768)
  | .partitionRecordWrite _ s d => decide (s < 256) && decide (d.length ≤ 32768)
  | .safeAck _ v | .imagoTrigger _ v | .imagoRearm _ v | .partitionReset _ v | .errorHistoryClear _ v => fits 1 v
  | .latchClear _ v => fits 4 v
  | .poseCommit _ v | .injEnqueue _ v | .imgTrig _ v | .imgRearm _ v | .dbgGprWrite v | .dbgSvnAdvance v
  | .debugEnable v => fits 4 v
  | .load _ _ v | .unload _ _ v | .tableLoad _ _ v | .tableSwap _ _ v | .tableDrop _ _ v
  | .sqDoorbell _ _ v | .cqDoorbell _ _ v | .resultDoorbell _ _ v | .ringSetEnable _ _ v
  | .ringSetDisable _ _ v => fits 4 v
  | .dbgapRead a => decide (a < 2 ^ 24)
  | .dbgapWrite a v => decide (a < 2 ^ 24) && fits 4 v
  | .nmtStart _ n | .nmtStop _ n | .nmtEnterPreoperational _ n | .nmtResetNode _ n
  | .nmtResetCommunication _ n => decide (n < 128)
  | .dirAgentWrite _ d => decide (d.length = 64)
  | _ => true

end Sys2Proof
end

