-- ==== Sys2Proof/Tests/Slice0.lean ====
section
/-! SUPPORT. Tests: states that meet the hypotheses of each statement, clause by clause, ill-formed commands, worked
examples of the spec. -/

set_option Elab.async false

namespace Sys2Proof.Tests

open Sys2Proof.Machine

def rdy : State := State.ready

/-- A partition record: `EN`, class, owner. -/
def prec (cls owner : Nat) : List Byte := leBytes 1 1 ++ leBytes 1 cls ++ leBytes 1 owner ++ zeros 317

/-- Partition `p` enabled, of class B, owned by port `h`. -/
def own (h p : Nat) : State := setPart p { partOf rdy p with record := prec 1 h } rdy

/-- Partition 0 of class B, owned by port 0: all cores, DRAM up to 64 MiB, whole Basins, Cisterns and DMEMs. -/
def recA : List Byte :=
  leBytes 1 1 ++ leBytes 1 1 ++ leBytes 1 0 ++ leBytes 1 0 ++ leBytes 2 0xFFFF ++ leBytes 2 0 ++ leBytes 8 0xFF ++
    leBytes 8 0x200000 ++ zeros 40 ++
    (List.replicate 16 (leBytes 4 0x8000000 ++ leBytes 4 0x1000000 ++ leBytes 4 0x1000000 ++ leBytes 4 0)).flatten

def prt : State := setPart 0 { partOf rdy 0 with record := recA } rdy

def safOf (s : State) (f : Safety → Safety) : State := { s with saf := f s.saf }
def bootOf (s : State) (f : Boot → Boot) : State := { s with boot := f s.boot }
def imgOf (s : State) (f : Imago → Imago) : State := { s with img := f s.img }
def tbOf (s : State) (f : TimeBase → TimeBase) : State := { s with tb := f s.tb }
def fioOf (s : State) (f : Fio → Fio) : State := { s with fio := f s.fio }
def clkOf (s : State) (f : Clocks → Clocks) : State := { s with clk := f s.clk }
def jrOf (s : State) (f : Journal → Journal) : State := { s with jr := f s.jr }
def nodeOf (s : State) (f : Node → Node) : State := { s with node := f s.node }
def hstOf (s : State) (f : Hst → Hst) : State := { s with hst := f s.hst }
def dbgOf (s : State) (f : Debug → Debug) : State := { s with dbg := f s.dbg }
def dev (d : DevState) : State := safOf rdy fun x => { x with dev := d }
/-- Every checker passes, every quad works. -/
def goodSts : StsResult := ⟨(List.range 27).map fun i => (i + 1, 0, 0), false, Vector.replicate 16 0, Vector.replicate 16 0⟩

/-- A flash that starts with a boot header and nothing else. -/
def hdr : List Byte := leBytes 4 0x42475654 ++ zeros 56
def hdrFlash : SMap Byte := smSetList (fun _ => 0xFF) [] 0 (hdr ++ leBytes 4 (crc32c hdr))

/-- MGT waits for its boot. -/
def boots : State := bootOf (safOf (dev .selftest) fun x => { x with mgtUp := false }) fun x => { x with stage := 1, slot := 2 }

def jr1 : JRec := { ts := 5, isl := 3, code := 0x0201 }

/-- A PLD: range and column of two bytes each at offsets 0 and 2, one block, one point; a unit scale, returns of kind 0. -/
def pld : List Byte :=
  leBytes 2 4 ++ [1, 0] ++ zeros 8 ++ leBytes 4 (0x44000000) ++ leBytes 4 (0x44000002) ++ zeros 24 ++ leBytes 4 0x3F800000 ++
    leBytes 4 0 ++ leBytes 4 0x42C80000 ++ leBytes 4 1 ++ leBytes 4 0x100000 ++ zeros 64

/-- Context 3 has settings that pass, and a stream region of 16 MiB. -/
def ctxSet : State :=
  odPut 0x2303 7 pld (odPut 0x2303 0x25 (leBytes 4 0x300000) (odPut 0x2100 4 (leBytes 4 0x80000) rdy))

/-- Context `c` is enabled. -/
def ctxOnAt (s : State) (c : Nat) (f : StreamCtx → StreamCtx) : State := setIngCtx c (f { ingCtx s c with en := true }) s

def addr4 : List Byte := zeros 10 ++ [0xFF, 0xFF, 10, 0, 0, 1]

/-- An untagged IPv4 broadcast of an empty UDP datagram from 10.0.0.1 port 7 to port 2368. -/
def frame : List Byte :=
  List.replicate 6 0xFF ++ zeros 6 ++ [8, 0] ++ [0x45, 0, 0, 28, 0, 0, 0, 0, 64, 17, 0, 0, 10, 0, 0, 1, 10, 0, 0, 2] ++
    [0, 7, 9, 0x40, 0, 8, 0, 0] ++ zeros 22
def udp0 : UdpPkt := ⟨none, addr4, 7, 2368, []⟩

/-- Core `c` runs context 0 of partition 0, its control core as given. -/
def onCore (s : State) (c : Nat) (f : Core → Core) : State := { s with kc := vmod s.kc c {} f }
def running (cc : CcCtx) (x : Core) : Core :=
  { x with active := some 0, ctx := vset x.ctx 0 { st := .running, slot := 0 }, run := { x.run with cc := cc } }
def dbgOn : State := dbgOf prt fun x => { x with en := true, pmask := 1 }

/-- Context 3 set, enabled, a sweep and a slice open, a packet of four bytes at MAC 0. -/
def parseAt (pay : List Byte) : State :=
  let s := ctxOnAt ctxSet 3 fun x => { x with sweepOpen := true, slice := some ⟨990, 4, [], false, 990⟩ }
  { s with ing := { s.ing with macs := vset s.ing.macs 0 [⟨3, 1000, pay, 4⟩] } }

def rawPt : RawPt := ⟨3, 0, 0, 0x40000000, 7, 0, false, false, 4, [], 1000⟩
def sum3 : SweepSum := ⟨3, 1, 0, 0, 5, 9, 0, 1, 0, false, false, false⟩
def voxAt (s : State) (f : Vox → Vox) : State := { s with vox := f s.vox }
def voxC (s : State) (c : Nat) (f : VoxCtx → VoxCtx) : State := modVoxCtx c f s

/-- Words of a staged pose: the identity attitude at the origin, epoch 0, time 9. -/
def posed : State := regPut (ingReg 0x100) 9 (regPut (ingReg 0x108) 0x3F800000 (odPut 0x2400 9 [1] rdy))
def poseAt (ts : Nat) : Pose := ⟨ts, [], [], [], [], 0, true⟩
def pt3 : PointRec := ⟨3, 0, 0, 0, 7, 1, 0, 0, 0⟩
/-- Context 3 has 16 pages and an edge of 0.1 m, a point at the origin waits. -/
def pondAt : State := voxAt (voxC (ctxOnAt ctxSet 3 id) 3 fun x => { x with pages := 16, inv := 0x41200000 }) fun x => { x with weir := [.pt pt3] }
def keyOf : Nat := voxKey 1280 1280 80 0
def homeOf : Nat := pondHome keyOf 65536

/-- Context 3, read by partition 7, has a sealed sweep. -/
def emitAt (lv : Nat) : State := odPut 0x2303 0x15 [0x80] (voxC pondAt 3 fun x => { x with sealed := some sum3, level := lv })

/-- The slot of that sweep holds sweep 1, which an admitted job reads. -/
def emitBusy : State :=
  hstOf (voxC (emitAt 0) 3 fun x => { x with slots := vset x.slots 1 (some ⟨1, 4, 1, 0, 0, 0⟩) }) fun h =>
    { h with jobs := [(0, { st := .running, res := [some ⟨0, 0, 0, 0, 1, 4, 0, 0, 3, 1, some (1, 1)⟩] })] }

/-- Core 0 with a bit in error in the first word of its line under the scrubber, of two bits or one. -/
def scrubAt (n : Nat) : State := onCore rdy 0 fun x => { x with scrub := 1, basinUp := [(8, n)] }

/-- A DRAM of the stream region, which is under ECC. -/
def eccAt (n : Nat) : State := { ctxSet with dram := { ctxSet.dram with upset := [(0, n)] } }

/-- A queued descriptor of good parity. -/
def qd (w : List Word) (n : Nat) : QDesc := ⟨w, n, parOf w⟩

def flight0 : Flight := { eng := 3, d := qd [] 5, issueTs := 0, outst := 1 }
def remAt (off : Nat) : State :=
  { onCore prt 0 (fun x => { x with active := some 0, ctx := vset x.ctx 0 { st := .running }, run := { x.run with flight := [flight0] } }) with
    fab := { remote := [⟨0, 3, 5, 0, 0, 15, .write off (List.replicate 64 7), 0, 0, 0⟩] } }

/-- A line of DRAM that no cache holds, asked for by core 3. -/
def dirAt (q : DirReq) (f : Dir → Dir) : State := { rdy with dir := f { wait := [⟨q, none, 0⟩] } }
def dcAt (c : Nat) (s : State) (d : DCache) : State := onCore s c fun x => { x with dc := d }
def line0 : List Byte := List.replicate 64 9
def ans0 (a : DirAns) (x : DirTxn) (e : SMap (Option DirState)) : State :=
  { rdy with dir := { toDir := [a], txns := [x], entries := e } }

/-- Another number. -/
def other : Nat → Nat
  | 0 => 1
  | _ + 1 => 0

theorem other_ne (n : Nat) : n ≠ other n := by cases n <;> simp [other]

/-- The scrubber at the last line of a weight block whose check word is `n`. -/
def scrubLast (n : Nat) : State :=
  onCore rdy 15 fun x => { x with scrub := 63, scrubOk := true, ww := vset x.ww 0 (some ⟨0, 0, 1⟩), wblk := [(0, (3, n))] }

theorem scrubLast_bytes (n : Nat) :
    crc32c (basinBytes (coreOf (scrubLast n) 15) (63 / 64 * 4096) 4096) = crc32c (basinBytes {} 0 4096) := by
  have e : (coreOf (scrubLast n) 15).basin = [] := rfl
  simp only [basinBytes, e]

theorem scrubLast_crc (n : Nat) : (wblkOf (coreOf (scrubLast n) 15) 0).2 = n := rfl

/-! ### A core that runs -/

def progA : Program := ⟨0, 0, 0x1000, 64, 0, 64, 1, [0], 2048, 256, 256, 0, 40, 0, [], [(0x1000, 64)], [], []⟩
def jobA : Job := { st := .running, nitem := 8, rsv := 8, cores := [(0, 0)], live := [0], dcut := 40 }
def ctxA : TaskCtx := { st := .running, ncore := 1, basinBound := 2048, cisBound := 256, dmemBound := 256 }

/-- Job 0 of partition 0 runs program A on core 0. -/
def jobRuns : State := hstOf prt fun h => { h with jobs := [(0, jobA)], progs := vset h.progs 0 (some progA) }

/-- Core 0 in that job, changed by `f`. -/
def busy (f : Core → Core) : State := onCore jobRuns 0 fun x => f { x with active := some 0, ctx := vset x.ctx 0 ctxA }

def hartAt (x : Nat → Word) : Hart := { pc := 0x10000000, x := Vector.ofFn fun i : Fin 32 => x i.val }

/-- Core 0 about to run one instruction, which its instruction cache holds; registers as given. -/
def codes (op : RvOp) (x : Nat → Word) (f : CcCtx → CcCtx) : State :=
  busy fun k => { k with
    ic := [⟨0, 0x1000, leBytes 4 (rvEncode op) ++ zeros 60, false⟩]
    run := { k.run with cc := f { leader := hartAt x, checker := hartAt x, st := .running } } }

def noX : Nat → Word := fun _ => 0

def isOk {ε α : Type} [DecidableEq α] (x : Except ε α) (v : α) : Bool := match x with
  | .ok a => decide (a = v)
  | .error _ => false

theorem ok_of {ε α : Type} [DecidableEq α] {x : Except ε α} {v : α} (h : isOk x v = true) : x = .ok v := by
  unfold isOk at h
  split at h
  · exact congrArg _ (of_decide_eq_true h)
  · cases h

/-- The state that an action of the control core leaves; whether it traps. -/
def after {α : Type} (m : CcM α) (s : State) : State := (ccRun m s).2

def traps {α : Type} (m : CcM α) (s : State) (n tv : Nat) : Bool := match (ccRun m s).1 with
  | .error (.trap a b .ccTrap) => a == n && b == tv
  | _ => false

/-- An outcome as a pair with the state it leaves. -/
theorem pair_ok {ε α σ : Type} [DecidableEq α] {r : Except ε α × σ} {v : α} (h : isOk r.1 v = true) : r = (.ok v, r.2) :=
  Prod.ext (ok_of h) rfl

theorem ran_ok {α : Type} [DecidableEq α] {m : CcM α} {s : State} {v : α} (h : isOk (ccRun m s).1 v = true) :
    ccRun m s = (.ok v, after m s) := pair_ok h

theorem ran_trap {α : Type} {m : CcM α} {s : State} {n tv : Nat} (h : traps m s n tv = true) :
    ccRun m s = (.error (.trap n tv .ccTrap), after m s) := by
  unfold traps at h
  split at h
  next a b e => simp at h; exact Prod.ext (by rw [e, h.1, h.2]) rfl
  next => cases h

/-- Core 0 fetches `op`: what that leaves. -/
def fetched (s : State) : State := after (ccFetch 0) s
def reread (s : State) (len : Nat) : State := after (ccBits 0 len) (fetched s)

theorem fetches {s : State} {op : RvOp} {len : Nat} (h1 : ccReady s 0 = true) (h2 : isOk (ccRun (ccFetch 0) s).1 (op, len) = true)
    (h3 : lockOk (coreOf s 0) op len = true) : Fetches s 0 op len (fetched s) := ⟨h1, ran_ok h2, h3⟩

def addAt : State := codes (.alu .add 31 1 2) noX id
def loadAt : State := codes (.load 4 true 31 1 (-4)) (fun _ => 0x10000) id
def storeAt : State := codes (.store 2 1 1 2) noX id
def scAt : State := codes (.sc 5 1 2) noX id
def lostPc : State :=
  codes .fence noX fun k => { k with leader := { k.leader with pc := 0 }, checker := { k.checker with pc := 0 } }

/-- A visible NOP for engine 0, and a template that is one. -/
def nopD : List Word := 0x800 :: List.replicate 15 0
def tplNop : Template := ⟨nopD, [], crc32c (tplBytes ⟨nopD, [], 0, 0, 0⟩), 0, 0⟩
def xs12 (a b : Nat) : Nat → Word := fun i => if i = 1 then BitVec.ofNat 32 a else if i = 2 then BitVec.ofNat 32 b else 0

def pushAt : State := codes (.qpush 1 15) (xs12 7 0) id
def redAt : State := codes (.redrd 5 8) noX id
def tsLoAt : State := codes (.tsrdLo 5) noX id
def tsHiAt : State := codes (.tsrdHi 5) noX id
def waitAt : State := codes (.swait 1 2) (xs12 71 65535) id
def waiting : State := { codes .fence noX (fun k => { k with st := .swait, pendWait := some (127, 3) }) with sems := Vector.replicate 64 3 }
def setAt : State := codes (.sset 1 2) (xs12 71 65535) id
def denied : State := codes (.sset 1 2) (xs12 72 1) id
def tplAt : State := onCore (codes (.qcommitT 10 0) noX id) 0 fun x => { x with tpl := vset x.tpl 0 (some tplNop) }
def fullAt : State :=
  onCore (codes (.qcommit 10) noX id) 0 fun x =>
    { x with run := { x.run with runnels := vset x.run.runnels 0 (List.replicate 64 (qd nopD 0)) } }
def noTpl : State := codes (.qcommitT 10 0) noX id
def waitNow : State := { codes (.swait 1 2) (xs12 71 2) id with sems := Vector.replicate 64 2 }
def waitDeny : State := codes (.swait 1 2) (xs12 72 0) id
def setNone : State := codes (.sset 1 2) (xs12 71 0) id
def denyNone : State := codes (.sset 1 2) (xs12 72 0) id
def plainAt : State := codes (.qcommit 10) noX id
def endAt : State := codes .ecall noX id
def abortAt : State := codes .ecall (fun i => if i = 17 then 1 else 0) id


/-- Core 0 runs, the Runnel of `eng` holds `d` alone. -/
def heads (eng : Nat) (d : QDesc) (f : CtxRun → CtxRun) : State :=
  busy fun x => { x with run := f { x.run with runnels := vset x.run.runnels eng [d], cc := { x.run.cc with st := .running } } }

/-- A NOP that waits for and sets what the words say. -/
def nopQ (waits sets : Word) : QDesc := qd ([0, waits, sets] ++ List.replicate 13 0) 5
def nopHead (waits sets : Word) : State := { heads 4 (nopQ waits sets) id with sems := Vector.replicate 64 2 }

/-! ### Descriptors -/

/-- A descriptor with the words given, the rest 0. -/
def desc (ws : SMap Word) : QDesc := qd ((List.range 16).map fun i => smGet wordZero ws i) 5

theorem noRings {x : Core} (h : x.run.rings = Vector.replicate 16 none) (r : Nat) : vget x.run.rings r none = none := by
  rw [h]
  unfold vget
  rw [Vector.getElem?_replicate]
  split <;> rfl

/-- Two lines from task line 10, written, or read. -/
def fillD : QDesc := desc [(0, 0x361), (7, 0x28002), (11, 10), (12, 2), (13, 0x01020304), (14, 5)]
def copyD : QDesc := desc [(0, 0x362), (3, 0x28002), (7, 0x2C002), (11, 10), (12, 11), (13, 2)]
def sendOutD : QDesc := desc [(0, 0x3E80360), (3, 0x28002), (11, 128), (12, 640)]
def selD : QDesc := desc [(0, 0x364), (3, 0x28002), (11, 10)]
def hostD : QDesc := desc [(0, 0x4360), (7, 0x28002), (11, 128), (14, 640)]
def hostFl : Flight := { eng := 3, d := hostD, issueTs := 0 }
def flying (f : Flight) : State := busy fun x => { x with run := { x.run with flight := [f] } }

/-- An MM pass of K 0: two sites of four zeroed accumulators. -/
def zeroD : QDesc := desc [(0, 0x2000001), (7, 0x80000001), (11, 0x10000), (12, 0x40000), (13, 0x80000)]
def zeroFl : Flight := { eng := 0, d := zeroD, issueTs := 0, loading := true }

/-- A pass of INT8: one site, two columns, weights 2 and 5 of row 0, with their check word. -/
def passA : Pass :=
  { mmp := false, afmt := 0, wfmt := 0, tile := 0, init := 2, epi := false, wsrc := false, cisOff := 0, cstride := 4, k := 2,
    m := 1, n := 2, a0 := 0, a1 := 0, wtOff := 0, substride := 0, paramOff := 0, epiOff := 0 }
def tileA : List (List Byte) := ([2, 5] ++ zeros 62) :: List.replicate 63 (zeros 64) ++ [leBytes 4 7 ++ zeros 60]
def accA : Acc := ⟨0, 0, zeroD.w⟩

/-- A descriptor in flight as the work leaves it. -/
def okOf (r : Except Stop Flight × State) : Flight := match r.1 with
  | .ok g => g
  | .error _ => flight0
/-- The state in which the work on a head begins. -/
def atWork (c eng : Nat) (d : QDesc) (s : State) : State := headCheck c eng (semArrive c (issueCycle c eng d s).2)
def headFl (c eng : Nat) (d : QDesc) (s : State) : Flight := (issueCycle c eng d s).1

/-- FILL before a checked ring whose slot is full. -/
def fullRing : State := heads 3 fillD fun r => { r with
  rings := vset r.rings 0 (some { base := 10, slotl := 2, prod := 3, cons := 0, checked := true, full := [true] }) }

/-- A region word: `n` lines or granules from `b`. -/
def rg (b n : Nat) : Word := BitVec.ofNat 32 (b * 2 ^ 14 + n)
/-- Basin bytes of core 0. -/
def memAt (ws : List (Nat × List Byte)) (s : State) : State :=
  onCore s 0 fun x => { x with basin := ws.foldl (fun m w => smSetList byteZero m w.1 w.2) x.basin }

/-- An INT8 pass of one site, one row, one column; weights at line 128, check words at line 192. -/
def passD (opc : Nat) (shape : Word) : QDesc :=
  desc [(0, BitVec.ofNat 32 (0x2000000 + opc)), (3, rg 128 72), (4, rg 0 1), (7, 0x80000001), (11, shape), (12, 0x20000), (13, 0x20000),
    (14, 128), (15, 192)]
def weighted (s : State) : State :=
  onCore s 0 fun x => { x with ww := vset x.ww 0 (some ⟨0, 2, 4⟩), wblk := [(2, (3, 0)), (3, (3, 0))] }
def mmAt : State := weighted (heads 0 (passD 1 0x1010000) id)
def mmpAt : State :=
  let s := heads 0 (passD 2 0x1010000) id
  setPart 0 { partOf s 0 with record := patch recA 1 [2] } s

/-- One weight block at 128 KiB of the partition's space into block 2; its CRC after it. -/
def wloadD : QDesc := desc [(0, 0x363), (7, rg 128 64), (11, 0x20000), (12, 0x10000), (13, 0x21000), (14, 0x20000)]
def wloadAt (crc : Nat) : State :=
  { onCore (heads 3 wloadD id) 0 (fun x => { x with ww := vset x.ww 0 (some ⟨0, 2, 4⟩) }) with
    tc := [⟨16, 0, true, 0, true, 0x200000, false⟩], dram := { mem := smSetList byteZero [] 0x221000 (leBytes 4 crc) } }
def wloadCrc (crc : Nat) : State := (iovaReadBytes (agentDe 0) 0 0x21000 4 (atWork 0 3 wloadD (wloadAt crc))).2
def wloadRun (crc : Nat) : Except Stop (List (List Byte)) × State :=
  engRun (wloadLines ⟨0, 3, wloadD.w⟩ 0 0x20000 128 2 crc 0 64) (wloadCrc crc)
def wloadLs : List (List Byte) := List.replicate 64 (zeros 64)

/-- The CRC of a list of bytes, its state taken byte by byte. -/
def crcFrom : Nat → List Byte → Nat
  | c, [] => c
  | c, b :: bs => if c = 0 then crcFrom (crcByte c b) bs else crcFrom (crcByte c b) bs

theorem crcFrom_eq (c : Nat) (bs : List Byte) : bs.foldl crcByte c = crcFrom c bs := by
  induction bs generalizing c with
  | nil => rfl
  | cons b bs ih => simp [crcFrom, ih]

theorem crcWload : crc32c wloadLs.flatten = 0x98F94189 := by
  rw [crc32c, crcFrom_eq]
  decide +kernel

def ringsetD : QDesc := desc [(0, 0x365), (11, 10 + 2 ^ 18), (12, 0x601)]

/-! Descriptors of the VE and the GE, each with its blocks in the Basin. -/

def runD : QDesc := desc [(0, 0x120), (3, rg 10 1), (13, 10)]
def rescaleD : QDesc := desc [(0, 0x121), (3, rg 10 1), (7, 0x80000001), (11, 0x10000), (12, 0x4000A), (13, 0x60000)]
def hashD : QDesc := desc [(0, 0x240), (3, rg 10 1), (4, rg 20 1), (7, rg 30 2), (12, 10)]
def hashAt : State :=
  memAt [(640, leBytes 4 20 ++ leBytes 4 1 ++ leBytes 4 30 ++ leBytes 4 2), (1280, leBytes 8 5)] (heads 2 hashD id)
def outD : QDesc := desc [(0, 0x241), (3, rg 10 1), (4, rg 20 1), (7, rg 11 1), (8, rg 21 1), (9, rg 30 1), (11, 0x780), (12, 10), (13, 11)]
def outAt : State :=
  memAt [(640, leBytes 4 20 ++ leBytes 4 1), (704, leBytes 4 21 ++ leBytes 4 0 ++ leBytes 4 30 ++ leBytes 4 1 ++ leBytes 4 4),
    (1280, leBytes 8 0x300040005)] (heads 2 outD id)
def kmapD : QDesc :=
  desc [(0, 0x242), (3, rg 10 2), (4, rg 21 1), (5, rg 30 1), (7, rg 40 2), (11, 0x800), (12, 10), (13, 11), (14, 40), (15, 41)]
def kmapAt : State :=
  memAt [(640, zeros 8 ++ leBytes 4 30 ++ leBytes 4 1), (704, leBytes 4 21), (1344, leBytes 8 5), (1920, leBytes 8 (5 + 4 * 2 ^ 44))]
    (heads 2 kmapD id)
def sortD : QDesc :=
  desc [(0, 0x243), (3, rg 10 1), (4, rg 20 1), (7, rg 40 2), (11, 0x10000), (12, 0x2000A), (13, 20), (14, 40), (15, 41)]
def sortAt : State := memAt [(640, leBytes 4 1), (1280, leBytes 4 7 ++ leBytes 4 9)] (heads 2 sortD id)
def gatherD : QDesc :=
  desc [(0, 0x40001244), (3, rg 10 1), (4, rg 20 3), (7, rg 40 1), (8, rg 44 1), (12, 0x16000A), (13, 20), (15, 40)]
def gatherAt : State :=
  memAt [(640, leBytes 4 1), (1280, leBytes 2 0x4254 ++ [0, 1, 0] ++ zeros 3 ++ leBytes 4 64 ++ leBytes 4 2 ++ zeros 8 ++ leBytes 4 64),
    (1408, List.replicate 64 9)] (heads 2 gatherD id)
def scatterD : QDesc := desc [(0, 0x245), (3, rg 10 1), (7, 0x80000002), (11, 0x3000000), (12, 10), (14, 4), (15, 1)]
def maskD : QDesc := desc [(0, 0x246), (3, 0x80000001), (7, rg 40 1), (11, 0x3000000), (12, 1), (13, 0x20028)]

/-! ### Rings, channels, the site hash -/

def ringA : Ring := { base := 0, slotl := 2, prod := 4, cons := 0, checked := false, full := [true, true] }
def setupD : QDesc := desc [(0, 0x480), (11, 2047)]
def sendD : QDesc := desc [(0, 0x481), (3, 0x28002), (11, 7), (12, 10)]
def chanA : FwdCh := ⟨true, 15, 15, 1, 2, 2, 2, 1⟩
def withChan (r : CtxRun) : CtxRun := { r with fwd := vset r.fwd 7 chanA }

/-- Core 15 runs context 2 of the same job, with ring 15. -/
def peered (g : Ring) (s : State) : State :=
  onCore s 15 fun x => { x with active := some 2, ctx := vset x.ctx 2 ctxA, run := { x.run with rings := vset x.run.rings 15 (some g) } }
def noBasin (s : State) : State := setPart 0 { partOf s 0 with record := prec 1 0 } s
def landA : Landing := ⟨0, 5, 7, 0, 0, 1, 15, 15, 1, 1, List.replicate 64 9, true, 0, 0⟩
def landing (s : State) : State := { s with fab := { landing := [landA] } }
def credited (s : State) (setup : Nat) : State := { s with fab := { credit := [⟨0, 7, 0, 0, setup, 0⟩] } }

def doneFl : Flight := { eng := 3, d := desc [(0, 0x800), (2, 0xFFC7)], issueTs := 0, done := true }

def siteB (lines : Nat) : SiteBlock := ⟨0, 0, 10, lines, 16⟩
def accG : Acc := ⟨0, 2, fillD.w⟩
def inserted : State := (engRun (hashInsert accG (siteB 2) 5 3 0) (busy id)).2

/-- A hash of one line whose eight slots hold other sites. -/
def hashFull : State :=
  busy fun x => { x with basin := smSetList byteZero [] 640 ((List.range 8).flatMap fun i => leBytes 8 (77 + i + 2 ^ 44)) }

/-! ### SEL -/

/-- TOPK of 2 over three FP32 scores at Basin offset 0; the selection goes to `out`, the status record to 192. -/
def topB (out : Nat) : List Byte :=
  [0, 0, 6, 1] ++ leBytes 4 2 ++ zeros 4 ++ leBytes 4 out ++ leBytes 8 (3 * 2 ^ 32) ++ zeros 24 ++ leBytes 4 192 ++ zeros 76

/-- BOXES over no candidate, for at most one box. -/
def boxB : List Byte :=
  [1, 0, 6, 1] ++ zeros 12 ++ zeros 36 ++ zeros 6 ++ [6, 0] ++ leBytes 2 1 ++ leBytes 2 1 ++ [1, 0] ++ leBytes 2 1 ++ zeros 12 ++
    leBytes 4 0x3F800000 ++ zeros 44

def selQ (b : List Byte) : SelReq := ⟨0, 0, 0, 0, 5, 0, b, none, 0⟩
def selFl : Flight := { eng := 3, d := selD, issueTs := 0, selw := true }

/-- The request at the head of partition 0's queue, the scores 1, 3 and 2 in the Basin. -/
def selS (b : List Byte) : State :=
  { busy (fun x => { x with
      basin := smSetList byteZero [] 0 (leBytes 4 0x3F800000 ++ leBytes 4 0x40400000 ++ leBytes 4 0x40000000)
      run := { x.run with flight := [selFl] } }) with
    sel := { queue := vset (Vector.replicate 8 []) 0 [selQ b] } }

/-- TOPK over no score. -/
def topZ : List Byte := [0, 0, 6, 1] ++ leBytes 4 2 ++ zeros 4 ++ leBytes 4 128 ++ zeros 32 ++ leBytes 4 192 ++ zeros 76
/-- KNN of 1 for one query and no reference point; its answer goes to `out`. -/
def knnB (out : Nat) : List Byte :=
  [2, 0, 6, 1] ++ leBytes 4 1 ++ zeros 4 ++ leBytes 4 out ++ zeros 32 ++ leBytes 4 192 ++ zeros 44 ++ leBytes 4 64 ++ leBytes 2 1 ++ zeros 26
/-- KNN of no query. -/
def knnZ : List Byte := patch (knnB 128) 0x64 [0, 0]

def candA : List Cand := candsOf (selOf (topB 128)) [(0, 0x3F800000), (1, 0x40400000), (2, 0x40000000)]
def arriving (b : List Byte) : State := { prt with sel := { arr := [selQ b] } }

/-- Every slot but the first belongs to another partition. -/
def oneSlot (s : State) : State := { s with budget := [(odKey 0x2500 0x21, [0x30] ++ List.replicate 31 0x33)] }
def ringed (s : State) : State := setRings 0 { ringsOf s 0 with en := true } s
def boxOut : List Byte × List (List Byte) × Nat × Nat :=
  match (engRun (boxesWork (selQ boxB) (selOf boxB)) (selCyc (openServe 1 0 (selPop 0 (ringed (selS boxB))))).2).1 with
  | .ok x => x
  | .error _ => ([], [], 0, 0)
def selR : SelRes := ⟨selQ boxB, zeros 128, 0, 0, zeros 16, 0⟩
def spaceWait (m : Nat) : State :=
  tbOf { prt with sel := { queue := vset (Vector.replicate 8 []) 7 [{ selQ boxB with waits := some 0 }] } } fun x => { x with master := m }

def errs {ε α : Type} [DecidableEq ε] (x : Except ε α) (e : ε) : Bool := match x with
  | .error a => decide (a = e)
  | .ok _ => false

theorem pair_err {ε α σ : Type} [DecidableEq ε] {r : Except ε α × σ} {e : ε} (h : errs r.1 e = true) : r = (.error e, r.2) := by
  refine Prod.ext ?_ rfl
  unfold errs at h
  split at h
  next a q => exact q.trans (congrArg _ (of_decide_eq_true h))
  next => cases h

/-- TOPK of 100 over a million scores. -/
def topBig : List Byte :=
  [0, 0, 6, 1] ++ leBytes 4 100 ++ zeros 4 ++ leBytes 4 128 ++ leBytes 8 (1048576 * 2 ^ 32) ++ zeros 24 ++ leBytes 4 192 ++ zeros 76

/-! ### The loader -/

def secA : List Byte := zeros 64
def secB : List Byte := leBytes 4 0x10000000

/-- The smallest image: one core, dense form, 64 bytes of code and its entry. -/
def imgHead : List Byte :=
  leBytes 4 0x31585A49 ++ leBytes 2 1 ++ leBytes 2 2 ++ leBytes 4 256 ++ [48, 1, 0xFF, 1] ++ zeros 4 ++ leBytes 2 1 ++ zeros 2 ++
    [0xFF] ++ zeros 35
def image : List Byte :=
  imgHead ++ leBytes 4 (crc32c imgHead) ++ [1, 0, 0, 0] ++ leBytes 4 0x80 ++ leBytes 4 64 ++ leBytes 4 (crc32c secA) ++
    [2, 0, 0, 0] ++ leBytes 4 0xC0 ++ leBytes 4 4 ++ leBytes 4 (crc32c secB) ++ zeros 32 ++ secA ++ secB ++ zeros 60

/-- Partition 0 of class C with a load request, HST's translation of its first pages to 2 MiB, and these bytes there. -/
def loads (q : LoadReq) (dram : List Byte) : State :=
  { setPart 0 { partOf rdy 0 with record := patch recA 1 [2], ld := { req := some q, state := 2 } } rdy with
    tc := [⟨32, 0, true, 0, true, 0x200000, false⟩], dram := { mem := smSetList byteZero [] 0x200000 dram } }
def loadQ (stage : Nat) : LoadReq := ⟨false, 0, 0, 0, 256, 1, 0, stage, true⟩
def copied (img : List Byte) : State := (copyLines false 0 0 (chunk64 4 (slice img 0 256)) (loads (loadQ 1) [])).2
def readBack : State := (iovaReadLines agentHst 0 0 4 (loads (loadQ 2) image)).2
def queued (s : State) (l : List Nat) : State := hstOf s fun h => { h with ldQueue := l }

/-! ### Rings and jobs -/

/-- A job entry of partition 0: operation, tag, handle, bindings, work items. -/
def entry (op tag handle nitem : Nat) (binds : List Nat) : List Byte :=
  let h := leBytes 1 op ++ [0] ++ leBytes 2 tag ++ leBytes 2 handle ++ leBytes 1 0 ++ leBytes 1 binds.length ++ leBytes 2 nitem ++
    zeros 6 ++ (binds.flatMap fun b => leBytes 8 b) ++ zeros (44 - 8 * binds.length)
  h ++ leBytes 4 (crc32c (h ++ zeros 64)) ++ zeros 64

def posted : State := setRings 0 { ringsOf (ringed prt) 0 with sqTail := 1 } (ringed prt)
def unsigned : State :=
  tbOf (setRings 0 { ringsOf (ringed prt) 0 with unsig := 1, coalt := 2 } (ringed prt)) fun x => { x with master := 5000 }

/-- This entry is fetched; the job table of `s`. -/
def taken (b : List Byte) (s : State) : State := setPart 0 { partOf (ringed s) 0 with fetched := some (0, b) } (ringed s)
def withJobs (s : State) (l : SMap Job) : State := hstOf s fun h => { h with jobs := l }
def withProg (s : State) : State := hstOf s fun h => { h with progs := vset h.progs 0 (some progA) }
def subA : List Byte := entry 0 9 0 8 []
def jobQ : Job := { st := .queued, nitem := 8, rsv := 1 }
def runsQ : State := withProg (ringed (withJobs prt [(0, jobQ)]))

/-! ### Partitions, tables, stops and aborts -/

def part0 (s : State) (f : Part → Part) : State := setPart 0 (f (partOf s 0)) s
def copying : State := part0 prt fun x => { x with mmuCopy := some (0, 0, 64, 0) }
def cachedTc : State := { prt with tc := [⟨0, 0, true, 0, true, 0, false⟩, ⟨0, 1, true, 0, true, 0, false⟩] }

/-- Partition 0 with its first region for tables, a copy of 64 bytes asked for. -/
def copyAsk : State :=
  regPut (prtKey 0 0x110) 64 (part0 prt fun x => { x with record := patch recA 0x10 (leBytes 8 (0x200000 + 2 ^ 33)) })
def tblOpA (op len : Nat) (waits : List JobRef) : TblOp := ⟨op, 3, 0, 0, len, 0, 1, 64, 0, waits, false⟩
def tabling (s : State) (o : TblOp) : State := part0 s fun x => { x with tblOp := some o }
/-- Table 3 has a standby version. -/
def tblHeld : State :=
  part0 (ringed prt) fun x => { x with tables := vset x.tables 3 { vget x.tables 3 {} with standby := some ⟨0x10000, 1, 64, 64⟩ } }
/-- The image of a table: one shard, rows of 64 bytes, one row. -/
def tblImg : List Byte :=
  leBytes 2 0x4254 ++ [0, 1, 0, 0, 0, 0] ++ leBytes 4 64 ++ leBytes 4 1 ++ zeros 8 ++ leBytes 4 64 ++ zeros 36
def tblGood : TblOp := { tblOpA 1 64 [] with crc := crc32c tblImg }
def tblLoading : State := { tabling (ringed prt) tblGood with tc := [⟨32, 0, true, 0, true, 0x200000, false⟩] }
/-- Partition 0 holds one granule of core 0's Basin and semaphores 0 to 7; its reset ran. -/
def clearing (m : Nat) : State :=
  tbOf (part0 prt fun x => { x with record := patch (patch (prec 1 0) 8 [255]) 0x40 (leBytes 4 0x20001), reset := some ⟨0⟩ }) fun x => { x with master := m }

def stopping (saving : Bool) (f : CtxRun → CtxRun) : State :=
  busy fun x => { x with stop := some ⟨1, 0, saving⟩, run := f x.run }
def atMaster (m : Nat) (s : State) : State := tbOf s fun x => { x with master := m }
def preempted : State :=
  onCore jobRuns 0 fun x => { x with ctx := vset x.ctx 0 { ctxA with st := .preempted, saved := some {}, hdr := some ⟨0x4843, ctxA.taggen, 0, 0, 0⟩ } }

/-- A fault of job 0 waits in the Weir of core 3. -/
def faultF : FaultRec := ⟨.deadlock, 3, 50, some ⟨0, 0⟩, some 0, none, none, 7, [], 1, false⟩
def faulted : State := safOf (busy id) fun x => { x with weirs := vset x.weirs 3 [faultF] }
def causeA : EndCause := ⟨0x0401, 9, 3, 0, true, false⟩
def jobD (f : Job → Job) (s : State) : State := hstOf s fun h => { h with jobs := [(0, f { jobA with st := JobState.draining, cause := some causeA })] }

/-- A reason stands, both pins are low, a slot boundary waits. -/
def unsafeS : State :=
  { safOf rdy (fun x => { x with why := 4, pinA := false, pinB := false }) with pending := [.slotBoundary] }

/-! ### States that meet the hypotheses of the statements -/

/-! StepRunsFrontCommand -/

theorem wit_StepRunsFrontCommand_1 : ∃ c : Instr, ∃ rest : List Instr, ∃ s : State,
  s.pending = c :: rest :=
  ⟨.pwrfail, [.slotBoundary], { rdy with pending := [.pwrfail, .slotBoundary] }, by decide +kernel⟩

/-! IdleStepAdvancesTime -/

theorem wit_IdleStepAdvancesTime_1 : ∃ s : State,
  s.pending = [] ∧
  s.saf.tapHold = false :=
  ⟨rdy, by
  refine ⟨?_, ?_⟩ <;> decide +kernel⟩

theorem wit_IdleStepAdvancesTime_2 : ∃ s : State,
  s.pending = [] ∧
  s.saf.tapHold = false ∧
  isReady s = true ∧
  smWf jobDflt s.hst.jobs = true ∧
  wdCounts s 0 (jobOf s 0) = true :=
  ⟨heads 4 (nopQ 0 0) id, by
  refine ⟨?_, ?_, ?_, ?_, ?_⟩ <;> decide +kernel⟩

theorem wit_IdleStepAdvancesTime_3 : ∃ s : State,
  s.pending = [] ∧
  s.saf.tapHold = false ∧
  isReady s = true ∧
  smWf jobDflt s.hst.jobs = true ∧
  wdCounts s 1 (jobOf s 1) = false :=
  ⟨jobRuns, by
  refine ⟨?_, ?_, ?_, ?_, ?_⟩ <;> decide +kernel⟩

theorem wit_IdleStepAdvancesTime_4 : ∃ s : State,
  s.pending = [] ∧
  s.saf.tapHold = false ∧
  isReady s = false :=
  ⟨dev .bringup, by
  refine ⟨?_, ?_, ?_⟩ <;> decide +kernel⟩

theorem wit_IdleStepAdvancesTime_5 : ∃ s : State,
  s.pending = [] ∧
  s.saf.tapHold = true :=
  ⟨{ rdy with saf := { rdy.saf with tapHold := true } }, by
  refine ⟨?_, ?_⟩ <;> decide +kernel⟩

/-! RegisterReads -/

theorem wit_RegisterReads_1 : ∃ s : State, ∃ r : Requester, ∃ o : Nat,
  linked s r = true ∧
  r ≠ .dbg ∧
  ((o = 0x20 ∨ o = 0x24)) :=
  ⟨rdy, .host 1, 0x24, by
  refine ⟨?_, ?_, ?_⟩ <;> decide +kernel⟩

theorem wit_RegisterReads_2 : ∃ s : State, ∃ r : Requester, ∃ o : Nat,
  linked s r = true ∧
  ((o = 0x20 ∨ o = 0x24)) :=
  ⟨rdy, .mbx 4, 0x20, by
  refine ⟨?_, ?_⟩ <;> decide +kernel⟩

theorem wit_RegisterReads_3 : ∃ s : State, ∃ o : Nat,
  linked s .dbg = true ∧
  ((o = 0x20 ∨ o = 0x24)) :=
  ⟨rdy, 0x20, by
  refine ⟨?_, ?_⟩ <;> decide +kernel⟩

theorem wit_RegisterReads_4 : ∃ s : State, ∃ r : Requester,
  linked s r = true :=
  ⟨{ rdy with tb := { rdy.tb with master := 0x123456789A } }, .host 3, by decide +kernel⟩

theorem wit_RegisterReads_5 : ∃ s : State, ∃ r : Requester, ∃ a : Nat,
  linked s r = true ∧
  a < 0x10000 ∧
  a % 4 ≠ 0 :=
  ⟨rdy, .host 0, 0xFFFF, by
  refine ⟨?_, ?_, ?_⟩ <;> decide +kernel⟩

/-! PeekAliases -/

theorem wit_PeekAliases_1 : ∃ s : State, ∃ r : Requester, ∃ a : Nat,
  linked s r = true ∧
  a % 4 = 0 ∧
  blkRc (blkOf a).1 (blkOf a).2 = true :=
  ⟨rdy, .host 0, 0x20, by
  refine ⟨?_, ?_, ?_⟩ <;> decide +kernel⟩

/-! RegisterWrites -/

theorem wit_RegisterWrites_1 : ∃ s : State, ∃ r : Requester, ∃ a : Nat, ∃ v : Nat,
  linked s r = true ∧
  a < 0x10000 ∧
  a % 4 = 0 :=
  ⟨rdy, .dbg, 0xFFFC, 7, by
  refine ⟨?_, ?_, ?_⟩ <;> decide +kernel⟩

theorem wit_RegisterWrites_2 : ∃ s : State, ∃ h : Fin 4, ∃ v : Nat,
  linked s (.host h) = true ∧
  isReady s = true ∧
  (mbxGet s h.val).state ≠ 1 :=
  ⟨rdy, 3, 0x12345678, by
  refine ⟨?_, ?_, ?_⟩ <;> decide +kernel⟩

theorem wit_RegisterWrites_3 : ∃ s : State, ∃ h : Fin 4, ∃ p : Fin 8, ∃ v : Nat,
  linked s (.host h) = true ∧
  isReady s = true ∧
  ownerOf (partOf s p.val) = some h.val ∧
  (ringsOf s p.val).en = false :=
  ⟨own 0 7, 0, 7, 0x100001234, by
  refine ⟨?_, ?_, ?_, ?_⟩ <;> decide +kernel⟩

theorem wit_RegisterWrites_4 : ∃ s : State, ∃ h : Fin 4, ∃ p : Fin 8, ∃ v : Nat,
  linked s (.host h) = true ∧
  isReady s = true ∧
  ownerOf (partOf s p.val) ≠ some h.val :=
  ⟨own 0 7, 1, 7, 5, by
  refine ⟨?_, ?_, ?_⟩ <;> decide +kernel⟩

theorem wit_RegisterWrites_5 : ∃ s : State, ∃ h : Fin 4, ∃ p : Fin 8, ∃ v : Nat,
  linked s (.host h) = true ∧
  isReady s = false :=
  ⟨{ rdy with saf := { rdy.saf with dev := .bringup } }, 2, 0, 5, by
  refine ⟨?_, ?_⟩ <;> decide +kernel⟩

/-! Apertures -/

theorem wit_Apertures_1 : ∃ s : State, ∃ h : Fin 4, ∃ c : Fin 16, ∃ o : Nat,
  let a := aperPhys s (.host h) c.val o
  let x := coreOf s c.val
  linked s (.host h) = true ∧
  isReady s = true ∧
  o < 0x80000 ∧
  o % 4 = 0 ∧
  a.2 < spaceSize a.1 ∧
  reaches s (.host h) (spaceOwner s c.val a.1 a.2) false = true ∧
  ((a.1 = 0 → smGet upZero x.basinUp (a.2 / 8) = 0)) ∧
  ((a.1 = 1 → ∀ i < 4, smGet upZero x.cisUp (a.2 / 16 * 4 + i) = 0)) ∧
  ((a.1 = 2 → smGet upZero x.dmemUp (a.2 / 4) = 0)) :=
  ⟨prt, 0, 3, 0x7FFFC, by
  refine ⟨?_, ?_, ?_, ?_, ?_, ?_, ?_, ?_, ?_⟩ <;> decide +kernel⟩

theorem wit_Apertures_2 : ∃ s : State, ∃ h : Fin 4, ∃ c : Fin 16, ∃ o : Nat, ∃ v : Nat,
  let a := aperPhys s (.host h) c.val o
  let x := coreOf s c.val
  linked s (.host h) = true ∧
  isReady s = true ∧
  o < 0x80000 ∧
  o % 4 = 0 ∧
  a.2 < spaceSize a.1 ∧
  reaches s (.host h) (spaceOwner s c.val a.1 a.2) true = true ∧
  ((a.1 = 0 → smGet upZero x.basinUp (a.2 / 8) = 0)) :=
  ⟨prt, 0, 15, 0, 0x12345678, by
  refine ⟨?_, ?_, ?_, ?_, ?_, ?_, ?_⟩ <;> decide +kernel⟩

theorem wit_Apertures_3 : ∃ s : State, ∃ h : Fin 4, ∃ c : Fin 16, ∃ o : Nat, ∃ v : Nat,
  let a := aperPhys s (.host h) c.val o
  linked s (.host h) = true ∧
  isReady s = true ∧
  o < 0x80000 ∧
  o % 4 = 0 ∧
  a.2 < spaceSize a.1 ∧
  reaches s (.host h) (spaceOwner s c.val a.1 a.2) true = false :=
  ⟨prt, 1, 15, 0, 5, by
  refine ⟨?_, ?_, ?_, ?_, ?_, ?_⟩ <;> decide +kernel⟩

theorem wit_Apertures_4 : ∃ s : State, ∃ h : Fin 4, ∃ c : Fin 16, ∃ o : Nat, ∃ v : Nat,
  let a := aperPhys s (.host h) c.val o
  linked s (.host h) = true ∧
  isReady s = true ∧
  o < 0x80000 ∧
  o % 4 = 0 ∧
  spaceSize a.1 ≤ a.2 :=
  ⟨regPut (rkey 1 0x1000014) 0x80000000 prt, 0, 0, 0x10000, 5, by
  refine ⟨?_, ?_, ?_, ?_, ?_⟩ <;> decide +kernel⟩

/-! ImagoTriggersAndCaptures -/

theorem wit_ImagoTriggersAndCaptures_1 : ∃ s : State, ∃ h : Fin 4, ∃ v : Nat,
  linked s (.host h) = true ∧
  isReady s = true ∧
  imgReader s (.host h) = true ∧
  v % 65536 = 0x494D ∧
  bitOf (imgSources s) 2 = true ∧
  s.img.phase = .empty :=
  ⟨rdy, 3, 0x1494D, by
  refine ⟨?_, ?_, ?_, ?_, ?_, ?_⟩ <;> decide +kernel⟩

theorem wit_ImagoTriggersAndCaptures_2 : ∃ s : State,
  s.fio.supply = true ∧
  bitOf (imgSources s) 0 = true ∧
  s.img.phase = .empty :=
  ⟨rdy, by
  refine ⟨?_, ?_, ?_⟩ <;> decide +kernel⟩

theorem wit_ImagoTriggersAndCaptures_3 : ∃ s : State,
  s.fio.supply = true ∧
  bitOf (imgSources s) 0 = true ∧
  s.img.phase = .pending :=
  ⟨imgOf rdy fun x => { x with phase := .pending }, by
  refine ⟨?_, ?_, ?_⟩ <;> decide +kernel⟩

theorem wit_ImagoTriggersAndCaptures_4 : ∃ s : State,
  s.fio.supply = true ∧
  bitOf (imgSources s) 0 = true ∧
  ((s.img.phase = .transferring ∨ (s.img.phase = .held ∧ odNat s 0x4200 3 = 0))) :=
  ⟨imgOf rdy fun x => { x with phase := .held }, by
  refine ⟨?_, ?_, ?_⟩ <;> decide +kernel⟩

theorem wit_ImagoTriggersAndCaptures_5 : ∃ s : State, ∃ h : Fin 4, ∃ v : Nat,
  linked s (.host h) = true ∧
  isReady s = true ∧
  imgReader s (.host h) = false :=
  ⟨odPut 0x4200 6 [0x10] rdy, 0, 0x494D, by
  refine ⟨?_, ?_, ?_⟩ <;> decide +kernel⟩

theorem wit_ImagoTriggersAndCaptures_6 : ∃ s : State,
  s.img.phase = .pending ∧
  s.img.capt ≤ s.tb.master :=
  ⟨imgOf rdy fun x => { x with phase := .pending }, by
  refine ⟨?_, ?_⟩ <;> decide +kernel⟩

theorem wit_ImagoTriggersAndCaptures_7 : ∃ s : State,
  s.img.phase = .pending ∧
  s.img.capt ≤ s.tb.master ∧
  s.jr.intake.length < 256 :=
  ⟨imgOf rdy fun x => { x with phase := .pending }, by
  refine ⟨?_, ?_, ?_⟩ <;> decide +kernel⟩

theorem wit_ImagoTriggersAndCaptures_8 : ∃ s : State,
  s.img.phase = .transferring :=
  ⟨imgOf rdy fun x => { x with phase := .transferring }, by decide +kernel⟩

theorem wit_ImagoTriggersAndCaptures_9 : ∃ s : State, ∃ h : Fin 4, ∃ v : Nat,
  linked s (.host h) = true ∧
  isReady s = true ∧
  v % 2 = 1 ∧
  s.img.phase = .held :=
  ⟨imgOf rdy (fun x => { x with phase := .held }), 0, 3, by
  refine ⟨?_, ?_, ?_, ?_⟩ <;> decide +kernel⟩

/-! TimeMessagesSent -/

theorem wit_TimeMessagesSent_1 : ∃ s : State,
  tbSrc s = 2 :=
  ⟨odPut 0x2400 3 [0x81] (odPut 0x2400 1 [2] rdy), by decide +kernel⟩

theorem wit_TimeMessagesSent_2 : ∃ s : State,
  tbSrc s = 1 :=
  ⟨odPut 0x2400 2 [7] (odPut 0x2400 1 [1] rdy), by decide +kernel⟩

/-! TimeStateCommands -/

theorem wit_TimeStateCommands_1 : ∃ s : State,
  ((s.tb.mode = .locked ∨ s.tb.mode = .acquiring)) ∧
  ((tbSrc s = 1 ∨ tbSrc s = 3)) ∧
  s.tb.trims ≠ [] ∧
  s.jr.intake.length < 256 :=
  ⟨odPut 0x2400 1 [3] (tbOf rdy fun x => { x with mode := .locked, trims := [3, 5] }), by
  refine ⟨?_, ?_, ?_, ?_⟩ <;> decide +kernel⟩

theorem wit_TimeStateCommands_2 : ∃ s : State,
  s.tb.mode = .holdover ∧
  s.tb.holdSince + odNat s 0x2400 6 * 1000000000 < s.tb.master ∧
  s.jr.intake.length < 256 :=
  ⟨tbOf rdy fun x => { x with mode := .holdover, master := 10000000001 }, by
  refine ⟨?_, ?_, ?_⟩ <;> decide +kernel⟩

theorem wit_TimeStateCommands_3 : ∃ s : State, ∃ mac : Fin 8, ∃ q : Nat, ∃ origin : Nat, ∃ corr : Int,
  tbSrc s = 1 ∧
  tbPort s = mac.val :=
  ⟨odPut 0x2400 2 [7] (odPut 0x2400 1 [1] rdy), 7, 9, 1000, 20, by
  refine ⟨?_, ?_⟩ <;> decide +kernel⟩

theorem wit_TimeStateCommands_4 : ∃ s : State, ∃ mac : Fin 8, ∃ q : Nat, ∃ respTx : Nat, ∃ t1 : Nat, ∃ t2 : Nat, ∃ t4 : Nat,
  tbSrc s = 1 ∧
  tbPort s = mac.val ∧
  s.tb.pdReq = some (q, t1) ∧
  s.tb.pdResp = some (t2, t4) :=
  ⟨odPut 0x2400 1 [1] (tbOf rdy fun x => { x with pdReq := some (4, 100), pdResp := some (130, 190) }), 0, 4, 160, 100, 130, 190, by
  refine ⟨?_, ?_, ?_, ?_⟩ <;> decide +kernel⟩

theorem wit_TimeStateCommands_5 : ∃ s : State, ∃ mac : Fin 8,
  tbSrc s = 2 :=
  ⟨odPut 0x2400 1 [2] rdy, 3, by decide +kernel⟩

theorem wit_TimeStateCommands_6 : ∃ s : State, ∃ mac : Fin 8, ∃ f : GptpMsg,
  f.domain ≠ 0 :=
  ⟨rdy, 3, ⟨255, .announce⟩, by decide +kernel⟩

/-! ReplicaSkew -/

theorem wit_ReplicaSkew_1 : ∃ s : State, ∃ i : Fin 24, ∃ lag : Int,
  i.val ≠ 23 ∧
  (lag < 0 ∨ 4 < lag) :=
  ⟨rdy, 22, 5, by
  refine ⟨?_, ?_⟩ <;> decide +kernel⟩

theorem wit_ReplicaSkew_2 : ∃ s : State, ∃ i : Fin 24, ∃ lag : Int,
  i.val ≠ 23 ∧
  (lag < 0 ∨ 4 < lag) ∧
  s.tb.skewState.getLsbD i.val = false ∧
  ((0, jobA) ∈ s.hst.jobs ∧ jobA.st = .running) :=
  ⟨jobRuns, 0, -1, by
  refine ⟨?_, ?_, ?_, ?_⟩ <;> decide +kernel⟩

theorem wit_ReplicaSkew_3 : ∃ s : State, ∃ i : Fin 24, ∃ lag : Int,
  i.val ≠ 23 ∧
  0 ≤ lag ∧
  lag ≤ 4 ∧
  s.tb.skewState.getLsbD i.val = false ∧
  0 ≤ vget s.tb.unseen i.val 0 :=
  ⟨rdy, 0, 4, by
  refine ⟨?_, ?_, ?_, ?_, ?_⟩ <;> decide +kernel⟩

theorem wit_ReplicaSkew_4 : ∃ s : State, ∃ i : Fin 24, ∃ lag : Int,
  i.val ≠ 23 ∧
  0 ≤ lag ∧
  lag ≤ 4 ∧
  s.tb.skewState.getLsbD i.val = true ∧
  vget s.tb.passes i.val 0 + 1 < 1024 :=
  ⟨tbOf rdy (fun x => { x with skewState := 1, passes := Vector.replicate 24 1022 }), 0, 0, by
  refine ⟨?_, ?_, ?_, ?_, ?_⟩ <;> decide +kernel⟩

theorem wit_ReplicaSkew_5 : ∃ s : State, ∃ i : Fin 24, ∃ lag : Int,
  i.val ≠ 23 ∧
  0 ≤ lag ∧
  lag ≤ 4 ∧
  s.tb.skewState.getLsbD i.val = true ∧
  1024 ≤ vget s.tb.passes i.val 0 + 1 :=
  ⟨tbOf rdy (fun x => { x with skewState := 1, passes := Vector.replicate 24 1023 }), 0, 4, by
  refine ⟨?_, ?_, ?_, ?_, ?_⟩ <;> decide +kernel⟩

/-! PulsesFollowTheMaster -/

theorem wit_PulsesFollowTheMaster_1 : ∃ s : State,
  s.fio.supply = true ∧
  odNat s 0x4030 0x10 ≠ 0 ∧
  s.fio.ppsUntil = none ∧
  s.fio.ppsLast < s.tb.master / 1000000000 :=
  ⟨tbOf rdy fun x => { x with master := 1000000000 }, by
  refine ⟨?_, ?_, ?_, ?_⟩ <;> decide +kernel⟩

theorem wit_PulsesFollowTheMaster_2 : ∃ s : State, ∃ u : Nat,
  s.fio.supply = true ∧
  odNat s 0x4030 0x10 ≠ 0 ∧
  s.fio.ppsUntil = some u ∧
  u ≤ s.tb.master :=
  ⟨tbOf (fioOf rdy fun x => { x with ppsUntil := some 7 }) (fun x => { x with master := 7 }), 7, by
  refine ⟨?_, ?_, ?_, ?_⟩ <;> decide +kernel⟩

theorem wit_PulsesFollowTheMaster_3 : ∃ s : State, ∃ m : Fin 8,
  trigHeld s m.val = false ∧
  trigEn s m.val = true ∧
  (vget s.fio.trig m.val {}).until_ = none ∧
  gridFrom (trigPeriod s m.val) (trigPhase s m.val) (vget s.fio.trig m.val {}).notBefore ≤ s.tb.master :=
  ⟨odPut 0x4030 1 (leBytes 4 100000000 ++ leBytes 4 0 ++ leBytes 4 10000 ++ leBytes 4 1) (tbOf rdy fun x => { x with mode := .locked, master := 100000000 }), 0, by
  refine ⟨?_, ?_, ?_, ?_⟩ <;> decide +kernel⟩

theorem wit_PulsesFollowTheMaster_4 : ∃ s : State, ∃ m : Fin 8, ∃ u : Nat,
  trigHeld s m.val = false ∧
  (vget s.fio.trig m.val {}).until_ = some u ∧
  u ≤ s.tb.master :=
  ⟨odPut 0x4030 8 (leBytes 4 100000000 ++ leBytes 4 0 ++ leBytes 4 10000 ++ leBytes 4 1) (tbOf (fioOf rdy fun x => { x with trig := Vector.replicate 8 { until_ := some 5 } }) fun x => { x with mode := .locked, master := 5 }), 7, 5, by
  refine ⟨?_, ?_, ?_⟩ <;> decide +kernel⟩

theorem wit_PulsesFollowTheMaster_5 : ∃ s : State,
  s.fio.supply = true ∧
  ((s.fio.ppsSeen = false ∨ s.fio.ppsInTs + 500000000 ≤ s.tb.master)) ∧
  tbSrc s ≠ 3 :=
  ⟨rdy, by
  refine ⟨?_, ?_, ?_⟩ <;> decide +kernel⟩

theorem wit_PulsesFollowTheMaster_6 : ∃ s : State,
  s.fio.supply = true :=
  ⟨rdy, by decide +kernel⟩

theorem wit_PulsesFollowTheMaster_7 : ∃ s : State,
  s.fio.supply = true ∧
  s.fio.ppsSeen = true ∧
  s.tb.master < s.fio.ppsInTs + 500000000 :=
  ⟨fioOf rdy fun x => { x with ppsSeen := true, ppsInTs := 1 }, by
  refine ⟨?_, ?_, ?_⟩ <;> decide +kernel⟩

/-! FieldSupplyAndInputs -/

theorem wit_FieldSupplyAndInputs_1 : ∃ s : State,
  s.fio.supply = true :=
  ⟨rdy, by decide +kernel⟩

theorem wit_FieldSupplyAndInputs_2 : ∃ s : State,
  s.fio.supply = false :=
  ⟨fioOf rdy fun x => { x with supply := false }, by decide +kernel⟩

theorem wit_FieldSupplyAndInputs_3 : ∃ s : State, ∃ f : FieldSample, ∃ n : Fin 4,
  s.fio.supply = true ∧
  sinEn s n.val = true ∧
  vget f.a n.val false ≠ (if sinAntiv s n.val then !vget f.b n.val false else vget f.b n.val false) :=
  ⟨odPut 0x4020 1 [1] rdy, ⟨#v[true, false, false, false], Vector.replicate 4 false, Vector.replicate 8 false, false, false, false⟩, 0, by
  refine ⟨?_, ?_, ?_⟩ <;> decide +kernel⟩

theorem wit_FieldSupplyAndInputs_4 : ∃ s : State, ∃ f : FieldSample, ∃ n : Fin 4,
  s.fio.supply = true ∧
  sinEn s n.val = true ∧
  vget f.a n.val false = false ∧
  (if sinAntiv s n.val then !vget f.b n.val false else vget f.b n.val false) = false :=
  ⟨odPut 0x4023 2 [1] (odPut 0x4023 1 [1] rdy), ⟨Vector.replicate 4 false, #v[false, false, false, true], Vector.replicate 8 false, false, false, false⟩, 3, by
  refine ⟨?_, ?_, ?_, ?_⟩ <;> decide +kernel⟩

theorem wit_FieldSupplyAndInputs_5 : ∃ s : State,
  s.node.faultHolding = true ∧
  s.node.faultHold ≤ s.tb.master :=
  ⟨nodeOf rdy fun x => { x with faultHolding := true }, by
  refine ⟨?_, ?_⟩ <;> decide +kernel⟩

/-! StartupSelfTest -/

theorem wit_StartupSelfTest_1 : ∃ s : State,
  s.saf.dev = .starting ∧
  s.saf.stsSince = none ∧
  s.saf.hold = false :=
  ⟨dev .starting, by
  refine ⟨?_, ?_, ?_⟩ <;> decide +kernel⟩

theorem wit_StartupSelfTest_2 : ∃ s : State, ∃ r : StsResult,
  s.saf.dev = .selftest ∧
  s.saf.stsSince.isSome = true ∧
  s.tb.master ≤ s.boot.since + 60000000 ∧
  s.saf.hold = false ∧
  ((∀ i < 27, ∃ d, stsChk r (i + 1) = some (0, d))) ∧
  r.memFail = false ∧
  ((∀ c : Fin 16, vget r.quads c.val 0 = 0 ∧ vget r.cause c.val 0 = 0)) :=
  ⟨safOf (dev .selftest) (fun x => { x with stsSince := some 0, why := 0x8000 }), goodSts, ⟨by decide +kernel, by decide +kernel, by decide +kernel, by decide +kernel, fun i h => ⟨0, (by decide +kernel : ∀ i < 27, stsChk goodSts (i + 1) = some (0, 0)) i h⟩, by decide +kernel, by decide +kernel⟩⟩

theorem wit_StartupSelfTest_3 : ∃ s : State, ∃ r : StsResult, ∃ i : Nat,
  s.saf.dev = .selftest ∧
  s.saf.stsSince.isSome = true ∧
  s.tb.master ≤ s.boot.since + 60000000 ∧
  s.saf.hold = false ∧
  i < 27 ∧
  ((s.saf.why ≠ 0 → s.saf.pinA = false ∧ s.saf.pinB = false)) ∧
  ((stsChk r (i + 1) = none ∨ ∃ n d, stsChk r (i + 1) = some (n + 1, d))) :=
  ⟨safOf (dev .selftest) (fun x => { x with stsSince := some 0, why := 0x8000, pinA := false }), { goodSts with chk := goodSts.chk.drop 1 }, 0, ⟨by decide +kernel, by decide +kernel, by decide +kernel, by decide +kernel, by decide +kernel, by decide +kernel, .inl (by decide +kernel)⟩⟩

theorem wit_StartupSelfTest_4 : ∃ s : State, ∃ r : StsResult,
  s.saf.dev = .selftest ∧
  s.saf.stsSince.isSome = true ∧
  s.tb.master ≤ s.boot.since + 60000000 ∧
  s.saf.hold = false ∧
  r.memFail = true :=
  ⟨safOf (dev .selftest) (fun x => { x with stsSince := some 0 }), { goodSts with memFail := true }, by
  refine ⟨?_, ?_, ?_, ?_, ?_⟩ <;> decide +kernel⟩

theorem wit_StartupSelfTest_5 : ∃ s : State, ∃ r : StsResult,
  s.saf.dev = .selftest ∧
  s.saf.stsSince.isSome = true ∧
  s.boot.since + 60000000 < s.tb.master ∧
  s.saf.hold = false :=
  ⟨tbOf (safOf (dev .selftest) (fun x => { x with stsSince := some 0 })) (fun x => { x with master := 60000001 }), goodSts, by
  refine ⟨?_, ?_, ?_, ?_⟩ <;> decide +kernel⟩

/-! StartUpAndResets -/

theorem wit_StartUpAndResets_1 : ∃ s : State, ∃ h : List Byte,
  s.saf.dev = .selftest ∧
  s.saf.stsSince = none ∧
  s.saf.mgtUp = false ∧
  s.saf.hold = false ∧
  s.boot.stage = 1 ∧
  bootHeader s = some h ∧
  s.boot.slot = 2 :=
  ⟨{ boots with flash := hdrFlash }, hdr ++ leBytes 4 (crc32c hdr), by
  refine ⟨?_, ?_, ?_, ?_, ?_, ?_, ?_⟩ <;> decide +kernel⟩

theorem wit_StartUpAndResets_2 : ∃ s : State,
  s.saf.dev = .selftest ∧
  s.saf.stsSince = none ∧
  s.saf.mgtUp = false ∧
  s.saf.hold = false ∧
  s.boot.stage = 1 ∧
  bootHeader s = none :=
  ⟨boots, by
  refine ⟨?_, ?_, ?_, ?_, ?_, ?_⟩ <;> decide +kernel⟩

theorem wit_StartUpAndResets_3 : ∃ s : State, ∃ cap : Fin 4,
  s.saf.dev = .bringup ∧
  s.saf.mgtUp = true ∧
  cap.val ≠ 0 ∧
  s.saf.hold = false :=
  ⟨dev .bringup, 3, by
  refine ⟨?_, ?_, ?_, ?_⟩ <;> decide +kernel⟩

theorem wit_StartUpAndResets_4 : ∃ s : State,
  s.saf.dev = .bringup ∧
  s.boot.memcap ≠ 0 ∧
  s.saf.hold = false ∧
  s.saf.latch = false :=
  ⟨dev .bringup, by
  refine ⟨?_, ?_, ?_, ?_⟩ <;> decide +kernel⟩

theorem wit_StartUpAndResets_5 : ∃ s : State,
  s.saf.tapHold = false ∧
  ((s.saf.why ≠ 0 → s.saf.pinA = false ∧ s.saf.pinB = false)) :=
  ⟨rdy, by
  refine ⟨?_, ?_⟩ <;> decide +kernel⟩

/-! ClocksRailsAndTemperature -/

theorem wit_ClocksRailsAndTemperature_1 : ∃ s : State, ∃ n : Nat,
  248 ≤ n ∧
  n ≤ 252 :=
  ⟨rdy, 248, by
  refine ⟨?_, ?_⟩ <;> decide +kernel⟩

theorem wit_ClocksRailsAndTemperature_2 : ∃ s : State, ∃ n : Nat,
  (n < 248 ∨ 252 < n) ∧
  s.clk.sysFailing = false :=
  ⟨rdy, 247, by
  refine ⟨?_, ?_⟩ <;> decide +kernel⟩

theorem wit_ClocksRailsAndTemperature_3 : ∃ s : State, ∃ i : Fin 24, ∃ d : Int,
  50 < d.natAbs ∧
  s.clk.run.getLsbD i.val = true ∧
  s.clk.failing.getLsbD i.val = false :=
  ⟨rdy, 23, -51, by
  refine ⟨?_, ?_, ?_⟩ <;> decide +kernel⟩

theorem wit_ClocksRailsAndTemperature_4 : ∃ s : State, ∃ i : Fin 24, ∃ d : Int,
  d.natAbs ≤ 50 ∧
  s.clk.run.getLsbD i.val = true :=
  ⟨rdy, 0, 50, by
  refine ⟨?_, ?_⟩ <;> decide +kernel⟩

theorem wit_ClocksRailsAndTemperature_5 : ∃ s : State,
  ((∀ c : Fin 16, vget s.clk.level c.val 0 ≤ 16)) :=
  ⟨rdy, by decide +kernel⟩

theorem wit_ClocksRailsAndTemperature_6 : ∃ s : State, ∃ l : List Int, ∃ p : Nat,
  ((∀ x ∈ l, x < 2240)) :=
  ⟨rdy, [2239, 0, -5], 300, by decide +kernel⟩

theorem wit_ClocksRailsAndTemperature_7 : ∃ s : State, ∃ l : List Int, ∃ p : Nat,
  ((∃ x ∈ l, 2240 ≤ x)) ∧
  s.saf.hold = false :=
  ⟨rdy, [0, 2240], 0, by
  refine ⟨?_, ?_⟩ <;> decide +kernel⟩

theorem wit_ClocksRailsAndTemperature_8 : ∃ s : State,
  ((∀ c : Fin 16, vget s.clk.k c.val 16 = vget s.clk.target c.val 16)) :=
  ⟨rdy, by decide +kernel⟩

theorem wit_ClocksRailsAndTemperature_9 : ∃ s : State, ∃ c : Nat,
  stepNext s = some c :=
  ⟨clkOf rdy (fun x => { x with target := vset x.target 5 15 }), 5, by decide +kernel⟩

/-! SafePinsAndTheLatch -/

theorem wit_SafePinsAndTheLatch_1 : ∃ s : State,
  s.saf.why = 0 ∧
  s.saf.latch = false :=
  ⟨rdy, by
  refine ⟨?_, ?_⟩ <;> decide +kernel⟩

theorem wit_SafePinsAndTheLatch_2 : ∃ s : State,
  (s.saf.why ≠ 0 ∨ s.saf.latch = true) :=
  ⟨safOf rdy fun x => { x with latch := true, pinA := false }, by decide +kernel⟩

theorem wit_SafePinsAndTheLatch_3 : ∃ s : State, ∃ a : Bool, ∃ b : Bool,
  s.saf.rbA = s.saf.pinA ∧
  a ≠ s.saf.pinA ∧
  ((s.saf.why ≠ 0 → s.saf.pinA = false ∧ s.saf.pinB = false)) :=
  ⟨rdy, false, false, by
  refine ⟨?_, ?_, ?_⟩ <;> decide +kernel⟩

theorem wit_SafePinsAndTheLatch_4 : ∃ s : State, ∃ p : Fin 8,
  odNat s 0x4000 2 = 1 ∧
  s.saf.why.getLsbD p.val = true ∧
  vget s.saf.onTime p.val false = true ∧
  vget s.saf.missAt p.val 0 + odNat s 0x4000 3 * 1000000 ≤ s.tb.master :=
  ⟨odPut 0x4000 2 [1] (tbOf (safOf rdy fun x => { x with why := 0x80, onTime := Vector.replicate 8 true }) fun x => { x with master := 100000000 }), 7, by
  refine ⟨?_, ?_, ?_, ?_⟩ <;> decide +kernel⟩

theorem wit_SafePinsAndTheLatch_5 : ∃ s : State, ∃ sh : Bool,
  s.saf.latch = false ∧
  s.saf.why.getLsbD 14 = false :=
  ⟨rdy, false, by
  refine ⟨?_, ?_⟩ <;> decide +kernel⟩

theorem wit_SafePinsAndTheLatch_6 : ∃ s : State,
  mgtRuns s = true :=
  ⟨rdy, by decide +kernel⟩

theorem wit_SafePinsAndTheLatch_7 : ∃ s : State, ∃ i : Fin 512, ∃ e : MonEntry, ∃ d : Nat,
  monGet s i.val = some e ∧
  e.deadline = some d ∧
  d + 16 ≤ s.tb.master ∧
  e.part < 8 ∧
  (bitOf (odNat s 0x4000 1) e.part = false ∨ 2 ≤ partClass s e.part) :=
  ⟨odPut 0x4000 1 [0] (tbOf (safOf rdy fun x => { x with mon := [(511, some ⟨0, 7, 1, some 5, 0⟩)] }) (fun x => { x with master := 21 })), 511, ⟨0, 7, 1, some 5, 0⟩, 5, by
  refine ⟨?_, ?_, ?_, ?_, ?_⟩ <;> decide +kernel⟩

theorem wit_SafePinsAndTheLatch_8 : ∃ s : State, ∃ i : Fin 512, ∃ e : MonEntry, ∃ d : Nat,
  monGet s i.val = some e ∧
  e.deadline = some d ∧
  d + 16 ≤ s.tb.master ∧
  e.part < 8 ∧
  bitOf (odNat s 0x4000 1) e.part = true ∧
  partClass s e.part < 2 :=
  ⟨odPut 0x4000 1 [0x80] (tbOf (safOf (own 0 7) fun x => { x with mon := [(511, some ⟨0, 7, 1, some 5, 0⟩)] }) (fun x => { x with master := 21 })), 511, ⟨0, 7, 1, some 5, 0⟩, 5, by
  refine ⟨?_, ?_, ?_, ?_, ?_, ?_⟩ <;> decide +kernel⟩

/-! TheJournal -/

theorem wit_TheJournal_1 : ∃ s : State, ∃ r : JRec, ∃ rest : List JRec,
  takeMin jrecBefore s.jr.intake = some (r, rest) ∧
  s.jr.ringFail = false :=
  ⟨jrOf rdy (fun x => { x with intake := [jr1, { jr1 with ts := 4 }] }), { jr1 with ts := 4 }, [jr1], by
  refine ⟨?_, ?_⟩ <;> decide +kernel⟩

theorem wit_TheJournal_2 : ∃ s : State, s.jr.intake = [] := ⟨rdy, by decide +kernel⟩


theorem wit_TheJournal_3 : ∃ s : State, ∃ r : JRec, ∃ rest : List JRec,
  s.jr.nvPend = r :: rest ∧
  s.jr.nvFail = false ∧
  s.jr.nvClosed = false ∧
  s.saf.pwrFail = false ∧
  (activeBank s).used < 1791 ∧
  s.jr.compact = none :=
  ⟨jrOf rdy (fun x => { x with nvPend := [jr1] }), jr1, [], by
  refine ⟨?_, ?_, ?_, ?_, ?_, ?_⟩ <;> decide +kernel⟩

theorem wit_TheJournal_4 : ∃ s : State, ∃ k : Compaction,
  s.jr.compact = some k ∧
  s.saf.pwrFail = false ∧
  s.jr.nvPend = [] ∧
  k.src ≤ (activeBank s).used :=
  ⟨jrOf rdy (fun x => { x with compact := some ⟨1, 0⟩, bank0 := { x.bank0 with used := 1 } }), ⟨1, 0⟩, by
  refine ⟨?_, ?_, ?_, ?_⟩ <;> decide +kernel⟩

theorem wit_TheJournal_5 : ∃ s : State, ∃ k : Compaction,
  s.jr.compact = some k ∧
  s.saf.pwrFail = false ∧
  s.jr.nvPend = [] ∧
  (activeBank s).used < k.src :=
  ⟨jrOf rdy (fun x => { x with compact := some ⟨2, 1⟩, bank0 := { x.bank0 with used := 1 } }), ⟨2, 1⟩, by
  refine ⟨?_, ?_, ?_, ?_⟩ <;> decide +kernel⟩

theorem wit_TheJournal_6 : ∃ s : State, ∃ r : JRec, ∃ rest : List JRec,
  s.jr.nvPend = r :: rest ∧
  s.jr.nvFail = false ∧
  s.jr.nvClosed = false :=
  ⟨jrOf rdy (fun x => { x with nvPend := [jr1] }), jr1, [], by
  refine ⟨?_, ?_, ?_⟩ <;> decide +kernel⟩

theorem wit_TheJournal_7 : ∃ s : State,
  s.saf.pwrFail = false ∧
  s.jr.nvFail = false ∧
  ((s.saf.why ≠ 0 → s.saf.pinA = false ∧ s.saf.pinB = false)) :=
  ⟨rdy, by
  refine ⟨?_, ?_, ?_⟩ <;> decide +kernel⟩

/-! NmtCommands -/

theorem wit_NmtCommands_1 : ∃ s : State, ∃ ch : Fin 2, ∃ n : Nat,
  chLive s ch.val = true ∧
  ((n = 0 ∨ n = (chGet s ch.val).node)) :=
  ⟨rdy, 1, 0x7F, by
  refine ⟨?_, ?_⟩ <;> decide +kernel⟩

theorem wit_NmtCommands_2 : ∃ s : State, ∃ ch : Fin 2, ∃ n : Nat,
  n ≠ 0 ∧
  n ≠ (chGet s ch.val).node :=
  ⟨rdy, 0, 5, by
  refine ⟨?_, ?_⟩ <;> decide +kernel⟩

/-! CanChannelErrors -/

theorem wit_CanChannelErrors_1 : ∃ s : State, ∃ ch : Fin 2,
  chLive s ch.val = true :=
  ⟨rdy, 1, by decide +kernel⟩

theorem wit_CanChannelErrors_2 : ∃ s : State, ∃ ch : Fin 2,
  mgtRuns s = true ∧
  (chGet s ch.val).err = .busoff :=
  ⟨chPut 1 { chGet rdy 1 with err := .busoff } rdy, 1, by
  refine ⟨?_, ?_⟩ <;> decide +kernel⟩

theorem wit_CanChannelErrors_3 : ∃ s : State, ∃ ch : Fin 2,
  chLive s ch.val = true ∧
  (chGet s ch.val).err = .active :=
  ⟨rdy, 0, by
  refine ⟨?_, ?_⟩ <;> decide +kernel⟩

theorem wit_CanChannelErrors_4 : ∃ s : State, ∃ ch : Fin 2,
  chLive s ch.val = true ∧
  (chGet s ch.val).err = .passive :=
  ⟨chPut 0 { chGet rdy 0 with err := .passive } rdy, 0, by
  refine ⟨?_, ?_⟩ <;> decide +kernel⟩

/-! HeartbeatsAndEmergencies -/

theorem wit_HeartbeatsAndEmergencies_1 : ∃ s : State, ∃ ch : Fin 2, ∃ due : Nat,
  chLive s ch.val = true ∧
  (chGet s ch.val).hbNext = some due ∧
  due ≤ s.tb.master :=
  ⟨chPut 0 { chGet rdy 0 with hbNext := some 0 } rdy, 0, 0, by
  refine ⟨?_, ?_, ?_⟩ <;> decide +kernel⟩

theorem wit_HeartbeatsAndEmergencies_2 : ∃ s : State, ∃ ch : Fin 2, ∃ e : Emcy, ∃ rest : List Emcy,
  chLive s ch.val = true ∧
  (chGet s ch.val).err = .active ∧
  (chGet s ch.val).emq = e :: rest ∧
  e.evs ≠ [] :=
  ⟨chPut 1 { chGet rdy 1 with emq := [⟨0x0201, 8, 1, 0, 5, [0]⟩] } rdy, 1, ⟨0x0201, 8, 1, 0, 5, [0]⟩, [], by
  refine ⟨?_, ?_, ?_, ?_⟩ <;> decide +kernel⟩

theorem wit_HeartbeatsAndEmergencies_3 : ∃ s : State, ∃ ch : Fin 2, ∃ e : Emcy, ∃ rest : List Emcy,
  chLive s ch.val = true ∧
  (chGet s ch.val).err = .active ∧
  (chGet s ch.val).emq = e :: rest ∧
  e.evs = [] :=
  ⟨chPut 1 { chGet rdy 1 with emq := [⟨0, 0, 0, 0, 5, []⟩] } rdy, 1, ⟨0, 0, 0, 0, 5, []⟩, [], by
  refine ⟨?_, ?_, ?_, ?_⟩ <;> decide +kernel⟩

/-! TransfersReachTheDictionary -/

theorem wit_TransfersReachTheDictionary_1 : ∃ s : State, ∃ ch : Fin 2, ∃ i : Nat, ∃ j : Nat,
  chLive s ch.val = true ∧
  ((chGet s ch.val).nmt = .preop ∨ (chGet s ch.val).nmt = .operational) ∧
  (chGet s ch.val).session = none :=
  ⟨rdy, 0, 0x1001, 0, by
  refine ⟨?_, ?_, ?_⟩ <;> decide +kernel⟩

theorem wit_TransfersReachTheDictionary_2 : ∃ s : State, ∃ ch : Fin 2, ∃ i : Nat, ∃ j : Nat, ∃ d : List Byte,
  chLive s ch.val = true ∧
  ((chGet s ch.val).nmt = .preop ∨ (chGet s ch.val).nmt = .operational) ∧
  (chGet s ch.val).session = none :=
  ⟨rdy, 1, 0x4001, 0x20, [1], by
  refine ⟨?_, ?_, ?_⟩ <;> decide +kernel⟩

theorem wit_TransfersReachTheDictionary_3 : ∃ s : State, ∃ ch : Fin 2, ∃ i : Nat, ∃ j : Nat,
  chLive s ch.val = true ∧
  ((chGet s ch.val).nmt = .preop ∨ (chGet s ch.val).nmt = .operational) ∧
  (chGet s ch.val).session ≠ none :=
  ⟨chPut 0 { chGet rdy 0 with session := some ⟨0x1001, 0, false, 0, [], 0⟩ } rdy, 0, 0x1001, 0, by
  refine ⟨?_, ?_, ?_⟩ <;> decide +kernel⟩

theorem wit_TransfersReachTheDictionary_4 : ∃ s : State, ∃ ch : Fin 2, ∃ x : Usdo,
  chLive s ch.val = true ∧
  (chGet s ch.val).session = some x ∧
  x.last + 1000000000 ≤ s.tb.master :=
  ⟨tbOf (chPut 0 { chGet rdy 0 with session := some ⟨0x1001, 0, false, 0, [], 0⟩ } rdy) (fun x => { x with master := 1000000000 }), 0, ⟨0x1001, 0, false, 0, [], 0⟩, by
  refine ⟨?_, ?_, ?_⟩ <;> decide +kernel⟩

theorem wit_TransfersReachTheDictionary_5 : ∃ s : State, ∃ h : Fin 4,
  linked s (.host h) = true ∧
  mgtRuns s = true ∧
  (mbxGet s h.val).state ≠ 1 :=
  ⟨rdy, 3, by
  refine ⟨?_, ?_, ?_⟩ <;> decide +kernel⟩

/-! DictionaryReads -/

theorem wit_DictionaryReads_1 : ∃ s : State, ∃ r : OdReq, ∃ i : Nat, ∃ j : Nat, ∃ row : OdRow,
  mgtRuns s = true ∧
  s.node.odq = [] ∧
  odRow i j = some row ∧
  row.acc ≠ .wo :=
  ⟨rdy, .can 0, 0x1000, 0, odN 0 1 .const 4 0x48160000, by
  refine ⟨?_, ?_, ?_, ?_⟩ <;> decide +kernel⟩

theorem wit_DictionaryReads_2 : ∃ s : State, ∃ r : OdReq, ∃ i : Nat, ∃ j : Nat,
  mgtRuns s = true ∧
  s.node.odq = [] ∧
  odRows i = [] :=
  ⟨rdy, .can 1, 0x5FFF, 0, by
  refine ⟨?_, ?_, ?_⟩ <;> decide +kernel⟩

theorem wit_DictionaryReads_3 : ∃ s : State, ∃ r : OdReq, ∃ i : Nat, ∃ j : Nat,
  mgtRuns s = true ∧
  s.node.odq = [] ∧
  odRows i ≠ [] ∧
  odRow i j = none :=
  ⟨rdy, .mbx 4, 0x2000, 9, by
  refine ⟨?_, ?_, ?_, ?_⟩ <;> decide +kernel⟩

theorem wit_DictionaryReads_4 : ∃ s : State, ∃ r : OdReq, ∃ i : Nat, ∃ j : Nat, ∃ row : OdRow,
  mgtRuns s = true ∧
  s.node.odq = [] ∧
  odRow i j = some row ∧
  row.acc = .wo :=
  ⟨rdy, .can 0, 0x4000, 5, odN 5 1 .wo 4 0, by
  refine ⟨?_, ?_, ?_, ?_⟩ <;> decide +kernel⟩

/-! DictionaryWrites -/

theorem wit_DictionaryWrites_1 : ∃ s : State, ∃ c : Fin 2, ∃ p : Fin 8, ∃ n : Nat,
  mgtRuns s = true ∧
  s.node.odq = [] ∧
  s.saf.everReady = true ∧
  s.saf.latch = false ∧
  held s = false ∧
  n ≤ 16 :=
  ⟨rdy, 0, 7, 16, by
  refine ⟨?_, ?_, ?_, ?_, ?_, ?_⟩ <;> decide +kernel⟩

theorem wit_DictionaryWrites_2 : ∃ s : State, ∃ c : Fin 2, ∃ p : Fin 8, ∃ n : Nat,
  mgtRuns s = true ∧
  s.node.odq = [] ∧
  s.saf.everReady = true ∧
  s.saf.latch = false ∧
  held s = false ∧
  16 < n ∧
  n < 256 :=
  ⟨rdy, 1, 0, 17, by
  refine ⟨?_, ?_, ?_, ?_, ?_, ?_, ?_⟩ <;> decide +kernel⟩

theorem wit_DictionaryWrites_3 : ∃ s : State, ∃ c : Fin 2, ∃ i : Nat, ∃ j : Nat, ∃ v : List Byte, ∃ row : OdRow,
  mgtRuns s = true ∧
  s.node.odq = [] ∧
  i ≠ 0x2100 ∧
  odRow i j = some row ∧
  ((row.acc = .ro ∨ row.acc = .const)) :=
  ⟨rdy, 0, 0x1000, 0, [], odN 0 1 .const 4 0x48160000, by
  refine ⟨?_, ?_, ?_, ?_, ?_⟩ <;> decide +kernel⟩

theorem wit_DictionaryWrites_4 : ∃ s : State, ∃ c : Fin 2, ∃ i : Nat, ∃ j : Nat, ∃ v : List Byte, ∃ row : OdRow,
  mgtRuns s = true ∧
  s.node.odq = [] ∧
  i ≠ 0x2100 ∧
  odRow i j = some row ∧
  ((row.acc = .rw ∨ row.acc = .wo)) ∧
  v.length ≠ row.len :=
  ⟨rdy, 0, 0x1017, 0, [1], odN 0 1 .rw 2 100, by
  refine ⟨?_, ?_, ?_, ?_, ?_, ?_⟩ <;> decide +kernel⟩

theorem wit_DictionaryWrites_5 : ∃ s : State, ∃ c : Fin 2, ∃ i : Nat, ∃ j : Nat, ∃ v : List Byte, ∃ row : OdRow,
  mgtRuns s = true ∧
  s.node.odq = [] ∧
  i ≠ 0x2100 ∧
  odRow i j = some row ∧
  ((row.acc = .rw ∨ row.acc = .wo)) ∧
  v.length = row.len ∧
  s.saf.everReady = false ∧
  s.saf.latch = false :=
  ⟨safOf rdy (fun x => { x with everReady := false }), 0, 0x1017, 0, [1, 0], odN 0 1 .rw 2 100, by
  refine ⟨?_, ?_, ?_, ?_, ?_, ?_, ?_, ?_⟩ <;> decide +kernel⟩

theorem wit_DictionaryWrites_6 : ∃ s : State, ∃ i : Nat, ∃ j : Nat, ∃ v : List Byte, ∃ row : OdRow,
  mgtRuns s = true ∧
  s.node.odq = [] ∧
  i ≠ 0x2100 ∧
  odRow i j = some row :=
  ⟨rdy, 0x1017, 0, [1, 0], odN 0 1 .rw 2 100, by
  refine ⟨?_, ?_, ?_, ?_⟩ <;> decide +kernel⟩

/-! DictionaryCommandsAct -/

theorem wit_DictionaryCommandsAct_1 : ∃ s : State, ∃ c : Fin 2,
  mgtRuns s = true ∧
  s.node.odq = [] ∧
  s.saf.everReady = true ∧
  s.saf.latch = false ∧
  held s = false :=
  ⟨rdy, 0, by
  refine ⟨?_, ?_, ?_, ?_, ?_⟩ <;> decide +kernel⟩

theorem wit_DictionaryCommandsAct_2 : ∃ s : State, ∃ c : Fin 2, ∃ v : Nat,
  mgtRuns s = true ∧
  s.node.odq = [] ∧
  s.saf.everReady = true ∧
  s.saf.latch = false ∧
  held s = false ∧
  v < 256 :=
  ⟨safOf rdy (fun x => { x with why := 3 }), 1, 255, by
  refine ⟨?_, ?_, ?_, ?_, ?_, ?_⟩ <;> decide +kernel⟩

theorem wit_DictionaryCommandsAct_3 : ∃ s : State, ∃ c : Fin 2,
  mgtRuns s = true ∧
  s.node.odq = [] ∧
  s.saf.everReady = true ∧
  s.saf.latch = false ∧
  held s = false ∧
  bitOf (odNat s 0x4200 1) 1 = true ∧
  s.img.phase = .empty :=
  ⟨rdy, 0, by
  refine ⟨?_, ?_, ?_, ?_, ?_, ?_, ?_⟩ <;> decide +kernel⟩

theorem wit_DictionaryCommandsAct_4 : ∃ s : State, ∃ c : Fin 2,
  mgtRuns s = true ∧
  s.node.odq = [] ∧
  s.saf.everReady = true ∧
  s.saf.latch = false ∧
  held s = false ∧
  s.img.phase = .held :=
  ⟨imgOf rdy (fun x => { x with phase := .held }), 0, by
  refine ⟨?_, ?_, ?_, ?_, ?_, ?_⟩ <;> decide +kernel⟩

theorem wit_DictionaryCommandsAct_5 : ∃ s : State, ∃ c : Fin 2,
  mgtRuns s = true ∧
  s.node.odq = [] ∧
  s.saf.latch = true ∧
  held s = false :=
  ⟨safOf rdy (fun x => { x with latch := true }), 0, by
  refine ⟨?_, ?_, ?_, ?_⟩ <;> decide +kernel⟩

/-! PartitionTableCommands -/

theorem wit_PartitionTableCommands_1 : ∃ s : State, ∃ c : Fin 2, ∃ p : Fin 8, ∃ n : List Byte,
  mgtRuns s = true ∧
  s.node.odq = [] ∧
  s.saf.everReady = true ∧
  s.saf.latch = false ∧
  held s = false ∧
  n.length = 320 ∧
  partReason s c.val p.val n = 0 :=
  ⟨rdy, 0, 7, zeros 320, by
  refine ⟨?_, ?_, ?_, ?_, ?_, ?_, ?_⟩ <;> decide +kernel⟩

theorem wit_PartitionTableCommands_2 : ∃ s : State, ∃ c : Fin 2, ∃ p : Fin 8, ∃ n : List Byte,
  mgtRuns s = true ∧
  s.node.odq = [] ∧
  s.saf.everReady = true ∧
  s.saf.latch = false ∧
  held s = false ∧
  n.length = 320 ∧
  partReason s c.val p.val n ≠ 0 :=
  ⟨rdy, 0, 0, leBytes 1 2 ++ zeros 319, by
  refine ⟨?_, ?_, ?_, ?_, ?_, ?_, ?_⟩ <;> decide +kernel⟩

theorem wit_PartitionTableCommands_3 : ∃ s : State, ∃ c : Fin 2, ∃ p : Fin 8,
  mgtRuns s = true ∧
  s.node.odq = [] ∧
  s.saf.everReady = true ∧
  s.saf.latch = false ∧
  held s = false ∧
  bitOf (odNat s 0x2100 1) 0 = true ∧
  (partOf s p.val).reset = none :=
  ⟨own 0 0, 1, 0, by
  refine ⟨?_, ?_, ?_, ?_, ?_, ?_, ?_⟩ <;> decide +kernel⟩

theorem wit_PartitionTableCommands_4 : ∃ s : State, ∃ c : Fin 2, ∃ p : Fin 8,
  mgtRuns s = true ∧
  s.node.odq = [] ∧
  s.saf.everReady = true ∧
  s.saf.latch = false ∧
  held s = false ∧
  bitOf (odNat s 0x2100 1) 0 = true ∧
  (partOf s p.val).reset ≠ none :=
  ⟨setPart 0 { partOf rdy 0 with record := prec 1 0, reset := some ⟨0⟩ } rdy, 1, 0, by
  refine ⟨?_, ?_, ?_, ?_, ?_, ?_, ?_⟩ <;> decide +kernel⟩

/-! StreamContextsEnableAndDisable -/

theorem wit_StreamContextsEnableAndDisable_1 : ∃ s : State, ∃ c : Fin 2, ∃ x : Fin 128,
  mgtRuns s = true ∧
  s.node.odq = [] ∧
  s.saf.everReady = true ∧
  s.saf.latch = false ∧
  held s = false ∧
  ctxEn s x.val = false ∧
  ingReject s x.val = false ∧
  voxReason s x.val = 0 :=
  ⟨ctxSet, 0, 3, by
  refine ⟨?_, ?_, ?_, ?_, ?_, ?_, ?_, ?_⟩ <;> decide +kernel⟩

theorem wit_StreamContextsEnableAndDisable_2 : ∃ s : State, ∃ c : Fin 2, ∃ x : Fin 128,
  mgtRuns s = true ∧
  s.node.odq = [] ∧
  s.saf.everReady = true ∧
  s.saf.latch = false ∧
  held s = false ∧
  ctxEn s x.val = false ∧
  ((ingReject s x.val = true ∨ voxReason s x.val ≠ 0)) :=
  ⟨rdy, 0, 127, by
  refine ⟨?_, ?_, ?_, ?_, ?_, ?_, ?_⟩ <;> decide +kernel⟩

theorem wit_StreamContextsEnableAndDisable_3 : ∃ s : State, ∃ c : Fin 2, ∃ x : Fin 128,
  mgtRuns s = true ∧
  s.node.odq = [] ∧
  s.saf.everReady = true ∧
  s.saf.latch = false ∧
  held s = false ∧
  ctxEn s x.val = true :=
  ⟨ctxOnAt rdy 127 id, 1, 127, by
  refine ⟨?_, ?_, ?_, ?_, ?_, ?_⟩ <;> decide +kernel⟩

/-! ConflictSummaries -/

theorem wit_ConflictSummaries_1 : ∃ s : State,
  mgtRuns s = true ∧
  odNat s 0x5100 0x11 / 100000000 < s.tb.master / 100000000 ∧
  s.tb.master < 2 ^ 64 :=
  ⟨tbOf rdy fun x => { x with master := 100000000 }, by
  refine ⟨?_, ?_, ?_⟩ <;> decide +kernel⟩

theorem wit_ConflictSummaries_2 : ∃ s : State,
  s.tb.master / 100000000 ≤ odNat s 0x5100 0x11 / 100000000 :=
  ⟨rdy, by decide +kernel⟩

/-! TapInstructions -/

theorem wit_TapInstructions_1 : ∃ s : State, ∃ a : List Bool,
  s.saf.tapHold = false :=
  ⟨rdy, [], by decide +kernel⟩

theorem wit_TapInstructions_2 : ∃ s : State, ∃ a : List Bool,
  s.saf.tapHold = true :=
  ⟨safOf rdy (fun x => { x with tapHold := true }), [true], by decide +kernel⟩

theorem wit_TapInstructions_3 : ∃ s : State,
  s.saf.tapHold = true :=
  ⟨safOf rdy fun x => { x with tapHold := true }, by decide +kernel⟩

theorem wit_TapInstructions_4 : ∃ s : State,
  s.saf.tapHold = true ∧
  s.pending = [] :=
  ⟨safOf rdy fun x => { x with tapHold := true }, by
  refine ⟨?_, ?_⟩ <;> decide +kernel⟩

/-! HaltsAndSteps -/

theorem wit_HaltsAndSteps_1 : ∃ s : State, ∃ c : Fin 16,
  linked s .dbg = true ∧
  s.dbg.en = true ∧
  dbgReach s c.val = true ∧
  (coreOf s c.val).run.cc.st = .running ∧
  (coreOf s c.val).run.cc.halt = none ∧
  ccLocked (coreOf s c.val).run.cc = false :=
  ⟨onCore dbgOn 15 (running { st := .running }), 15, by
  refine ⟨?_, ?_, ?_, ?_, ?_, ?_⟩ <;> decide +kernel⟩

theorem wit_HaltsAndSteps_2 : ∃ s : State, ∃ c : Fin 16,
  linked s .dbg = true ∧
  s.dbg.en = true ∧
  dbgReach s c.val = true ∧
  (coreOf s c.val).run.cc.halt = none ∧
  ccLocked (coreOf s c.val).run.cc = true :=
  ⟨onCore dbgOn 0 (running { st := .running, seqPc := some 8 }), 0, by
  refine ⟨?_, ?_, ?_, ?_, ?_⟩ <;> decide +kernel⟩

theorem wit_HaltsAndSteps_3 : ∃ s : State, ∃ c : Fin 16, ∃ pc : Nat,
  dbgReach s c.val = true ∧
  (haltOf s c.val).pending = true ∧
  (haltOf s c.val).stepping = false ∧
  haltable (coreOf s c.val).run.cc = true ∧
  (coreOf s c.val).run.cc.seqPc = some pc :=
  ⟨dbgOf (onCore dbgOn 3 (running { st := .running, seqPc := some 8 })) (fun x => { x with cores := vset x.cores 3 { pending := true } }), 3, 8, by
  refine ⟨?_, ?_, ?_, ?_, ?_⟩ <;> decide +kernel⟩

theorem wit_HaltsAndSteps_4 : ∃ s : State, ∃ c : Fin 16, ∃ x : Nat × Bool,
  linked s .dbg = true ∧
  s.dbg.en = true ∧
  (coreOf s c.val).active.isSome = true ∧
  (coreOf s c.val).run.cc.halt = some x ∧
  (coreOf s c.val).run.cc.st = .halted :=
  ⟨onCore dbgOn 15 (running { st := .halted, halt := some (1, false) }), 15, (1, false), by
  refine ⟨?_, ?_, ?_, ?_, ?_⟩ <;> decide +kernel⟩

theorem wit_HaltsAndSteps_5 : ∃ s : State, ∃ v : Nat,
  linked s .dbg = true ∧
  s.dbg.en = true ∧
  s.dbg.core < 16 ∧
  dbgReach s s.dbg.core = true ∧
  (coreOf s s.dbg.core).run.cc.halt.isSome = true ∧
  0 < s.dbg.gpr ∧
  s.dbg.gpr < 32 :=
  ⟨dbgOf (onCore dbgOn 3 (running { st := .halted, halt := some (1, false) })) (fun x => { x with core := 3, gpr := 31 }), 9, by
  refine ⟨?_, ?_, ?_, ?_, ?_, ?_, ?_⟩ <;> decide +kernel⟩

/-! DebugAuthentication -/

theorem wit_DebugAuthentication_1 : ∃ s : State,
  linked s .dbg = true ∧
  s.dbg.en = false ∧
  s.fuses.dbgMode = 0 :=
  ⟨rdy, by
  refine ⟨?_, ?_, ?_⟩ <;> decide +kernel⟩

theorem wit_DebugAuthentication_2 : ∃ s : State,
  linked s .dbg = true ∧
  s.dbg.en = false ∧
  s.fuses.dbgMode = 1 ∧
  s.dbg.authOk = false ∧
  s.dbg.checking = none :=
  ⟨{ rdy with fuses := { rdy.fuses with dbgMode := 1 } }, by
  refine ⟨?_, ?_, ?_, ?_, ?_⟩ <;> decide +kernel⟩

theorem wit_DebugAuthentication_3 : ∃ s : State, ∃ v : Nat,
  linked s .dbg = true ∧
  s.dbg.en = false ∧
  2 ≤ s.fuses.dbgMode :=
  ⟨{ rdy with fuses := { rdy.fuses with dbgMode := 2 } }, 1, by
  refine ⟨?_, ?_, ?_⟩ <;> decide +kernel⟩

theorem wit_DebugAuthentication_4 : ∃ s : State,
  s.dbg.checking = some true :=
  ⟨dbgOf rdy fun x => { x with checking := some true }, by decide +kernel⟩

theorem wit_DebugAuthentication_5 : ∃ s : State,
  s.dbg.checking = some false :=
  ⟨dbgOf rdy fun x => { x with checking := some false }, by decide +kernel⟩

theorem wit_DebugAuthentication_6 : ∃ s : State, ∃ r : Requester,
  linked s r = true :=
  ⟨rdy, .host 3, by decide +kernel⟩

theorem wit_DebugAuthentication_7 : ∃ s : State, ∃ v : Nat,
  linked s .dbg = true ∧
  s.dbg.en = true ∧
  s.fuses.dbgMode = 1 ∧
  v / 65536 = 0x5356 ∧
  v % 65536 = (s.fuses.svn + 1) % 65536 :=
  ⟨dbgOf { rdy with fuses := { rdy.fuses with dbgMode := 1, svn := 65535 } } (fun x => { x with en := true }), 0x53560000, by
  refine ⟨?_, ?_, ?_, ?_, ?_⟩ <;> decide +kernel⟩

theorem wit_DebugAuthentication_8 : ∃ s : State, ∃ v : Nat,
  linked s .dbg = true ∧
  s.dbg.en = true ∧
  s.fuses.dbgMode ≠ 1 :=
  ⟨dbgOf rdy (fun x => { x with en := true }), 0x53560001, by
  refine ⟨?_, ?_, ?_⟩ <;> decide +kernel⟩

/-! DebugPortAccesses -/

theorem wit_DebugPortAccesses_1 : ∃ s : State,
  linked s .dbg = true :=
  ⟨rdy, by decide +kernel⟩

theorem wit_DebugPortAccesses_2 : ∃ s : State, ∃ v : Nat,
  linked s .dbg = true ∧
  s.dbg.en = true :=
  ⟨dbgOn, 15, by
  refine ⟨?_, ?_⟩ <;> decide +kernel⟩

theorem wit_DebugPortAccesses_3 : ∃ s : State, ∃ v : Nat,
  linked s .dbg = true ∧
  (regGet s (rkey 9 0x20)).toNat < 2 ^ 32 - 1 :=
  ⟨rdy, 5, by
  refine ⟨?_, ?_⟩ <;> decide +kernel⟩

/-! FramesAndInjectedBlocks -/

theorem wit_FramesAndInjectedBlocks_1 : ∃ s : State, ∃ m : Fin 8, ∃ f : List Byte, ∃ ok : Bool, ∃ p : UdpPkt, ∃ c : Nat,
  isReady s = true ∧
  frameKind s m.val f ok = .udp p ∧
  c < 128 ∧
  ctxMatches s m.val p c = true ∧
  ((∀ d < c, ctxMatches s m.val p d = false)) ∧
  ((vget s.ing.macs m.val []).map (·.room)).sum + f.length ≤ 262144 :=
  ⟨odPut 0x2305 4 addr4 (ctxOnAt rdy 5 id), 0, frame, true, udp0, 5, by
  refine ⟨?_, ?_, ?_, ?_, ?_, ?_⟩ <;> decide +kernel⟩

theorem wit_FramesAndInjectedBlocks_2 : ∃ s : State, ∃ m : Fin 8, ∃ f : List Byte, ∃ ok : Bool,
  isReady s = true ∧
  ((frameKind s m.val f ok = .err ∨ ∃ p, frameKind s m.val f ok = .udp p ∧ ∀ d < 128, ctxMatches s m.val p d = false)) :=
  ⟨rdy, 7, frame, false, ⟨by decide +kernel, .inl (by decide +kernel)⟩⟩

theorem wit_FramesAndInjectedBlocks_3 : ∃ s : State, ∃ m : Fin 8, ∃ f : List Byte, ∃ ok : Bool, ∃ p : UdpPkt, ∃ c : Nat,
  isReady s = true ∧
  frameKind s m.val f ok = .udp p ∧
  c < 128 ∧
  ctxMatches s m.val p c = true ∧
  262144 < ((vget s.ing.macs m.val []).map (·.room)).sum + f.length :=
  ⟨{ odPut 0x2305 4 addr4 (ctxOnAt rdy 5 id) with ing := { (ctxOnAt rdy 5 id).ing with macs := Vector.replicate 8 [⟨5, 0, [], 262144⟩] } }, 0, frame, true, udp0, 5, by
  refine ⟨?_, ?_, ?_, ?_, ?_⟩ <;> decide +kernel⟩

theorem wit_FramesAndInjectedBlocks_4 : ∃ s : State, ∃ h : Fin 4, ∃ v : Nat,
  let q := vget s.ing.inj h.val []
  let a := (regGet s (injReg h.val 0x200)).toNat + 2 ^ 32 * (regGet s (injReg h.val 0x204)).toNat
  let n := (regGet s (injReg h.val 0x208)).toNat
  let good := q.length < 16 ∧ ctxEn s (v % 128) = true ∧ ctxNat s (v % 128) 2 = 0x10 + h.val ∧ a % 64 = 0 ∧ 1 ≤ n ∧ n ≤ 16384
  linked s (.host h) = true ∧
  isReady s = true ∧
  good :=
  ⟨regPut (injReg 3 0x208) 16384 (odPut 0x237F 2 [0x13] (ctxOnAt rdy 127 id)), 3, 127, by
  refine ⟨?_, ?_, ?_⟩ <;> decide +kernel⟩

theorem wit_FramesAndInjectedBlocks_5 : ∃ s : State, ∃ h : Fin 4, ∃ v : Nat,
  let q := vget s.ing.inj h.val []
  let a := (regGet s (injReg h.val 0x200)).toNat + 2 ^ 32 * (regGet s (injReg h.val 0x204)).toNat
  let n := (regGet s (injReg h.val 0x208)).toNat
  let good := q.length < 16 ∧ ctxEn s (v % 128) = true ∧ ctxNat s (v % 128) 2 = 0x10 + h.val ∧ a % 64 = 0 ∧ 1 ≤ n ∧ n ≤ 16384
  linked s (.host h) = true ∧
  isReady s = true ∧
  ¬ good :=
  ⟨rdy, 3, 127, by
  refine ⟨?_, ?_, ?_⟩ <;> decide +kernel⟩

theorem wit_FramesAndInjectedBlocks_6 : ∃ s : State, ∃ h : Fin 4, ∃ b : InjBlk, ∃ rest : List InjBlk, ∃ d : List Byte,
  isReady s = true ∧
  vget s.ing.inj h.val [] = b :: rest :=
  ⟨{ rdy with ing := { rdy.ing with inj := Vector.replicate 4 [⟨3, 64, 4⟩] } }, 0, ⟨3, 64, 4⟩, [], [1, 2, 3, 4], by
  refine ⟨?_, ?_⟩ <;> decide +kernel⟩

/-! PacketsToPoints -/

theorem wit_PacketsToPoints_1 : ∃ s : State, ∃ m : Fin 8, ∃ k : Pkt, ∃ rest : List Pkt,
  isReady s = true ∧
  vget s.ing.macs m.val [] = k :: rest ∧
  ctxRuns (ingCtx s k.ctx) = true ∧
  k.payload.length < Pld.minLen ⟨slice (ctxGet s k.ctx 7) 0 128⟩ :=
  ⟨parseAt [2, 0, 0], 0, ⟨3, 1000, [2, 0, 0], 4⟩, [], by
  refine ⟨?_, ?_, ?_, ?_⟩ <;> decide +kernel⟩

theorem wit_PacketsToPoints_2 : ∃ s : State, ∃ m : Fin 8, ∃ k : Pkt, ∃ rest : List Pkt, ∃ d : Decoded, ∃ sl : SliceSt,
  let p : Pld := ⟨slice (ctxGet s k.ctx 7) 0 128⟩
  let x := ingCtx s k.ctx
  isReady s = true ∧
  vget s.ing.macs m.val [] = k :: rest ∧
  k.ctx < 128 ∧
  ctxRuns x = true ∧
  p.minLen ≤ k.payload.length ∧
  p.nblk = 1 ∧
  p.npt = 1 ∧
  (p.f 0x20).level = 0 ∧
  p.ptmode = 0 ∧
  p.w 0x4C ≤ ctxNat s k.ctx 0x16 ∧
  decodePoint s k.ctx p k.payload k.at_ ((k.at_ : Int) - p.w 0x4C) 0 0 = some (some d) ∧
  x.sweepOpen = true ∧
  (∀ b, boundaryMet s k.ctx b d = false) ∧
  sweepExpired s k.ctx = false ∧
  x.slice = some sl ∧
  sl.start ≤ d.t ∧
  d.t < sliceEnd s k.ctx sl ∧
  sl.nopose = false ∧
  (s.ing.deskew = [] ∨ (∃ q l, s.ing.deskew = .pt q :: l) ∨ voxRoom s = false) :=
  ⟨parseAt [2, 0, 0, 0], 0, ⟨3, 1000, [2, 0, 0, 0], 4⟩, [], ⟨1000, 0, 0, 0x40000000, 0, 0⟩, ⟨990, 4, [], false, 990⟩, ⟨by decide +kernel, by decide +kernel, by decide +kernel, by decide +kernel, by decide +kernel, by decide +kernel, by decide +kernel, by decide +kernel, by decide +kernel, by decide +kernel, by decide +kernel, by decide +kernel, by decide +kernel, by decide +kernel, by decide +kernel, by decide +kernel, by decide +kernel, by decide +kernel, .inl rfl⟩⟩

theorem wit_PacketsToPoints_3 : ∃ s : State, ∃ m : Fin 8, ∃ k : Pkt, ∃ rest : List Pkt, ∃ d : Decoded, ∃ sl : SliceSt,
  let p : Pld := ⟨slice (ctxGet s k.ctx 7) 0 128⟩
  let x := ingCtx s k.ctx
  isReady s = true ∧
  vget s.ing.macs m.val [] = k :: rest ∧
  k.ctx < 128 ∧
  ctxRuns x = true ∧
  p.minLen ≤ k.payload.length ∧
  p.nblk = 1 ∧
  p.npt = 1 ∧
  (p.f 0x20).level = 0 ∧
  p.ptmode = 0 ∧
  p.w 0x4C ≤ ctxNat s k.ctx 0x16 ∧
  decodePoint s k.ctx p k.payload k.at_ ((k.at_ : Int) - p.w 0x4C) 0 0 = some (some d) ∧
  x.sweepOpen = true ∧
  (∀ b, boundaryMet s k.ctx b d = false) ∧
  sweepExpired s k.ctx = false ∧
  x.slice = some sl ∧
  sl.start ≤ d.t ∧
  d.t < sliceEnd s k.ctx sl ∧
  sl.nopose = false ∧
  (s.ing.deskew = [] ∨ (∃ q l, s.ing.deskew = .pt q :: l) ∨ voxRoom s = false) :=
  ⟨voxAt (parseAt [2, 0, 0, 0]) (fun x => { x with weir := List.replicate 8 (.pt pt3) }), 0, ⟨3, 1000, [2, 0, 0, 0], 4⟩, [], ⟨1000, 0, 0, 0x40000000, 0, 0⟩, ⟨990, 4, [], false, 990⟩, ⟨by decide +kernel, by decide +kernel, by decide +kernel, by decide +kernel, by decide +kernel, by decide +kernel, by decide +kernel, by decide +kernel, by decide +kernel, by decide +kernel, by decide +kernel, by decide +kernel, by decide +kernel, by decide +kernel, by decide +kernel, by decide +kernel, by decide +kernel, by decide +kernel, .inr (.inr (by decide +kernel))⟩⟩

theorem wit_PacketsToPoints_4 : ∃ s : State, ∃ k : Pkt, ∃ rest : List Pkt,
  isReady s = true ∧
  s.ing.blocks = k :: rest ∧
  ctxRuns (ingCtx s k.ctx) = false ∧
  (ingCtx s k.ctx).closing = false :=
  ⟨{ rdy with ing := { rdy.ing with blocks := [⟨3, 0, [], 0⟩] } }, ⟨3, 0, [], 0⟩, [], by
  refine ⟨?_, ?_, ?_, ?_⟩ <;> decide +kernel⟩

theorem wit_PacketsToPoints_5 : ∃ s : State,
  voxRoom s = false :=
  ⟨voxAt rdy fun x => { x with weir := List.replicate 8 (.pt pt3) }, by decide +kernel⟩

theorem wit_PacketsToPoints_6 : ∃ s : State, ∃ p : RawPt, ∃ l : List IngItem,
  isReady s = true ∧
  voxRoom s = true ∧
  s.ing.deskew = .pt p :: l ∧
  (l = [] ∨ ∃ q r, l = .pt q :: r) :=
  ⟨{ rdy with ing := { rdy.ing with deskew := [.pt rawPt] } }, rawPt, [], ⟨by decide +kernel, by decide +kernel, by decide +kernel, .inl rfl⟩⟩

/-! SweepsGapsAndPoses -/

theorem wit_SweepsGapsAndPoses_1 : ∃ s : State, ∃ c : Fin 128,
  isReady s = true ∧
  sweepExpired s c.val = true ∧
  s.ing.deskew = [] ∧
  voxRoom s = true ∧
  (vget s.saf.weirs 17 []).length < 32 ∧
  vget s.saf.stalls 17 [] = [] :=
  ⟨tbOf (ctxOnAt rdy 127 fun x => { x with sweepOpen := true }) (fun x => { x with master := 200000000 }), 127, by
  refine ⟨?_, ?_, ?_, ?_, ?_, ?_⟩ <;> decide +kernel⟩

theorem wit_SweepsGapsAndPoses_2 : ∃ s : State, ∃ c : Fin 128,
  isReady s = true ∧
  sweepExpired s c.val = true ∧
  ((∃ q l, s.ing.deskew = .pt q :: l) ∨ voxRoom s = false) :=
  ⟨tbOf (voxAt (ctxOnAt rdy 3 fun x => { x with sweepOpen := true }) fun x => { x with weir := List.replicate 8 (.pt pt3) }) (fun x => { x with master := 200000000 }), 3, ⟨by decide +kernel, by decide +kernel, .inr (by decide +kernel)⟩⟩

theorem wit_SweepsGapsAndPoses_3 : ∃ s : State, ∃ c : Fin 128,
  let x := ingCtx s c.val
  let tg := x.gapFrom + ctxNat s c.val 0x10
  isReady s = true ∧
  x.en = true ∧
  x.sweepOpen = false ∧
  tg ≤ replica s 17 ∧
  s.ing.deskew = [] ∧
  voxRoom s = true ∧
  (vget s.saf.weirs 17 []).length < 32 ∧
  vget s.saf.stalls 17 [] = [] ∧
  x.silent = false :=
  ⟨tbOf (ctxOnAt rdy 0 id) (fun x => { x with master := 200000000 }), 0, by
  refine ⟨?_, ?_, ?_, ?_, ?_, ?_, ?_, ?_, ?_⟩ <;> decide +kernel⟩

theorem wit_SweepsGapsAndPoses_4 : ∃ s : State, ∃ c : Fin 128, ∃ sl : SliceSt,
  isReady s = true ∧
  (ingCtx s c.val).slice = some sl ∧
  sl.start + ctxNat s c.val 0x11 + ctxNat s c.val 0x13 ≤ replica s 17 :=
  ⟨tbOf (ctxOnAt rdy 0 fun x => { x with slice := some ⟨0, 0, [], false, 0⟩ }) (fun x => { x with master := 1100000 }), 0, ⟨0, 0, [], false, 0⟩, by
  refine ⟨?_, ?_, ?_⟩ <;> decide +kernel⟩

theorem wit_SweepsGapsAndPoses_5 : ∃ s : State, ∃ x : SweepSum, ∃ r : List VoxIn,
  isReady s = true ∧
  s.vox.weir = .sum x :: r ∧
  x.ctx < 128 ∧
  crossed s 18 x.close = true ∧
  (s.ing.deskew = [] ∨ ∃ q l, s.ing.deskew = .pt q :: l) ∧
  (voxCtx s x.ctx).sealed = none ∧
  x.gap = false :=
  ⟨voxAt rdy (fun x => { x with weir := [.sum sum3] }), sum3, [], ⟨by decide +kernel, by decide +kernel, by decide +kernel, by decide +kernel, .inl rfl, by decide +kernel, by decide +kernel⟩⟩

theorem wit_SweepsGapsAndPoses_6 : ∃ s : State, ∃ x : SweepSum, ∃ r : List VoxIn,
  isReady s = true ∧
  s.vox.weir = .sum x :: r ∧
  x.ctx < 128 ∧
  crossed s 18 x.close = true ∧
  (s.ing.deskew = [] ∨ ∃ q l, s.ing.deskew = .pt q :: l) ∧
  (voxCtx s x.ctx).sealed = none ∧
  x.gap = true :=
  ⟨voxAt rdy (fun x => { x with weir := [.sum { sum3 with gap := true }] }), { sum3 with gap := true }, [], ⟨by decide +kernel, by decide +kernel, by decide +kernel, by decide +kernel, .inl rfl, by decide +kernel, by decide +kernel⟩⟩

theorem wit_SweepsGapsAndPoses_7 : ∃ s : State, ∃ x : SweepSum, ∃ r : List VoxIn,
  isReady s = true ∧
  s.vox.weir = .sum x :: r ∧
  crossed s 18 x.close = true ∧
  (s.ing.deskew = [] ∨ ∃ q l, s.ing.deskew = .pt q :: l) ∧
  (voxCtx s x.ctx).sealed.isSome = true :=
  ⟨voxAt (voxC rdy 3 fun x => { x with sealed := some sum3 }) (fun x => { x with weir := [.sum sum3] }), sum3, [], ⟨by decide +kernel, by decide +kernel, by decide +kernel, .inl rfl, by decide +kernel⟩⟩

theorem wit_SweepsGapsAndPoses_8 : ∃ s : State, ∃ h : Fin 4, ∃ v : Nat,
  let b := ((List.range 15).flatMap fun k => leBytes 4 (regGet s (ingReg (0x100 + 4 * k))).toNat) ++ leBytes 4 v
  linked s (.host h) = true ∧
  isReady s = true ∧
  h.val = odNat s 0x2400 9 ∧
  poseReject s b = 0 :=
  ⟨posed, 1, 0, by
  refine ⟨?_, ?_, ?_, ?_⟩ <;> decide +kernel⟩

theorem wit_SweepsGapsAndPoses_9 : ∃ s : State, ∃ h : Fin 4, ∃ v : Nat,
  let b := ((List.range 15).flatMap fun k => leBytes 4 (regGet s (ingReg (0x100 + 4 * k))).toNat) ++ leBytes 4 v
  linked s (.host h) = true ∧
  isReady s = true ∧
  h.val = odNat s 0x2400 9 ∧
  ((∃ p ∈ s.ing.poses, p.epoch = field b 0x3C 1 ∧ field b 0 8 ≤ p.ts)) :=
  ⟨{ posed with ing := { posed.ing with poses := [poseAt 9] } }, 1, 0, by
  refine ⟨?_, ?_, ?_, ?_⟩ <;> decide +kernel⟩

/-! PondInsertion -/

theorem wit_PondInsertion_1 : ∃ s : State, ∃ p : PointRec, ∃ r : List VoxIn,
  isReady s = true ∧
  s.vox.weir = .pt p :: r ∧
  p.ctx < 128 ∧
  crossed s 18 p.ts = true ∧
  (s.ing.deskew = [] ∨ ∃ q l, s.ing.deskew = .pt q :: l) ∧
  (voxCtx s p.ctx).sealed = none ∧
  voxIndices s p = none :=
  ⟨voxAt rdy (fun x => { x with weir := [.pt { pt3 with x := 0x7FC00000 }] }), { pt3 with x := 0x7FC00000 }, [], ⟨by decide +kernel, by decide +kernel, by decide +kernel, by decide +kernel, .inl rfl, by decide +kernel, by decide +kernel⟩⟩

theorem wit_PondInsertion_2 : ∃ s : State, ∃ p : PointRec, ∃ r : List VoxIn, ∃ ix : Nat, ∃ iy : Nat, ∃ iz : Nat,
  let x := voxCtx s p.ctx
  let k := voxKey (ix / 2 ^ x.level) (iy / 2 ^ x.level) (iz / 2 ^ x.level) x.level
  let j := pondHome k (pondCap x)
  isReady s = true ∧
  s.vox.weir = .pt p :: r ∧
  p.ctx < 128 ∧
  crossed s 18 p.ts = true ∧
  (s.ing.deskew = [] ∨ ∃ q l, s.ing.deskew = .pt q :: l) ∧
  x.sealed = none ∧
  voxIndices s p = some (ix, iy, iz) ∧
  x.req = none ∧
  x.pages ≠ 0 ∧
  (∀ n ∈ pondWords j, smGet upZero x.up n = 0) ∧
  smGet slotDflt x.table j = .empty :=
  ⟨pondAt, pt3, [], 1280, 1280, 80, ⟨by decide +kernel, by decide +kernel, by decide +kernel, by decide +kernel, .inl rfl, by decide +kernel, by decide +kernel, by decide +kernel, by decide +kernel, by decide +kernel, by decide +kernel⟩⟩

theorem wit_PondInsertion_3 : ∃ s : State, ∃ p : PointRec, ∃ r : List VoxIn, ∃ ix : Nat, ∃ iy : Nat, ∃ iz : Nat, ∃ e : PondEntry,
  let x := voxCtx s p.ctx
  let k := voxKey (ix / 2 ^ x.level) (iy / 2 ^ x.level) (iz / 2 ^ x.level) x.level
  let j := pondHome k (pondCap x)
  isReady s = true ∧
  s.vox.weir = .pt p :: r ∧
  p.ctx < 128 ∧
  crossed s 18 p.ts = true ∧
  (s.ing.deskew = [] ∨ ∃ q l, s.ing.deskew = .pt q :: l) ∧
  x.sealed = none ∧
  voxIndices s p = some (ix, iy, iz) ∧
  x.req = none ∧
  x.pages ≠ 0 ∧
  (∀ n ∈ pondWords j, smGet upZero x.up n = 0) ∧
  smGet slotDflt x.table j = .live e ∧
  e.key = k :=
  ⟨voxC pondAt 3 (fun x => { x with table := [(homeOf, .live ⟨keyOf, 1, 0, 0, 0, 0, 0, 0, 0, 0, 0, 0⟩)], live := 1 }), pt3, [], 1280, 1280, 80, ⟨keyOf, 1, 0, 0, 0, 0, 0, 0, 0, 0, 0, 0⟩, ⟨by decide +kernel, by decide +kernel, by decide +kernel, by decide +kernel, .inl rfl, by decide +kernel, by decide +kernel, by decide +kernel, by decide +kernel, by decide +kernel, by decide +kernel, by decide +kernel⟩⟩

theorem wit_PondInsertion_4 : ∃ s : State, ∃ c : Fin 128,
  isReady s = true ∧
  (voxCtx s c.val).folding = true ∧
  (voxCtx s c.val).level ≤ 3 ∧
  smWf slotDflt (voxCtx s c.val).table = true :=
  ⟨voxC pondAt 3 (fun x => { x with folding := true, level := 1, table := [(homeOf, .live ⟨keyOf, 1, 0, 0, 0, 0, 0, 0, 0, 0, 0, 0⟩)], live := 1 }), 3, by
  refine ⟨?_, ?_, ?_, ?_⟩ <;> decide +kernel⟩

/-! Emission -/

theorem wit_Emission_1 : ∃ s : State, ∃ c : Fin 128, ∃ m : SweepSum, ∃ p : Nat,
  let x := voxCtx s c.val
  let n := m.seq % ctxNat s c.val 0x24
  isReady s = true ∧
  x.sealed = some m ∧
  x.folding = false ∧
  x.emitting = false ∧
  x.clearing = false ∧
  emitReader s c.val = some p ∧
  openTurn s 0 p (emitWaits s) = true ∧
  (∀ i, vget x.slots n none = some i → slotBusy s c.val i.seq = false) ∧
  slotCode s 0x20 = 8 :=
  ⟨emitAt 0, 3, sum3, 7, by
  refine ⟨?_, ?_, ?_, ?_, ?_, ?_, ?_, ?_, ?_⟩ <;> decide +kernel⟩

theorem wit_Emission_2 : ∃ s : State, ∃ c : Fin 128, ∃ m : SweepSum, ∃ p : Nat, ∃ i : EmitInfo,
  let x := voxCtx s c.val
  isReady s = true ∧
  x.sealed = some m ∧
  x.folding = false ∧
  x.emitting = false ∧
  x.clearing = false ∧
  emitReader s c.val = some p ∧
  openTurn s 0 p (emitWaits s) = true ∧
  vget x.slots (m.seq % ctxNat s c.val 0x24) none = some i ∧
  slotBusy s c.val i.seq = true :=
  ⟨emitBusy, 3, sum3, 7, ⟨1, 4, 1, 0, 0, 0⟩, by
  refine ⟨?_, ?_, ?_, ?_, ?_, ?_, ?_, ?_, ?_⟩ <;> decide +kernel⟩

theorem wit_Emission_3 : ∃ s : State, ∃ c : Fin 128, ∃ m : SweepSum,
  let x := voxCtx s c.val
  let n := m.seq % ctxNat s c.val 0x24
  isReady s = true ∧
  x.sealed = some m ∧
  x.emitting = true ∧
  n < 16 :=
  ⟨voxC (emitAt 0) 3 (fun x => { x with emitting := true }), 3, sum3, by
  refine ⟨?_, ?_, ?_, ?_⟩ <;> decide +kernel⟩

theorem wit_Emission_4 : ∃ s : State, ∃ c : Fin 128,
  isReady s = true ∧
  (voxCtx s c.val).clearing = true ∧
  ((∀ v ∈ s.vox.hold, inCtx v ≠ c.val)) :=
  ⟨voxC (emitAt 0) 127 (fun x => { x with clearing := true }), 127, by
  refine ⟨?_, ?_, ?_⟩ <;> decide +kernel⟩

/-! ScrubberPatrolAndRemoteAccesses -/

theorem wit_ScrubberPatrolAndRemoteAccesses_1 : ∃ s : State, ∃ c : Fin 16,
  let x := coreOf s c.val
  isReady s = true ∧
  x.scrub % 64 ≠ 63 ∧
  ((∀ k < 8, smGet upZero x.basinUp (8 * x.scrub + k) ≤ eccReach (smGet clsFalse x.basinCls (8 * x.scrub + k)))) :=
  ⟨scrubAt 1, 0, by
  refine ⟨?_, ?_, ?_⟩ <;> decide +kernel⟩

theorem wit_ScrubberPatrolAndRemoteAccesses_2 : ∃ s : State, ∃ c : Fin 16, ∃ k : Nat,
  let x := coreOf s c.val
  isReady s = true ∧
  k < 8 ∧
  eccReach (smGet clsFalse x.basinCls (8 * x.scrub + k)) < smGet upZero x.basinUp (8 * x.scrub + k) :=
  ⟨scrubAt 2, 0, 0, by
  refine ⟨?_, ?_, ?_⟩ <;> decide +kernel⟩

theorem wit_ScrubberPatrolAndRemoteAccesses_3 : ∃ s : State, ∃ c : Fin 16,
  let x := coreOf s c.val
  let b := x.scrub / 64
  isReady s = true ∧
  x.scrub % 64 = 63 ∧
  (wblkOf x b).1 = 3 ∧
  x.scrubOk = true ∧
  ((∀ k < 8, smGet upZero x.basinUp (8 * x.scrub + k) = 0)) ∧
  crc32c (basinBytes x (b * 4096) 4096) ≠ (wblkOf x b).2 :=
  ⟨scrubLast (other (crc32c (basinBytes {} 0 4096))), 15, ⟨by decide +kernel, by decide +kernel, by decide +kernel, by decide +kernel, by decide +kernel, fun h => other_ne _ ((scrubLast_bytes _).symm.trans (h.trans (scrubLast_crc _)))⟩⟩

theorem wit_ScrubberPatrolAndRemoteAccesses_4 : ∃ s : State,
  isReady s = true ∧
  ((dramEcc s s.dram.patrol = true → smGet upZero s.dram.upset s.dram.patrol = 0 ∧
    freshLine s s.dram.patrol = false)) :=
  ⟨eccAt 0, by
  refine ⟨?_, ?_⟩ <;> decide +kernel⟩

theorem wit_ScrubberPatrolAndRemoteAccesses_5 : ∃ s : State,
  isReady s = true ∧
  dramEcc s s.dram.patrol = true ∧
  smGet upZero s.dram.upset s.dram.patrol = 1 :=
  ⟨eccAt 1, by
  refine ⟨?_, ?_, ?_⟩ <;> decide +kernel⟩

theorem wit_ScrubberPatrolAndRemoteAccesses_6 : ∃ s : State,
  isReady s = true ∧
  dramEcc s s.dram.patrol = true ∧
  2 ≤ smGet upZero s.dram.upset s.dram.patrol :=
  ⟨eccAt 2, by
  refine ⟨?_, ?_, ?_⟩ <;> decide +kernel⟩

theorem wit_ScrubberPatrolAndRemoteAccesses_7 : ∃ s : State, ∃ r : RemReq, ∃ rest : List RemReq, ∃ off : Nat, ∃ l : Nat, ∃ bs : List Byte, ∃ f : Flight,
  isReady s = true ∧
  s.fab.remote = r :: rest ∧
  replica s r.dst ≤ r.ts + 1000000 ∧
  r.op = .write off bs ∧
  bs.length = 64 ∧
  r.dst < 16 ∧
  r.src < 16 ∧
  r.src ≠ r.dst ∧
  flightOf s r.src r.commit r.taggen r.part = some f ∧
  remLine s r.part r.dst off = some l ∧
  winOf (coreOf s r.dst) (l / 64) = none ∧
  (s.fab.landing.any fun m => m.src == r.src && m.dst == r.dst && decide (m.ord < r.ord)) = false :=
  ⟨remAt 0x7FFFC0, ⟨0, 3, 5, 0, 0, 15, .write 0x7FFFC0 (List.replicate 64 7), 0, 0, 0⟩, [], 0x7FFFC0, 131071, List.replicate 64 7, flight0, by
  refine ⟨?_, ?_, ?_, ?_, ?_, ?_, ?_, ?_, ?_, ?_, ?_, ?_⟩ <;> decide +kernel⟩

theorem wit_ScrubberPatrolAndRemoteAccesses_8 : ∃ s : State, ∃ r : RemReq, ∃ rest : List RemReq,
  isReady s = true ∧
  s.fab.remote = r :: rest ∧
  r.ts + 1000000 < replica s r.dst ∧
  (s.fab.landing.any fun l => l.src == r.src && l.dst == r.dst && decide (l.ord < r.ord)) = false :=
  ⟨tbOf (remAt 0) (fun x => { x with master := 1000001 }), ⟨0, 3, 5, 0, 0, 15, .write 0 (List.replicate 64 7), 0, 0, 0⟩, [], by
  refine ⟨?_, ?_, ?_, ?_⟩ <;> decide +kernel⟩

theorem wit_ScrubberPatrolAndRemoteAccesses_9 : ∃ s : State, ∃ r : RemReq, ∃ rest : List RemReq, ∃ off : Nat, ∃ bs : List Byte, ∃ f : Flight,
  isReady s = true ∧
  s.fab.remote = r :: rest ∧
  replica s r.dst ≤ r.ts + 1000000 ∧
  r.op = .write off bs ∧
  r.src < 16 ∧
  f.eng ≠ 2 ∧
  flightOf s r.src r.commit r.taggen r.part = some f ∧
  remLine s r.part r.dst off = none ∧
  (s.fab.landing.any fun l => l.src == r.src && l.dst == r.dst && decide (l.ord < r.ord)) = false :=
  ⟨remAt 0x800000, ⟨0, 3, 5, 0, 0, 15, .write 0x800000 (List.replicate 64 7), 0, 0, 0⟩, [], 0x800000, List.replicate 64 7, flight0, by
  refine ⟨?_, ?_, ?_, ?_, ?_, ?_, ?_, ?_, ?_⟩ <;> decide +kernel⟩

/-! DirectoryRequests -/

theorem wit_DirectoryRequests_1 : ∃ s : State, ∃ c : Fin 16, ∃ l : Nat, ∃ j : Option JobRef, ∃ tw : Nat, ∃ rest : List DirWait,
  isReady s = true ∧
  s.dir.wait = ⟨.getS c.val l, j, tw⟩ :: rest ∧
  (∀ x ∈ rest, reqLine x.req ≠ l) ∧
  replica s 16 ≤ tw + 1000000 ∧
  lineBusy s l = false ∧
  smGet upZero s.dir.upset l = 0 ∧
  s.dir.poisoned.contains l = false ∧
  (∀ o, dirOf s l ≠ some (.m o)) ∧
  dramEcc s l = false ∧
  (∀ x ∈ (coreOf s c.val).dc.lines, x.line ≠ l) ∧
  dirFull s l = false :=
  ⟨dirAt (.getS 3 640) id, 3, 640, none, 0, [], ⟨by decide +kernel, by decide +kernel, by decide +kernel, by decide +kernel, by decide +kernel, by decide +kernel, by decide +kernel, (fun o h => nomatch (show (none : Option DirState) = some (.m o) from h)), by decide +kernel, by decide +kernel, by decide +kernel⟩⟩

theorem wit_DirectoryRequests_2 : ∃ s : State, ∃ c : Fin 16, ∃ l : Nat, ∃ o : Nat, ∃ j : Option JobRef, ∃ tw : Nat, ∃ rest : List DirWait, ∃ ex : Bool,
  isReady s = true ∧
  s.dir.wait = ⟨if ex then .getM c.val l else .getS c.val l, j, tw⟩ :: rest ∧
  (∀ x ∈ rest, reqLine x.req ≠ l) ∧
  replica s 16 ≤ tw + 1000000 ∧
  lineBusy s l = false ∧
  smGet upZero s.dir.upset l = 0 ∧
  s.dir.poisoned.contains l = false ∧
  dirOf s l = some (.m o) ∧
  o < 16 :=
  ⟨dirAt (.getM 3 640) (fun d => { d with entries := [(640, some (.m 15))] }), 3, 640, 15, none, 0, [], true, by
  refine ⟨?_, ?_, ?_, ?_, ?_, ?_, ?_, ?_, ?_⟩ <;> decide +kernel⟩

theorem wit_DirectoryRequests_3 : ∃ s : State, ∃ c : Fin 16, ∃ l : Nat, ∃ o : Nat, ∃ j : Option JobRef, ∃ tw : Nat, ∃ rest : List DirWait, ∃ ex : Bool,
  isReady s = true ∧
  s.dir.wait = ⟨if ex then .getM c.val l else .getS c.val l, j, tw⟩ :: rest ∧
  (∀ x ∈ rest, reqLine x.req ≠ l) ∧
  replica s 16 ≤ tw + 1000000 ∧
  lineBusy s l = false ∧
  smGet upZero s.dir.upset l = 0 ∧
  s.dir.poisoned.contains l = false ∧
  dirOf s l = some (.m o) ∧
  o < 16 :=
  ⟨dirAt (.getS 3 640) (fun d => { d with entries := [(640, some (.m 15))] }), 3, 640, 15, none, 0, [], false, by
  refine ⟨?_, ?_, ?_, ?_, ?_, ?_, ?_, ?_, ?_⟩ <;> decide +kernel⟩

theorem wit_DirectoryRequests_4 : ∃ s : State, ∃ c : Fin 16, ∃ l : Nat, ∃ j : Option JobRef, ∃ tw : Nat, ∃ rest : List DirWait,
  isReady s = true ∧
  s.dir.wait = ⟨.getM c.val l, j, tw⟩ :: rest ∧
  (∀ x ∈ rest, reqLine x.req ≠ l) ∧
  replica s 16 ≤ tw + 1000000 ∧
  lineBusy s l = false ∧
  smGet upZero s.dir.upset l = 0 ∧
  s.dir.poisoned.contains l = false ∧
  dirOf s l = none ∧
  dramEcc s l = false ∧
  (∀ x ∈ (coreOf s c.val).dc.lines, x.line ≠ l) ∧
  dirFull s l = false :=
  ⟨dirAt (.getM 3 640) id, 3, 640, none, 0, [], by
  refine ⟨?_, ?_, ?_, ?_, ?_, ?_, ?_, ?_, ?_, ?_, ?_⟩ <;> decide +kernel⟩

theorem wit_DirectoryRequests_5 : ∃ s : State, ∃ c : Fin 16, ∃ d : Fin 16, ∃ l : Nat, ∃ m : BitVec 16, ∃ j : Option JobRef, ∃ tw : Nat, ∃ rest : List DirWait,
  isReady s = true ∧
  s.dir.wait = ⟨.getM c.val l, j, tw⟩ :: rest ∧
  (∀ x ∈ rest, reqLine x.req ≠ l) ∧
  replica s 16 ≤ tw + 1000000 ∧
  lineBusy s l = false ∧
  smGet upZero s.dir.upset l = 0 ∧
  s.dir.poisoned.contains l = false ∧
  dirOf s l = some (.s m) ∧
  d ≠ c ∧
  m.getLsbD d.val = true :=
  ⟨dirAt (.getM 3 640) (fun d => { d with entries := [(640, some (.s 0x8008))] }), 3, 15, 640, 0x8008, none, 0, [], by
  refine ⟨?_, ?_, ?_, ?_, ?_, ?_, ?_, ?_, ?_, ?_⟩ <;> decide +kernel⟩

theorem wit_DirectoryRequests_6 : ∃ s : State, ∃ c : Fin 16, ∃ l : Nat, ∃ b : List Byte, ∃ j : Option JobRef, ∃ tw : Nat, ∃ rest : List DirWait,
  isReady s = true ∧
  s.dir.wait = ⟨.putM c.val l b, j, tw⟩ :: rest ∧
  (∀ x ∈ rest, reqLine x.req ≠ l) ∧
  replica s 16 ≤ tw + 1000000 ∧
  lineBusy s l = false ∧
  smGet upZero s.dir.upset l = 0 ∧
  b.length = 64 ∧
  dirOf s l = some (.m c.val) :=
  ⟨dirAt (.putM 3 640 line0) (fun d => { d with entries := [(640, some (.m 3))] }), 3, 640, line0, none, 0, [], by
  refine ⟨?_, ?_, ?_, ?_, ?_, ?_, ?_, ?_⟩ <;> decide +kernel⟩

theorem wit_DirectoryRequests_7 : ∃ s : State, ∃ c : Fin 16, ∃ l : Nat, ∃ b : List Byte, ∃ j : Option JobRef, ∃ tw : Nat, ∃ rest : List DirWait,
  isReady s = true ∧
  s.dir.wait = ⟨.putM c.val l b, j, tw⟩ :: rest ∧
  (∀ x ∈ rest, reqLine x.req ≠ l) ∧
  replica s 16 ≤ tw + 1000000 ∧
  lineBusy s l = false ∧
  smGet upZero s.dir.upset l = 0 ∧
  b.length = 64 ∧
  dirOf s l ≠ some (.m c.val) :=
  ⟨dirAt (.putM 3 640 line0) id, 3, 640, line0, none, 0, [], by
  refine ⟨?_, ?_, ?_, ?_, ?_, ?_, ?_, ?_⟩ <;> decide +kernel⟩

theorem wit_DirectoryRequests_8 : ∃ s : State, ∃ a : Nat, ∃ o : Nat,
  isReady s = true ∧
  lineBusy s (lineOf a) = false ∧
  (∀ x ∈ s.dir.wait, reqLine x.req ≠ lineOf a) ∧
  smGet upZero s.dir.upset (lineOf a) = 0 ∧
  s.dir.poisoned.contains (lineOf a) = false ∧
  dirOf s (lineOf a) = some (.m o) ∧
  o < 16 :=
  ⟨{ rdy with dir := { entries := [(640, some (.m 15))] } }, 700, 15, by
  refine ⟨?_, ?_, ?_, ?_, ?_, ?_, ?_⟩ <;> decide +kernel⟩

theorem wit_DirectoryRequests_9 : ∃ s : State, ∃ a : Nat, ∃ b : List Byte,
  isReady s = true ∧
  lineBusy s (lineOf a) = false ∧
  (∀ x ∈ s.dir.wait, reqLine x.req ≠ lineOf a) ∧
  smGet upZero s.dir.upset (lineOf a) = 0 ∧
  s.dir.poisoned.contains (lineOf a) = false ∧
  dirOf s (lineOf a) = none ∧
  b.length = 64 :=
  ⟨rdy, 703, line0, by
  refine ⟨?_, ?_, ?_, ?_, ?_, ?_, ?_⟩ <;> decide +kernel⟩

theorem wit_DirectoryRequests_10 : ∃ s : State, ∃ c : Fin 16, ∃ l : Nat, ∃ j : Option JobRef, ∃ tw : Nat, ∃ rest : List DirWait,
  isReady s = true ∧
  s.dir.wait = ⟨.getS c.val l, j, tw⟩ :: rest ∧
  (∀ x ∈ rest, reqLine x.req ≠ l) ∧
  lineBusy s l = false ∧
  dirFull s l = false ∧
  tw + 1000000 < replica s 16 :=
  ⟨tbOf (dirAt (.getS 3 640) id) (fun x => { x with master := 1000001 }), 3, 640, none, 0, [], by
  refine ⟨?_, ?_, ?_, ?_, ?_, ?_⟩ <;> decide +kernel⟩

theorem wit_DirectoryRequests_11 : ∃ s : State, ∃ a : Nat, ∃ b : List Byte,
  isReady s = true ∧
  lineBusy s (lineOf a) = true :=
  ⟨{ rdy with dir := { txns := [⟨.getS 3 640, 640, [15], none, 0⟩] } }, 640, line0, by
  refine ⟨?_, ?_⟩ <;> decide +kernel⟩

/-! CachesAnswerTheDirectory -/

theorem wit_CachesAnswerTheDirectory_1 : ∃ s : State, ∃ c : Fin 16, ∃ l : Nat, ∃ m : DirMsg, ∃ rest : List DirMsg, ∃ x : DcLine,
  isReady s = true ∧
  vget s.dir.toCache c.val [] = m :: rest ∧
  dcFind (coreOf s c.val).dc l = some x ∧
  (∀ n ∈ x.up, n = 0) ∧
  snoopWaits c.val m s = false ∧
  msgLost c.val m s = false ∧
  (∃ q, m = .fwdS l q) ∧
  (coreOf s c.val).dc.lines.find? (·.line == l) = some x :=
  ⟨dcAt 0 { rdy with dir := { toCache := vset (Vector.replicate 16 []) 0 [.fwdS 640 3] } } { lines := [⟨640, true, line0, []⟩] }, 0, 640, .fwdS 640 3, [], ⟨640, true, line0, []⟩, ⟨by decide +kernel, by decide +kernel, by decide +kernel, by decide +kernel, by decide +kernel, by decide +kernel, ⟨3, rfl⟩, by decide +kernel⟩⟩

theorem wit_CachesAnswerTheDirectory_2 : ∃ s : State, ∃ c : Fin 16, ∃ l : Nat, ∃ m : DirMsg, ∃ rest : List DirMsg, ∃ x : DcLine,
  isReady s = true ∧
  vget s.dir.toCache c.val [] = m :: rest ∧
  dcFind (coreOf s c.val).dc l = some x ∧
  (∀ n ∈ x.up, n = 0) ∧
  snoopWaits c.val m s = false ∧
  msgLost c.val m s = false ∧
  m = .recallKeep l :=
  ⟨dcAt 0 { rdy with dir := { toCache := vset (Vector.replicate 16 []) 0 [.recallKeep 640] } } { evict := [⟨640, true, line0, []⟩] }, 0, 640, .recallKeep 640, [], ⟨640, true, line0, []⟩, by
  refine ⟨?_, ?_, ?_, ?_, ?_, ?_, ?_⟩ <;> decide +kernel⟩

theorem wit_CachesAnswerTheDirectory_3 : ∃ s : State, ∃ c : Fin 16, ∃ l : Nat, ∃ q : Nat, ∃ rest : List DirMsg, ∃ x : DcLine,
  isReady s = true ∧
  vget s.dir.toCache c.val [] = .fwdM l q :: rest ∧
  dcFind (coreOf s c.val).dc l = some x ∧
  (∀ n ∈ x.up, n = 0) ∧
  snoopWaits c.val (.fwdM l q) s = false ∧
  msgLost c.val (.fwdM l q) s = false :=
  ⟨dcAt 0 { rdy with dir := { toCache := vset (Vector.replicate 16 []) 0 [.fwdM 640 3] } } { lines := [⟨640, true, line0, []⟩] }, 0, 640, 3, [], ⟨640, true, line0, []⟩, by
  refine ⟨?_, ?_, ?_, ?_, ?_, ?_⟩ <;> decide +kernel⟩

theorem wit_CachesAnswerTheDirectory_4 : ∃ s : State, ∃ c : Fin 16, ∃ l : Nat, ∃ rest : List DirMsg,
  isReady s = true ∧
  vget s.dir.toCache c.val [] = .inv l :: rest ∧
  snoopWaits c.val (.inv l) s = false ∧
  msgLost c.val (.inv l) s = false :=
  ⟨dcAt 15 { rdy with dir := { toCache := vset (Vector.replicate 16 []) 15 [.inv 640] } } { lines := [⟨640, false, line0, []⟩] }, 15, 640, [], by
  refine ⟨?_, ?_, ?_, ?_⟩ <;> decide +kernel⟩

theorem wit_CachesAnswerTheDirectory_5 : ∃ s : State, ∃ c : Fin 16, ∃ l : Nat, ∃ rest : List DirMsg,
  isReady s = true ∧
  vget s.dir.toCache c.val [] = .putAck l :: rest :=
  ⟨dcAt 15 { rdy with dir := { toCache := vset (Vector.replicate 16 []) 15 [.putAck 640] } } { evict := [⟨640, true, line0, []⟩] }, 15, 640, [], by
  refine ⟨?_, ?_⟩ <;> decide +kernel⟩

theorem wit_CachesAnswerTheDirectory_6 : ∃ s : State, ∃ l : Nat, ∃ c : Nat, ∃ o : Nat, ∃ b : List Byte, ∃ j : Option JobRef, ∃ ts : Nat, ∃ tw : Nat, ∃ rest : List DirAns, ∃ xs : List DirTxn,
  isReady s = true ∧
  s.dir.toDir = .data l o (some b) tw :: rest ∧
  replica s 16 ≤ tw + 1000000 ∧
  s.dir.txns = ⟨.getS c l, l, [o], j, ts⟩ :: xs ∧
  (∀ y ∈ s.dir.wait, reqLine y.req ≠ l) ∧
  dirOf s l = some (.m o) ∧
  b.length = 64 ∧
  c < 16 ∧
  (∀ y ∈ (coreOf s c).dc.lines, y.line ≠ l) :=
  ⟨ans0 (.data 640 15 (some line0) 0) ⟨.getS 3 640, 640, [15], none, 0⟩ [(640, some (.m 15))], 640, 3, 15, line0, none, 0, 0, [], [], by
  refine ⟨?_, ?_, ?_, ?_, ?_, ?_, ?_, ?_, ?_⟩ <;> decide +kernel⟩

theorem wit_CachesAnswerTheDirectory_7 : ∃ s : State, ∃ l : Nat, ∃ c : Nat, ∃ b : List Byte, ∃ j : Option JobRef, ∃ ts : Nat, ∃ tw : Nat, ∃ rest : List DirAns, ∃ xs : List DirTxn,
  isReady s = true ∧
  s.dir.toDir = .ack l c tw :: rest ∧
  replica s 16 ≤ tw + 1000000 ∧
  s.dir.txns = ⟨.write l b, l, [c], j, ts⟩ :: xs ∧
  (∀ y ∈ s.dir.wait, reqLine y.req ≠ l) ∧
  b.length = 64 :=
  ⟨ans0 (.ack 640 15 0) ⟨.write 640 line0, 640, [15], none, 0⟩ [(640, some (.s 0x8000))], 640, 15, line0, none, 0, 0, [], [], by
  refine ⟨?_, ?_, ?_, ?_, ?_, ?_⟩ <;> decide +kernel⟩

theorem wit_CachesAnswerTheDirectory_8 : ∃ s : State, ∃ l : Nat, ∃ c : Nat, ∃ q : DirReq, ∃ w : List Nat, ∃ j : Option JobRef, ∃ ts : Nat, ∃ tw : Nat, ∃ rest : List DirAns,
  isReady s = true ∧
  s.dir.toDir = .ack l c tw :: rest ∧
  replica s 16 ≤ tw + 1000000 ∧
  s.dir.txns = [⟨q, l, w, j, ts⟩] ∧
  (∃ d ∈ w, d ≠ c) :=
  ⟨ans0 (.ack 640 15 0) ⟨.write 640 line0, 640, [15, 3], none, 0⟩ [(640, some (.s 0x8008))], 640, 15, .write 640 line0, [15, 3], none, 0, 0, [], ⟨by decide +kernel, by decide +kernel, by decide +kernel, by decide +kernel, ⟨3, by decide, by decide⟩⟩⟩

theorem wit_CachesAnswerTheDirectory_9 : ∃ s : State, ∃ c : Fin 16, ∃ m : DirMsg, ∃ rest : List DirMsg,
  isReady s = true ∧
  vget s.dir.toCache c.val [] = m :: rest ∧
  snoopWaits c.val m s = false ∧
  msgLost c.val m s = true :=
  ⟨tbOf { rdy with dir := { txns := [⟨.getS 3 640, 640, [15], none, 0⟩], toCache := vset (Vector.replicate 16 []) 15 [.fwdS 640 3] } } (fun x => { x with master := 1000001 }), 15, .fwdS 640 3, [], by
  refine ⟨?_, ?_, ?_, ?_⟩ <;> decide +kernel⟩

theorem wit_CachesAnswerTheDirectory_10 : ∃ s : State, ∃ c : Fin 16, ∃ m : DirMsg, ∃ rest : List DirMsg,
  isReady s = true ∧
  vget s.dir.toCache c.val [] = m :: rest ∧
  snoopWaits c.val m s = false ∧
  msgLost c.val m s = true :=
  ⟨tbOf { rdy with dir := { txns := [⟨.getS 3 640, 640, [15], none, 0⟩], toCache := vset (Vector.replicate 16 []) 15 [.fwdM 640 3] } } (fun x => { x with master := 1000001 }), 15, .fwdM 640 3, [], by
  refine ⟨?_, ?_, ?_, ?_⟩ <;> decide +kernel⟩

theorem wit_CachesAnswerTheDirectory_11 : ∃ s : State, ∃ c : Fin 16, ∃ m : DirMsg, ∃ rest : List DirMsg,
  isReady s = true ∧
  vget s.dir.toCache c.val [] = m :: rest ∧
  snoopWaits c.val m s = false ∧
  msgLost c.val m s = true :=
  ⟨tbOf { rdy with dir := { txns := [⟨.getS 3 640, 640, [15], none, 0⟩], toCache := vset (Vector.replicate 16 []) 15 [.recallKeep 640] } } (fun x => { x with master := 1000001 }), 15, .recallKeep 640, [], by
  refine ⟨?_, ?_, ?_, ?_⟩ <;> decide +kernel⟩

theorem wit_CachesAnswerTheDirectory_12 : ∃ s : State, ∃ c : Fin 16, ∃ m : DirMsg, ∃ rest : List DirMsg,
  isReady s = true ∧
  vget s.dir.toCache c.val [] = m :: rest ∧
  snoopWaits c.val m s = false ∧
  msgLost c.val m s = true :=
  ⟨tbOf { rdy with dir := { txns := [⟨.getS 3 640, 640, [15], none, 0⟩], toCache := vset (Vector.replicate 16 []) 15 [.inv 640] } } (fun x => { x with master := 1000001 }), 15, .inv 640, [], by
  refine ⟨?_, ?_, ?_, ?_⟩ <;> decide +kernel⟩

theorem wit_CachesAnswerTheDirectory_13 : ∃ s : State, ∃ a : DirAns, ∃ rest : List DirAns,
  isReady s = true ∧
  s.dir.toDir = a :: rest ∧
  ansTs a + 1000000 < replica s 16 :=
  ⟨tbOf { rdy with dir := { toDir := [.ack 640 15 0] } } (fun x => { x with master := 1000001 }), .ack 640 15 0, [], by
  refine ⟨?_, ?_, ?_⟩ <;> decide +kernel⟩

theorem wit_CachesAnswerTheDirectory_14 : ∃ s : State, ∃ a : Nat, ∃ c : Nat, ∃ j : Option JobRef, ∃ w : List Nat, ∃ ts : Nat, ∃ xs : List DirTxn,
  isReady s = true ∧
  s.dir.txns = ⟨.getS c (lineOf a), lineOf a, w, j, ts⟩ :: xs ∧
  c < 16 ∧
  (∀ y ∈ s.dir.wait, reqLine y.req ≠ lineOf a) ∧
  ts + 1000000 < replica s 16 :=
  ⟨tbOf { rdy with dir := { txns := [⟨.getS 3 640, 640, [15], none, 0⟩] } } (fun x => { x with master := 1000001 }), 703, 3, none, [15], 0, [], by
  refine ⟨?_, ?_, ?_, ?_, ?_⟩ <;> decide +kernel⟩

/-! ControlCoreInstructions -/

theorem wit_ControlCoreInstructions_1 : ∃ s : State, ∃ u : State, ∃ w : State, ∃ c : Fin 16, ∃ op : RvOp, ∃ len : Nat, ∃ b : Nat,
  Fetches s c.val op len u ∧
  NoHalt w c.val ∧
  ccRun (ccBits c.val len) u = (.ok b, w) ∧
  (coreOf w c.val).run.cc.st = .running ∧
  (((∃ rd v, op = .lui rd v) ∨ (∃ rd v, op = .auipc rd v) ∨ (∃ rd o, op = .jal rd o) ∨ (∃ rd r o, op = .jalr rd r o) ∨
      (∃ o a b i, op = .br o a b i) ∨ (∃ o rd r v, op = .aluI o rd r v) ∨ (∃ o rd a b, op = .alu o rd a b) ∨
      (∃ o rd r, op = .un o rd r) ∨ op = .fence)) :=
  ⟨addAt, fetched addAt, reread addAt 4, 0, .alu .add 31 1 2, 4, rvEncode (.alu .add 31 1 2), ⟨fetches (by decide +kernel) (by decide +kernel) (by decide +kernel), ⟨by decide +kernel, by decide +kernel⟩, ran_ok (by decide +kernel), by decide +kernel, by simp⟩⟩

theorem wit_ControlCoreInstructions_2 : ∃ s : State, ∃ u : State, ∃ w : State, ∃ c : Fin 16, ∃ n : Nat, ∃ rd : Nat, ∃ r : Nat, ∃ len : Nat, ∃ b : Nat, ∃ p : Nat, ∃ sg : Bool, ∃ off : Int,
  let k := (coreOf w c.val).run.cc
  let a := hAddr k.leader r off
  Fetches s c.val (.load n sg rd r off) len u ∧
  NoHalt w c.val ∧
  ccRun (ccBits c.val len) u = (.ok b, w) ∧
  (coreOf w c.val).run.cc.st = .running ∧
  ((n = 1 ∨ n = 2 ∨ n = 4)) ∧
  a % n = 0 ∧
  a < 0x10000 ∧
  relocDmem (coreOf w c.val) a n = some p ∧
  smGet upZero (coreOf w c.val).dmemUp (p / 4) = 0 ∧
  p % n = 0 :=
  ⟨loadAt, fetched loadAt, reread loadAt 4, 0, 4, 31, 1, 4, rvEncode (.load 4 true 31 1 (-4)), 0xFFFC, true, -4, ⟨fetches (by decide +kernel) (by decide +kernel) (by decide +kernel), ⟨by decide +kernel, by decide +kernel⟩, ran_ok (by decide +kernel), by decide +kernel, by decide +kernel, by decide +kernel, by decide +kernel, by decide +kernel, by decide +kernel, by decide +kernel⟩⟩

theorem wit_ControlCoreInstructions_3 : ∃ s : State, ∃ u : State, ∃ w : State, ∃ c : Fin 16, ∃ n : Nat, ∃ r1 : Nat, ∃ r2 : Nat, ∃ len : Nat, ∃ b : Nat, ∃ p : Nat, ∃ off : Int,
  let k := (coreOf w c.val).run.cc
  let a := hAddr k.leader r1 off
  Fetches s c.val (.store n r1 r2 off) len u ∧
  NoHalt w c.val ∧
  ccRun (ccBits c.val len) u = (.ok b, w) ∧
  (coreOf w c.val).run.cc.st = .running ∧
  ((n = 1 ∨ n = 2 ∨ n = 4)) ∧
  a % n = 0 ∧
  a < 0x10000 ∧
  relocDmem (coreOf w c.val) a n = some p ∧
  smGet upZero (coreOf w c.val).dmemUp (p / 4) = 0 ∧
  p % n = 0 :=
  ⟨storeAt, fetched storeAt, reread storeAt 4, 0, 2, 1, 1, 4, rvEncode (.store 2 1 1 2), 2, 2, ⟨fetches (by decide +kernel) (by decide +kernel) (by decide +kernel), ⟨by decide +kernel, by decide +kernel⟩, ran_ok (by decide +kernel), by decide +kernel, by decide +kernel, by decide +kernel, by decide +kernel, by decide +kernel, by decide +kernel, by decide +kernel⟩⟩

theorem wit_ControlCoreInstructions_4 : ∃ s : State, ∃ u : State, ∃ w : State, ∃ c : Fin 16, ∃ rd : Nat, ∃ r1 : Nat, ∃ r2 : Nat, ∃ len : Nat, ∃ b : Nat,
  let k := (coreOf w c.val).run.cc
  Fetches s c.val (.sc rd r1 r2) len u ∧
  NoHalt w c.val ∧
  ccRun (ccBits c.val len) u = (.ok b, w) ∧
  (coreOf w c.val).run.cc.st = .running ∧
  (hx k.leader r1).toNat % 4 = 0 ∧
  k.rsv.map (·.1) ≠ some (hx k.leader r1).toNat :=
  ⟨scAt, fetched scAt, reread scAt 4, 0, 5, 1, 2, 4, rvEncode (.sc 5 1 2), ⟨fetches (by decide +kernel) (by decide +kernel) (by decide +kernel), ⟨by decide +kernel, by decide +kernel⟩, ran_ok (by decide +kernel), by decide +kernel, by decide +kernel, by decide +kernel⟩⟩

theorem wit_ControlCoreInstructions_5 : ∃ s : State, ∃ u : State, ∃ c : Fin 16, ∃ cause : Nat, ∃ tv : Nat,
  ccReady s c.val = true ∧
  (coreOf s c.val).mismatch = false ∧
  (coreOf s c.val).run.cc.leader.pc = (coreOf s c.val).run.cc.checker.pc ∧
  ccRun (ccFetch c.val) s = (.error (.trap cause tv .ccTrap), u) :=
  ⟨lostPc, fetched lostPc, 0, 1, 0, ⟨by decide +kernel, by decide +kernel, by decide +kernel, ran_trap (by decide +kernel)⟩⟩

/-! ControlCoreDeviceInstructions -/

theorem wit_ControlCoreDeviceInstructions_1 : ∃ s : State, ∃ u : State, ∃ c : Fin 16, ∃ r1 : Nat, ∃ i : Nat, ∃ len : Nat,
  Fetches s c.val (.qpush r1 i) len u ∧
  NoHalt u c.val ∧
  i < 16 ∧
  (coreOf u c.val).run.cc.st = .running :=
  ⟨pushAt, fetched pushAt, 0, 1, 15, 4, ⟨fetches (by decide +kernel) (by decide +kernel) (by decide +kernel), ⟨by decide +kernel, by decide +kernel⟩, by decide +kernel, by decide +kernel⟩⟩

theorem wit_ControlCoreDeviceInstructions_2 : ∃ s : State, ∃ u : State, ∃ c : Fin 16, ∃ rd : Nat, ∃ n : Nat, ∃ len : Nat,
  Fetches s c.val (.redrd rd n) len u ∧
  NoHalt u c.val ∧
  (coreOf u c.val).run.cc.st = .running :=
  ⟨redAt, fetched redAt, 0, 5, 8, 4, ⟨fetches (by decide +kernel) (by decide +kernel) (by decide +kernel), ⟨by decide +kernel, by decide +kernel⟩, by decide +kernel⟩⟩

theorem wit_ControlCoreDeviceInstructions_3 : ∃ s : State, ∃ u : State, ∃ c : Fin 16, ∃ rd : Nat, ∃ len : Nat,
  Fetches s c.val (.tsrdLo rd) len u ∧
  NoHalt u c.val ∧
  (coreOf u c.val).run.cc.st = .running :=
  ⟨tsLoAt, fetched tsLoAt, 0, 5, 4, ⟨fetches (by decide +kernel) (by decide +kernel) (by decide +kernel), ⟨by decide +kernel, by decide +kernel⟩, by decide +kernel⟩⟩

theorem wit_ControlCoreDeviceInstructions_4 : ∃ s : State, ∃ u : State, ∃ c : Fin 16, ∃ rd : Nat, ∃ len : Nat,
  Fetches s c.val (.tsrdHi rd) len u ∧
  NoHalt u c.val ∧
  (coreOf u c.val).run.cc.st = .running :=
  ⟨tsHiAt, fetched tsHiAt, 0, 5, 4, ⟨fetches (by decide +kernel) (by decide +kernel) (by decide +kernel), ⟨by decide +kernel, by decide +kernel⟩, by decide +kernel⟩⟩

theorem wit_ControlCoreDeviceInstructions_5 : ∃ s : State, ∃ u : State, ∃ c : Fin 16, ∃ r1 : Nat, ∃ r2 : Nat, ∃ len : Nat,
  let k := (coreOf u c.val).run.cc
  let q := (hx k.leader r1).toNat % 128
  Fetches s c.val (.swait r1 r2) len u ∧
  NoHalt u c.val ∧
  (coreOf u c.val).run.cc.st = .running ∧
  (q < 32 ∨ 64 ≤ q) ∧
  semOwned u (ctxOf (coreOf u c.val)).part q = true ∧
  (hx k.leader r2).toNat % 65536 ≠ 0 ∧
  swaitTurn u c.val q ((hx k.leader r2).toNat % 65536) = false :=
  ⟨waitAt, fetched waitAt, 0, 1, 2, 4, ⟨fetches (by decide +kernel) (by decide +kernel) (by decide +kernel), ⟨by decide +kernel, by decide +kernel⟩, by decide +kernel, by decide +kernel, by decide +kernel, by decide +kernel, by decide +kernel⟩⟩

theorem wit_ControlCoreDeviceInstructions_6 : ∃ s : State, ∃ u : State, ∃ c : Fin 16, ∃ r1 : Nat, ∃ r2 : Nat, ∃ len : Nat,
  let k := (coreOf u c.val).run.cc
  let q := (hx k.leader r1).toNat % 128
  Fetches s c.val (.swait r1 r2) len u ∧
  NoHalt u c.val ∧
  (coreOf u c.val).run.cc.st = .running ∧
  (q < 32 ∨ 64 ≤ q) ∧
  semOwned u (ctxOf (coreOf u c.val)).part q = true ∧
  (hx k.leader r2).toNat % 65536 ≠ 0 ∧
  swaitTurn u c.val q ((hx k.leader r2).toNat % 65536) = true :=
  ⟨waitNow, fetched waitNow, 0, 1, 2, 4, ⟨fetches (by decide +kernel) (by decide +kernel) (by decide +kernel), ⟨by decide +kernel, by decide +kernel⟩, by decide +kernel, by decide +kernel, by decide +kernel, by decide +kernel, by decide +kernel⟩⟩

theorem wit_ControlCoreDeviceInstructions_7 : ∃ s : State, ∃ u : State, ∃ c : Fin 16, ∃ r1 : Nat, ∃ r2 : Nat, ∃ len : Nat,
  let q := (hx (coreOf u c.val).run.cc.leader r1).toNat % 128
  Fetches s c.val (.swait r1 r2) len u ∧
  (q < 32 ∨ 64 ≤ q) ∧
  semOwned u (ctxOf (coreOf u c.val)).part q = false :=
  ⟨waitDeny, fetched waitDeny, 0, 1, 2, 4, ⟨fetches (by decide +kernel) (by decide +kernel) (by decide +kernel), by decide +kernel, by decide +kernel⟩⟩

theorem wit_ControlCoreDeviceInstructions_8 : ∃ s : State, ∃ c : Fin 16, ∃ q : Nat, ∃ n : Nat,
  isReady s = true ∧
  (coreOf s c.val).active.isSome = true ∧
  (ctxOf (coreOf s c.val)).st = .running ∧
  (coreOf s c.val).stop = none ∧
  (coreOf s c.val).run.cc.st = .swait ∧
  (coreOf s c.val).run.cc.pendWait = some (q, n) ∧
  swaitTurn s c.val q n = true ∧
  (q < 32 ∨ (64 ≤ q ∧ q < 128)) ∧
  NoHalt s c.val :=
  ⟨waiting, 0, 127, 3, ⟨by decide +kernel, by decide +kernel, by decide +kernel, by decide +kernel, by decide +kernel, by decide +kernel, by decide +kernel, by decide +kernel, ⟨by decide +kernel, by decide +kernel⟩⟩⟩

theorem wit_ControlCoreDeviceInstructions_9 : ∃ s : State, ∃ u : State, ∃ c : Fin 16, ∃ r1 : Nat, ∃ r2 : Nat, ∃ len : Nat,
  let k := (coreOf u c.val).run.cc
  let q := (hx k.leader r1).toNat % 128
  let n := (hx k.leader r2).toNat % 65536
  Fetches s c.val (.sset r1 r2) len u ∧
  NoHalt u c.val ∧
  (coreOf u c.val).run.cc.st = .running ∧
  (q < 32 ∨ 64 ≤ q) ∧
  semOwned u (ctxOf (coreOf u c.val)).part q = true ∧
  semGet u c.val q + n ≤ 65535 :=
  ⟨setAt, fetched setAt, 0, 1, 2, 4, ⟨fetches (by decide +kernel) (by decide +kernel) (by decide +kernel), ⟨by decide +kernel, by decide +kernel⟩, by decide +kernel, by decide +kernel, by decide +kernel, by decide +kernel⟩⟩

theorem wit_ControlCoreDeviceInstructions_10 : ∃ s : State, ∃ u : State, ∃ c : Fin 16, ∃ r1 : Nat, ∃ r2 : Nat, ∃ len : Nat,
  let k := (coreOf u c.val).run.cc
  let q := (hx k.leader r1).toNat % 128
  let n := (hx k.leader r2).toNat % 65536
  Fetches s c.val (.sset r1 r2) len u ∧
  NoHalt u c.val ∧
  (coreOf u c.val).run.cc.st = .running ∧
  (q < 32 ∨ 64 ≤ q) ∧
  semOwned u (ctxOf (coreOf u c.val)).part q = true ∧
  semGet u c.val q + n ≤ 65535 ∧
  n = 0 :=
  ⟨setNone, fetched setNone, 0, 1, 2, 4, ⟨fetches (by decide +kernel) (by decide +kernel) (by decide +kernel), ⟨by decide +kernel, by decide +kernel⟩, by decide +kernel, by decide +kernel, by decide +kernel, by decide +kernel, by decide +kernel⟩⟩

theorem wit_ControlCoreDeviceInstructions_11 : ∃ s : State, ∃ u : State, ∃ c : Fin 16, ∃ r1 : Nat, ∃ r2 : Nat, ∃ len : Nat,
  let k := (coreOf u c.val).run.cc
  let q := (hx k.leader r1).toNat % 128
  let n := (hx k.leader r2).toNat % 65536
  Fetches s c.val (.sset r1 r2) len u ∧
  (q < 32 ∨ 64 ≤ q) ∧
  (semOwned u (ctxOf (coreOf u c.val)).part q = false ∨ 65535 < semGet u c.val q + n) :=
  ⟨denied, fetched denied, 0, 1, 2, 4, ⟨fetches (by decide +kernel) (by decide +kernel) (by decide +kernel), by decide +kernel, by decide +kernel⟩⟩

theorem wit_ControlCoreDeviceInstructions_12 : ∃ s : State, ∃ u : State, ∃ c : Fin 16, ∃ r1 : Nat, ∃ r2 : Nat, ∃ len : Nat,
  let k := (coreOf u c.val).run.cc
  let q := (hx k.leader r1).toNat % 128
  let n := (hx k.leader r2).toNat % 65536
  Fetches s c.val (.sset r1 r2) len u ∧
  (q < 32 ∨ 64 ≤ q) ∧
  (semOwned u (ctxOf (coreOf u c.val)).part q = false ∨ 65535 < semGet u c.val q + n) ∧
  n = 0 :=
  ⟨denyNone, fetched denyNone, 0, 1, 2, 4, ⟨fetches (by decide +kernel) (by decide +kernel) (by decide +kernel), by decide +kernel, by decide +kernel, by decide +kernel⟩⟩

/-! CommitsAndEnds -/

theorem wit_CommitsAndEnds_1 : ∃ s : State, ∃ u : State, ∃ c : Fin 16, ∃ rd : Nat, ∃ r1 : Nat, ∃ len : Nat, ∃ tpl : Option Nat, ∃ w : List Word,
  let x := coreOf u c.val
  let j := jobOf u (ctxOf x).slot
  let e := wbits w 0 8 3
  let vis := bitOf (w.getD 0 0).toNat 11
  NoHalt u c.val ∧
  (coreOf u c.val).run.cc.st = .running ∧
  brkHit u c.val = false ∧
  commitWords u c.val tpl = .ok w ∧
  (vis = true → j.items < j.nitem) ∧
  (vget x.run.runnels e []).length < runnelDepth e ∧
  tpl = some ((hx (coreOf u c.val).run.cc.leader r1).toNat % 64) ∧
  Fetches s c.val (.qcommitT rd r1) len u :=
  ⟨tplAt, fetched tplAt, 0, 10, 0, 4, some 0, nopD, ⟨⟨by decide +kernel, by decide +kernel⟩, by decide +kernel, by decide +kernel, ok_of (by decide +kernel), by decide +kernel, by decide +kernel, by decide +kernel, fetches (by decide +kernel) (by decide +kernel) (by decide +kernel)⟩⟩

theorem wit_CommitsAndEnds_2 : ∃ s : State, ∃ u : State, ∃ c : Fin 16, ∃ rd : Nat, ∃ r1 : Nat, ∃ len : Nat, ∃ tpl : Option Nat, ∃ w : List Word,
  let x := coreOf u c.val
  let j := jobOf u (ctxOf x).slot
  let e := wbits w 0 8 3
  let vis := bitOf (w.getD 0 0).toNat 11
  NoHalt u c.val ∧
  (coreOf u c.val).run.cc.st = .running ∧
  brkHit u c.val = false ∧
  commitWords u c.val tpl = .ok w ∧
  (vis = true → j.items < j.nitem) ∧
  (vget x.run.runnels e []).length < runnelDepth e ∧
  tpl = none ∧
  Fetches s c.val (.qcommit rd) len u :=
  ⟨plainAt, fetched plainAt, 0, 10, 0, 4, none, List.replicate 16 0, ⟨⟨by decide +kernel, by decide +kernel⟩, by decide +kernel, by decide +kernel, ok_of (by decide +kernel), by decide +kernel, by decide +kernel, rfl, fetches (by decide +kernel) (by decide +kernel) (by decide +kernel)⟩⟩

theorem wit_CommitsAndEnds_3 : ∃ s : State, ∃ u : State, ∃ c : Fin 16, ∃ rd : Nat, ∃ len : Nat, ∃ w : List Word,
  let x := coreOf u c.val
  let j := jobOf u (ctxOf x).slot
  Fetches s c.val (.qcommit rd) len u ∧
  brkHit u c.val = false ∧
  commitWords u c.val none = .ok w ∧
  ((bitOf (w.getD 0 0).toNat 11 = true → j.items < j.nitem)) ∧
  runnelDepth (wbits w 0 8 3) ≤ (vget x.run.runnels (wbits w 0 8 3) []).length :=
  ⟨fullAt, fetched fullAt, 0, 10, 4, List.replicate 16 0, ⟨fetches (by decide +kernel) (by decide +kernel) (by decide +kernel), by decide +kernel, rfl, by decide +kernel, by decide +kernel⟩⟩

theorem wit_CommitsAndEnds_4 : ∃ s : State, ∃ u : State, ∃ c : Fin 16, ∃ rd : Nat, ∃ r1 : Nat, ∃ len : Nat, ∃ n : Nat, ∃ w : List Word,
  Fetches s c.val (.qcommitT rd r1) len u ∧
  brkHit u c.val = false ∧
  commitWords u c.val (some ((hx (coreOf u c.val).run.cc.leader r1).toNat % 64)) = .error (n, w) :=
  ⟨noTpl, fetched noTpl, 0, 10, 0, 4, 5, [], ⟨fetches (by decide +kernel) (by decide +kernel) (by decide +kernel), by decide +kernel, rfl⟩⟩

theorem wit_CommitsAndEnds_5 : ∃ s : State, ∃ u : State, ∃ c : Fin 16, ∃ len : Nat,
  Fetches s c.val .ecall len u ∧
  hx (coreOf s c.val).run.cc.leader 17 = 0 :=
  ⟨endAt, fetched endAt, 0, 4, ⟨fetches (by decide +kernel) (by decide +kernel) (by decide +kernel), by decide +kernel⟩⟩

theorem wit_CommitsAndEnds_6 : ∃ s : State, ∃ u : State, ∃ c : Fin 16, ∃ len : Nat,
  Fetches s c.val .ecall len u ∧
  hx (coreOf s c.val).run.cc.leader 17 = 1 :=
  ⟨abortAt, fetched abortAt, 0, 4, ⟨fetches (by decide +kernel) (by decide +kernel) (by decide +kernel), by decide +kernel⟩⟩

/-! EnginesIssueReadyHeads -/

theorem wit_EnginesIssueReadyHeads_1 : ∃ i : Instr, ∃ s : State, ∃ c : Nat, ∃ eng : Nat, ∃ opc : Nat, ∃ work : Acc → Flight → EngM Flight,
  engineCmd i = some (c, eng, opc, work) ∧
  (headState s c eng opc = .absent ∨ headState s c eng opc = .blocked) :=
  ⟨.mm 3, rdy, 3, 0, 0x01, mePassLoad, ⟨rfl, .inl (by decide +kernel)⟩⟩

theorem wit_EnginesIssueReadyHeads_2 : ∃ i : Instr, ∃ s : State, ∃ c eng opc : Nat, ∃ work : Acc → Flight → EngM Flight, ∃ d : QDesc, ∃ code,
  engineCmd i = some (c, eng, opc, work) ∧
  headState s c eng opc = .bad d code :=
  ⟨.nop 0 4, heads 4 { nopQ 0 0 with par := 1 } id, 0, 4, 0, nopWork, { nopQ 0 0 with par := 1 }, .runnelParity, ⟨rfl, by decide +kernel⟩⟩


theorem wit_EnginesIssueReadyHeads_3 : ∃ i : Instr, ∃ s : State, ∃ c eng opc : Nat, ∃ work : Acc → Flight → EngM Flight, ∃ d : QDesc, ∃ g v,
  engineCmd i = some (c, eng, opc, work) ∧
  headState s c eng opc = .ready d ∧
  engRun (work ⟨c, (headFl c eng d s).eng, (headFl c eng d s).d.w⟩ (headFl c eng d s)) (atWork c eng d s) = (.ok g, v) :=
  ⟨.fill 0, heads 3 fillD id, 0, 3, 0x61, deFill, fillD, okOf (engRun (deFill ⟨0, 3, fillD.w⟩ (headFl 0 3 fillD (heads 3 fillD id))) (atWork 0 3 fillD (heads 3 fillD id))), _, ⟨rfl, by decide +kernel, pair_ok (by decide +kernel)⟩⟩


theorem wit_EnginesIssueReadyHeads_4 : ∃ i : Instr, ∃ s : State, ∃ c eng opc : Nat, ∃ work : Acc → Flight → EngM Flight, ∃ d : QDesc, ∃ code k v,
  engineCmd i = some (c, eng, opc, work) ∧
  headState s c eng opc = .ready d ∧
  engRun (work ⟨c, (headFl c eng d s).eng, (headFl c eng d s).d.w⟩ (headFl c eng d s)) (atWork c eng d s) = (.error (.fault code k), v) :=
  ⟨.mm 0, heads 0 (passD 1 0x1000000) id, 0, 0, 1, mePassLoad, passD 1 0x1000000, .meShape, 0, _, ⟨rfl, by decide +kernel, pair_err (by decide +kernel)⟩⟩


theorem wit_EnginesIssueReadyHeads_5 : ∃ i : Instr, ∃ s : State, ∃ c eng opc : Nat, ∃ work : Acc → Flight → EngM Flight, ∃ d : QDesc, ∃ v,
  engineCmd i = some (c, eng, opc, work) ∧
  headState s c eng opc = .ready d ∧
  engRun (work ⟨c, (headFl c eng d s).eng, (headFl c eng d s).d.w⟩ (headFl c eng d s)) (atWork c eng d s) = (.error .wait, v) :=
  ⟨.fill 0, fullRing, 0, 3, 0x61, deFill, fillD, _, ⟨rfl, by decide +kernel, pair_err (by decide +kernel)⟩⟩


theorem wit_EnginesIssueReadyHeads_6 : ∃ s : State, ∃ c : Fin 16, ∃ eng : Fin 5, ∃ opc : Nat, ∃ d : QDesc,
  headState s c.val eng.val opc = .ready d :=
  ⟨nopHead 0 0, 0, 4, 0, nopQ 0 0, by decide +kernel⟩

theorem wit_EnginesIssueReadyHeads_7 : ∃ s : State, ∃ c : Fin 16, ∃ eng : Fin 5, ∃ opc : Nat, ∃ d : QDesc,
  headState s c.val eng.val opc = .ready d ∧
  (waitsOf d.w).all (fun e => e.1 != 70) = true ∧
  (setsOf d.w false).all (fun e => e.1 != 70) = true :=
  ⟨nopHead 0x247 0x120, 0, 4, 0, nopQ 0x247 0x120, by
  refine ⟨?_, ?_, ?_⟩ <;> decide +kernel⟩

theorem wit_EnginesIssueReadyHeads_8 : ∃ s : State, ∃ c : Fin 16, ∃ eng : Fin 5, ∃ opc : Nat, ∃ d : QDesc,
  headState s c.val eng.val opc = .ready d ∧
  waitsOf d.w = [(71, 2)] ∧
  (setsOf d.w false).all (fun e => e.1 != 71) = true :=
  ⟨nopHead 0x247 0, 0, 4, 0, nopQ 0x247 0, by
  refine ⟨?_, ?_, ?_⟩ <;> decide +kernel⟩

theorem wit_EnginesIssueReadyHeads_9 : ∃ s : State, ∃ c : Fin 16, ∃ eng : Fin 5, ∃ opc : Nat, ∃ d : QDesc,
  headState s c.val eng.val opc = .ready d ∧
  setsOf d.w false = [(71, 255)] ∧
  (waitsOf d.w).all (fun e => e.1 != 71) = true ∧
  semOwned s (ctxOf (coreOf s c.val)).part 71 = true ∧
  semGet s c.val 71 + 255 ≤ 65535 :=
  ⟨nopHead 0 0xFF47, 0, 4, 0, nopQ 0 0xFF47, by
  refine ⟨?_, ?_, ?_, ?_, ?_⟩ <;> decide +kernel⟩

theorem wit_EnginesIssueReadyHeads_10 : ∃ s : State, ∃ c : Fin 16, ∃ eng : Fin 5, ∃ d : QDesc,
  Issues s c.val eng.val 0 d :=
  ⟨nopHead 0 0, 0, 4, nopQ 0 0, ⟨by decide +kernel, by decide +kernel, by decide +kernel⟩⟩

/-! PassesAndTheirSites -/

theorem wit_PassesAndTheirSites_1 : ∃ s : State, ∃ c : Fin 16, ∃ d : QDesc,
  let p := passOf d.w
  Issues s c.val 0 1 d ∧
  passFault s c.val p = none ∧
  passEmpty p = false ∧
  p.wsrc = false ∧
  0 < p.k ∧
  WeightsOpen s c.val d.w p.wtOff (weightLines p) ∧
  WeightsOpen s c.val d.w p.paramOff (checkBytes p / 64 + (if p.init = 1 then 4 else 0)) ∧
  NoErrors (coreOf s c.val) :=
  ⟨mmAt, 0, passD 1 0x1010000, ⟨⟨by decide +kernel, by decide +kernel, by decide +kernel⟩, by decide +kernel, by decide +kernel, by decide +kernel, by decide +kernel, ⟨by decide +kernel, noRings (by decide +kernel)⟩, ⟨by decide +kernel, noRings (by decide +kernel)⟩, ⟨fun _ => rfl, fun _ => rfl⟩⟩⟩


theorem wit_PassesAndTheirSites_2 : ∃ s : State, ∃ c : Fin 16, ∃ d : QDesc,
  let p := passOf d.w
  Issues s c.val 0 2 d ∧
  passFault s c.val p = none ∧
  passEmpty p = false ∧
  p.wsrc = false ∧
  0 < p.k ∧
  WeightsOpen s c.val d.w p.wtOff (weightLines p) ∧
  WeightsOpen s c.val d.w p.paramOff (checkBytes p / 64 + (if p.init = 1 then 4 else 0)) ∧
  NoErrors (coreOf s c.val) :=
  ⟨mmpAt, 0, passD 2 0x1010000, ⟨⟨by decide +kernel, by decide +kernel, by decide +kernel⟩, by decide +kernel, by decide +kernel, by decide +kernel, by decide +kernel, ⟨by decide +kernel, noRings (by decide +kernel)⟩, ⟨by decide +kernel, noRings (by decide +kernel)⟩, ⟨fun _ => rfl, fun _ => rfl⟩⟩⟩


theorem wit_PassesAndTheirSites_3 : ∃ s : State, ∃ c : Fin 16, ∃ d : QDesc, ∃ code,
  Issues s c.val 0 1 d ∧
  passFault s c.val (passOf d.w) = some code :=
  ⟨heads 0 (passD 1 0x1000000) id, 0, passD 1 0x1000000, _, ⟨⟨by decide +kernel, by decide +kernel, by decide +kernel⟩, rfl⟩⟩


theorem wit_PassesAndTheirSites_4 : ∃ s : State, ∃ c : Fin 16, ∃ d : QDesc, ∃ code,
  Issues s c.val 0 2 d ∧
  passFault s c.val (passOf d.w) = some code :=
  ⟨heads 0 (passD 2 0x1010000) id, 0, passD 2 0x1010000, _, ⟨⟨by decide +kernel, by decide +kernel, by decide +kernel⟩, rfl⟩⟩


theorem wit_PassesAndTheirSites_5 : ∃ s : State, ∃ c : Fin 16, ∃ f : Flight,
  (coreOf s c.val).run.flight.find? (fun f => f.eng == 0 && f.loading) = some f ∧
  f.failed = none ∧
  isReady s = true ∧
  (coreOf s c.val).active.isSome = true ∧
  (ctxOf (coreOf s c.val)).st = .running :=
  ⟨flying zeroFl, 0, zeroFl, by
  refine ⟨?_, ?_, ?_, ?_, ?_⟩ <;> decide +kernel⟩

theorem wit_PassesAndTheirSites_6 : ∃ s : State, ∃ c : Fin 16,
  ((coreOf s c.val).run.flight.all (fun f => !(f.eng == 0 && f.loading)) = true ∨ isReady s = false ∨
      (ctxOf (coreOf s c.val)).st ≠ .running ∨
      (∃ f, (coreOf s c.val).run.flight.find? (fun f => f.eng == 0 && f.loading) = some f ∧ f.failed.isSome = true)) :=
  ⟨rdy, 15, by decide +kernel⟩

theorem wit_PassesAndTheirSites_7 : ∃ s : State, ∃ c : Fin 16,
  ((coreOf s c.val).run.flight.all (fun f => !(f.eng == 0 && f.loading)) = true ∨ isReady s = false ∨
      (ctxOf (coreOf s c.val)).st ≠ .running ∨
      (∃ f, (coreOf s c.val).run.flight.find? (fun f => f.eng == 0 && f.loading) = some f ∧ f.failed.isSome = true)) :=
  ⟨flying { zeroFl with failed := some (1, 1) }, 0, .inr (.inr (.inr ⟨{ zeroFl with failed := some (1, 1) }, by decide +kernel, by decide +kernel⟩))⟩

theorem wit_PassesAndTheirSites_8 : ∃ a : Acc, ∃ p : Pass, ∃ tile : List (List Byte), ∃ bias : List (List Byte), ∃ q : Nat, ∃ m : Nat, ∃ els : List Nat, ∃ s : State, ∃ t : State,
  a.c < 16 ∧
  p.init < 3 ∧
  engRun (meSite a p tile bias q m els) s = (.ok (), t) :=
  ⟨accA, passA, tileA, [], 0, 0, [3, 0], flying zeroFl, (engRun (meSite accA passA tileA [] 0 0 [3, 0]) (flying zeroFl)).2, ⟨by decide +kernel, by decide +kernel, pair_ok (by decide +kernel)⟩⟩

theorem wit_PassesAndTheirSites_9 : ∃ a : Acc, ∃ p : Pass, ∃ tile : List (List Byte), ∃ bias : List (List Byte), ∃ q : Nat, ∃ m : Nat, ∃ els : List Nat, ∃ s : State, ∃ t : State,
  a.c < 16 ∧
  p.init < 3 ∧
  engRun (meSite a p tile bias q m els) s = (.ok (), t) :=
  ⟨accA, passA, tileA, [], 0, 0, [0, 0], flying zeroFl, (engRun (meSite accA passA tileA [] 0 0 [0, 0]) (flying zeroFl)).2, ⟨by decide +kernel, by decide +kernel, pair_ok (by decide +kernel)⟩⟩

theorem wit_PassesAndTheirSites_10 : ∃ s : State, ∃ c : Fin 16, ∃ f : Flight,
  let x := coreOf s c.val
  let p := passOf f.d.w
  let base := (ctxOf x).cisBase * 1024
  x.run.flight = [f] ∧
  f.eng = 0 ∧
  f.loading = true ∧
  f.failed = none ∧
  isReady s = true ∧
  x.active.isSome = true ∧
  (ctxOf x).st = .running ∧
  x.feedBad = none ∧
  p.mmp = false ∧
  p.wsrc = false ∧
  p.k = 0 ∧
  p.init = 2 ∧
  p.epi = false ∧
  ((∀ m < p.m, base + passRow p 0 m + p.n ≤ (ctxOf x).cisBound * 1024 ∧
      ∀ n < p.n, declared f.d.w true ((passRow p 0 m + n) / 16) true = true)) :=
  ⟨flying zeroFl, 0, zeroFl, by
  refine ⟨?_, ?_, ?_, ?_, ?_, ?_, ?_, ?_, ?_, ?_, ?_, ?_, ?_, ?_⟩ <;> decide +kernel⟩

/-! DmaResults -/

theorem wit_DmaResults_1 : ∃ s : State, ∃ c : Fin 16, ∃ d : QDesc,
  let x := coreOf s c.val
  let u := wbits d.w 11 0 17
  let n := wbits d.w 12 0 18
  Issues s c.val 3 0x61 d ∧
  wbits d.w 0 12 1 = 0 ∧
  LinesOpen x d.w u n true :=
  ⟨heads 3 fillD id, 0, fillD, ⟨⟨by decide +kernel, by decide +kernel, by decide +kernel⟩, by decide +kernel, ⟨by decide +kernel, noRings (by decide +kernel)⟩⟩⟩

theorem wit_DmaResults_2 : ∃ s : State, ∃ c : Fin 16, ∃ d : QDesc,
  let x := coreOf s c.val
  let u := wbits d.w 11 0 17
  let v := wbits d.w 12 0 17
  let n := wbits d.w 13 0 18
  Issues s c.val 3 0x62 d ∧
  LinesOpen x d.w u n false ∧
  LinesOpen x d.w v n true ∧
  (∀ k, smGet upZero x.basinUp k = 0) :=
  ⟨heads 3 copyD id, 0, copyD, ⟨⟨by decide +kernel, by decide +kernel, by decide +kernel⟩, ⟨by decide +kernel, noRings (by decide +kernel)⟩, ⟨by decide +kernel, noRings (by decide +kernel)⟩, fun _ => rfl⟩⟩

theorem wit_DmaResults_3 : ∃ s : State, ∃ c : Fin 16, ∃ d : QDesc,
  let x := coreOf s c.val
  let q := xferOf d.w
  let n := q.len / 64
  Issues s c.val 3 0x60 d ∧
  opRangeOk 64 d.w = true ∧
  q.ssp = 0 ∧
  q.dsp = 5 ∧
  LinesOpen x d.w (q.saddr / 64) n false ∧
  (∀ k, smGet upZero x.basinUp k = 0) :=
  ⟨heads 3 sendOutD id, 0, sendOutD, ⟨⟨by decide +kernel, by decide +kernel, by decide +kernel⟩, by decide +kernel, by decide +kernel, by decide +kernel, ⟨by decide +kernel, noRings (by decide +kernel)⟩, fun _ => rfl⟩⟩

theorem wit_DmaResults_4 : ∃ s : State, ∃ c : Fin 16, ∃ d : QDesc,
  let x := coreOf s c.val
  let tx := ctxOf x
  let u := wbits d.w 11 0 17
  let blk := basinBytes x ((taskLine x + u) * 64) 128
  let boxes := field blk 0 1 == 1
  Issues s c.val 3 0x64 d ∧
  (jobOf s tx.slot).st = .running ∧
  LinesOpen x d.w u 2 false ∧
  (∀ k, smGet upZero x.basinUp k = 0) ∧
  (boxes = true → (jobOf s tx.slot).items < (jobOf s tx.slot).nitem) :=
  ⟨heads 3 selD id, 0, selD, ⟨⟨by decide +kernel, by decide +kernel, by decide +kernel⟩, by decide +kernel, ⟨by decide +kernel, noRings (by decide +kernel)⟩, fun _ => rfl, by decide +kernel⟩⟩

theorem wit_DmaResults_5 : ∃ s : State, ∃ c : Fin 16, ∃ d : QDesc, ∃ b : List Byte, ∃ v : State, ∃ w : State, ∃ ls : List (List Byte),
  let x := coreOf s c.val
  let part := (ctxOf x).part
  let src := wbits d.w 11 0 32 + wbits d.w 12 0 16 * 2 ^ 32
  let crct := wbits d.w 13 0 32 + wbits d.w 14 0 16 * 2 ^ 32
  let dst := wbits d.w 14 16 11
  let blk := (ctxOf x).basinBase + dst
  let u := semArrive c.val (issueCycle c.val 3 d s).2
  Issues s c.val 3 0x63 d ∧
  wbits d.w 12 16 12 = 1 ∧
  blk + 1 ≤ (ctxOf x).basinBound ∧
  wloadWindow x part blk 1 = true ∧
  iovaReadBytes (agentDe c.val) part crct 4 u = (.ok b, v) ∧
  ctxOf (coreOf v c.val) = ctxOf x ∧
  engRun (wloadLines ⟨c.val, 3, d.w⟩ part src (64 * dst) blk (leNat b) 0 64) v = (.ok ls, w) ∧
  (coreOf w c.val).run.cc.pendCommit = none ∧
  crc32c ls.flatten = leNat b :=
  ⟨wloadAt 0x98F94189, 0, wloadD, leBytes 4 0x98F94189, wloadCrc 0x98F94189, (wloadRun 0x98F94189).2, wloadLs, ⟨⟨by decide +kernel, by decide +kernel, by decide +kernel⟩, by decide +kernel, by decide +kernel, by decide +kernel, pair_ok (by decide +kernel), by decide +kernel, pair_ok (by decide +kernel), by decide +kernel, crcWload.trans (by decide +kernel)⟩⟩

theorem wit_DmaResults_6 : ∃ s : State, ∃ c : Fin 16, ∃ d : QDesc, ∃ b : List Byte, ∃ v : State, ∃ w : State, ∃ ls : List (List Byte),
  let x := coreOf s c.val
  let part := (ctxOf x).part
  let src := wbits d.w 11 0 32 + wbits d.w 12 0 16 * 2 ^ 32
  let crct := wbits d.w 13 0 32 + wbits d.w 14 0 16 * 2 ^ 32
  let dst := wbits d.w 14 16 11
  let blk := (ctxOf x).basinBase + dst
  let u := semArrive c.val (issueCycle c.val 3 d s).2
  Issues s c.val 3 0x63 d ∧
  wbits d.w 12 16 12 = 1 ∧
  blk + 1 ≤ (ctxOf x).basinBound ∧
  wloadWindow x part blk 1 = true ∧
  iovaReadBytes (agentDe c.val) part crct 4 u = (.ok b, v) ∧
  ctxOf (coreOf v c.val) = ctxOf x ∧
  engRun (wloadLines ⟨c.val, 3, d.w⟩ part src (64 * dst) blk (leNat b) 0 64) v = (.ok ls, w) ∧
  (coreOf w c.val).run.cc.pendCommit = none ∧
  crc32c ls.flatten ≠ leNat b :=
  ⟨wloadAt 0, 0, wloadD, leBytes 4 0, wloadCrc 0, (wloadRun 0).2, wloadLs, ⟨⟨by decide +kernel, by decide +kernel, by decide +kernel⟩, by decide +kernel, by decide +kernel, by decide +kernel, pair_ok (by decide +kernel), by decide +kernel, pair_ok (by decide +kernel), by decide +kernel, fun h => absurd (crcWload.symm.trans h) (by decide +kernel)⟩⟩

theorem wit_DmaResults_7 : ∃ s : State, ∃ c : Fin 16, ∃ d : QDesc,
  Issues s c.val 3 0x65 d ∧
  opRangeOk 64 d.w = true :=
  ⟨heads 3 ringsetD id, 0, ringsetD, ⟨⟨by decide +kernel, by decide +kernel, by decide +kernel⟩, by decide +kernel⟩⟩

theorem wit_DmaResults_8 : ∃ s : State, ∃ c : Fin 16, ∃ f : Flight, ∃ data : List Byte,
  let x := coreOf s c.val
  let q := xferOf f.d.w
  let k := 64 * f.pos
  let n := min 64 (q.len / 64 - k)
  hostFlight x = some f ∧
  isReady s = true ∧
  ((ctxOf x).st = .running ∨ (ctxOf x).st = .draining) ∧
  x.stop = none ∧
  codeAdmits (slotCode s 0x22) (ctxOf x).part = true ∧
  openTurn s 2 (ctxOf x).part (pieceWaits s) = true ∧
  (ownerOf (partOf s (ctxOf x).part)).isSome = true ∧
  q.ssp = 4 ∧
  q.dsp = 0 ∧
  q.daddr % 64 = 0 ∧
  LinesOpen x f.d.w (q.daddr / 64 + k) n true :=
  ⟨flying hostFl, 0, hostFl, [1, 2, 3], ⟨by decide +kernel, by decide +kernel, .inl (by decide +kernel), by decide +kernel, by decide +kernel, by decide +kernel, by decide +kernel, by decide +kernel, by decide +kernel, by decide +kernel, ⟨by decide +kernel, noRings (by decide +kernel)⟩⟩⟩

theorem wit_DmaResults_9 : ∃ s : State, ∃ c : Fin 16, ∃ f : Flight,
  hostFlight (coreOf s c.val) = some f ∧
  codeAdmits (slotCode s 0x22) (ctxOf (coreOf s c.val)).part = false :=
  ⟨{ flying hostFl with budget := [(odKey 0x2500 0x22, List.replicate 32 0x33)] }, 0, hostFl, by
  refine ⟨?_, ?_⟩ <;> decide +kernel⟩

theorem wit_DmaResults_10 : ∃ s : State, ∃ c : Fin 16, ∃ f : Flight,
  hostFlight (coreOf s c.val) = some f ∧
  isReady s = true ∧
  codeAdmits (slotCode s 0x22) (ctxOf (coreOf s c.val)).part = true ∧
  ((ctxOf (coreOf s c.val)).st = .running ∨ (ctxOf (coreOf s c.val)).st = .draining) ∧
  (coreOf s c.val).stop = none ∧
  openTurn s 2 (ctxOf (coreOf s c.val)).part (pieceWaits s) = true ∧
  (ownerOf (partOf s (ctxOf (coreOf s c.val)).part)).isSome = true ∧
  (xferOf f.d.w).ssp = 4 :=
  ⟨flying hostFl, 0, hostFl, ⟨by decide +kernel, by decide +kernel, by decide +kernel, .inl (by decide +kernel), by decide +kernel, by decide +kernel, by decide +kernel, by decide +kernel⟩⟩

/-! ForwardChannels -/

theorem wit_ForwardChannels_1 : ∃ s : State, ∃ c : Fin 16, ∃ d : QDesc, ∃ n : Nat, ∃ g : Ring,
  Issues s c.val 4 0x80 d ∧
  (prBasin (recOf s (ctxOf (coreOf s c.val)).part) (wbits d.w 11 3 4)).2 ≤ (prBasin (recOf s (ctxOf (coreOf s c.val)).part) (wbits d.w 11 3 4)).1 :=
  ⟨noBasin (heads 4 setupD id), 0, setupD, 0, ringA, ⟨⟨by decide +kernel, by decide +kernel, by decide +kernel⟩, by decide +kernel⟩⟩

theorem wit_ForwardChannels_2 : ∃ s : State, ∃ c : Fin 16, ∃ d : QDesc, ∃ n : Nat, ∃ g : Ring,
  Issues s c.val 4 0x80 d ∧
  (prBasin (recOf s (ctxOf (coreOf s c.val)).part) (wbits d.w 11 3 4)).1 < (prBasin (recOf s (ctxOf (coreOf s c.val)).part) (wbits d.w 11 3 4)).2 ∧
  ctxByTag s (wbits d.w 11 3 4) (ctxOf (coreOf s c.val)).part (ctxOf (coreOf s c.val)).taggen = some n ∧
  vget (ctxRunOf s (wbits d.w 11 3 4) n).rings (wbits d.w 11 7 4) none = some g ∧
  g.prod = 4 ∧
  ringInRegion s (ctxOf (coreOf s c.val)).part (wbits d.w 11 3 4) ((tctx (coreOf s (wbits d.w 11 3 4)) n).basinBase * 64) g = true :=
  ⟨peered ringA (heads 4 setupD id), 0, setupD, 2, ringA, ⟨⟨by decide +kernel, by decide +kernel, by decide +kernel⟩, by decide +kernel, by decide +kernel, by decide +kernel, by decide +kernel, by decide +kernel⟩⟩

theorem wit_ForwardChannels_3 : ∃ s : State, ∃ c : Fin 16, ∃ d : QDesc,
  let x := coreOf s c.val
  let ch := wbits d.w 11 0 3
  let u := wbits d.w 12 0 17
  let w := vget x.run.fwd ch {}
  Issues s c.val 4 0x81 d ∧
  LinesOpen x d.w u w.slotl false ∧
  (∀ k, smGet upZero x.basinUp k = 0) :=
  ⟨heads 4 sendD withChan, 0, sendD, ⟨⟨by decide +kernel, by decide +kernel, by decide +kernel⟩, ⟨by decide +kernel, noRings (by decide +kernel)⟩, fun _ => rfl⟩⟩

theorem wit_ForwardChannels_4 : ∃ s : State, ∃ l : Landing, ∃ rest : List Landing,
  s.fab.landing = l :: rest ∧
  isReady s = true ∧
  l.src < 16 ∧
  l.dst < 16 ∧
  (∀ r ∈ s.fab.remote, remBasin r = true → r.src = l.src → r.dst = l.dst → l.ord ≤ r.ord) ∧
  replica s l.dst ≤ l.ts + 1000000 ∧
  ctxByTag s l.dst l.part l.taggen = none :=
  ⟨landing rdy, landA, [], by
  refine ⟨?_, ?_, ?_, ?_, ?_, ?_, ?_⟩ <;> decide +kernel⟩

theorem wit_ForwardChannels_5 : ∃ s : State, ∃ l : Landing, ∃ rest : List Landing,
  s.fab.landing = l :: rest ∧
  isReady s = true ∧
  l.src < 16 ∧
  l.dst < 16 ∧
  (∀ r ∈ s.fab.remote, remBasin r = true → r.src = l.src → r.dst = l.dst → l.ord ≤ r.ord) ∧
  replica s l.dst ≤ l.ts + 1000000 ∧
  ctxByTag s l.dst l.part l.taggen = some 2 ∧
  vget (ctxRunOf s l.dst 2).rings l.ring none = some ringA ∧
  ringA.feeder ≠ some (l.src, l.ch, l.setup) :=
  ⟨landing (peered ringA prt), landA, [], by
  refine ⟨?_, ?_, ?_, ?_, ?_, ?_, ?_, ?_, ?_⟩ <;> decide +kernel⟩

theorem wit_ForwardChannels_6 : ∃ s : State, ∃ l : Landing, ∃ rest : List Landing,
  s.fab.landing = l :: rest ∧
  isReady s = true ∧
  l.src < 16 ∧
  l.dst < 16 ∧
  (∀ r ∈ s.fab.remote, remBasin r = true → r.src = l.src → r.dst = l.dst → l.ord ≤ r.ord) ∧
  replica s l.dst ≤ l.ts + 1000000 ∧
  ctxByTag s l.dst l.part l.taggen = some 2 ∧
  vget (ctxRunOf s l.dst 2).rings l.ring none = some { ringA with feeder := some (0, 7, 1) } ∧
  flightOf s l.src l.commit l.taggen l.part = some flight0 ∧
  (prBasin (recOf s l.part) l.dst).1 * 64 ≤ (tctx (coreOf s l.dst) 2).basinBase * 64 + ringA.base + l.slot * ringA.slotl + l.k ∧
  (tctx (coreOf s l.dst) 2).basinBase * 64 + ringA.base + l.slot * ringA.slotl + l.k < (prBasin (recOf s l.part) l.dst).2 * 64 ∧
  winOf (coreOf s l.dst) (((tctx (coreOf s l.dst) 2).basinBase * 64 + ringA.base + l.slot * ringA.slotl + l.k) / 64) = none :=
  ⟨landing (peered { ringA with feeder := some (0, 7, 1) } (flying flight0)), landA, [], by
  refine ⟨?_, ?_, ?_, ?_, ?_, ?_, ?_, ?_, ?_, ?_, ?_, ?_⟩ <;> decide +kernel⟩

theorem wit_ForwardChannels_7 : ∃ s : State, ∃ l : Landing,
  s.fab.landing = [l] ∧
  (∃ r ∈ s.fab.remote, remBasin r = true ∧ r.src = l.src ∧ r.dst = l.dst ∧ r.ord < l.ord) :=
  ⟨{ rdy with fab := { landing := [{ landA with ord := 1 }], remote := [⟨0, 3, 5, 0, 0, 15, .write 0 (List.replicate 64 7), 0, 0, 0⟩] } }, { landA with ord := 1 }, ⟨by decide +kernel, ⟨⟨0, 3, 5, 0, 0, 15, .write 0 (List.replicate 64 7), 0, 0, 0⟩, by decide +kernel⟩⟩⟩

theorem wit_ForwardChannels_8 : ∃ s : State, ∃ l : Landing, ∃ rest : List Landing,
  s.fab.landing = l :: rest ∧
  isReady s = true ∧
  (∀ r ∈ s.fab.remote, remBasin r = true → r.src = l.src → r.dst = l.dst → l.ord ≤ r.ord) ∧
  l.ts + 1000000 < replica s l.dst :=
  ⟨tbOf (landing rdy) (fun x => { x with master := 1000001 }), landA, [], by
  refine ⟨?_, ?_, ?_, ?_⟩ <;> decide +kernel⟩

theorem wit_ForwardChannels_9 : ∃ s : State, ∃ k : Credit, ∃ rest : List Credit,
  s.fab.credit = k :: rest ∧
  isReady s = true ∧
  k.ts + 1000000 < replica s k.dst :=
  ⟨tbOf (credited rdy 1) (fun x => { x with master := 1000001 }), ⟨0, 7, 0, 0, 1, 0⟩, [], by
  refine ⟨?_, ?_, ?_⟩ <;> decide +kernel⟩

theorem wit_ForwardChannels_10 : ∃ s : State, ∃ k : Credit, ∃ rest : List Credit, ∃ n : Nat,
  s.fab.credit = k :: rest ∧
  isReady s = true ∧
  k.dst < 16 ∧
  replica s k.dst ≤ k.ts + 1000000 ∧
  ctxByTag s k.dst k.part k.taggen = some n ∧
  (vget (ctxRunOf s k.dst n).fwd k.ch {}).valid = true ∧
  (vget (ctxRunOf s k.dst n).fwd k.ch {}).setup = k.setup :=
  ⟨credited (busy fun x => { x with run := withChan x.run }) 1, ⟨0, 7, 0, 0, 1, 0⟩, [], 0, by
  refine ⟨?_, ?_, ?_, ?_, ?_, ?_, ?_⟩ <;> decide +kernel⟩

theorem wit_ForwardChannels_11 : ∃ s : State, ∃ k : Credit, ∃ rest : List Credit, ∃ n : Nat,
  s.fab.credit = k :: rest ∧
  isReady s = true ∧
  k.dst < 16 ∧
  replica s k.dst ≤ k.ts + 1000000 ∧
  ctxByTag s k.dst k.part k.taggen = some n ∧
  (vget (ctxRunOf s k.dst n).fwd k.ch {}).setup ≠ k.setup :=
  ⟨credited (busy fun x => { x with run := withChan x.run }) 2, ⟨0, 7, 0, 0, 2, 0⟩, [], 0, by
  refine ⟨?_, ?_, ?_, ?_, ?_, ?_⟩ <;> decide +kernel⟩

/-! DescriptorsRetire -/

theorem wit_DescriptorsRetire_1 : ∃ s : State, ∃ c : Fin 16, ∃ eng : Fin 5, ∃ f : Flight,
  let x := coreOf s c.val
  let tx := ctxOf x
  isReady s = true ∧
  x.active.isSome = true ∧
  tx.st = .running ∧
  x.stop = none ∧
  (jobOf s tx.slot).st = .running ∧
  (∀ g ∈ x.run.flight, g.eng = eng.val → resumes x g = false) ∧
  retirable x eng.val = some f ∧
  x.run.cc.pendCommit = none ∧
  (haltOf s c.val).stopWait = false ∧
  crossed s islHst (stampOf s c.val 0) = true :=
  ⟨flying doneFl, 0, 3, doneFl, by
  refine ⟨?_, ?_, ?_, ?_, ?_, ?_, ?_, ?_, ?_, ?_⟩ <;> decide +kernel⟩

theorem wit_DescriptorsRetire_2 : ∃ s : State, ∃ c : Fin 16, ∃ eng : Fin 5,
  crossed s islHst (stampOf s c.val 0) = false :=
  ⟨tbOf rdy fun x => { x with master := 7, last := Vector.replicate 24 8 }, 0, 3, by decide +kernel⟩

theorem wit_DescriptorsRetire_3 : ∃ s : State, ∃ c : Fin 16, ∃ eng : Fin 5,
  ((∀ g ∈ (coreOf s c.val).run.flight, g.eng = eng.val → resumes (coreOf s c.val) g = false)) ∧
  retirable (coreOf s c.val) eng.val = none :=
  ⟨rdy, 15, 4, by
  refine ⟨?_, ?_⟩ <;> decide +kernel⟩

/-! VectorAndGatherResults -/

theorem wit_VectorAndGatherResults_1 (o : VeAluOp) (h0 : ∀ f st ns, o.op ≠ .cvt f st ns) (h1 : ∀ z ∈ o.src, z.epoch = false)
    (h2 : Config.veDecode [] = { alu0 := some o, alu1 := none, sf := none, ld := none, st := none, red := none }) :
    ∃ s : State, ∃ c : Fin 16, ∃ d : QDesc,
  let x := coreOf s c.val
  Issues s c.val 1 0x20 d ∧
  wbits d.w 11 0 28 = 0 ∧
  LinesOpen x d.w (wbits d.w 13 0 17) 1 false ∧
  NoErrors x ∧
  (∀ i < 6, veStrmBad x.run i (veStrmOf (taskBytes x (64 * wbits d.w 13 0 17) 48) i) = false) ∧
  Config.veDecode (smGet (fun _ => []) x.ukern (wbits d.w 0 12 12)) =
    { alu0 := some o, alu1 := none, sf := none, ld := none, st := none, red := none } ∧
  (∀ f st ns, o.op ≠ .cvt f st ns) ∧ ∀ z ∈ o.src, z.epoch = false :=
  ⟨heads 1 runD id, 0, runD, ⟨⟨by decide +kernel, by decide +kernel, by decide +kernel⟩, by decide +kernel, ⟨by decide +kernel, noRings (by decide +kernel)⟩, ⟨fun _ => rfl, fun _ => rfl⟩, by decide +kernel, h2, h0, h1⟩⟩


theorem wit_VectorAndGatherResults_2 : ∃ s : State, ∃ c : Fin 16, ∃ d : QDesc,
  let x := coreOf s c.val
  let e0 := 4 * wbits d.w 11 0 16
  let stride := 4 * wbits d.w 11 16 8
  let chn := wbits d.w 12 0 17
  let m := wbits d.w 12 17 13
  let n := wbits d.w 13 17 7
  Issues s c.val 1 0x21 d ∧
  m ≤ 4096 ∧
  n ≤ 64 ∧
  n ≤ stride ∧
  LinesOpen x d.w chn ((16 * m + 63) / 64) false ∧
  NoErrors x ∧
  (∀ i < m, EntriesOpen x d.w (e0 + i * stride) n true) :=
  ⟨heads 1 rescaleD id, 0, rescaleD, ⟨⟨by decide +kernel, by decide +kernel, by decide +kernel⟩, by decide +kernel, by decide +kernel, by decide +kernel, ⟨by decide +kernel, noRings (by decide +kernel)⟩, ⟨fun _ => rfl, fun _ => rfl⟩, fun i h => ⟨by revert i; decide +kernel, by revert i; decide +kernel⟩⟩⟩

theorem wit_VectorAndGatherResults_3 : ∃ s : State, ∃ c : Fin 16, ∃ d : QDesc,
  let x := coreOf s c.val
  let b := lineBytes x (wbits d.w 12 0 17)
  let list := field b 0 4 % 131072 * 64
  let n := field b 4 4 % 1048576
  let hash := field b 8 4 % 131072
  let lines := field b 12 4
  Issues s c.val 2 0x40 d ∧
  n ≤ 1 ∧
  1 ≤ lines ∧
  lines ≤ 65536 ∧
  LinesOpen x d.w (wbits d.w 12 0 17) 1 false ∧
  LinesOpen x d.w hash lines true ∧
  LinesOpen x d.w (list / 64) 1 false ∧
  (list / 64 < hash ∨ hash + lines ≤ list / 64) ∧
  NoErrors x :=
  ⟨hashAt, 0, hashD, ⟨⟨by decide +kernel, by decide +kernel, by decide +kernel⟩, by decide +kernel, by decide +kernel, by decide +kernel, ⟨by decide +kernel, noRings (by decide +kernel)⟩, ⟨by decide +kernel, noRings (by decide +kernel)⟩, ⟨by decide +kernel, noRings (by decide +kernel)⟩, by decide +kernel, ⟨fun _ => rfl, fun _ => rfl⟩⟩⟩

theorem wit_VectorAndGatherResults_4 : ∃ s : State, ∃ c : Fin 16, ∃ d : QDesc,
  let x := coreOf s c.val
  let g := geomOf (wbits d.w 11 0 11)
  let ib := lineBytes x (wbits d.w 12 0 17)
  let out := wbits d.w 13 0 17
  let ob := lineBytes x out
  let ilist := field ib 0 4 % 131072
  let olist := field ob 0 4 % 131072
  let lines := field ob 12 4
  let k := leNat (taskBytes x (64 * ilist) 8) % 2 ^ 48
  let q := coordOf k
  let key := coordKey ⟨q.x / g.sx, q.y / g.sy, q.z / g.sz⟩
  let home := field ob 8 4 % 131072 + hashHome key lines % lines
  Issues s c.val 2 0x41 d ∧
  g.mode = 2 ∧
  field ib 4 4 % 1048576 = 1 ∧
  1 ≤ lines ∧
  lines ≤ 65536 ∧
  1 ≤ field ob 16 4 % 1048576 ∧
  LinesOpen x d.w (wbits d.w 12 0 17) 1 false ∧
  LinesOpen x d.w out 1 true ∧
  LinesOpen x d.w ilist 1 false ∧
  LinesOpen x d.w olist 1 true ∧
  LinesOpen x d.w home 1 true ∧
  lineBytes x home = zeros 64 ∧
  home ≠ olist ∧
  home ≠ out ∧
  olist ≠ out ∧
  NoErrors x :=
  ⟨outAt, 0, outD, ⟨⟨by decide +kernel, by decide +kernel, by decide +kernel⟩, by decide +kernel, by decide +kernel, by decide +kernel, by decide +kernel, by decide +kernel, ⟨by decide +kernel, noRings (by decide +kernel)⟩, ⟨by decide +kernel, noRings (by decide +kernel)⟩, ⟨by decide +kernel, noRings (by decide +kernel)⟩, ⟨by decide +kernel, noRings (by decide +kernel)⟩, ⟨by decide +kernel, noRings (by decide +kernel)⟩, by decide +kernel, by decide +kernel, by decide +kernel, by decide +kernel, ⟨fun _ => rfl, fun _ => rfl⟩⟩⟩

theorem wit_VectorAndGatherResults_5 : ∃ s : State, ∃ c : Fin 16, ∃ d : QDesc, ∃ v : Nat,
  let x := coreOf s c.val
  let ib := lineBytes x (wbits d.w 12 0 17)
  let ob := lineBytes x (wbits d.w 13 0 17)
  let obeg := wbits d.w 0 12 20
  let off := field ob 0 4 % 131072 * 64 + 8 * obeg
  let lines := field ib 12 4
  let key := leNat (taskBytes x off 8) % 2 ^ 44
  let home := field ib 8 4 % 131072 + hashHome key lines % lines
  Issues s c.val 2 0x42 d ∧
  wbits d.w 11 0 8 = 0 ∧
  wbits d.w 11 11 17 = 1 ∧
  1 ≤ lines ∧
  lines ≤ 65536 ∧
  LinesOpen x d.w (wbits d.w 12 0 17) 1 false ∧
  LinesOpen x d.w (wbits d.w 13 0 17) 1 false ∧
  LinesOpen x d.w (off / 64) 1 false ∧
  LinesOpen x d.w home 1 false ∧
  scanSlots 44 key home (lineBytes x home) (List.range 8) = some (.found v) ∧
  LinesOpen x d.w (wbits d.w 14 0 17) 1 true ∧
  LinesOpen x d.w (wbits d.w 15 0 17) 1 true ∧
  wbits d.w 14 0 17 ≠ wbits d.w 15 0 17 ∧
  NoErrors x :=
  ⟨kmapAt, 0, kmapD, 3, ⟨⟨by decide +kernel, by decide +kernel, by decide +kernel⟩, by decide +kernel, by decide +kernel, by decide +kernel, by decide +kernel, ⟨by decide +kernel, noRings (by decide +kernel)⟩, ⟨by decide +kernel, noRings (by decide +kernel)⟩, ⟨by decide +kernel, noRings (by decide +kernel)⟩, ⟨by decide +kernel, noRings (by decide +kernel)⟩, by decide +kernel, ⟨by decide +kernel, noRings (by decide +kernel)⟩, ⟨by decide +kernel, noRings (by decide +kernel)⟩, by decide +kernel, ⟨fun _ => rfl, fun _ => rfl⟩⟩⟩

theorem wit_VectorAndGatherResults_6 : ∃ s : State, ∃ c : Fin 16, ∃ d : QDesc,
  let x := coreOf s c.val
  let e := taskBytes x (64 * wbits d.w 12 0 17) 8
  let off := 64 * wbits d.w 13 0 17 + 8 * field e 4 4
  let wl := wbits d.w 14 0 17
  let sp := wbits d.w 15 0 17
  Issues s c.val 2 0x43 d ∧
  wbits d.w 12 17 7 = 1 ∧
  wbits d.w 12 24 1 = 0 ∧
  wbits d.w 13 17 11 = 0 ∧
  field e 0 4 = 1 ∧
  1 ≤ wbits d.w 11 16 16 ∧
  (wbits d.w 11 0 16 = 0 ∨ 64 ≤ wbits d.w 11 0 16) ∧
  LinesOpen x d.w (wbits d.w 12 0 17) 1 false ∧
  LinesOpen x d.w (off / 64) 1 false ∧
  LinesOpen x d.w wl 1 true ∧
  LinesOpen x d.w sp 1 true ∧
  wl ≠ sp ∧
  NoErrors x :=
  ⟨sortAt, 0, sortD, ⟨⟨by decide +kernel, by decide +kernel, by decide +kernel⟩, by decide +kernel, by decide +kernel, by decide +kernel, by decide +kernel, by decide +kernel, by decide +kernel, ⟨by decide +kernel, noRings (by decide +kernel)⟩, ⟨by decide +kernel, noRings (by decide +kernel)⟩, ⟨by decide +kernel, noRings (by decide +kernel)⟩, ⟨by decide +kernel, noRings (by decide +kernel)⟩, by decide +kernel, ⟨fun _ => rfl, fun _ => rfl⟩⟩⟩

theorem wit_VectorAndGatherResults_7 : ∃ s : State, ∃ c : Fin 16, ∃ d : QDesc,
  let x := coreOf s c.val
  let tbl := wbits d.w 13 0 17
  let h := tblHeadOf (lineBytes x tbl)
  let k := leNat (taskBytes x (64 * wbits d.w 12 0 17) 4)
  let row := tbl + (h.rowsOff + k * h.rowb) / 64
  let dst := wbits d.w 15 0 17
  let hit := wbits d.w 12 17 15 * 4
  Issues s c.val 2 0x44 d ∧
  wbits d.w 0 12 17 = 1 ∧
  wbits d.w 0 29 2 = 2 ∧
  tblHeadOk (lineBytes x tbl) = true ∧
  h.mode = 0 ∧
  k < h.nrow ∧
  LinesOpen x d.w tbl 1 false ∧
  LinesOpen x d.w (wbits d.w 12 0 17) 1 false ∧
  LinesOpen x d.w row (h.rowb / 64) false ∧
  LinesOpen x d.w dst (h.rowb / 64) true ∧
  LinesOpen x d.w hit 1 true ∧
  (hit < dst ∨ dst + h.rowb / 64 ≤ hit) ∧
  NoErrors x :=
  ⟨gatherAt, 0, gatherD, ⟨⟨by decide +kernel, by decide +kernel, by decide +kernel⟩, by decide +kernel, by decide +kernel, by decide +kernel, by decide +kernel, by decide +kernel, ⟨by decide +kernel, noRings (by decide +kernel)⟩, ⟨by decide +kernel, noRings (by decide +kernel)⟩, ⟨by decide +kernel, noRings (by decide +kernel)⟩, ⟨by decide +kernel, noRings (by decide +kernel)⟩, ⟨by decide +kernel, noRings (by decide +kernel)⟩, by decide +kernel, ⟨fun _ => rfl, fun _ => rfl⟩⟩⟩

theorem wit_VectorAndGatherResults_8 : ∃ s : State, ∃ c : Fin 16, ∃ d : QDesc,
  let x := coreOf s c.val
  let n := wbits d.w 11 24 7
  let off := 64 * wbits d.w 12 0 17 + 8 * wbits d.w 11 0 24
  let o := (field (taskBytes x off 8) 4 4 + 2 ^ 32 - wbits d.w 0 12 20) % 2 ^ 32
  let src := 4 * wbits d.w 13 0 16
  let dst := 4 * (wbits d.w 14 0 16 + o * wbits d.w 14 16 8)
  Issues s c.val 2 0x45 d ∧
  n ≤ 64 ∧
  wbits d.w 12 17 11 = 0 ∧
  wbits d.w 12 28 4 = c.val ∧
  wbits d.w 15 0 17 = 1 ∧
  LinesOpen x d.w (off / 64) 1 false ∧
  EntriesOpen x d.w src n false ∧
  EntriesOpen x d.w dst n true ∧
  NoErrors x :=
  ⟨heads 2 scatterD id, 0, scatterD, ⟨⟨by decide +kernel, by decide +kernel, by decide +kernel⟩, by decide +kernel, by decide +kernel, by decide +kernel, by decide +kernel, ⟨by decide +kernel, noRings (by decide +kernel)⟩, ⟨by decide +kernel, by decide +kernel⟩, ⟨by decide +kernel, by decide +kernel⟩, ⟨fun _ => rfl, fun _ => rfl⟩⟩⟩

theorem wit_VectorAndGatherResults_9 : ∃ s : State, ∃ c : Fin 16, ∃ d : QDesc,
  let x := coreOf s c.val
  let n := wbits d.w 11 24 7
  let src := 4 * wbits d.w 11 0 16
  let base := wbits d.w 13 0 17
  Issues s c.val 2 0x46 d ∧
  n ≤ 64 ∧
  wbits d.w 0 12 20 = 0 ∧
  wbits d.w 11 31 1 = 0 ∧
  wbits d.w 13 17 13 = 1 ∧
  LinesOpen x d.w base 1 true ∧
  EntriesOpen x d.w src n false ∧
  NoErrors x :=
  ⟨heads 2 maskD id, 0, maskD, ⟨⟨by decide +kernel, by decide +kernel, by decide +kernel⟩, by decide +kernel, by decide +kernel, by decide +kernel, by decide +kernel, ⟨by decide +kernel, noRings (by decide +kernel)⟩, ⟨by decide +kernel, by decide +kernel⟩, ⟨fun _ => rfl, fun _ => rfl⟩⟩⟩

theorem wit_VectorAndGatherResults_10 : ∃ a : Acc, ∃ b : SiteBlock, ∃ key : Nat, ∃ site : Nat, ∃ idx : Nat, ∃ s : State,
  a.c < 16 ∧
  key < 2 ^ 44 ∧
  site + 1 < 2 ^ 20 ∧
  0 < b.lines ∧
  (∀ i < b.lines, LinesOpen (coreOf s a.c) a.w (b.hash + i) 1 true) ∧
  (∀ k, smGet upZero (coreOf s a.c).basinUp k = 0) ∧
  ∃ t, engRun (hashInsert a b key site idx) s = (.ok true, t) :=
  ⟨accG, siteB 2, 5, 3, 0, busy id, ⟨by decide +kernel, by decide +kernel, by decide +kernel, by decide +kernel, fun i h => ⟨by revert i; decide +kernel, noRings (by decide +kernel)⟩, fun _ => rfl, ⟨_, pair_ok (by decide +kernel)⟩⟩⟩

theorem wit_VectorAndGatherResults_11 : ∃ a : Acc, ∃ b : SiteBlock, ∃ key : Nat, ∃ site : Nat, ∃ idx : Nat, ∃ s : State,
  a.c < 16 ∧
  key < 2 ^ 44 ∧
  site + 1 < 2 ^ 20 ∧
  0 < b.lines ∧
  (∀ i < b.lines, LinesOpen (coreOf s a.c) a.w (b.hash + i) 1 true) ∧
  (∀ k, smGet upZero (coreOf s a.c).basinUp k = 0) ∧
  ∃ v u, engRun (hashFind a 44 b.hash b.lines key) s = (.ok (.found v), u) :=
  ⟨accG, siteB 2, 5, 4, 0, inserted, ⟨by decide +kernel, by decide +kernel, by decide +kernel, by decide +kernel, fun i h => ⟨by revert i; decide +kernel, noRings (by decide +kernel)⟩, fun _ => rfl, ⟨3, _, pair_ok (by decide +kernel)⟩⟩⟩

theorem wit_VectorAndGatherResults_12 : ∃ a : Acc, ∃ b : SiteBlock, ∃ key : Nat, ∃ site : Nat, ∃ idx : Nat, ∃ s : State,
  a.c < 16 ∧
  key < 2 ^ 44 ∧
  site + 1 < 2 ^ 20 ∧
  0 < b.lines ∧
  (∀ i < b.lines, LinesOpen (coreOf s a.c) a.w (b.hash + i) 1 true) ∧
  (∀ k, smGet upZero (coreOf s a.c).basinUp k = 0) ∧
  ∃ u, engRun (hashFind a 44 b.hash b.lines key) s = (.ok .full, u) :=
  ⟨accG, siteB 1, 5, 3, 9, hashFull, ⟨by decide +kernel, by decide +kernel, by decide +kernel, by decide +kernel, fun i h => ⟨by revert i; decide +kernel, noRings (by decide +kernel)⟩, fun _ => rfl, ⟨_, pair_ok (by decide +kernel)⟩⟩⟩

/-! SelectionRequests -/

theorem wit_SelectionRequests_1 : ∃ s : State, ∃ q : SelReq, ∃ rest : List SelReq,
  s.sel.arr = q :: rest ∧
  isReady s = true ∧
  q.part < 8 ∧
  crossed s islSel q.ts = true ∧
  replica s islSel ≤ q.ts + 1000000 ∧
  selShapeOk q.blk = false :=
  ⟨arriving (zeros 128), selQ (zeros 128), [], by
  refine ⟨?_, ?_, ?_, ?_, ?_, ?_⟩ <;> decide +kernel⟩


theorem wit_SelectionRequests_2 : ∃ s : State, ∃ q : SelReq, ∃ rest : List SelReq,
  s.sel.arr = q :: rest ∧
  isReady s = true ∧
  q.part < 8 ∧
  crossed s islSel q.ts = true ∧
  replica s islSel ≤ q.ts + 1000000 ∧
  selShapeOk q.blk = true ∧
  selTooLong s q.part (selBound (selOf q.blk)) = true :=
  ⟨oneSlot (arriving topBig), selQ topBig, [], by
  refine ⟨?_, ?_, ?_, ?_, ?_, ?_, ?_⟩ <;> decide +kernel⟩


theorem wit_SelectionRequests_3 : ∃ s : State, ∃ q : SelReq, ∃ rest : List SelReq,
  s.sel.arr = q :: rest ∧
  isReady s = true ∧
  q.part < 8 ∧
  crossed s islSel q.ts = true ∧
  replica s islSel ≤ q.ts + 1000000 ∧
  selShapeOk q.blk = true ∧
  selTooLong s q.part (selBound (selOf q.blk)) = false :=
  ⟨arriving (topB 128), selQ (topB 128), [], by
  refine ⟨?_, ?_, ?_, ?_, ?_, ?_, ?_⟩ <;> decide +kernel⟩


theorem wit_SelectionRequests_4 : ∃ s : State, ∃ p : Fin 8, ∃ q : SelReq, ∃ a, ∃ b, ∃ d, ∃ u, ∃ v,
  let c := selCyc (openServe 1 p.val (selPop p.val s))
  selHead s p.val 0 = some q ∧
  q.part = p.val ∧
  engRun (topkWork q (selOf q.blk)) c.2 = (.ok (a, b, d), u) ∧
  engRun (selWrite q q.core (selOf q.blk).statOff (statusRec a b d c.1)) u = (.ok (), v) :=
  ⟨(selS (topB 128)), 0, selQ (topB 128), 3, 2, 0, _, _, ⟨by decide +kernel, by decide +kernel, pair_ok (by decide +kernel), pair_ok (by decide +kernel)⟩⟩


theorem wit_SelectionRequests_5 : ∃ s : State, ∃ p : Fin 8, ∃ q : SelReq, ∃ code, ∃ i, ∃ u,
  let c := selCyc (openServe 1 p.val (selPop p.val s))
  selHead s p.val 0 = some q ∧
  q.part = p.val ∧
  engRun (topkWork q (selOf q.blk)) c.2 = (.error (.fault code i), u) :=
  ⟨(selS (topB 0x800000)), 0, selQ (topB 0x800000), .remoteDeny, 0, _, ⟨by decide +kernel, by decide +kernel, pair_err (by decide +kernel)⟩⟩


theorem wit_SelectionRequests_6 : ∃ s : State, ∃ p : Fin 8, ∃ q : SelReq,
  selHead s p.val 0 = some q ∧
  q.part = p.val ∧
  (selOf q.blk).total = 0 ∧
  s.sel.up = 0 ∧
  StatusOpen s q :=
  ⟨(selS topZ), 0, selQ topZ, ⟨by decide +kernel, by decide +kernel, by decide +kernel, by decide +kernel, ⟨by decide +kernel, by decide +kernel, by decide +kernel, by decide +kernel, by decide +kernel⟩⟩⟩


theorem wit_SelectionRequests_7 : ∃ s : State, ∃ p : Fin 8, ∃ q : SelReq, ∃ a, ∃ b, ∃ d, ∃ u, ∃ v,
  let c := selCyc (openServe 1 p.val (selPop p.val s))
  selHead s p.val 2 = some q ∧
  q.part = p.val ∧
  engRun (knnWork q (selOf q.blk)) c.2 = (.ok (a, b, d), u) ∧
  engRun (selWrite q q.core (selOf q.blk).statOff (statusRec a b d c.1)) u = (.ok (), v) :=
  ⟨(selS knnZ), 0, selQ knnZ, 0, 0, 0, _, _, ⟨by decide +kernel, by decide +kernel, pair_ok (by decide +kernel), pair_ok (by decide +kernel)⟩⟩


theorem wit_SelectionRequests_8 : ∃ s : State, ∃ p : Fin 8, ∃ q : SelReq, ∃ code, ∃ i, ∃ u,
  let c := selCyc (openServe 1 p.val (selPop p.val s))
  selHead s p.val 2 = some q ∧
  q.part = p.val ∧
  engRun (knnWork q (selOf q.blk)) c.2 = (.error (.fault code i), u) :=
  ⟨(selS (knnB 0x800000)), 0, selQ (knnB 0x800000), .remoteDeny, 0, _, ⟨by decide +kernel, by decide +kernel, pair_err (by decide +kernel)⟩⟩


theorem wit_SelectionRequests_9 : ∃ s : State, ∃ p : Fin 8, ∃ q : SelReq,
  selHead s p.val 2 = some q ∧
  q.part = p.val ∧
  (selOf q.blk).total = 0 ∧
  (selOf q.blk).nq = 0 ∧
  s.sel.up = 0 ∧
  StatusOpen s q :=
  ⟨(selS knnZ), 0, selQ knnZ, ⟨by decide +kernel, by decide +kernel, by decide +kernel, by decide +kernel, by decide +kernel, ⟨by decide +kernel, by decide +kernel, by decide +kernel, by decide +kernel, by decide +kernel⟩⟩⟩


theorem wit_SelectionRequests_10 : ∃ s : State, ∃ p : Fin 8,
  selHead s p.val 0 = none :=
  ⟨rdy, 7, by decide +kernel⟩


theorem wit_SelectionRequests_11 : ∃ s : State, ∃ p : Fin 8,
  selHead s p.val 1 = none :=
  ⟨rdy, 0, by decide +kernel⟩


theorem wit_SelectionRequests_12 : ∃ s : State, ∃ p : Fin 8,
  selHead s p.val 2 = none :=
  ⟨rdy, 3, by decide +kernel⟩


theorem wit_SelectionRequests_13 : ∃ q : SelReq, ∃ f : SelF, ∃ s : State, ∃ t : State, ∃ u : State, ∃ x : Nat × Nat × Nat, ∃ cs : List Cand, ∃ nover : Nat,
  q.core < 16 ∧
  engRun (selLoad q f) s = (.ok (cs, nover), u) ∧
  engRun (topkWork q f) s = (.ok x, t) :=
  ⟨selQ (topB 128), selOf (topB 128), selS (topB 128), (engRun (topkWork (selQ (topB 128)) (selOf (topB 128))) (selS (topB 128))).2, (engRun (selLoad (selQ (topB 128)) (selOf (topB 128))) (selS (topB 128))).2, (3, 2, 0), candA, 0, ⟨by decide +kernel, pair_ok (by decide +kernel), pair_ok (by decide +kernel)⟩⟩

theorem wit_SelectionRequests_14 : ∃ k : Nat, ∃ cs : List Cand, ∃ c : Cand, ∃ d : Cand,
  (cs.map (·.idx)).Nodup ∧
  c ∈ cs ∧
  c ∉ selectTop k cs ∧
  d ∈ selectTop k cs :=
  ⟨2, candA, ⟨0, scoreKey false 0x3F800000, 0x3F800000⟩, ⟨1, scoreKey false 0x40400000, 0x40400000⟩, by
  refine ⟨?_, ?_, ?_, ?_⟩ <;> decide +kernel⟩


/-! ResultsReachTheHost -/

theorem wit_ResultsReachTheHost_1 : ∃ s : State, ∃ p : Fin 8, ∃ q : SelReq, ∃ h : Nat, ∃ pl : Nat × Bool, ∃ hd, ∃ boxes, ∃ nc, ∃ nover, ∃ u,
  let s1 := if pl.2 then resWrite p.val (resTail s p.val) padHeader s else s
  let c := selCyc (openServe 1 p.val (selPop p.val s1))
  selHead s p.val 1 = some q ∧
  q.part = p.val ∧
  ownerOf (partOf s p.val) = some h ∧
  resPlace s p.val (resAlloc (selOf q.blk).maxBox) = some pl ∧
  engRun (boxesWork q (selOf q.blk)) c.2 = (.ok (hd, boxes, nc, nover), u) :=
  ⟨ringed (selS boxB), 0, selQ boxB, 0, (0, false), boxOut.1, boxOut.2.1, boxOut.2.2.1, boxOut.2.2.2, _, ⟨by decide +kernel, by decide +kernel, by decide +kernel, by decide +kernel, pair_ok (by decide +kernel)⟩⟩


theorem wit_ResultsReachTheHost_2 : ∃ s : State, ∃ p : Fin 8, ∃ q : SelReq, ∃ h : Nat, ∃ pl : Nat × Bool,
  selHead s p.val 1 = some q ∧
  q.part = p.val ∧
  ownerOf (partOf s p.val) = some h ∧
  resPlace s p.val (resAlloc (selOf q.blk).maxBox) = some pl ∧
  (selOf q.blk).total = 0 ∧
  s.sel.up = 0 ∧
  q.core < 16 ∧
  SelReadable s q q.core (boxReqOf q.blk).clsOff 128 ∧
  SelReadable s q q.core (boxReqOf q.blk).smapOff 64 :=
  ⟨ringed (selS boxB), 0, selQ boxB, 0, (0, false), ⟨by decide +kernel, by decide +kernel, by decide +kernel, by decide +kernel, by decide +kernel, by decide +kernel, by decide +kernel, ⟨by decide +kernel, fun _ => rfl⟩, ⟨by decide +kernel, fun _ => rfl⟩⟩⟩


theorem wit_ResultsReachTheHost_3 : ∃ s : State, ∃ p : Fin 8, ∃ q : SelReq,
  selHead s p.val 1 = some q ∧
  q.part = p.val ∧
  resPlace s p.val (resAlloc (selOf q.blk).maxBox) = none :=
  ⟨selS boxB, 0, selQ boxB, by
  refine ⟨?_, ?_, ?_⟩ <;> decide +kernel⟩

theorem wit_ResultsReachTheHost_4 : ∃ s : State, ∃ r : SelRes,
  s.sel.done = some r ∧
  isReady s = true :=
  ⟨{ rdy with sel := { done := some selR } }, selR, by
  refine ⟨?_, ?_⟩ <;> decide +kernel⟩

theorem wit_ResultsReachTheHost_5 : ∃ s : State, ∃ r : SelRes, ∃ rest : List SelRes, ∃ h : Nat,
  s.sel.handed = r :: rest ∧
  isReady s = true ∧
  s.saf.pwrFail = false ∧
  crossed s islHst r.ts = true ∧
  tagGen (jobOf s r.req.slot) = r.req.taggen ∧
  (jobOf s r.req.slot).silent = false ∧
  r.req.part < 8 ∧
  ownerOf (partOf s r.req.part) = some h ∧
  r.header.length = 128 :=
  ⟨{ ringed prt with sel := { handed := [selR] } }, selR, [], 0, by
  refine ⟨?_, ?_, ?_, ?_, ?_, ?_, ?_, ?_, ?_⟩ <;> decide +kernel⟩

theorem wit_ResultsReachTheHost_6 : ∃ s : State, ∃ r : SelRes, ∃ rest : List SelRes,
  s.sel.handed = r :: rest ∧
  isReady s = true ∧
  s.saf.pwrFail = false ∧
  crossed s islHst r.ts = true ∧
  tagGen (jobOf s r.req.slot) = r.req.taggen ∧
  (jobOf s r.req.slot).silent = true :=
  ⟨{ hstOf prt (fun h => { h with jobs := [(0, { st := .draining, silent := true })] }) with sel := { handed := [selR] } }, selR, [], by
  refine ⟨?_, ?_, ?_, ?_, ?_, ?_⟩ <;> decide +kernel⟩

theorem wit_ResultsReachTheHost_7 : ∃ s : State, ∃ r : SelRes, ∃ rest : List SelRes,
  s.sel.handed = r :: rest ∧
  isReady s = true ∧
  s.saf.pwrFail = false ∧
  crossed s islHst r.ts = true ∧
  tagGen (jobOf s r.req.slot) ≠ r.req.taggen :=
  ⟨{ hstOf prt (fun h => { h with jobs := [(0, { st := .draining, tag := 1 })] }) with sel := { handed := [selR] } }, selR, [], by
  refine ⟨?_, ?_, ?_, ?_, ?_⟩ <;> decide +kernel⟩

theorem wit_ResultsReachTheHost_8 : ∃ s : State,
  s.sel.handed = [] :=
  ⟨rdy, by decide +kernel⟩


theorem wit_ResultsReachTheHost_9 : ∃ s : State, ∃ r : SelRes, ∃ rest : List SelRes,
  s.sel.handed = r :: rest ∧
  crossed s islHst r.ts = false :=
  ⟨{ tbOf rdy (fun x => { x with master := 7 }) with sel := { handed := [{ selR with ts := 8 }] } }, { selR with ts := 8 }, [], by
  refine ⟨?_, ?_⟩ <;> decide +kernel⟩


theorem wit_ResultsReachTheHost_10 : ∃ s : State,
  s.sel.done = none :=
  ⟨rdy, by decide +kernel⟩


theorem wit_ResultsReachTheHost_11 : ∃ s : State, ∃ p : Fin 8, ∃ q : SelReq, ∃ rest : List SelReq, ∃ t0 : Nat,
  vget s.sel.queue p.val [] = q :: rest ∧
  q.waits = some t0 ∧
  isReady s = true ∧
  resPlace s p.val (resAlloc (selOf q.blk).maxBox) = none ∧
  t0 + 100000000 ≤ s.tb.master :=
  ⟨spaceWait 100000000, 7, { selQ boxB with waits := some 0 }, [], 0, by
  refine ⟨?_, ?_, ?_, ?_, ?_⟩ <;> decide +kernel⟩

theorem wit_ResultsReachTheHost_12 : ∃ s : State, ∃ p : Fin 8, ∃ q : SelReq, ∃ rest : List SelReq, ∃ t0 : Nat,
  vget s.sel.queue p.val [] = q :: rest ∧
  q.waits = some t0 ∧
  isReady s = true ∧
  resPlace s p.val (resAlloc (selOf q.blk).maxBox) = none ∧
  s.tb.master < t0 + 100000000 :=
  ⟨spaceWait 99999999, 7, { selQ boxB with waits := some 0 }, [], 0, by
  refine ⟨?_, ?_, ?_, ?_, ?_⟩ <;> decide +kernel⟩

/-! LoadsAndUnloads -/

theorem wit_LoadsAndUnloads_1 : ∃ s : State, ∃ h : Fin 4, ∃ p : Fin 8, ∃ v : Nat,
  linked s (.host h) = true ∧
  isReady s = true ∧
  s.saf.latch = false ∧
  ownerOf (partOf s p.val) ≠ some h.val :=
  ⟨prt, 1, 0, 1, by
  refine ⟨?_, ?_, ?_, ?_⟩ <;> decide +kernel⟩


theorem wit_LoadsAndUnloads_2 : ∃ s : State, ∃ h : Fin 4, ∃ p : Fin 8, ∃ v : Nat,
  linked s (.host h) = true ∧
  isReady s = true ∧
  s.saf.latch = false ∧
  ownerOf (partOf s p.val) = some h.val ∧
  (ldBusy s p.val = true ∨ v % 4 = 0 ∨ v % 4 = 3) :=
  ⟨prt, 0, 0, 3, by
  refine ⟨?_, ?_, ?_, ?_, ?_⟩ <;> decide +kernel⟩


theorem wit_LoadsAndUnloads_3 : ∃ s : State, ∃ h : Fin 4, ∃ p : Fin 8, ∃ v : Nat,
  linked s (.host h) = true ∧
  isReady s = true ∧
  s.saf.latch = false ∧
  ownerOf (partOf s p.val) = some h.val ∧
  ldBusy s p.val = false ∧
  v % 4 = 1 :=
  ⟨prt, 0, 0, 0x101, by
  refine ⟨?_, ?_, ?_, ?_, ?_, ?_⟩ <;> decide +kernel⟩


theorem wit_LoadsAndUnloads_4 : ∃ s : State, ∃ h : Fin 4, ∃ p : Fin 8, ∃ v : Nat,
  linked s (.host h) = true ∧
  isReady s = true ∧
  s.saf.latch = false ∧
  ownerOf (partOf s p.val) = some h.val ∧
  ldBusy s p.val = false ∧
  v % 4 = 2 :=
  ⟨prt, 0, 0, 0x102, by
  refine ⟨?_, ?_, ?_, ?_, ?_, ?_⟩ <;> decide +kernel⟩


theorem wit_LoadsAndUnloads_5 : ∃ s : State, ∃ p : Fin 8, ∃ rest : List Nat, ∃ q : LoadReq,
  isReady s = true ∧
  ldServing s = false ∧
  s.hst.ldQueue = p.val :: rest ∧
  (partOf s p.val).ld.req = some q ∧
  q.unload = false :=
  ⟨queued (loads (loadQ 0) []) [0, 3], 0, [3], loadQ 0, by
  refine ⟨?_, ?_, ?_, ?_, ?_⟩ <;> decide +kernel⟩

theorem wit_LoadsAndUnloads_6 : ∃ s : State, ∃ p : Fin 8, ∃ rest : List Nat, ∃ q : LoadReq,
  isReady s = true ∧
  ldServing s = false ∧
  s.hst.ldQueue = p.val :: rest ∧
  (partOf s p.val).ld.req = some q ∧
  q.unload = true ∧
  progOf s p.val q.handle = none :=
  ⟨queued (loads { loadQ 0 with unload := true } []) [0, 3], 0, [3], { loadQ 0 with unload := true }, by
  refine ⟨?_, ?_, ?_, ?_, ?_, ?_⟩ <;> decide +kernel⟩

theorem wit_LoadsAndUnloads_7 : ∃ s : State, ∃ p : Fin 8, ∃ rest : List Nat, ∃ q : LoadReq,
  isReady s = true ∧
  ldServing s = false ∧
  s.hst.ldQueue = p.val :: rest ∧
  (partOf s p.val).ld.req = some q ∧
  q.unload = true ∧
  (progOf s p.val q.handle).isSome = true ∧
  progNamed s p.val q.handle = true :=
  ⟨queued (hstOf (loads { loadQ 0 with unload := true } []) fun h => { h with progs := vset h.progs 0 (some progA), jobs := [(0, jobA)] }) [0], 0, [], { loadQ 0 with unload := true }, by
  refine ⟨?_, ?_, ?_, ?_, ?_, ?_, ?_⟩ <;> decide +kernel⟩

theorem wit_LoadsAndUnloads_8 : ∃ s : State, ∃ p : Fin 8, ∃ rest : List Nat, ∃ q : LoadReq,
  isReady s = true ∧
  ldServing s = false ∧
  s.hst.ldQueue = p.val :: rest ∧
  (partOf s p.val).ld.req = some q ∧
  q.unload = true ∧
  (progOf s p.val q.handle).isSome = true ∧
  progNamed s p.val q.handle = false :=
  ⟨queued (hstOf (loads { loadQ 0 with unload := true } []) fun h => { h with progs := vset h.progs 0 (some progA) }) [0], 0, [], { loadQ 0 with unload := true }, by
  refine ⟨?_, ?_, ?_, ?_, ?_, ?_, ?_⟩ <;> decide +kernel⟩

theorem wit_LoadsAndUnloads_9 : ∃ s : State,
  (isReady s = false ∨ ldServing s = true ∨ s.hst.ldQueue = []) :=
  ⟨rdy, by decide +kernel⟩

theorem wit_LoadsAndUnloads_10 : ∃ s : State, ∃ p : Fin 8, ∃ q : LoadReq,
  isReady s = true ∧
  (partOf s p.val).ld.req = some q ∧
  q.stage = 1 :=
  ⟨loads (loadQ 1) [], 0, loadQ 1, by
  refine ⟨?_, ?_, ?_⟩ <;> decide +kernel⟩

theorem wit_LoadsAndUnloads_11 : ∃ s : State, ∃ p : Fin 8, ∃ q : LoadReq, ∃ d : List Byte, ∃ b : List Byte, ∃ v : State, ∃ w : State,
  isReady s = true ∧
  (partOf s p.val).ld.req = some q ∧
  q.stage = 1 ∧
  (ownerOf (partOf s p.val)).isSome = true ∧
  copyLines false p.val q.dst (chunk64 ((q.len + 63) / 64) (slice d 0 q.len)) s = (.ok (), v) ∧
  iovaReadBytes agentHst p.val q.dst q.len v = (.ok b, w) ∧
  imageCheck w (chkOf p.val q b) = none :=
  ⟨loads (loadQ 1) [], 0, loadQ 1, image, image, copied image, _, ⟨by decide +kernel, by decide +kernel, by decide +kernel, by decide +kernel, pair_ok (by decide +kernel), pair_ok (by decide +kernel), by decide +kernel⟩⟩


theorem wit_LoadsAndUnloads_12 : ∃ s : State, ∃ p : Fin 8, ∃ q : LoadReq, ∃ d : List Byte, ∃ b : List Byte, ∃ v : State, ∃ w : State, ∃ n, ∃ off,
  isReady s = true ∧
  (partOf s p.val).ld.req = some q ∧
  q.stage = 1 ∧
  (ownerOf (partOf s p.val)).isSome = true ∧
  copyLines false p.val q.dst (chunk64 ((q.len + 63) / 64) (slice d 0 q.len)) s = (.ok (), v) ∧
  iovaReadBytes agentHst p.val q.dst q.len v = (.ok b, w) ∧
  imageCheck w (chkOf p.val q b) = some (n, off) :=
  ⟨loads (loadQ 1) [], 0, loadQ 1, zeros 3, zeros 256, copied (zeros 3), (iovaReadBytes agentHst 0 0 256 (copied (zeros 3))).2, 1, 0, ⟨by decide +kernel, by decide +kernel, by decide +kernel, by decide +kernel, pair_ok (by decide +kernel), pair_ok (by decide +kernel), by decide +kernel⟩⟩


theorem wit_LoadsAndUnloads_13 : ∃ s : State, ∃ p : Fin 8, ∃ q : LoadReq, ∃ slot : Nat, ∃ b : List Byte, ∃ u : State, ∃ w : State,
  let k := chkOf p.val q b
  let new := k.relocs.foldl (relocPut k) b
  isReady s = true ∧
  (partOf s p.val).ld.req = some q ∧
  q.stage = 2 ∧
  freeProgSlot s = some slot ∧
  iovaReadLines agentHst p.val q.dst ((q.len + 63) / 64) s = (.ok b, u) ∧
  relocLines p.val q.dst b new ((q.len + 63) / 64) u = (.ok (), w) :=
  ⟨loads (loadQ 2) image, 0, loadQ 2, 0, image, readBack, (relocLines 0 0 image image 4 readBack).2, ⟨by decide +kernel, by decide +kernel, by decide +kernel, by decide +kernel, pair_ok (by decide +kernel), pair_ok (by decide +kernel)⟩⟩

/-! RingsAndDoorbells -/

theorem wit_RingsAndDoorbells_1 : ∃ s : State, ∃ h : Fin 4, ∃ p : Fin 8, ∃ v : Nat,
  linked s (.host h) = true ∧
  isReady s = true ∧
  s.saf.latch = false ∧
  ownerOf (partOf s p.val) ≠ some h.val :=
  ⟨prt, 1, 0, 5, by
  refine ⟨?_, ?_, ?_, ?_⟩ <;> decide +kernel⟩


theorem wit_RingsAndDoorbells_2 : ∃ s : State, ∃ h : Fin 4, ∃ p : Fin 8, ∃ v : Nat,
  linked s (.host h) = true ∧
  isReady s = true ∧
  s.saf.latch = false ∧
  ownerOf (partOf s p.val) = some h.val :=
  ⟨ringed prt, 0, 0, 3, by
  refine ⟨?_, ?_, ?_, ?_⟩ <;> decide +kernel⟩


theorem wit_RingsAndDoorbells_3 : ∃ s : State, ∃ h : Fin 4, ∃ p : Fin 8, ∃ v : Nat,
  linked s (.host h) = true ∧
  isReady s = true ∧
  s.saf.latch = false ∧
  ownerOf (partOf s p.val) = some h.val ∧
  liveJobs s p.val ≠ [] :=
  ⟨ringed jobRuns, 0, 0, 0, by
  refine ⟨?_, ?_, ?_, ?_, ?_⟩ <;> decide +kernel⟩


theorem wit_RingsAndDoorbells_4 : ∃ s : State, ∃ h : Fin 4, ∃ p : Fin 8, ∃ v : Nat,
  linked s (.host h) = true ∧
  isReady s = true ∧
  s.saf.latch = false ∧
  ownerOf (partOf s p.val) = some h.val ∧
  liveJobs s p.val = [] :=
  ⟨ringed prt, 0, 0, 0x100, by
  refine ⟨?_, ?_, ?_, ?_, ?_⟩ <;> decide +kernel⟩


theorem wit_RingsAndDoorbells_5 : ∃ s : State, ∃ p : Fin 8,
  isReady s = true ∧
  (ownerOf (partOf s p.val)).isSome = true ∧
  (ringsOf s p.val).en = true ∧
  (ringsOf s p.val).ringErr = false ∧
  (partOf s p.val).fetched = none ∧
  (ringsOf s p.val).sqTail ≠ (ringsOf s p.val).sqHead ∧
  0 < cqFree (ringsOf s p.val) :=
  ⟨posted, 0, by
  refine ⟨?_, ?_, ?_, ?_, ?_, ?_, ?_⟩ <;> decide +kernel⟩


theorem wit_RingsAndDoorbells_6 : ∃ s : State, ∃ p : Fin 8, ∃ d : List Byte,
  isReady s = true ∧
  (ownerOf (partOf s p.val)).isSome = true ∧
  (ringsOf s p.val).en = true ∧
  (ringsOf s p.val).ringErr = false ∧
  (partOf s p.val).fetched = none ∧
  (ringsOf s p.val).sqTail ≠ (ringsOf s p.val).sqHead ∧
  0 < cqFree (ringsOf s p.val) ∧
  entryBad s p.val (slice d 0 128) = false :=
  ⟨posted, 0, entry 1 9 0 0 [], by
  refine ⟨?_, ?_, ?_, ?_, ?_, ?_, ?_, ?_⟩ <;> decide +kernel⟩


theorem wit_RingsAndDoorbells_7 : ∃ s : State, ∃ p : Fin 8, ∃ d : List Byte,
  isReady s = true ∧
  (ownerOf (partOf s p.val)).isSome = true ∧
  (ringsOf s p.val).en = true ∧
  (ringsOf s p.val).ringErr = false ∧
  (partOf s p.val).fetched = none ∧
  (ringsOf s p.val).sqTail ≠ (ringsOf s p.val).sqHead ∧
  0 < cqFree (ringsOf s p.val) ∧
  entryBad s p.val (slice d 0 128) = true :=
  ⟨posted, 0, zeros 128, by
  refine ⟨?_, ?_, ?_, ?_, ?_, ?_, ?_, ?_⟩ <;> decide +kernel⟩


theorem wit_RingsAndDoorbells_8 : ∃ s : State, ∃ p : Fin 8, ∃ data : HostRead,
  (isReady s = false ∨ (ringsOf s p.val).en = false ∨ (ringsOf s p.val).ringErr = true ∨
      (partOf s p.val).fetched.isSome = true ∨ (ringsOf s p.val).sqTail = (ringsOf s p.val).sqHead ∨ cqFree (ringsOf s p.val) = 0) :=
  ⟨rdy, 0, .err, by decide +kernel⟩

theorem wit_RingsAndDoorbells_9 : ∃ s : State, ∃ p : Fin 8, ∃ h : Nat,
  let g := ringsOf s p.val
  ownerOf (partOf s p.val) = some h ∧
  isReady s = true ∧
  s.saf.latch = false ∧
  g.en = true ∧
  0 < g.unsig ∧
  0 < g.coalt ∧
  g.unsigAt + g.coalt * 1000 ≤ s.tb.master ∧
  (vget s.hst.ports h {}).mask.getLsbD g.vec = true :=
  ⟨unsigned, 0, 0, by
  refine ⟨?_, ?_, ?_, ?_, ?_, ?_, ?_, ?_⟩ <;> decide +kernel⟩

theorem wit_RingsAndDoorbells_10 : ∃ s : State, ∃ p : Fin 8, ∃ h : Nat,
  let g := ringsOf s p.val
  ownerOf (partOf s p.val) = some h ∧
  isReady s = true ∧
  s.saf.latch = false ∧
  g.en = true ∧
  0 < g.unsig ∧
  0 < g.coalt ∧
  g.unsigAt + g.coalt * 1000 ≤ s.tb.master ∧
  (vget s.hst.ports h {}).mask.getLsbD g.vec = false :=
  ⟨hstOf unsigned (fun h => { h with ports := vset h.ports 0 { vget h.ports 0 {} with mask := 0 } }), 0, 0, by
  refine ⟨?_, ?_, ?_, ?_, ?_, ?_, ?_, ?_⟩ <;> decide +kernel⟩

theorem wit_RingsAndDoorbells_11 : ∃ s : State, ∃ p : Fin 8,
  (((ringsOf s p.val).unsig = 0 ∨ (ringsOf s p.val).coalt = 0 ∨
      s.tb.master < (ringsOf s p.val).unsigAt + (ringsOf s p.val).coalt * 1000)) :=
  ⟨prt, 0, by decide +kernel⟩

theorem wit_RingsAndDoorbells_12 : ∃ s : State, ∃ h : Fin 4, ∃ speed : Nat, ∃ width : Nat,
  let m := odNat s 0x2200 (1 + h.val)
  let x := vget s.hst.ports h.val {}
  s.saf.mgtUp = true ∧
  x.linkUp = false ∧
  1 ≤ speed ∧
  speed ≤ m % 8 ∧
  1 ≤ width ∧
  width ≤ m / 16 :=
  ⟨hstOf rdy (fun h => { h with ports := vset h.ports 0 {} }), 0, 1, 1, by
  refine ⟨?_, ?_, ?_, ?_, ?_, ?_⟩ <;> decide +kernel⟩


theorem wit_RingsAndDoorbells_13 : ∃ s : State, ∃ h : Fin 4, ∃ speed : Nat, ∃ width : Nat,
  let m := odNat s 0x2200 (1 + h.val)
  (s.saf.mgtUp = false ∨ m % 8 < speed ∨ m / 16 < width) :=
  ⟨rdy, 0, 1, 100, by decide +kernel⟩


/-! JobsRunThroughTheirStates -/

theorem wit_JobsRunThroughTheirStates_1 : ∃ s : State, ∃ p : Fin 8, ∃ idx : Nat, ∃ slot : Nat, ∃ b : List Byte, ∃ g : Program,
  (partOf s p.val).fetched = some (idx, b) ∧
  isReady s = true ∧
  field b 0 1 = 0 ∧
  field b 7 1 = 0 ∧
  progOf s p.val (field b 4 2) = some g ∧
  jobSlot s p.val = some slot ∧
  jobByTag s p.val (field b 2 2) = none :=
  ⟨taken subA (withProg prt), 0, 0, 0, subA, progA, by
  refine ⟨?_, ?_, ?_, ?_, ?_, ?_, ?_⟩ <;> decide +kernel⟩

theorem wit_JobsRunThroughTheirStates_2 : ∃ s : State, ∃ p : Fin 8, ∃ idx : Nat, ∃ b : List Byte, ∃ code : FaultCode,
  (partOf s p.val).fetched = some (idx, b) ∧
  isReady s = true ∧
  field b 0 1 = 0 ∧
  ((progOf s p.val (field b 4 2) = none ∧ code = .handleBad ∨
      (progOf s p.val (field b 4 2)).isSome ∧ jobSlot s p.val = none ∧ code = .jobFull ∨
      (progOf s p.val (field b 4 2)).isSome ∧ (jobSlot s p.val).isSome ∧ (jobByTag s p.val (field b 2 2)).isSome ∧ code = .tagBusy ∨
      (progOf s p.val (field b 4 2)).isSome ∧ (jobSlot s p.val).isSome ∧ jobByTag s p.val (field b 2 2) = none ∧
        bindsOf s p.val b = none ∧ code = .bindBad)) :=
  ⟨taken subA prt, 0, 0, subA, .handleBad, ⟨by decide +kernel, by decide +kernel, by decide +kernel, .inl ⟨by decide +kernel, rfl⟩⟩⟩

theorem wit_JobsRunThroughTheirStates_3 : ∃ s : State, ∃ p : Fin 8, ∃ idx : Nat, ∃ b : List Byte,
  let hit := (liveJobs s p.val).find? fun e => e.2.tag == field b 2 2 && e.2.st != .done && e.2.st != .failed && !e.2.silent
  (partOf s p.val).fetched = some (idx, b) ∧
  isReady s = true ∧
  field b 0 1 = 1 ∧
  hit = none :=
  ⟨taken (entry 1 9 0 0 []) prt, 0, 0, entry 1 9 0 0 [], by
  refine ⟨?_, ?_, ?_, ?_⟩ <;> decide +kernel⟩


theorem wit_JobsRunThroughTheirStates_4 : ∃ s : State, ∃ p : Fin 8, ∃ idx : Nat, ∃ b : List Byte, ∃ slot, ∃ j,
  let hit := (liveJobs s p.val).find? fun e => e.2.tag == field b 2 2 && e.2.st != .done && e.2.st != .failed && !e.2.silent
  (partOf s p.val).fetched = some (idx, b) ∧
  isReady s = true ∧
  field b 0 1 = 1 ∧
  hit = some (slot, j) ∧
  (j.st = .running ∨ j.st = .preempted) ∧
  jobOf s slot = j :=
  ⟨taken (entry 1 0 0 0 []) (jobRuns), 0, 0, entry 1 0 0 0 [], 0, jobA, by
  refine ⟨?_, ?_, ?_, ?_, ?_, ?_⟩ <;> decide +kernel⟩


theorem wit_JobsRunThroughTheirStates_5 : ∃ s : State, ∃ p : Fin 8, ∃ idx : Nat, ∃ b : List Byte, ∃ slot, ∃ j,
  let hit := (liveJobs s p.val).find? fun e => e.2.tag == field b 2 2 && e.2.st != .done && e.2.st != .failed && !e.2.silent
  (partOf s p.val).fetched = some (idx, b) ∧
  isReady s = true ∧
  field b 0 1 = 1 ∧
  hit = some (slot, j) ∧
  j.st = .draining ∧
  jobOf s slot = j :=
  ⟨taken (entry 1 0 0 0 []) (withJobs prt [(0, { jobA with st := .draining, cause := some causeA })]), 0, 0, entry 1 0 0 0 [], 0, { jobA with st := .draining, cause := some causeA }, by
  refine ⟨?_, ?_, ?_, ?_, ?_, ?_⟩ <;> decide +kernel⟩


theorem wit_JobsRunThroughTheirStates_6 : ∃ s : State, ∃ p : Fin 8, ∃ idx : Nat, ∃ b : List Byte, ∃ slot, ∃ j,
  let hit := (liveJobs s p.val).find? fun e => e.2.tag == field b 2 2 && e.2.st != .done && e.2.st != .failed && !e.2.silent
  (partOf s p.val).fetched = some (idx, b) ∧
  isReady s = true ∧
  field b 0 1 = 1 ∧
  hit = some (slot, j) ∧
  j.st = .queued ∧
  j.cores = [] ∧
  j.silent = false ∧
  jobOf s slot = j :=
  ⟨taken (entry 1 0 0 0 []) (withJobs prt [(0, jobQ)]), 0, 0, entry 1 0 0 0 [], 0, jobQ, by
  refine ⟨?_, ?_, ?_, ?_, ?_, ?_, ?_, ?_⟩ <;> decide +kernel⟩


theorem wit_JobsRunThroughTheirStates_7 : ∃ s : State, ∃ x : Ready, ∃ rest : List Ready, ∃ e : EmitInfo, ∃ slot : Nat, ∃ j : Job,
  s.vox.ready = x :: rest ∧
  isReady s = true ∧
  x.skipped = false ∧
  (∀ r ∈ x.refs, refStale s r = false) ∧
  heldSweep s x.ctx x.seq = some e ∧
  s.hst.jobs = [(slot, j)] ∧
  j.st = .queued ∧
  j.binds = [.stream x.ctx false x.seq] ∧
  j.res = [none] :=
  ⟨withJobs (hstOf (voxAt (voxC (emitAt 0) 3 fun x => { x with slots := vset x.slots 1 (some ⟨1, 4, 1, 0, 0, 0⟩) }) fun x => { x with ready := [⟨3, 1, false, [⟨0, 0⟩]⟩] }) id) [(0, { jobQ with binds := [.stream 3 false 1], res := [none] })], ⟨3, 1, false, [⟨0, 0⟩]⟩, [], ⟨1, 4, 1, 0, 0, 0⟩, 0, { jobQ with binds := [.stream 3 false 1], res := [none] }, by
  refine ⟨?_, ?_, ?_, ?_, ?_, ?_, ?_, ?_, ?_⟩ <;> decide +kernel⟩

theorem wit_JobsRunThroughTheirStates_8 : ∃ s : State, ∃ p : Fin 8, ∃ slot : Nat, ∃ g : Program,
  let j := jobOf s slot
  admitNext s p.val = some slot ∧
  isReady s = true ∧
  (partOf s p.val).reset = none ∧
  j.st = .queued ∧
  j.part = p.val ∧
  j.binds = [] ∧
  progOf s p.val j.handle = some g ∧
  progFits s p.val g = true ∧
  j.nitem * (j.restart + 1) ≤ cqOpen s p.val ∧
  freeCtxs s g.cores = none :=
  ⟨onCore runsQ 0 (fun x => { x with ctx := Vector.replicate 8 ctxA }), 0, 0, progA, by
  refine ⟨?_, ?_, ?_, ?_, ?_, ?_, ?_, ?_, ?_, ?_⟩ <;> decide +kernel⟩


theorem wit_JobsRunThroughTheirStates_9 : ∃ s : State, ∃ p : Fin 8, ∃ slot : Nat, ∃ g : Program, ∃ cs,
  let j := jobOf s slot
  admitNext s p.val = some slot ∧
  isReady s = true ∧
  (partOf s p.val).reset = none ∧
  j.st = .queued ∧
  j.part = p.val ∧
  j.binds = [] ∧
  progOf s p.val j.handle = some g ∧
  progFits s p.val g = true ∧
  j.nitem * (j.restart + 1) ≤ cqOpen s p.val ∧
  freeCtxs s g.cores = some cs :=
  ⟨runsQ, 0, 0, progA, [(0, 0)], by
  refine ⟨?_, ?_, ?_, ?_, ?_, ?_, ?_, ?_, ?_, ?_⟩ <;> decide +kernel⟩


theorem wit_JobsRunThroughTheirStates_10 : ∃ s : State, ∃ slot : Fin 512,
  isReady s = true ∧
  jobComplete s slot.val = true ∧
  faultWins s slot.val = false ∧
  crossed s islHst (lastEvent (jobOf s slot.val)) = true ∧
  (jobOf s slot.val).silent = false :=
  ⟨withJobs prt [(0, { jobA with live := [] })], 0, by
  refine ⟨?_, ?_, ?_, ?_, ?_⟩ <;> decide +kernel⟩

theorem wit_JobsRunThroughTheirStates_11 : ∃ s : State, ∃ slot : Fin 512,
  (isReady s = false ∨ jobComplete s slot.val = false ∨ faultWins s slot.val = true) :=
  ⟨prt, 0, by decide +kernel⟩


theorem wit_JobsRunThroughTheirStates_12 : ∃ s : State, ∃ slot : Fin 512,
  crossed s islHst (lastEvent (jobOf s slot.val)) = false :=
  ⟨tbOf (withJobs prt [(0, { jobA with live := [], endTs := 8 })]) (fun x => { x with master := 7 }), 0, by decide +kernel⟩


theorem wit_JobsRunThroughTheirStates_13 : ∃ s : State, ∃ slot : Fin 512,
  let j := jobOf s slot.val
  (j.st = .done ∨ j.st = .failed) ∧
  j.finalTs + 4000 ≤ s.tb.master :=
  ⟨tbOf (withJobs prt [(0, { jobA with st := .done })]) (fun x => { x with master := 4000 }), 0, by
  refine ⟨?_, ?_⟩ <;> decide +kernel⟩


theorem wit_JobsRunThroughTheirStates_14 : ∃ s : State, ∃ slot : Fin 512,
  let j := jobOf s slot.val
  (s.tb.master < j.finalTs + 4000 ∨ (j.st ≠ .done ∧ j.st ≠ .failed)) :=
  ⟨tbOf (withJobs prt [(0, { jobA with st := .done })]) (fun x => { x with master := 3999 }), 0, by decide +kernel⟩


/-! PartitionsAndTables -/

theorem wit_PartitionsAndTables_1 : ∃ s : State, ∃ h : Fin 4, ∃ p : Fin 8,
  let x := partOf s p.val
  linked s (.host h) = true ∧
  isReady s = true ∧
  s.saf.latch = false ∧
  ownerOf (partOf s p.val) = some h.val ∧
  x.mmuCopy.isSome :=
  ⟨copying, 0, 0, by
  refine ⟨?_, ?_, ?_, ?_, ?_⟩ <;> decide +kernel⟩


theorem wit_PartitionsAndTables_2 : ∃ s : State, ∃ h : Fin 4, ∃ p : Fin 8,
  let x := partOf s p.val
  linked s (.host h) = true ∧
  isReady s = true ∧
  s.saf.latch = false ∧
  ownerOf (partOf s p.val) = some h.val ∧
  x.mmuCopy = none :=
  ⟨cachedTc, 0, 0, by
  refine ⟨?_, ?_, ?_, ?_, ?_⟩ <;> decide +kernel⟩


theorem wit_PartitionsAndTables_3 : ∃ s : State, ∃ h : Fin 4, ∃ p : Fin 8,
  let x := partOf s p.val
  linked s (.host h) = true ∧
  isReady s = true ∧
  s.saf.latch = false ∧
  ownerOf (partOf s p.val) = some h.val ∧
  x.mmuCopy = none ∧
  mmuReason s p.val (mmuReg s p.val 0x100 + mmuReg s p.val 0x104 * 2 ^ 32) (mmuReg s p.val 0x108 + mmuReg s p.val 0x10C * 2 ^ 32) (mmuReg s p.val 0x110) = 0 :=
  ⟨copyAsk, 0, 0, by
  refine ⟨?_, ?_, ?_, ?_, ?_, ?_⟩ <;> decide +kernel⟩


theorem wit_PartitionsAndTables_4 : ∃ s : State, ∃ h : Fin 4, ∃ p : Fin 8,
  let x := partOf s p.val
  linked s (.host h) = true ∧
  isReady s = true ∧
  s.saf.latch = false ∧
  ownerOf (partOf s p.val) = some h.val ∧
  x.mmuCopy = none ∧
  mmuReason s p.val (mmuReg s p.val 0x100 + mmuReg s p.val 0x104 * 2 ^ 32) (mmuReg s p.val 0x108 + mmuReg s p.val 0x10C * 2 ^ 32) (mmuReg s p.val 0x110) ≠ 0 :=
  ⟨prt, 0, 0, by
  refine ⟨?_, ?_, ?_, ?_, ?_, ?_⟩ <;> decide +kernel⟩


theorem wit_PartitionsAndTables_5 : ∃ s : State, ∃ p : Fin 8,
  isReady s = true ∧
  (partOf s p.val).mmuCopy.isSome :=
  ⟨copying, 0, by
  refine ⟨?_, ?_⟩ <;> decide +kernel⟩

theorem wit_PartitionsAndTables_6 : ∃ s : State, ∃ h : Fin 4, ∃ p : Fin 8, ∃ v : Nat,
  linked s (.host h) = true ∧
  isReady s = true ∧
  s.saf.latch = false ∧
  ownerOf (partOf s p.val) = some h.val ∧
  v % 4 = 1 ∧
  (partOf s p.val).tblOp.isSome :=
  ⟨tabling prt (tblOpA 2 0 []), 0, 0, 1, by
  refine ⟨?_, ?_, ?_, ?_, ?_, ?_⟩ <;> decide +kernel⟩


theorem wit_PartitionsAndTables_7 : ∃ s : State, ∃ h : Fin 4, ∃ p : Fin 8, ∃ v : Nat,
  linked s (.host h) = true ∧
  isReady s = true ∧
  s.saf.latch = false ∧
  ownerOf (partOf s p.val) = some h.val ∧
  v % 4 = 1 ∧
  (partOf s p.val).tblOp = none ∧
  tblRefusal s p.val 1 (bits v 8 4) ≠ 0 :=
  ⟨prt, 0, 0, 1, by
  refine ⟨?_, ?_, ?_, ?_, ?_, ?_, ?_⟩ <;> decide +kernel⟩


theorem wit_PartitionsAndTables_8 : ∃ s : State, ∃ h : Fin 4, ∃ p : Fin 8, ∃ v : Nat,
  linked s (.host h) = true ∧
  isReady s = true ∧
  s.saf.latch = false ∧
  ownerOf (partOf s p.val) = some h.val ∧
  v % 4 = 1 ∧
  (partOf s p.val).tblOp = none ∧
  tblRefusal s p.val 1 (bits v 8 4) = 0 :=
  ⟨ringed prt, 0, 0, 1, by
  refine ⟨?_, ?_, ?_, ?_, ?_, ?_, ?_⟩ <;> decide +kernel⟩


theorem wit_PartitionsAndTables_9 : ∃ s : State, ∃ h : Fin 4, ∃ p : Fin 8, ∃ v : Nat,
  linked s (.host h) = true ∧
  isReady s = true ∧
  s.saf.latch = false ∧
  ownerOf (partOf s p.val) = some h.val ∧
  v % 4 = 2 ∧
  (partOf s p.val).tblOp.isSome :=
  ⟨tabling prt (tblOpA 2 0 []), 0, 0, 2, by
  refine ⟨?_, ?_, ?_, ?_, ?_, ?_⟩ <;> decide +kernel⟩


theorem wit_PartitionsAndTables_10 : ∃ s : State, ∃ h : Fin 4, ∃ p : Fin 8, ∃ v : Nat,
  linked s (.host h) = true ∧
  isReady s = true ∧
  s.saf.latch = false ∧
  ownerOf (partOf s p.val) = some h.val ∧
  v % 4 = 2 ∧
  (partOf s p.val).tblOp = none ∧
  tblRefusal s p.val 2 (bits v 8 4) ≠ 0 :=
  ⟨prt, 0, 0, 2, by
  refine ⟨?_, ?_, ?_, ?_, ?_, ?_, ?_⟩ <;> decide +kernel⟩


theorem wit_PartitionsAndTables_11 : ∃ s : State, ∃ h : Fin 4, ∃ p : Fin 8, ∃ v : Nat,
  linked s (.host h) = true ∧
  isReady s = true ∧
  s.saf.latch = false ∧
  ownerOf (partOf s p.val) = some h.val ∧
  v % 4 = 2 ∧
  (partOf s p.val).tblOp = none ∧
  tblRefusal s p.val 2 (bits v 8 4) = 0 :=
  ⟨tblHeld, 0, 0, 0x302, by
  refine ⟨?_, ?_, ?_, ?_, ?_, ?_, ?_⟩ <;> decide +kernel⟩


theorem wit_PartitionsAndTables_12 : ∃ s : State, ∃ h : Fin 4, ∃ p : Fin 8, ∃ v : Nat,
  linked s (.host h) = true ∧
  isReady s = true ∧
  s.saf.latch = false ∧
  ownerOf (partOf s p.val) = some h.val ∧
  v % 4 = 3 ∧
  (partOf s p.val).tblOp.isSome :=
  ⟨tabling prt (tblOpA 2 0 []), 0, 0, 3, by
  refine ⟨?_, ?_, ?_, ?_, ?_, ?_⟩ <;> decide +kernel⟩


theorem wit_PartitionsAndTables_13 : ∃ s : State, ∃ h : Fin 4, ∃ p : Fin 8, ∃ v : Nat,
  linked s (.host h) = true ∧
  isReady s = true ∧
  s.saf.latch = false ∧
  ownerOf (partOf s p.val) = some h.val ∧
  v % 4 = 3 ∧
  (partOf s p.val).tblOp = none ∧
  tblRefusal s p.val 3 (bits v 8 4) ≠ 0 :=
  ⟨prt, 0, 0, 3, by
  refine ⟨?_, ?_, ?_, ?_, ?_, ?_, ?_⟩ <;> decide +kernel⟩


theorem wit_PartitionsAndTables_14 : ∃ s : State, ∃ h : Fin 4, ∃ p : Fin 8, ∃ v : Nat,
  linked s (.host h) = true ∧
  isReady s = true ∧
  s.saf.latch = false ∧
  ownerOf (partOf s p.val) = some h.val ∧
  v % 4 = 3 ∧
  (partOf s p.val).tblOp = none ∧
  tblRefusal s p.val 3 (bits v 8 4) = 0 :=
  ⟨tblHeld, 0, 0, 0x303, by
  refine ⟨?_, ?_, ?_, ?_, ?_, ?_, ?_⟩ <;> decide +kernel⟩


theorem wit_PartitionsAndTables_15 : ∃ s : State, ∃ p : Fin 8, ∃ o : TblOp,
  isReady s = true ∧
  (partOf s p.val).tblOp = some o ∧
  o.op = 1 ∧
  o.id < 16 :=
  ⟨tabling (ringed prt) (tblOpA 1 64 []), 0, tblOpA 1 64 [], by
  refine ⟨?_, ?_, ?_, ?_⟩ <;> decide +kernel⟩


theorem wit_PartitionsAndTables_16 : ∃ s : State, ∃ p : Fin 8, ∃ o : TblOp, ∃ d : List Byte,
  isReady s = true ∧
  (partOf s p.val).tblOp = some o ∧
  o.op = 1 ∧
  o.id < 16 ∧
  tblShapeBad s p.val o = true :=
  ⟨tabling (ringed prt) (tblOpA 1 262208 []), 0, tblOpA 1 262208 [], zeros 3, by
  refine ⟨?_, ?_, ?_, ?_, ?_⟩ <;> decide +kernel⟩


theorem wit_PartitionsAndTables_17 : ∃ s : State, ∃ p : Fin 8, ∃ o : TblOp, ∃ d : List Byte, ∃ w : State,
  let x := partOf s p.val
  let b := slice d 0 o.len
  isReady s = true ∧
  (partOf s p.val).tblOp = some o ∧
  o.op = 1 ∧
  o.id < 16 ∧
  tblShapeBad s p.val o = false ∧
  copyLines true p.val o.dst (chunk64 ((o.len + 63) / 64) b)
    (setPart p.val { x with tables := vset x.tables o.id { vget x.tables o.id {} with standby := none } } s) = (.ok (), w) ∧
  crc32c b = o.crc ∧
  ((List.range o.shards).all (tblShardOk o b)) = true :=
  ⟨tblLoading, 0, tblGood, tblImg, _, ⟨by decide +kernel, by decide +kernel, by decide +kernel, by decide +kernel, by decide +kernel, pair_ok (by decide +kernel), by decide +kernel, by decide +kernel⟩⟩


theorem wit_PartitionsAndTables_18 : ∃ s : State, ∃ p : Fin 8, ∃ o : TblOp,
  isReady s = true ∧
  (partOf s p.val).tblOp = some o ∧
  o.op ≠ 1 ∧
  o.id < 16 ∧
  o.waits.all (refEnded s) = false :=
  ⟨tabling (ringed jobRuns) (tblOpA 2 64 [⟨0, 0⟩]), 0, tblOpA 2 64 [⟨0, 0⟩], by
  refine ⟨?_, ?_, ?_, ?_, ?_⟩ <;> decide +kernel⟩


theorem wit_PartitionsAndTables_19 : ∃ s : State, ∃ p : Fin 8, ∃ o : TblOp,
  isReady s = true ∧
  (partOf s p.val).tblOp = some o ∧
  o.op ≠ 1 ∧
  o.id < 16 ∧
  o.waits.all (refEnded s) = true :=
  ⟨tabling (ringed jobRuns) (tblOpA 3 64 [⟨0, 1⟩]), 0, tblOpA 3 64 [⟨0, 1⟩], by
  refine ⟨?_, ?_, ?_, ?_, ?_⟩ <;> decide +kernel⟩


theorem wit_PartitionsAndTables_20 : ∃ s : State, ∃ p : Fin 8, ∃ since : Nat,
  (partOf s p.val).reset = some ⟨since⟩ ∧
  s.tb.master < since + 1000000 :=
  ⟨clearing 999999, 0, 0, by
  refine ⟨?_, ?_⟩ <;> decide +kernel⟩

theorem wit_PartitionsAndTables_21 : ∃ s : State, ∃ p : Fin 8, ∃ since : Nat,
  (partOf s p.val).reset = some ⟨since⟩ ∧
  since + 1000000 ≤ s.tb.master ∧
  (∀ e ∈ liveJobs s p.val, e.2.st = .done ∨ e.2.st = .failed) ∧
  prEn (recOf s p.val) = true :=
  ⟨clearing 1000000, 0, 0, by
  refine ⟨?_, ?_, ?_, ?_⟩ <;> decide +kernel⟩

theorem wit_PartitionsAndTables_22 : ∃ s : State, ∃ p : Fin 8, ∃ since : Nat,
  (partOf s p.val).reset = some ⟨since⟩ ∧
  since + 1000000 ≤ s.tb.master ∧
  (∀ e ∈ liveJobs s p.val, e.2.st = .done ∨ e.2.st = .failed) ∧
  prEn (recOf s p.val) = false :=
  ⟨setPart 0 { partOf (clearing 1000000) 0 with record := zeros 320 } (clearing 1000000), 0, 0, by
  refine ⟨?_, ?_, ?_, ?_⟩ <;> decide +kernel⟩

/-! PreemptionFaultsAndAborts -/

theorem wit_PreemptionFaultsAndAborts_1 : ∃ s : State, ∃ c : Fin 16, ∃ r : StopReq, ∃ y : Nat,
  let x := coreOf s c.val
  x.stop = some r ∧
  x.active = some y ∧
  isReady s = true ∧
  y < 8 ∧
  r.saving = false ∧
  (tctx (coreOf s c.val) y).st = .running ∧
  stopped (coreOf s c.val).run = true ∧
  jobFaulted s (tctx (coreOf s c.val) y).slot = false :=
  ⟨stopping false id, 0, ⟨1, 0, false⟩, 0, by
  refine ⟨?_, ?_, ?_, ?_, ?_, ?_, ?_, ?_⟩ <;> decide +kernel⟩

theorem wit_PreemptionFaultsAndAborts_2 : ∃ s : State, ∃ c : Fin 16, ∃ r : StopReq, ∃ y : Nat,
  let x := coreOf s c.val
  x.stop = some r ∧
  x.active = some y ∧
  isReady s = true ∧
  y < 8 ∧
  r.saving = false ∧
  stopped (coreOf s c.val).run = false :=
  ⟨stopping false (fun r => { r with flight := [zeroFl] }), 0, ⟨1, 0, false⟩, 0, by
  refine ⟨?_, ?_, ?_, ?_, ?_, ?_⟩ <;> decide +kernel⟩

theorem wit_PreemptionFaultsAndAborts_3 : ∃ s : State, ∃ c : Fin 16, ∃ r : StopReq, ∃ y : Nat,
  let x := coreOf s c.val
  x.stop = some r ∧
  x.active = some y ∧
  isReady s = true ∧
  y < 8 ∧
  r.saving = false ∧
  jobFaulted s (tctx (coreOf s c.val) y).slot = true :=
  ⟨withJobs (stopping false id) [(0, { jobA with st := .draining })], 0, ⟨1, 0, false⟩, 0, by
  refine ⟨?_, ?_, ?_, ?_, ?_, ?_⟩ <;> decide +kernel⟩

theorem wit_PreemptionFaultsAndAborts_4 : ∃ s : State, ∃ c : Fin 16, ∃ r : StopReq, ∃ y : Nat,
  let x := coreOf s c.val
  x.stop = some r ∧
  x.active = some y ∧
  isReady s = true ∧
  y < 8 ∧
  r.saving = false ∧
  stopped (coreOf s c.val).run = true :=
  ⟨stopping false id, 0, ⟨1, 0, false⟩, 0, by
  refine ⟨?_, ?_, ?_, ?_, ?_, ?_⟩ <;> decide +kernel⟩

theorem wit_PreemptionFaultsAndAborts_5 : ∃ s : State, ∃ c : Fin 16, ∃ r : StopReq, ∃ y : Nat,
  let x := coreOf s c.val
  x.stop = some r ∧
  x.active = some y ∧
  isReady s = true ∧
  y < 8 ∧
  r.saving = false ∧
  (tctx (coreOf s c.val) y).st = .running ∧
  stopped (coreOf s c.val).run = false ∧
  s.tb.master * vget s.clk.k c.val 16 < r.since * vget s.clk.k c.val 16 + 256000 :=
  ⟨atMaster 15999 (stopping false (fun r => { r with flight := [zeroFl] })), 0, ⟨1, 0, false⟩, 0, by
  refine ⟨?_, ?_, ?_, ?_, ?_, ?_, ?_, ?_⟩ <;> decide +kernel⟩

theorem wit_PreemptionFaultsAndAborts_6 : ∃ s : State, ∃ c : Fin 16, ∃ r : StopReq, ∃ y : Nat,
  let x := coreOf s c.val
  x.stop = some r ∧
  x.active = some y ∧
  isReady s = true ∧
  y < 8 ∧
  r.saving = false ∧
  (tctx (coreOf s c.val) y).st = .running ∧
  stopped (coreOf s c.val).run = false ∧
  r.since * vget s.clk.k c.val 16 + 256000 ≤ s.tb.master * vget s.clk.k c.val 16 :=
  ⟨atMaster 16000 (stopping false (fun r => { r with flight := [zeroFl] })), 0, ⟨1, 0, false⟩, 0, by
  refine ⟨?_, ?_, ?_, ?_, ?_, ?_, ?_, ?_⟩ <;> decide +kernel⟩

theorem wit_PreemptionFaultsAndAborts_7 : ∃ s : State, ∃ c : Fin 16, ∃ r : StopReq, ∃ y : Nat,
  let x := coreOf s c.val
  x.stop = some r ∧
  x.active = some y ∧
  isReady s = true ∧
  y < 8 ∧
  r.saving = true ∧
  jobFaulted s (tctx (coreOf s c.val) y).slot = false :=
  ⟨stopping true id, 0, ⟨1, 0, true⟩, 0, by
  refine ⟨?_, ?_, ?_, ?_, ?_, ?_⟩ <;> decide +kernel⟩

theorem wit_PreemptionFaultsAndAborts_8 : ∃ s : State, ∃ c : Fin 16, ∃ r : StopReq, ∃ y : Nat,
  let x := coreOf s c.val
  x.stop = some r ∧
  x.active = some y ∧
  isReady s = true ∧
  y < 8 ∧
  r.saving = true ∧
  jobFaulted s (tctx (coreOf s c.val) y).slot = true :=
  ⟨withJobs (stopping true id) [(0, { jobA with st := .draining })], 0, ⟨1, 0, true⟩, 0, by
  refine ⟨?_, ?_, ?_, ?_, ?_, ?_⟩ <;> decide +kernel⟩

theorem wit_PreemptionFaultsAndAborts_9 : ∃ s : State, ∃ c : Fin 16, ∃ n : Nat,
  let x := coreOf s c.val
  isReady s = true ∧
  bestCtx s c.val = some n ∧
  x.active = none ∧
  x.stop = none ∧
  (tctx x n).st = .preempted ∧
  (tctx x n).saved = some {} ∧
  chryHdrOk (tctx x n) = true :=
  ⟨preempted, 0, 0, by
  refine ⟨?_, ?_, ?_, ?_, ?_, ?_, ?_⟩ <;> decide +kernel⟩

theorem wit_PreemptionFaultsAndAborts_10 : ∃ s : State, ∃ c : Fin 16, ∃ n : Nat,
  let x := coreOf s c.val
  isReady s = true ∧
  bestCtx s c.val = some n ∧
  x.active = none ∧
  x.stop = none ∧
  (tctx x n).st = .preempted ∧
  chryHdrOk (tctx x n) = false :=
  ⟨(onCore jobRuns 0 fun x => { x with ctx := vset x.ctx 0 { ctxA with st := .preempted, saved := some {} } }), 0, 0, by
  refine ⟨?_, ?_, ?_, ?_, ?_, ?_⟩ <;> decide +kernel⟩

theorem wit_PreemptionFaultsAndAborts_11 : ∃ s : State, ∃ i : Fin 24, ∃ agree : Bool,
  vget s.saf.weirs i.val [] = [] :=
  ⟨rdy, 3, true, by decide +kernel⟩


theorem wit_PreemptionFaultsAndAborts_12 : ∃ s : State, ∃ i : Fin 24, ∃ agree : Bool, ∃ f, ∃ rest,
  vget s.saf.weirs i.val [] = f :: rest ∧
  crossed s 23 f.ts = false :=
  ⟨atMaster 49 faulted, 3, true, faultF, [], by
  refine ⟨?_, ?_⟩ <;> decide +kernel⟩


theorem wit_PreemptionFaultsAndAborts_13 : ∃ s : State, ∃ i : Fin 24, ∃ agree : Bool, ∃ f, ∃ rest, ∃ slot, ∃ tg,
  vget s.saf.weirs i.val [] = f :: rest ∧
  crossed s 23 f.ts = true ∧
  f.isl = i.val ∧
  resetCode f.code = false ∧
  f.quiet = false ∧
  f.job = some ⟨slot, tg⟩ ∧
  tg = tagGen (jobOf s slot) ∧
  (jobOf s slot).st = .running ∧
  (f.code.job = .restartable ∨ f.code.job = .aborts) ∧
  (jobOf s slot).startTs ≤ f.ts ∧
  jobEnded s slot = false :=
  ⟨faulted, 3, true, faultF, ([] : List FaultRec), (0 : Nat), (0 : Nat), by
  refine ⟨?_, ?_, ?_, ?_, ?_, ?_, ?_, ?_, ?_, ?_, ?_⟩ <;> decide +kernel⟩


theorem wit_PreemptionFaultsAndAborts_14 : ∃ s : State, ∃ slot : Fin 512, ∃ u : Nat,
  let j := jobOf s slot.val
  (j.st ≠ .draining ∨ j.abortTo.contains u = false) :=
  ⟨jobRuns, 0, 3, by decide +kernel⟩


theorem wit_PreemptionFaultsAndAborts_15 : ∃ s : State, ∃ slot : Fin 512, ∃ u : Nat,
  let j := jobOf s slot.val
  j.st = .draining ∧
  j.abortTo.contains u = true ∧
  u = 32 :=
  ⟨jobD (fun j => { j with abortTo := [0, 32] }) (busy id), 0, 32, by
  refine ⟨?_, ?_, ?_⟩ <;> decide +kernel⟩


theorem wit_PreemptionFaultsAndAborts_16 : ∃ s : State, ∃ slot : Fin 512, ∃ u : Nat, ∃ n,
  let j := jobOf s slot.val
  j.st = .draining ∧
  j.abortTo.contains u = true ∧
  u < 16 ∧
  jobCtxAt j u = some n ∧
  (coreOf s u).active = some n ∧
  ((coreOf s u).run.flight.any (drains (coreOf s u).run)) = true :=
  ⟨jobD (fun j => { j with abortTo := [0, 32] }) (busy fun x => { x with run := { x.run with flight := [{ hostFl with done := true }] } }), 0, 0, 0, by
  refine ⟨?_, ?_, ?_, ?_, ?_, ?_⟩ <;> decide +kernel⟩


theorem wit_PreemptionFaultsAndAborts_17 : ∃ s : State, ∃ slot : Fin 512,
  let j := jobOf s slot.val
  (j.st ≠ .draining ∨ ∀ e ∈ j.draining, s.tb.master < e.2.2) :=
  ⟨jobD (fun j => { j with draining := [(0, 5, 1)] }) (busy id), 0, by decide +kernel⟩


theorem wit_PreemptionFaultsAndAborts_18 : ∃ s : State, ∃ slot : Fin 512, ∃ c, ∃ n, ∃ k, ∃ e,
  let j := jobOf s slot.val
  j.st = .draining ∧
  e ≤ s.tb.master ∧
  j.draining = [(c, n, e)] ∧
  c < 16 ∧
  (coreOf s c).active = some k ∧
  (coreOf s c).run.flight.length = 1 ∧
  (∀ f ∈ (coreOf s c).run.flight, f.d.commit = n) ∧
  (tctx (coreOf s c) k).st = .draining :=
  ⟨jobD (fun j => { j with draining := [(0, 5, 0)] }) (onCore (flying hostFl) 0 fun x => { x with ctx := vset x.ctx 0 { ctxA with st := .draining } }), 0, 0, 5, 0, 0, by
  refine ⟨?_, ?_, ?_, ?_, ?_, ?_, ?_, ?_⟩ <;> decide +kernel⟩


theorem wit_PreemptionFaultsAndAborts_19 : ∃ s : State, ∃ slot : Fin 512, ∃ k : EndCause,
  let j := jobOf s slot.val
  j.cause = some k ∧
  j.st = .draining ∧
  j.abortTo = [] ∧
  j.draining = [] ∧
  s.sel.handed = [] ∧
  j.silent = false ∧
  ((j.failRec ++ j.resRec).all fun r => crossed s islHst r.ev) = true ∧
  k.restart = true ∧
  j.restarts < j.restart ∧
  j.cancelled = false ∧
  j.noRestart = false ∧
  j.deadline = none :=
  ⟨jobD (fun j => { j with restart := 1 }) (busy id), 0, causeA, by
  refine ⟨?_, ?_, ?_, ?_, ?_, ?_, ?_, ?_, ?_, ?_, ?_, ?_⟩ <;> decide +kernel⟩

theorem wit_PreemptionFaultsAndAborts_20 : ∃ s : State, ∃ slot : Fin 512, ∃ k : EndCause,
  let j := jobOf s slot.val
  j.cause = some k ∧
  j.st = .draining ∧
  j.abortTo = [] ∧
  j.draining = [] ∧
  s.sel.handed = [] ∧
  j.silent = false ∧
  ((j.failRec ++ j.resRec).all fun r => crossed s islHst r.ev) = true ∧
  j.noRestart = true :=
  ⟨jobD (fun j => { j with restart := 1, noRestart := true }) (busy id), 0, causeA, by
  refine ⟨?_, ?_, ?_, ?_, ?_, ?_, ?_, ?_⟩ <;> decide +kernel⟩

theorem wit_PreemptionFaultsAndAborts_21 : ∃ s : State, ∃ slot : Fin 512,
  let j := jobOf s slot.val
  isReady s = true ∧
  j.st = .running ∧
  wdCycles j = 65536 :=
  ⟨withJobs prt [(0, { jobA with wd := 65536 * 5 })], 0, by
  refine ⟨?_, ?_, ?_⟩ <;> decide +kernel⟩

theorem wit_PreemptionFaultsAndAborts_22 : ∃ s : State, ∃ slot : Fin 512,
  (isReady s = false ∨ (jobOf s slot.val).st ≠ .running ∨ wdCycles (jobOf s slot.val) ≠ 65536) :=
  ⟨rdy, 0, by decide +kernel⟩

theorem wit_PreemptionFaultsAndAborts_23 : ∃ s : State, ∃ h : Fin 4, ∃ p, ∃ slot : Nat, ∃ j : Job,
  p < 8 ∧
  ownerOf (partOf s p) = some h.val ∧
  s.hst.jobs = [(slot, j)] ∧
  j.part = p ∧
  j.st = .running :=
  ⟨jobRuns, 0, 0, 0, jobA, by
  refine ⟨?_, ?_, ?_, ?_, ?_⟩ <;> decide +kernel⟩


/-! SafePinsInvariant -/

theorem wit_SafePinsInvariant_1 : ∃ s : State, ∃ t : State,
  LowWhenUnsafe s ∧
  step s = .next t :=
  ⟨unsafeS, _, ⟨(fun _ => ⟨rfl, rfl⟩), rfl⟩⟩

/-! ControlCoreWordsDecode -/

theorem wit_ControlCoreWordsDecode_1 : ∃ op : RvOp,
  rvOk op = true :=
  ⟨.alu .add 31 1 2, by decide +kernel⟩

/-! ### Ill-formed commands are refused -/

theorem test_wf_address : (Instr.registerWrite (.host 0) (2 ^ 26) 4 0).wf = false := by decide
theorem test_wf_size : (Instr.rcRead .dbg 0 9).wf = false ∧ (Instr.rcRead .dbg 0 0).wf = false := by decide
theorem test_wf_value : (Instr.apertureWrite (.host 0) 0 1 256).wf = false := by decide
theorem test_wf_od_index : (Instr.odRead (.can 0) (2 ^ 16) 0).wf = false := by decide
theorem test_wf_od_sub : (Instr.odWrite (.can 0) 0 256 []).wf = false := by decide
theorem test_wf_od_length : (Instr.odWrite (.can 0) 0 0 (List.replicate 32769 0)).wf = false := by decide +kernel
theorem test_wf_record_sub : (Instr.partitionRecordWrite (.can 0) 256 []).wf = false := by decide
theorem test_wf_record_length : (Instr.partitionRecordWrite (.can 0) 1 (List.replicate 32769 0)).wf = false := by decide +kernel
theorem test_wf_byte : (Instr.safeAck (.can 0) 256).wf = false := by decide
theorem test_wf_latch_key : (Instr.latchClear (.can 0) (2 ^ 32)).wf = false := by decide
theorem test_wf_word : (Instr.poseCommit (.host 0) (2 ^ 32)).wf = false := by decide
theorem test_wf_doorbell : (Instr.sqDoorbell (.host 0) 0 (2 ^ 32)).wf = false := by decide
theorem test_wf_dbgap : (Instr.dbgapRead (2 ^ 24)).wf = false ∧ (Instr.dbgapWrite 0 (2 ^ 32)).wf = false := by decide
theorem test_wf_node : (Instr.nmtStart 0 128).wf = false := by decide
theorem test_wf_line : (Instr.dirAgentWrite 0 (List.replicate 63 0)).wf = false := by decide

/-! ### Worked examples of the spec -/

/-- Entry A's features, channel 0 first (example after R153). -/
def featA : List Nat := [0, 0xB800, 0xB800, 0x3640, 0x503A] ++ List.replicate 11 0
def groupA : List Byte := [0x0D, 0x21, 0x43, 0, 0xB8, 0, 0xB8, 0x40, 0x36, 0x3A, 0x50]

/-- The example of R152. -/
theorem test_sg16_encode : sg16Enc 0x15 featA = groupA := by decide +kernel
theorem test_sg16_decode : sg16Dec 0x15 groupA = featA := by decide +kernel

/-- The tile record of the example after R228: three sites, group lengths 11, 1 and 9. -/
theorem test_tile_record :
    (tileRecord 0x200 1 [[groupA], [[0]], [[9, 0x30, 4, 0, 0x3C, 0, 0xC1, 0x40, 0x36]]]).take 24 =
      [0, 2, 0, 0, 0x15, 0, 3, 1, 2, 0, 0, 0, 0, 0, 0, 0x17, 0, 0, 0x0B, 0x80, 0x0C, 0, 0, 0] := by decide +kernel

/-- The point (33.75, 0, 2) of the example in chapter 04: indices, key, coordinate record, key of level 1. -/
theorem test_voxel_index :
    voxIdx 0xC3000000 0x43000000 0x41200000 65535 0x42070000 = some 1617 ∧
      voxIdx 0xC3000000 0x43000000 0x41200000 65535 0 = some 1280 ∧ voxIdx 0xC1000000 0x43000000 0x41200000 4095 0x40000000 = some 100 := by
  decide +kernel
theorem test_voxel_key :
    leBytes 8 (voxKey 1617 1280 100 0) = [0x51, 6, 0, 5, 0x64, 0, 0, 0] ∧
      leBytes 6 (keyUp (voxKey 1617 1280 100 0)) = [0x28, 3, 0x80, 2, 0x32, 0x10] ∧
      keyUp (voxKey 1616 1281 100 0) = keyUp (voxKey 1617 1280 100 0) := by decide +kernel

/-- R78 and R92 on the example point: range 32 m ahead, the transform of the example. -/
theorem test_deskew :
    let r := deskewRec (odPut 0x23A0 1 (zeros 120 ++ [0, 0, 0, 0, 0, 0, 0x80, 0x3F]) (odPut 0x23A0 2 [0, 0, 0, 0, 0, 0, 0x80, 0x3F] rdy))
      ⟨3, 15, 0, 0x42000000, 100, 0, false, false, 25,
        [0x3F800000, 0, 0, 0x3FE00000, 0, 0x3F800000, 0, 0, 0, 0, 0x3F800000, 0x40000000], 1000⟩
    (r.x, r.y, r.z, r.int, r.colw, r.row, r.slice) = (0x42070000, 0, 0x40000000, 100, 0, 15, 25) := by decide +kernel

/-- R150 on the example: pass sum 50 − 36 − 28 on a bias of 20, exponent −3, scale 2.0. -/
def passEx : Pass :=
  { mmp := false, afmt := 0, wfmt := 8, tile := 0, init := 0, epi := false, wsrc := false, cisOff := 0, cstride := 4, k := 3, m := 1,
    n := 7, a0 := 0, a1 := 0, wtOff := 0, substride := 0, paramOff := 0, epiOff := 0 }
def tileEx : List (List Byte) :=
  [zeros 5 ++ [5, 1] ++ zeros 57, zeros 5 ++ [12, 2] ++ zeros 57, zeros 5 ++ [0xFC, 3] ++ zeros 57] ++ List.replicate 61 (zeros 64) ++
    [leBytes 4 6 ++ zeros 4 ++ leBytes 4 14 ++ zeros 4 ++ leBytes 4 0xFFFFFFFF ++ zeros 44]
def rowsEx : List (Nat × Nat) := [(0, 10), (1, 0xFD), (2, 7)]
theorem test_requantise :
    passSum passEx tileEx rowsEx 5 = some 0xFFFFFFF2 ∧
      step123 passEx ⟨List.replicate 64 0x40000000, [-3, 0, 0, 0]⟩ 5 6 = 0x3FC00000 ∧ convTo 0 none false 0x3FC00000 = 2 := by
  decide +kernel

/-- R219 on the example in chapter 08: `S` and `P` are 11; the flipped product makes `S` 75. -/
theorem test_abft :
    abftOf passEx tileEx rowsEx 0 [0xFFFFFFF2, 25] = ⟨11, 11, 0, 3, 2⟩ ∧ passSum passEx tileEx rowsEx 6 = some 25 ∧
      abftCheck true (abftOf passEx tileEx rowsEx 0 [0xFFFFFFF2, 89]) = .fail false := by decide +kernel

/-- R141: the spec's conversion. -/
theorem test_convert : itof32 16777217 = 0x4B800000 := by decide +kernel

/-- The box record of R298's example. -/
def boxQ : BoxReq := ⟨0, 64, 6, 0, false, true, false, 256, 256, 2, 10, 0xC2800000, 0xC2800000, 0, 0x3F000000, 0, 0, 0⟩
def boxRow : List Byte :=
  ([0x3E800000, 0x3F000000, 0x3F600000, 0x40000000, 0x3F800000, 0x3F000000, 0x3F800000, 0, 0x40200000, 0xBF000000] : List Nat).flatMap
    (leBytes 4)
def boxEx : Option BoxD := decodeBox boxQ (zeros 64) boxRow 3 ⟨99028, scoreKey false 0x3F500000, 0x3F500000⟩
theorem test_box :
    boxEx.map (fun b => (boxRecord true ([3] ++ zeros 63) 0x010507 0x1234 2 b).take 0x30) = some
      [0, 0x80, 0x28, 0x42, 0, 0, 0xA0, 0x3F, 0, 0, 0x60, 0x3F, 0xDB, 0x0F, 0xC9, 0x3F, 0, 0x44, 0, 0x40, 0xA8, 0x3D, 0x80, 0x3A,
        0, 0x41, 0, 0xB8, 1, 4, 1, 0, 0xD4, 0x82, 1, 0, 3, 0, 2, 0, 7, 5, 1, 0, 0x34, 0x12, 0, 0] := by decide +kernel

/-- The emergency frame of R489's example. -/
theorem test_emergency :
    emcyBytes ⟨0x0701, 1, 9, 2, 0x1A2B3C4E00895440, []⟩ =
      [7, 0xFF, 1, 0, 1, 7, 9, 2, 0x40, 0x54, 0x89, 0, 0x4E, 0x3C, 0x2B, 0x1A] := by decide +kernel

/-- The journal record of the example in chapter 19, but for its CRC. -/
theorem test_journal_record :
    jrecBody { seq := 312, isl := 5, kind := 1, code := 0x0501, ts := 0x1A2B3C4E000F4A3D, tag := 0x05004203, flags := 1,
               a0 := 57 + 5 * 2 ^ 32, a1 := 0x4B80000000, a2 := 11, jseq := 139072 } =
      [0x38, 1, 0, 0, 5, 1, 1, 5, 0x3D, 0x4A, 0x0F, 0, 0x4E, 0x3C, 0x2B, 0x1A, 3, 0x42, 0, 5, 1, 0, 0, 0, 0x39, 0, 0, 0, 5, 0, 0, 0,
        0, 0, 0, 0x80, 0x4B, 0, 0, 0, 0x0B, 0, 0, 0, 0, 0, 0, 0, 0x40, 0x1F, 2, 0] ++ zeros 8 := by decide +kernel

/-- The canonical example of chapter 12 and its template's four patch entries. -/
def canonW : List Word :=
  [0x01000001, 0x00000143, 0x00000100, 0x00400080, 0x0100004C, 0, 0, 0x80000200, 0, 0, 0, 0x40100000, 0x01000100, 0x00800001, 0x400, 0x440]
theorem test_descriptor :
    passOf canonW = ⟨false, 0, 0, 0, 1, false, false, 0, 64, 64, 128, 64, 0x100, 1, 0x400, 0, 0x440, 0⟩ ∧
      depsOf 0x143 = [⟨0x43, false, 1⟩] ∧ descCheck canonW = 0 := by decide +kernel
theorem test_template_patch :
    let preg : Nat → Word := fun i => if i = 5 then 0x100 else if i = 6 then 0x1000 else 0x400
    let w := [0x0031600C, 0x003160E3, 0x00319E0B, 0x0031E0E7].foldl (patchWord preg) canonW
    (w.getD 3 0, w.getD 7 0, w.getD 11 0, w.getD 12 0) = (0x00800080, 0x81000200, 0x40101000, 0x01000200) := by decide +kernel

/-- The job entry of the example in chapter 15. -/
theorem test_bindings : bindOf 0x0000123400000001 = some (.stream 0 false 0x1234) ∧
    bindOf 0x0000123000000101 = some (.stream 1 false 0x1230) := by decide +kernel

/-- The PLD of chapter 03's example sensor, point 15 of block 3. -/
def pldEx : List Byte :=
  ([0x1F080430, 0x00840010, 0x00040004, 0xC4000000, 0x84000000, 0, 0xC2000002, 0xC2008003, 0x4A000000, 0, 0, 0x3B83126F, 0x3F000000,
    0x437A0000, 0x000E9046, 0x00110018, 0, 0, 0x5F5E, 0, 0] : List Nat).flatMap (leBytes 4) ++ zeros 44
def payEx : List Byte := zeros 476 ++ [0x40, 0x1F, 0x64, 0] ++ zeros 592
theorem test_point_decode :
    decodePoint (odPut 0x2303 9 [32] (odPut 0x2303 0x0A [0, 8] rdy)) 3 ⟨pldEx⟩ payEx 2000000 1000000 3 15 =
      some (some ⟨1073242, 15, 0, 0x42000000, 100, 0⟩) := by decide +kernel

/-- Control-core words, from the base ISA's formats (R323) and R333's table. -/
theorem test_rv_words :
    rv32 0b00000000001000001000111110110011 = some (.alu .add 31 1 2) ∧
      rv32 0b01000000001000001000111110110011 = some (.alu .sub 31 1 2) ∧
      rv32 0b11111111110000001010111110000011 = some (.load 4 true 31 1 (-4)) ∧
      rv32 0b00000010001000001101111110110011 = some (.alu .divu 31 1 2) ∧
      rv32 0b00000000001000001001000010100011 = some (.store 2 1 2 1) ∧
      rv32 0b00010000000000001010001010101111 = some (.lr 5 1) := by decide +kernel
theorem test_device_words :
    rv32 0b00000000111100001000000000001011 = some (.qpush 1 15) ∧ rv32 0b00000010000000000001001010001011 = some (.qcommitT 5 0) ∧
      rv32 0b00000000001000001010000000001011 = some (.swait 1 2) ∧ rv32 0b00000010000000000101001010001011 = some (.tsrdHi 5) ∧
      rv32 0b00000000100000000100001010001011 = some (.redrd 5 8) ∧ rv32 0b00000000111100001000000010001011 = none := by decide +kernel

end Sys2Proof.Tests
end

/-! ## Registers of BAR0 -/

namespace Sys2Proof.Machine

/-! ### What a command completes with -/

/-- A command completes with what holds of the state that it answers. -/
theorem completes_iff {i : Instr} {s u : State} {P : State → Prop} (h : exec i s = .next u) : Completes i s P ↔ P u :=
  ⟨fun ⟨_, ht, p⟩ => Host.Outcome.next.inj (h.symm.trans ht) ▸ p, fun p => ⟨u, h, p⟩⟩

section
variable {r : Requester} {a n v : Nat} {s : State} {P : State → Prop}

theorem completes_rcRead : Completes (.rcRead r a n) s P ↔ P (barRead r a n s) := completes_iff rfl

theorem completes_pairLoRead : Completes (.pairLoRead r a n) s P ↔ P (barRead r a n s) := completes_iff rfl

theorem completes_registerWrite : Completes (.registerWrite r a n v) s P ↔ P (barWrite r a n v s) := completes_iff rfl

theorem completes_pairHiWrite : Completes (.pairHiWrite r a n v) s P ↔ P (barWrite r a n v s) := completes_iff rfl

theorem completes_packetParse {m : Fin 9} : Completes (.packetParse m) s P ↔ P (packetParse m.val s) := completes_iff rfl

theorem completes_deskewPoint : Completes .deskewPoint s P ↔ P (deskewPoint s) := completes_iff rfl

end

/-! ### Counters -/

section
variable (s : State)

theorem regPut_frame (k : Nat) (v : Word) : ∃ g, regPut k v s = { s with regs := g } := ⟨_, rfl⟩

/-- Counting changes the stored registers only. -/
theorem regCount_frame (k d : Nat) : ∃ g, regCount k d s = { s with regs := g } := ⟨_, rfl⟩

theorem ignWrite_frame (r : Requester) : ∃ g, ignWrite r s = { s with regs := g } := regCount_frame s _ 1

theorem denyAccess_frame (r : Requester) : ∃ g, denyAccess r s = { s with regs := g } := regCount_frame s _ 1

theorem regGet_count_self (k d : Nat) :
    (regGet (regCount k d s) k).toNat = min ((regGet s k).toNat + d) (2 ^ 32 - 1) := by
  rw [regCount, regGet_put_self, BitVec.toNat_ofNat, satAdd]
  exact Nat.mod_eq_of_lt (by omega)

theorem regGet_count_ne {k j : Nat} (h : j ≠ k) (d : Nat) : regGet (regCount k d s) j = regGet s j :=
  regGet_put_ne s h _

/-- A counter never falls, and no other register moves (R20). -/
theorem regGet_le_count (k d j : Nat) : (regGet s j).toNat ≤ (regGet (regCount k d s) j).toNat := by
  by_cases h : j = k
  · subst h
    have := (regGet s j).isLt
    rw [regGet_count_self]; omega
  · rw [regGet_count_ne s h]

end

/-! ### The address map (R37) -/

/-- First address of a block. -/
def blkBase : Blk → Nat
  | .glb | .reserved => 0
  | .hst => 0x10000
  | .mbx => 0x20000
  | .prt p => 0x100000 + 0x20000 * p
  | .ing => 0x200000
  | .vox => 0x280000
  | .sel => 0x300000
  | .saf => 0x400000
  | .img => 0x500000
  | .kc c => 0x1000000 + 0x100000 * c

/-- The blocks that the address map holds. -/
def blkMapped : Blk → Prop
  | .prt p => p < 8
  | .kc c => c < 16
  | .reserved => False
  | _ => True

theorem blkOf_base {b : Blk} {o : Nat} (hb : blkMapped b) (ho : o < 0x10000) : blkOf (blkBase b + o) = (b, o) := by
  cases b <;> simp only [blkMapped, blkBase] at * <;> unfold blkOf <;>
    simp (disch := omega) only [if_neg, if_pos, Prod.mk.injEq, Blk.prt.injEq, Blk.kc.injEq, true_and] <;> omega

theorem eq_base_add {a : Nat} (h : (blkOf a).1 ≠ .reserved) :
    blkMapped (blkOf a).1 ∧ a = blkBase (blkOf a).1 + (blkOf a).2 := by
  revert h
  fun_cases blkOf <;> simp [blkMapped, blkBase] <;> omega

/-- An offset below 64 KiB stays in its block. -/
theorem blkOf_add {a d : Nat} (hb : (blkOf a).1 ≠ .reserved) (ho : (blkOf a).2 + d < 0x10000) :
    blkOf (a + d) = ((blkOf a).1, (blkOf a).2 + d) := by
  obtain ⟨hm, ha⟩ := eq_base_add hb
  conv_lhs => rw [ha, Nat.add_assoc]
  exact blkOf_base hm ho

/-- The first 512 KiB of a core's window hold no aperture (R172). -/
theorem aperOf_none {a : Nat} (hb : (blkOf a).1 ≠ .reserved) (ho : (blkOf a).2 < 0x80000) : aperOf a = none := by
  obtain ⟨hm, ha⟩ := eq_base_add hb
  generalize (blkOf a).1 = b at *
  rw [aperOf, if_neg]
  cases b <;> simp only [blkMapped, blkBase] at * <;> omega

theorem blkOf_glb {a : Nat} (h : a < 0x10000) : blkOf a = (.glb, a) := by rw [blkOf, if_pos h]

theorem aperOf_glb {a : Nat} (h : a < 0x10000) : aperOf a = none := if_neg (by omega)

/-! ### RC registers and their peek aliases (R17, R18) -/

/-- From 16 KiB up a block holds RC registers in SAF alone: CLK's and PWR's. -/
theorem rc_high {b : Blk} {o : Nat} (h : blkRc b o = true) : o < 0x4000 ∨ b = .saf ∧ (o = 0x8004 ∨ o = 0x9008) := by
  cases b <;> simp only [blkRc, hstRc, prtRc, ingRc, voxRc, selRc, safRc, kcRc, confReg, List.contains_eq_mem,
    List.mem_cons, List.not_mem_nil, Bool.or_eq_true, Bool.and_eq_true, decide_eq_true_eq, beq_iff_eq, or_false,
    Bool.false_eq_true] at h <;> simp <;> omega

theorem rc_lt {b : Blk} {o : Nat} (h : blkRc b o = true) : o < 0xA000 := by
  rcases rc_high h with h | ⟨-, h | h⟩ <;> omega

/-- A peek address is no RC register. -/
theorem rc_alias {b : Blk} {o : Nat} (h : blkRc b o = true) : blkRc b (o + 0x4000) = false := by
  rw [Bool.eq_false_iff]
  intro h'
  rcases rc_high h' with h' | ⟨rfl, h' | h'⟩
  · omega
  · obtain rfl : o = 0x4004 := by omega
    exact absurd h (by decide)
  · obtain rfl : o = 0x5008 := by omega
    exact absurd h (by decide)

theorem isPeek_rc {b : Blk} {o : Nat} (h : blkRc b o = true) : isPeek b o = false := by
  rw [Bool.eq_false_iff]
  intro hp
  simp only [isPeek, Bool.and_eq_true, decide_eq_true_eq] at hp
  obtain ⟨ho, hb⟩ := hp
  have := rc_alias hb
  rw [Nat.sub_add_cancel ho, h] at this
  exact Bool.noConfusion this

theorem isPeek_alias {b : Blk} {o : Nat} (h : blkRc b o = true) : isPeek b (o + 0x4000) = true := by
  simp [isPeek, h]

theorem rc_not_reserved {b : Blk} {o : Nat} (h : blkRc b o = true) : b ≠ .reserved := by
  rintro rfl; simp [blkRc] at h

/-- No pair begins from the last word below 16 KiB up to 64 KiB of a block. -/
theorem pair_mid {b : Blk} {o : Nat} (h1 : 0x3FFC ≤ o) (h2 : o < 0x10000) : blkPair b o = false := by
  rw [Bool.eq_false_iff]
  intro h
  cases b <;> simp only [blkPair, hstPair, prtPair, ingPair, safPair, kcPair, List.contains_eq_mem, List.mem_cons,
    List.not_mem_nil, Bool.or_eq_true, Bool.and_eq_true, decide_eq_true_eq, beq_iff_eq, or_false, Bool.false_eq_true] at h <;>
    omega

/-- No RC register is half of a pair. -/
theorem rc_not_pair {b : Blk} {o : Nat} (h : blkRc b o = true) : blkPair b o = false ∧ blkPairHi b o = false := by
  simp only [blkPairHi, Bool.eq_false_iff, ne_eq, Bool.and_eq_true, decide_eq_true_eq, ← not_or]
  intro hp
  cases b <;> simp only [blkRc, hstRc, prtRc, ingRc, voxRc, selRc, safRc, kcRc, confReg, blkPair, hstPair, prtPair, ingPair,
    safPair, kcPair, List.contains_eq_mem, List.mem_cons, List.not_mem_nil, Bool.or_eq_true, Bool.and_eq_true,
    decide_eq_true_eq, beq_iff_eq, or_false, and_false, Bool.false_eq_true] at h hp <;> omega

theorem alias_not_pair {b : Blk} {o : Nat} (h : blkRc b o = true) :
    blkPair b (o + 0x4000) = false ∧ blkPairHi b (o + 0x4000) = false := by
  have := rc_lt h
  exact ⟨pair_mid (by omega) (by omega), by rw [blkPairHi, pair_mid (by omega) (by omega), Bool.and_false]⟩

/-! ### Replies -/

@[simp] theorem setReply_reply (r : Requester) (v : Nat) (s : State) :
    (setReply r v s).reply = vset s.reply (reqCode r) (BitVec.ofNat 64 v) := rfl

@[simp] theorem regGet_setReply (r : Requester) (v k : Nat) (s : State) : regGet (setReply r v s) k = regGet s k := rfl

/-! ### Reads (R17, R18, R22, R38) -/

section
variable {s : State} {r : Requester} {b : Blk} {a o : Nat}

/-- A 32-bit access at a multiple of 4, outside the apertures, is served as its gate says. -/
theorem barRead_word (hl : linked s r = true) (hap : aperOf a = none) (h4 : a % 4 = 0) :
    barRead r a 4 s = match readGate s r (blkOf a).1 (blkOf a).2 with
      | .zero => setReply r 0 s
      | .deny => setReply r 0 (denyAccess r s)
      | .pass => read32 r (blkOf a).1 (blkOf a).2 a s := by
  cases hg : readGate s r (blkOf a).1 (blkOf a).2 <;> simp [barRead, hl, hap, h4, hg]

/-- A read at an address that is no multiple of 4 reads 0 where the block lets reads pass. -/
theorem barRead_unaligned (hl : linked s r = true) (hap : aperOf a = none) (h4 : a % 4 ≠ 0)
    (hg : readGate s r (blkOf a).1 (blkOf a).2 = .pass) : barRead r a 4 s = setReply r 0 s := by
  simp [barRead, hl, hap, h4, hg]

/-- An RC register read by its own address: cleared, but for the debug port (R17, R556). -/
theorem read32_rc (h : blkRc b o = true) :
    read32 r b o a s = setReply r ((blkView s r b o).getD 0) (if r = .dbg then s else rcClear r b o s) := by
  have hn : ¬ (b = .saf ∧ o = 0xA040) := by
    rintro ⟨rfl, rfl⟩; exact absurd (rc_lt h) (by decide)
  obtain ⟨hp, hq⟩ := rc_not_pair h
  by_cases hr : r = .dbg <;> simp [read32, hn, hp, hq, h, regShow, isPeek_rc h, hr]

/-- An RC register read by its peek address: nothing is cleared (R18). -/
theorem read32_alias (h : blkRc b o = true) :
    read32 r b (o + 0x4000) a s = setReply r ((blkView s r b o).getD 0) s := by
  have hn : ¬ (b = .saf ∧ o + 0x4000 = 0xA040) := by
    rintro ⟨rfl, ho⟩
    obtain rfl : o = 0x6040 := by omega
    exact absurd h (by decide)
  obtain ⟨hp, hq⟩ := alias_not_pair h
  rw [read32, if_neg hn]
  simp [hp, hq, rc_alias h, regShow, isPeek_alias h]

/-- Clearing a register sends no reply. -/
theorem rcClear_reply : (rcClear r b o s).reply = s.reply := by
  cases b with
  | hst | saf => simp only [rcClear]; split <;> rfl
  | mbx | img | reserved => rfl
  | _ => exact regPut_reply s _ _

/-- The peek address of an RC register lies behind the gate of the register. -/
theorem readGate_alias (h : blkRc b o = true) : readGate s r b (o + 0x4000) = readGate s r b o := by
  have hs : b = .hst → ringSetAt (o + 0x4000) = ringSetAt o := by
    rintro rfl
    simp [ringSetAt, isPeek_alias h, isPeek_rc h]
  cases b with
  | hst => simp only [readGate, hs rfl]
  | _ => rfl

end

/-! ### Reads of the counters of GLB and of the master (R17, R18, R22, R40, R61) -/

section
variable {s : State} {r : Requester} {o : Nat}

theorem glbRc_iff : blkRc .glb o = true ↔ o = 0x20 ∨ o = 0x24 := by simp [blkRc]

/-- The counters of GLB are stored for each requester (R40). -/
theorem glbView_counter (ho : o = 0x20 ∨ o = 0x24) :
    blkView s r .glb o = some (regGet s (rkey (1 + reqCode r) o)).toNat := by
  rcases ho with rfl | rfl <;> rfl

/-- A read of a GLB counter by its own address, and by its peek address below (R17, R18). -/
theorem barRead_glbCounter (hl : linked s r = true) (ho : o = 0x20 ∨ o = 0x24) :
    barRead r o 4 s = setReply r (regGet s (rkey (1 + reqCode r) o)).toNat
      (if r = .dbg then s else regPut (rkey (1 + reqCode r) o) 0 s) := by
  have hb : blkOf o = (.glb, o) := blkOf_glb (by omega)
  rw [barRead_word hl (aperOf_glb (by omega)) (by omega), hb]
  exact (read32_rc (glbRc_iff.mpr ho)).trans (by rw [glbView_counter ho]; rfl)

theorem barRead_glbAlias (hl : linked s r = true) (ho : o = 0x20 ∨ o = 0x24) :
    barRead r (0x4000 + o) 4 s = setReply r (regGet s (rkey (1 + reqCode r) o)).toNat s := by
  have hb : blkOf (0x4000 + o) = (.glb, o + 0x4000) := by rw [Nat.add_comm]; exact blkOf_glb (by omega)
  rw [barRead_word hl (aperOf_glb (by omega)) (by omega), hb]
  exact (read32_alias (glbRc_iff.mpr ho)).trans (by rw [glbView_counter ho]; rfl)

theorem smGet_latchPut_self (lo v : Nat) : smGet upZero (latchPut r lo v s).latch (pairKey r lo) = v :=
  smGet_set_self _ _ _ _

/-- A 32-bit read of the master's `_LO` latches the other word (R22). -/
theorem barRead_masterLo (hl : linked s r = true) : barRead r 0x400010 4 s =
    setReply r (s.tb.master % 2 ^ 32) (latchPut r 0x400010 (s.tb.master / 2 ^ 32 % 2 ^ 32) s) := by
  rw [barRead_word hl (by decide) (by decide)]
  rfl

/-- A 32-bit read of the master's `_HI` returns the latched word (R22). -/
theorem barRead_masterHi (hl : linked s r = true) : barRead r 0x400014 4 s =
    setReply r (smGet upZero s.latch (pairKey r 0x400010)) s := by
  rw [barRead_word hl (by decide) (by decide)]
  rfl

/-- A 64-bit read of the pair (R38). -/
theorem barRead_master64 (hl : linked s r = true) : barRead r 0x400010 8 s =
    setReply r (s.tb.master % 2 ^ 32 + 2 ^ 32 * (s.tb.master / 2 ^ 32 % 2 ^ 32))
      (latchPut r 0x400010 (s.tb.master / 2 ^ 32 % 2 ^ 32) s) := by
  unfold barRead
  rw [hl]
  rfl

theorem latchPut_frame (r : Requester) (lo v : Nat) (s : State) : ∃ l, latchPut r lo v s = { s with latch := l } := ⟨_, rfl⟩

end

/-! ### Writes (R17, R21, R22, R38, R364, R491) -/

section
variable {s : State} {r : Requester} {a v : Nat}

/-- A 32-bit write at a multiple of 4, outside the apertures. -/
theorem barWrite_word (hl : linked s r = true) (hap : aperOf a = none) (h4 : a % 4 = 0) :
    barWrite r a 4 v s = write32 r a (v % 2 ^ 32) s := by
  simp [barWrite, hl, hap, h4]

theorem not_latched (h : isReady s = true) : s.saf.latch = false := by
  rw [Bool.eq_false_iff]
  intro hl
  simp [isReady, devCode, hl] at h

/-- Before READY a block other than GLB, SAF, JNL and IMG is silent, under the latch it counts (R41, R460). -/
theorem blockGate_closed {k : State → State} (hl : linked s r = true) (h : isReady s = false) :
    blockGate r k s = if s.saf.latch then ignWrite r s else s := by
  simp [blockGate, hl, h]

theorem blockGate_open {k : State → State} (hl : linked s r = true) (h : isReady s = true) : blockGate r k s = k s := by
  simp [blockGate, hl, h, not_latched h]

end

section
variable {s : State} {h : Fin 4} {p : Fin 8} {v : Nat}

theorem smGet_stagePut_self (r : Requester) (lo v : Nat) (s : State) :
    smGet upZero (stagePut r lo v s).stage (pairKey r lo) = v :=
  smGet_set_self _ _ _ _

theorem stagePut_frame (r : Requester) (lo v : Nat) (s : State) : ∃ l, stagePut r lo v s = { s with stage := l } := ⟨_, rfl⟩

/-- The mailbox's address is written while no transfer is BUSY (R491). -/
theorem write32_mbxAddr (hr : isReady s = true) (hm : (mbxGet s h.val).state ≠ 1) :
    write32 (.host h) 0x20000 v s = mbxPut h.val { mbxGet s h.val with addr := v % 2 ^ 24 } s := by
  have hb : blkOf 0x20000 = (.mbx, 0) := by decide
  simp [write32, hb, mbxWrite, mbxOf, hr, hm]

/-- A write of a word of the submission ring's base (R364, R388): the gate of the block, the owner, the ring set disabled. -/
theorem barWrite_sqBase (p : Fin 8) (d : Nat) {a : Nat} (hl : linked s (.host h) = true) (hd : d = 0 ∨ d = 4)
    (ha : a = 0x11000 + 0x100 * p.val + d) :
    barWrite (.host h) a 4 v s = blockGate (.host h) (fun s =>
      if ownerOf (partOf s p.val) = some h.val then
        if (ringsOf s p.val).en then ignWrite (.host h) s else ringBase (.host h) p.val d a (v % 2 ^ 32) s
      else denyAccess (.host h) s) s := by
  have hp := p.isLt
  have hb : blkOf a = (.hst, 0x1000 + 0x100 * p.val + d) := by
    rw [show a = blkBase .hst + (0x1000 + 0x100 * p.val + d) by rw [blkBase]; omega]
    exact blkOf_base trivial (by omega)
  have hpk : isPeek .hst (0x1000 + 0x100 * p.val + d) = false := by
    simp [isPeek]; omega
  have hring : ringSetAt (0x1000 + 0x100 * p.val + d) = some p.val := by
    rw [ringSetAt, hpk, if_neg Bool.false_ne_true, ringAtOff, if_pos (by omega)]
    congr 1; omega
  have ho : (0x1000 + 0x100 * p.val + d) % 0x100 = d := by omega
  rw [barWrite_word hl (aperOf_none (by simp [hb]) (by simp [hb]; omega)) (by omega)]
  simp only [write32, hb, hstWrite, hring, hpk, ho, if_neg Bool.false_ne_true, ringWrite, ringGate,
    if_pos (show d < 0x1C by omega), if_neg (show d ≠ 0x18 by omega)]

/-- While the ring set is disabled its owner stages the low word (R22). -/
theorem barWrite_sqBaseLo (hl : linked s (.host h) = true) (hr : isReady s = true)
    (ho : ownerOf (partOf s p.val) = some h.val) (he : (ringsOf s p.val).en = false) :
    barWrite (.host h) (0x11000 + 0x100 * p.val) 4 v s = stagePut (.host h) (0x11000 + 0x100 * p.val) (v % 2 ^ 32) s := by
  rw [barWrite_sqBase p 0 hl (.inl rfl) (by omega), blockGate_open hl hr]
  simp [ho, he, ringBase]

/-- Its write of the high word commits both and unstages the low one (R22). -/
theorem barWrite_sqBaseHi (hl : linked s (.host h) = true) (hr : isReady s = true)
    (ho : ownerOf (partOf s p.val) = some h.val) (he : (ringsOf s p.val).en = false) :
    barWrite (.host h) (0x11004 + 0x100 * p.val) 4 v s = stagePut (.host h) (0x11000 + 0x100 * p.val) 0
      (setRings p.val { ringsOf s p.val with
        sqBase := smGet upZero s.stage (pairKey (.host h) (0x11000 + 0x100 * p.val)) + 2 ^ 32 * (v % 2 ^ 32) } s) := by
  have hlo : 0x11004 + 0x100 * p.val - 4 = 0x11000 + 0x100 * p.val := by omega
  rw [barWrite_sqBase p 4 hl (.inr rfl) (by omega), blockGate_open hl hr]
  simp [ho, he, ringBase, stageGet, hlo]

/-- A commit of a ring set's registers: the ring set, the staged word, and nothing else. -/
theorem commitRings_spec {p : Nat} (hp : p < 8) (r : Requester) (lo : Nat) (g : RingSet) (s : State) :
    let t := stagePut r lo 0 (setRings p g s)
    ringsOf t p = g ∧ smGet upZero t.stage (pairKey r lo) = 0 ∧ (∀ q, q ≠ p → partOf t q = partOf s q) ∧
      { t with stage := s.stage, parts := s.parts } = s := by
  intro t
  have hparts (q : Nat) : partOf t q = partOf (setRings p g s) q := by rw [partOf, stagePut_parts, partOf]
  refine ⟨?_, smGet_stagePut_self _ _ _ _, fun q hq => ?_, ?_⟩
  · rw [ringsOf, hparts, setRings, partOf_setPart_self s hp]
  · rw [hparts, setRings, partOf_setPart_ne s (Ne.symm hq)]
  · obtain ⟨l, hL⟩ := stagePut_frame r lo 0 (setRings p g s)
    simp only [t, hL]; rfl

end
end Sys2Proof.Machine

/-! ## Ingress -/

namespace Sys2Proof.Machine

/-! ### The parser and the deskew unit (R71 to R96) -/

section
variable {s : State} {c : Nat}

/-- A context with an open sweep is one of the 128. -/
theorem lt_of_sweepOpen (h : (ingCtx s c).sweepOpen = true) : c < 128 := by
  by_contra hc
  simp [ingCtx, vget, hc] at h

/-- The deskew queue stands where no summary is at its front, or VOX takes none (R531). -/
theorem flushSums_stay {l : List IngItem} (h : (∀ x r, l ≠ .sum x :: r) ∨ voxRoom s = false) : flushSums l s = s := by
  unfold flushSums
  split
  · rename_i x r
    rcases h with h | h
    · exact absurd rfl (h x r)
    · simp [h]
  · rfl

/-- No summary stands at the front of the deskew queue that VOX would take (R531). -/
def DeskewStands (s : State) : Prop :=
  s.ing.deskew = [] ∨ (∃ q l, s.ing.deskew = .pt q :: l) ∨ voxRoom s = false

/-- A point joins the end of the deskew queue. -/
theorem ingPut_pt (p : RawPt) (h : DeskewStands s) :
    ingPut (.pt p) s = { s with ing := { s.ing with deskew := s.ing.deskew ++ [.pt p] } } := by
  refine flushSums_stay ?_
  rcases h with h | ⟨q, l, h⟩ | h
  · exact .inl (by simp [h])
  · exact .inl (by simp [h])
  · exact .inr h

/-- A dropped packet leaves its mark in its context, and may raise INGRESS_DROP (R93). -/
theorem dropPacket_frame (c : Nat) (s : State) : ∃ x f tb,
    dropPacket c s = { s with ing := { s.ing with ctx := x }, saf := f, tb := tb } ∧
      ∀ d, (vget x d {}).pts = (ingCtx s d).pts ∧ (vget x d {}).sweepOpen = (ingCtx s d).sweepOpen := by
  unfold dropPacket
  by_cases h : ((ingCtx s c).sweepOpen && !(ingCtx s c).dropSeen) = true
  · have ho : (ingCtx s c).sweepOpen = true := (Bool.and_eq_true_iff.mp h).1
    have hc := lt_of_sweepOpen ho
    obtain ⟨w, q, l, n, y, hr⟩ := raise_frame (plainFault .ingressDrop islIng none)
      (setIngCtx c { ingCtx s c with dropSeen := true } s)
    refine ⟨vset s.ing.ctx c { ingCtx s c with dropSeen := true }, _, _, (if_pos h).trans hr, fun d => ?_⟩
    by_cases hd : d = c
    · subst hd
      rw [vget_vset_self _ _ _ _ hc]
      exact ⟨rfl, rfl⟩
    · rw [vget_vset_ne _ _ _ (Ne.symm hd)]
      exact ⟨rfl, rfl⟩
  · exact ⟨s.ing.ctx, s.saf, s.tb, if_neg h, fun _ => ⟨rfl, rfl⟩⟩

/-- The context of a point in the open slice, after the point. -/
def ctxAfterPoint (s : State) (c : Nat) (d : Decoded) : StreamCtx :=
  { ingCtx s c with uprev := colU s c d.col, silent := false, pts := (ingCtx s c).pts + 1 }

/-- A point that falls inside the open slice of the open sweep of a context and meets no boundary (R80, R84). -/
structure InOpenSlice (s : State) (c : Nat) (d : Decoded) (sl : SliceSt) : Prop where
  sweep : (ingCtx s c).sweepOpen = true
  within : ∀ mark, boundaryMet s c mark d = false
  running : sweepExpired s c = false
  slice : (ingCtx s c).slice = some sl
  start_le : sl.start ≤ d.t
  lt_end : d.t < sliceEnd s c sl
  posed : sl.nopose = false

/-- Such a point waits for the deskew unit. -/
theorem pointIn_inSlice {d : Decoded} {sl : SliceSt} (mark : Bool) (h : InOpenSlice s c d sl) (hq : DeskewStands s) :
    pointIn c mark d s = { s with
      ing := { s.ing with
        ctx := vset s.ing.ctx c (ctxAfterPoint s c d)
        deskew := s.ing.deskew ++
          [.pt ⟨c, d.row, d.col, d.range, d.int, d.ret, false, false, sl.idx, sl.xf, d.t % 2 ^ 32⟩] }
      hst := { s.hst with points := satAdd 64 s.hst.points 1 } } := by
  have hstep : boundaryStep c mark d s = s := by simp [boundaryStep, h.sweep, h.within, h.running]
  have hplace : slicePlace c d.t s = (some false, s) := by
    simp [slicePlace, h.slice, Nat.not_le.mpr h.lt_end, h.start_le]
  unfold pointIn
  simp only [hstep, if_pos h.sweep, hplace, h.slice, h.posed, Bool.false_eq_true, false_and, if_false, ctxAfterPoint]
  refine (ingPut_pt _ ?_).trans rfl
  exact hq

/-- A packet time taken from the arrival stands where the skew allows it (R75). -/
theorem pktTimeOk_arrival {p : Pld} {a k : Nat} {v : Int} (hm : p.ptmode = 0) (h : p.w 0x4C ≤ k) :
    pktTimeOk p a k v = ((a : Int) - p.w 0x4C, false) := by
  have ht : pktTime p a v = (a : Int) - p.w 0x4C := by simp [pktTime, hm]
  rw [pktTimeOk, ht]
  exact if_neg (by omega)

/-- The layout of a context's packets (R71). -/
def pldOf (s : State) (c : Nat) : Pld := ⟨slice (ctxGet s c 7) 0 128⟩

/-- A packet of one block and one point, timed by its arrival, that decodes to `d` (R74, R75). -/
structure OnePoint (s : State) (k : Pkt) (d : Decoded) : Prop where
  long : (pldOf s k.ctx).minLen ≤ k.payload.length
  block : (pldOf s k.ctx).nblk = 1
  point : (pldOf s k.ctx).npt = 1
  untimed : ((pldOf s k.ctx).f 0x20).level = 0
  mode : (pldOf s k.ctx).ptmode = 0
  skew : (pldOf s k.ctx).w 0x4C ≤ ctxNat s k.ctx 0x16
  decodes : decodePoint s k.ctx (pldOf s k.ctx) k.payload k.at_ ((k.at_ : Int) - (pldOf s k.ctx).w 0x4C) 0 0 = some (some d)

theorem parsePayload_one {k : Pkt} {d : Decoded} (h : OnePoint s k d) :
    ∃ mark, parsePayload k.ctx (pldOf s k.ctx) k.payload k.at_ s = pointIn k.ctx mark d s := by
  obtain ⟨-, hb, hp, hl, hm, hk, hd⟩ := h
  generalize pldOf s k.ctx = p at *
  refine ⟨(p.f 0x28).level == 1 && fieldAt p k.payload (p.f 0x28) 0 0 == (p.w 0x50 : Int), ?_⟩
  simp [parsePayload, hb, hp, List.range_succ, parsePoint, hl, pktTimeOk_arrival hm hk, hd]

/-- A packet leaves the queue of its MAC. -/
def macTake (m : Nat) (rest : List Pkt) (s : State) : State :=
  { s with ing := { s.ing with macs := vset s.ing.macs m rest } }

section
variable {m : Nat} {k : Pkt} {rest : List Pkt} {d : Decoded} {sl : SliceSt}

theorem InOpenSlice.macTake (h : InOpenSlice s c d sl) : InOpenSlice (macTake m rest s) c d sl :=
  ⟨h.sweep, h.within, h.running, h.slice, h.start_le, h.lt_end, h.posed⟩

theorem OnePoint.macTake (h : OnePoint s k d) : OnePoint (macTake m rest s) k d :=
  ⟨h.long, h.block, h.point, h.untimed, h.mode, h.skew, h.decodes⟩

/-- PACKET_PARSE of a MAC, for a context that runs. -/
theorem packetParse_mac (hr : isReady s = true) (hm : m < 8) (hq : vget s.ing.macs m [] = k :: rest)
    (hx : ctxRuns (ingCtx s k.ctx) = true) :
    packetParse m s = if k.payload.length < (pldOf s k.ctx).minLen
      then dropPacket k.ctx (regCount (ingMacReg m 0x10) 1 (macTake m rest s))
      else parsePayload k.ctx (pldOf s k.ctx) k.payload k.at_ (macTake m rest s) := by
  have h : packetParse m s = parsePkt (some m) k (macTake m rest s) := by
    simp only [packetParse, hr, hm, hq, Bool.not_true, Bool.false_eq_true, if_false, if_true, macTake]
  have hx' : ctxRuns (ingCtx (macTake m rest s) k.ctx) = true := hx
  rw [h, parsePkt, hx']
  rfl

/-- A packet of one point inside the open slice of the open sweep (R74, R80, R84). -/
theorem packetParse_point (hr : isReady s = true) (hm : m < 8) (hq : vget s.ing.macs m [] = k :: rest)
    (hx : ctxRuns (ingCtx s k.ctx) = true) (hp : OnePoint s k d) (hin : InOpenSlice s k.ctx d sl) (hdq : DeskewStands s) :
    packetParse m s = { s with
      ing := { s.ing with
        macs := vset s.ing.macs m rest
        ctx := vset s.ing.ctx k.ctx (ctxAfterPoint s k.ctx d)
        deskew := s.ing.deskew ++
          [.pt ⟨k.ctx, d.row, d.col, d.range, d.int, d.ret, false, false, sl.idx, sl.xf, d.t % 2 ^ 32⟩] }
      hst := { s.hst with points := satAdd 64 s.hst.points 1 } } := by
  have hp' : OnePoint (macTake m rest s) k d := hp.macTake
  obtain ⟨mark, hone⟩ := parsePayload_one hp'
  rw [packetParse_mac hr hm hq hx, if_neg (Nat.not_lt.mpr hp.long)]
  exact hone.trans (pointIn_inSlice mark hin.macTake hdq)

/-- The oldest block of a context that does not run leaves its queue, and nothing else. -/
theorem packetParse_idleBlock (hr : isReady s = true) (hq : s.ing.blocks = k :: rest)
    (hx : ctxRuns (ingCtx s k.ctx) = false) (hc : (ingCtx s k.ctx).closing = false) :
    packetParse 8 s = { s with ing := { s.ing with blocks := rest } } := by
  have hx' : ctxRuns (ingCtx { s with ing := { s.ing with blocks := rest } } k.ctx) = false := hx
  have hc' : (ingCtx { s with ing := { s.ing with blocks := rest } } k.ctx).closing = false := hc
  have hs : packetParse 8 s = ctxSettle k.ctx (parsePkt none k { s with ing := { s.ing with blocks := rest } }) := by
    simp only [packetParse, hr, hq, Bool.not_true, Bool.false_eq_true, if_false, Nat.lt_irrefl]
  rw [hs, parsePkt, hx', Bool.not_false, if_pos rfl, ctxSettle, hc']
  rfl

end

/-- DESKEW_POINT hands the record of the oldest point to VOX (R78, R92). -/
theorem deskewPoint_pt {p : RawPt} {l : List IngItem} (hr : isReady s = true) (hv : voxRoom s = true)
    (hq : s.ing.deskew = .pt p :: l) (hl : l = [] ∨ ∃ q r, l = .pt q :: r) :
    deskewPoint s = keepStamp islIng (stampOf s islIng 0)
      (voxPut (.pt { deskewRec s p with ts := stampOf s islIng 0 }) { s with ing := { s.ing with deskew := l } }) := by
  simp only [deskewPoint, hr, hv, hq, Bool.not_true, Bool.or_self, Bool.false_eq_true, if_false]
  refine flushSums_stay (.inl fun x r h => ?_)
  have h : l = .sum x :: r := h
  rcases hl with rfl | ⟨q, r', rfl⟩ <;> cases h

/-- The unit stalls while the Weir to VOX is full (R531). -/
theorem deskewPoint_stalled (hv : voxRoom s = false) : deskewPoint s = s := by
  simp [deskewPoint, hv]

/-- The flags of a record stand above its column (R96). -/
theorem deskewRec_col (s : State) (p : RawPt) : (deskewRec s p).colw % 4096 = p.col % 4096 := by
  simp only [deskewRec, bitAt]
  split <;> split <;> omega

end
end Sys2Proof.Machine

/-! ## The state after reset -/

namespace Sys2Proof.Machine

theorem partOf_reset (p : Nat) : partOf State.reset p = {} := by
  by_cases h : p < 8
  · exact vget_replicate _ _ h _
  · simp [partOf, vget, State.reset, h]

theorem coreOf_reset (c : Nat) : coreOf State.reset c = {} := by
  by_cases h : c < 16
  · exact vget_replicate _ _ h _
  · simp [coreOf, vget, State.reset, h]

theorem jobOf_reset (n : Nat) : jobOf State.reset n = {} := rfl

/-- R420: `PRT_TBL_GEOM` of every partition is 1 at reset, its neighbour at 0x10114 is 0. -/
theorem rg_reset_tblGeom (p : Fin 8) : rg State.reset (prtKey p 0x10118) = 1 ∧ rg State.reset (prtKey p 0x10114) = 0 := by
  revert p; decide

theorem ringView_reset (p : Nat) : ringView State.reset p 0x18 = some 0x00130604 ∧ ringView State.reset p 0x1C = some 0 := by
  simp only [ringView, ringsOf, partOf_reset]
  decide

end Sys2Proof.Machine

/-! ## The statements of scope and access -/

namespace Sys2Proof.Proofs

open Sys2Proof.Machine

/-- Settles O5: every field from its reset value, bank by bank. -/
theorem resetState : Obligations.ResetState := by
  unfold Obligations.ResetState
  refine ⟨by decide, by decide, by decide, by decide, by decide, by decide, by decide, by decide, ?_, ?_, ?_, ?_,
    by decide, by decide, ?_⟩
  · intro p
    refine ⟨(ringView_reset p).1, (ringView_reset p).2, ?_, ?_, ?_, ?_⟩
    · exact congrArg some (rg_reset_tblGeom p).1
    · exact congrArg some (rg_reset_tblGeom p).2
    · rw [recOf, partOf_reset]; decide
    · rw [partOf_reset]; decide
  · intro c
    refine ⟨vget_replicate _ _ c.isLt _, by rw [coreOf_reset], fun n => ?_⟩
    rw [coreOf_reset]
    exact congrArg TaskCtx.st (vget_replicate _ _ n.isLt _)
  · intro i; rw [jobOf_reset]
  · intro i
    exact congrArg Mbx.state (vget_replicate _ _ i.isLt _)
  · exact fun _ => ⟨rfl, rfl⟩

/-- Settles O6: each read in closed form, then the field it changes. -/
theorem registerReads : Obligations.RegisterReads := by
  refine ⟨?_, ?_, ?_, ?_, ?_, ?_⟩
  · intro s r o hl hr ho
    rw [completes_rcRead, barRead_glbCounter hl ho, if_neg hr]
    refine ⟨by rw [setReply_reply, regPut_reply], ?_, fun k hk => ?_, ?_⟩
    · rw [regGet_setReply, regGet_put_self]
    · rw [regGet_setReply, regGet_put_ne s hk]
    · obtain ⟨g, hg⟩ := regPut_frame s (rkey (1 + reqCode r) o) 0
      rw [hg]; rfl
  · intro s r o hl ho
    rw [completes_rcRead, barRead_glbAlias hl ho]
  · intro s o hl ho
    rw [completes_rcRead, barRead_glbCounter hl ho, if_pos rfl, reqCode]
  · intro s r hl
    rw [completes_pairLoRead, barRead_masterLo hl]
    refine ⟨by rw [setReply_reply, latchPut_reply], ?_, fun u hu hlatch => ?_⟩
    · obtain ⟨l, hL⟩ := latchPut_frame r 0x400010 (s.tb.master / 2 ^ 32 % 2 ^ 32) s
      rw [hL]; rfl
    · rw [completes_rcRead, barRead_masterHi hu, hlatch, setReply_latch, smGet_latchPut_self]
  · intro s r hl
    rw [completes_pairLoRead, barRead_master64 hl]
    refine ⟨?_, ?_⟩
    · rw [setReply_reply, latchPut_reply]
      congr 1
      apply BitVec.eq_of_toNat_eq
      simp only [BitVec.toNat_ofNat]
      omega
    · obtain ⟨l, hL⟩ := latchPut_frame r 0x400010 (s.tb.master / 2 ^ 32 % 2 ^ 32) s
      rw [hL]; rfl
  · intro s r a hl ha h4
    have hb := blkOf_glb ha
    rw [completes_rcRead, barRead_unaligned hl (aperOf_glb ha) h4 (by rw [hb]; rfl)]

/-- Settles O7: the register and its peek address lie behind one gate, and the peek address is neither RC nor half of a pair. -/
theorem peekAliases : Obligations.PeekAliases := by
  intro s r a hl h4 hrc
  have hb := rc_not_reserved hrc
  have ho := rc_lt hrc
  have hadd : blkOf (a + 0x4000) = ((blkOf a).1, (blkOf a).2 + 0x4000) := blkOf_add hb (by omega)
  have hreg := barRead_word hl (aperOf_none hb (by omega)) h4
  have hap : aperOf (a + 0x4000) = none := by
    refine aperOf_none ?_ ?_ <;> rw [hadd]
    · exact hb
    · exact Nat.lt_trans (Nat.add_lt_add_right ho _) (by decide)
  have hpeek := barRead_word hl hap (by omega)
  simp only [hadd, readGate_alias hrc, read32_alias hrc] at hpeek
  simp only [read32_rc hrc] at hreg
  rw [completes_rcRead, completes_rcRead, hpeek, hreg]
  cases readGate s r (blkOf a).1 (blkOf a).2 with
  | zero => exact ⟨rfl, fun _ => Nat.le_refl _, rfl⟩
  | deny =>
    obtain ⟨g, hg⟩ := denyAccess_frame s r
    refine ⟨rfl, fun k => ?_, by rw [hg]; rfl⟩
    rw [regGet_setReply]
    exact regGet_le_count s _ 1 k
  | pass =>
    refine ⟨?_, fun _ => Nat.le_refl _, rfl⟩
    rw [setReply_reply, setReply_reply]
    split
    · rfl
    · rw [rcClear_reply]

/-- Settles O8: each write in closed form, behind its gate. -/
theorem registerWrites : Obligations.RegisterWrites := by
  refine ⟨?_, ?_, ?_, ?_, ?_, ?_⟩
  · intro s r a v hl ha h4
    have hb := blkOf_glb ha
    have hw : barWrite r a 4 v s = ignWrite r s := by
      rw [barWrite_word hl (aperOf_glb ha) h4, write32, hb]
    rw [completes_registerWrite, hw]
    refine ⟨regGet_count_self s _ 1, fun k hk => regGet_count_ne s hk 1, ?_⟩
    obtain ⟨g, hg⟩ := ignWrite_frame s r
    rw [hg]
  · intro s h v hl hr hm
    have hw : barWrite (.host h) 0x20000 4 v s = mbxPut h.val { mbxGet s h.val with addr := v % 2 ^ 24 } s := by
      rw [barWrite_word hl (by decide) (by decide), write32_mbxAddr hr hm,
        Nat.mod_mod_of_dvd v (by decide : 2 ^ 24 ∣ 2 ^ 32)]
    rw [completes_registerWrite, hw]
    exact ⟨by rw [mbxGet_put_self s (by omega)], rfl⟩
  · intro s h p v hl hr ho he
    rw [completes_registerWrite, barWrite_sqBaseLo hl hr ho he]
    refine ⟨smGet_stagePut_self _ _ _ s, ?_⟩
    obtain ⟨l, hL⟩ := stagePut_frame (.host h) (0x11000 + 0x100 * p.val) (v % 2 ^ 32) s
    rw [hL]
  · intro s h p v hl hr ho he
    rw [completes_pairHiWrite, barWrite_sqBaseHi hl hr ho he]
    exact commitRings_spec p.isLt _ _ _ s
  · intro s h p v hl hr ho
    rw [completes_pairHiWrite, barWrite_sqBase p 4 hl (.inr rfl) (by omega), blockGate_open hl hr, if_neg ho]
  · intro s h p v hl hr
    rw [completes_pairHiWrite, barWrite_sqBase p 4 hl (.inr rfl) (by omega), blockGate_closed hl hr]

/-- Settles O36: the parser and the deskew unit in closed form for a packet of one point. -/
theorem packetsToPoints : Obligations.PacketsToPoints := by
  refine ⟨?_, ?_, ?_, ?_, ?_⟩
  · intro s m k rest hr hq hx hlen
    have hshort := (packetParse_mac hr m.isLt hq hx).trans (if_pos hlen)
    rw [completes_packetParse, Fin.val_castLE, hshort]
    obtain ⟨x, f, tb, hd, hpts⟩ := dropPacket_frame k.ctx (regCount (ingMacReg m.val 0x10) 1 (macTake m.val rest s))
    rw [hd]
    refine ⟨vget_vset_self _ _ _ _ m.isLt, fun j hj => vget_vset_ne _ _ _ (fun e => hj (Fin.ext e.symm)), ?_, hpts,
      rfl, rfl, rfl, rfl⟩
    exact regGet_count_self (macTake m.val rest s) _ 1
  · intro s m k rest d sl hr hq hc p x hx hlen hb hp hl hpm hk hd ho hbd he hs hlo hhi hn hdq
    have hone : OnePoint s k d := ⟨hlen, hb, hp, hl, hpm, hk, hd⟩
    rw [completes_packetParse, Fin.val_castLE,
      packetParse_point hr m.isLt hq hx hone ⟨ho, hbd, he, hs, hlo, hhi, hn⟩ hdq]
    have hself := vget_vset_self s.ing.ctx k.ctx (ctxAfterPoint s k.ctx d) {} hc
    refine ⟨vget_vset_self _ _ _ _ m.isLt, rfl, ?_, ?_, rfl, rfl, fun c h => vget_vset_ne _ _ _ h.symm, rfl⟩
    · exact (congrArg StreamCtx.pts hself).trans rfl
    · exact (congrArg StreamCtx.drops hself).trans rfl
  · intro s k rest hr hq hx hc
    exact completes_packetParse.mpr (packetParse_idleBlock hr hq hx hc)
  · intro s hv
    rw [completes_deskewPoint, deskewPoint_stalled hv]
  · intro s p l hr hv hq hl
    rw [completes_deskewPoint, deskewPoint_pt hr hv hq hl]
    exact ⟨rfl, rfl, _, rfl, rfl, rfl, rfl, rfl, rfl, rfl, rfl, deskewRec_col s p, rfl⟩

end Sys2Proof.Proofs

/-! ## The apertures -/

namespace Sys2Proof.Machine

/-! ### Bytes in sparse maps -/

section
variable {α : Type}

theorem smGetList_getElem? (d : Nat → α) (m : SMap α) (k n i : Nat) :
    (smGetList d m k n)[i]? = if i < n then some (smGet d m (k + i)) else none := by
  induction n generalizing k i with
  | zero => rfl
  | succ n ih =>
    cases i with
    | zero => simp [smGetList]
    | succ i => simp [smGetList, ih, Nat.add_assoc, Nat.add_comm 1 i]

theorem leBytes_getElem? (n x i : Nat) :
    (leBytes n x)[i]? = if i < n then some (BitVec.ofNat 8 (x / 256 ^ i)) else none := by
  induction n generalizing x i with
  | zero => rfl
  | succ n ih =>
    cases i with
    | zero => simp [leBytes]
    | succ i => simp [leBytes, ih, Nat.div_div_eq_div_mul, Nat.pow_succ, Nat.mul_comm]

/-- The bytes of a number do not see what stands above them. -/
theorem leBytes_mod (n x : Nat) : leBytes n (x % 256 ^ n) = leBytes n x := by
  induction n generalizing x with
  | zero => rfl
  | succ n ih =>
    have hlow : BitVec.ofNat 8 (x % 256 ^ (n + 1)) = BitVec.ofNat 8 x :=
      BitVec.eq_of_toNat_eq (Nat.mod_mod_of_dvd x (Dvd.intro_left _ rfl : 256 ∣ 256 ^ (n + 1)))
    have hhigh : x % 256 ^ (n + 1) / 256 = x / 256 % 256 ^ n := by rw [Nat.pow_succ', Nat.mod_mul_right_div_self]
    rw [leBytes, leBytes, hlow, hhigh, ih]

variable [DecidableEq α] (d : Nat → α) (m : SMap α)

/-- A read after a write of several values. -/
theorem smGet_setList (vs : List α) (k b : Nat) :
    smGet d (smSetList d m k vs) b = if k ≤ b then (vs[b - k]?).getD (smGet d m b) else smGet d m b := by
  split
  case isTrue h =>
    by_cases hb : b - k < vs.length
    · have hin := smGet_setList_in d vs m k (b - k) hb
      rw [Nat.add_sub_cancel' h] at hin
      rw [hin, List.getElem?_eq_getElem hb, Option.getD_some]
    · rw [smGet_setList_out d vs m k b (by omega), List.getElem?_eq_none (by omega), Option.getD_none]
  case isFalse h => exact smGet_setList_out d vs m k b (by omega)

/-- A word read, patched and rewritten reads as its patch alone written (R179). -/
theorem smGet_setList_patch {k n j : Nat} {vs : List α} (h : j + vs.length ≤ n) (b : Nat) :
    smGet d (smSetList d m k (patch (smGetList d m k n) j vs)) b = smGet d (smSetList d m (k + j) vs) b := by
  simp only [smGet_setList, patch, List.getElem?_append, List.length_append, List.length_take, smGetList_length,
    List.getElem?_take, List.getElem?_drop, smGetList_getElem?, Nat.min_eq_left (show j ≤ n by omega)]
  by_cases hk : k ≤ b
  · have hb : k + (b - k) = b := by omega
    rcases Nat.lt_or_ge b (k + j) with h1 | h1
    · simp [hk, hb, show b - k < j + vs.length by omega, show b - k < j by omega, show b - k < n by omega,
        show ¬ k + j ≤ b by omega]
    · rcases Nat.lt_or_ge b (k + j + vs.length) with h2 | h2
      · simp [hk, h1, show b - k < j + vs.length by omega, show ¬ b - k < j by omega, Nat.sub_sub]
      · have hn : vs[b - (k + j)]? = none := List.getElem?_eq_none (by omega)
        have hoff : j + vs.length + (b - k - (j + vs.length)) = b - k := by omega
        rw [if_pos hk, if_pos h1, if_neg (by omega), hoff, hn, hb]
        split <;> rfl
  · rw [if_neg hk, if_neg (by omega)]

end

/-- The bytes of a number, written into a byte memory. -/
theorem smGet_setList_leBytes (m : SMap Byte) (n a v b : Nat) :
    smGet byteZero (smSetList byteZero m a (leBytes n v)) b =
      if a ≤ b ∧ b < a + n then BitVec.ofNat 8 (v / 256 ^ (b - a)) else smGet byteZero m b := by
  rw [smGet_setList, leBytes_getElem?]
  by_cases h1 : a ≤ b
  · by_cases h2 : b < a + n
    · rw [if_pos h1, if_pos (show b - a < n by omega), if_pos ⟨h1, h2⟩, Option.getD_some]
    · rw [if_pos h1, if_neg (show ¬ b - a < n by omega), if_neg (fun h => h2 h.2), Option.getD_none]
  · rw [if_neg h1, if_neg (fun h => h1 h.1)]

/-! ### The address and the gates (R38, R39, R172, R173) -/

section
variable {s : State} {h : Fin 4} {c : Fin 16} {o v : Nat} {P : State → Prop}

theorem completes_apertureRead {r : Requester} {a n : Nat} : Completes (.apertureRead r a n) s P ↔ P (aperReadCmd r a n s) :=
  completes_iff rfl

theorem completes_apertureWrite {r : Requester} {a n : Nat} :
    Completes (.apertureWrite r a n v) s P ↔ P (aperWriteCmd r a n v s) :=
  completes_iff rfl

theorem aperOf_window (c : Fin 16) (ho : o < 0x80000) : aperOf (0x1080000 + 0x100000 * c.val + o) = some (c.val, o) := by
  have hc := c.isLt
  have hcore : (0x1080000 + 0x100000 * c.val + o - 0x1000000) / 0x100000 = c.val := by omega
  have hoff : (0x1080000 + 0x100000 * c.val + o) % 0x100000 - 0x80000 = o := by omega
  rw [aperOf, if_pos (by omega), hcore, hoff]

/-- A 32-bit read of a host port through the aperture, the device READY. -/
theorem aperReadCmd_word (hl : linked s (.host h) = true) (hr : isReady s = true) (ho : o < 0x80000) (h4 : o % 4 = 0) :
    aperReadCmd (.host h) (0x1080000 + 0x100000 * c.val + o) 4 s =
      let a := aperPhys s (.host h) c.val o
      if spaceSize a.1 ≤ a.2 then setReply (.host h) 0 s
      else if reaches s (.host h) (spaceOwner s c.val a.1 a.2) false then
        setReply (.host h) (aperRead c.val a.1 a.2 s).1 (aperRead c.val a.1 a.2 s).2
      else setReply (.host h) 0 (denyAccess (.host h) s) := by
  have h4' : (0x1080000 + 0x100000 * c.val + o) % 4 = 0 := by omega
  cases hg : reaches s (.host h) (spaceOwner s c.val (aperPhys s (.host h) c.val o).1 (aperPhys s (.host h) c.val o).2) false <;>
    simp [aperReadCmd, hl, aperOf_window c ho, hr, h4', hg, dbgView]

/-- A 32-bit write of a host port through the aperture, the device READY. -/
theorem aperWriteCmd_word (hl : linked s (.host h) = true) (hr : isReady s = true) (ho : o < 0x80000) (h4 : o % 4 = 0) :
    aperWriteCmd (.host h) (0x1080000 + 0x100000 * c.val + o) 4 v s =
      let a := aperPhys s (.host h) c.val o
      if spaceSize a.1 ≤ a.2 then ignWrite (.host h) s
      else if reaches s (.host h) (spaceOwner s c.val a.1 a.2) true then aperWrite c.val a.1 a.2 (v % 2 ^ 32) s
      else denyAccess (.host h) s := by
  have h4' : (0x1080000 + 0x100000 * c.val + o) % 4 = 0 := by omega
  simp [aperWriteCmd, aperOf_window c ho, blockGate_open hl hr, h4']

/-- A host port reaches for reads what it reaches for writes (R39). -/
theorem reaches_host (p : Option Nat) (w w' : Bool) : reaches s (.host h) p w = reaches s (.host h) p w' := by
  cases p <;> rfl

theorem aperPhys_aligned (h4 : o % 4 = 0) (r : Requester) (c : Nat) : (aperPhys s r c o).2 % 4 = 0 := by
  simp only [aperPhys]; omega

end

/-! ### Reads of memory without a bit in error (R188, R196, R329) -/

section
variable {s : State} {c off : Nat}

theorem aperRead_basin (h : smGet upZero (coreOf s c).basinUp (off / 8) = 0) :
    aperRead c 0 off s = (leNat (smGetList byteZero (coreOf s c).basin off 4), s) := by
  simp [aperRead, wordDecode, h, basinBytes]

theorem cisDecode_sound {quad : Nat} {es : List Nat} (h : ∀ e ∈ es, smGet upZero (coreOf s c).cisUp e = 0) :
    cisDecode c quad es s = (true, s) := by
  unfold cisDecode
  induction es with
  | nil => rfl
  | cons e es ih =>
    rw [List.foldl_cons, h e (by simp)]
    exact ih fun e' he' => h e' (List.mem_cons_of_mem _ he')

theorem aperRead_cis (h : ∀ i < 4, smGet upZero (coreOf s c).cisUp (off / 16 * 4 + i) = 0) :
    aperRead c 1 off s = ((smGet wordZero (coreOf s c).cis (off / 4)).toNat, s) := by
  have hd : cisDecode c (off / 16) ((List.range 4).map (4 * (off / 16) + ·)) s = (true, s) := by
    refine cisDecode_sound fun e he => ?_
    obtain ⟨i, hi, rfl⟩ := List.mem_map.mp he
    rw [Nat.mul_comm]
    exact h i (List.mem_range.mp hi)
  simp only [aperRead, hd, if_true]

theorem aperRead_dmem (h : smGet upZero (coreOf s c).dmemUp (off / 4) = 0) :
    aperRead c 2 off s = (leNat (smGetList byteZero (coreOf s c).dmem off 4), s) := by
  simp [aperRead, dmemDecode, h, dmemBytes]

end

/-! ### Writes (R179, R185) -/

section
variable {s : State} {c off : Nat}

/-- A weight block turned STALE changes the states of the blocks only. -/
theorem blkStale_frame (blk : Nat) (x : Core) : ∃ w, blkStale blk x = { x with wblk := w } := by
  unfold blkStale
  split
  · exact ⟨_, rfl⟩
  · exact ⟨_, rfl⟩

theorem modCore_frame (c : Nat) (f : Core → Core) (s : State) : { modCore c f s with kc := s.kc } = s := rfl

theorem coreOf_modCore_self (f : Core → Core) (hc : c < 16) : coreOf (modCore c f s) c = f (coreOf s c) :=
  coreOf_setCore_self s hc _

theorem coreOf_modCore_ne (f : Core → Core) {d : Nat} (hd : d ≠ c) : coreOf (modCore c f s) d = coreOf s d :=
  coreOf_setCore_ne s (Ne.symm hd) _

/-- What an aperture write makes of its core. -/
def aperStore (sp off v : Nat) (x : Core) : Core :=
  match sp with
  | 0 => blkStale (off / 4096)
      (basinStore (off / 8 * 8) (patch (basinBytes x (off / 8 * 8) 8) (off % 8) (leBytes 4 v)) x)
  | 1 => cisStore (off / 4) (BitVec.ofNat 32 v) x
  | _ => dmemStore off (leBytes 4 v) x

theorem aperWrite_eq (sp v : Nat) (h : sp = 0 → smGet upZero (coreOf s c).basinUp (off / 8) = 0) :
    aperWrite c sp off v s = modCore c (aperStore sp off v) s := by
  match sp with
  | 0 => simp only [aperWrite, wordDecode, h rfl, if_true, modCore, aperStore]
  | 1 => rfl
  | _ + 2 => rfl

/-- An aperture write leaves the contexts of its core, and what runs on it. -/
theorem aperStore_frame (sp off v : Nat) (x : Core) :
    let y := aperStore sp off v x
    y.ctx = x.ctx ∧ y.run = x.run ∧ y.active = x.active := by
  match sp with
  | 0 =>
    obtain ⟨w, hw⟩ := blkStale_frame (off / 4096)
      (basinStore (off / 8 * 8) (patch (basinBytes x (off / 8 * 8) 8) (off % 8) (leBytes 4 v)) x)
    rw [aperStore, hw]
    exact ⟨rfl, rfl, rfl⟩
  | 1 => exact ⟨rfl, rfl, rfl⟩
  | _ + 2 => exact ⟨rfl, rfl, rfl⟩

/-- In Basin the word that holds the bytes is rewritten, the other bytes of it as they were (R179). -/
theorem aperStore_basin (h4 : off % 4 = 0) (v : Nat) (x : Core) :
    let y := aperStore 0 off v x
    (∀ b, smGet byteZero y.basin b =
      if off ≤ b ∧ b < off + 4 then BitVec.ofNat 8 (v / 256 ^ (b - off)) else smGet byteZero x.basin b) ∧
      y.cis = x.cis ∧ y.dmem = x.dmem := by
  obtain ⟨w, hw⟩ := blkStale_frame (off / 4096)
    (basinStore (off / 8 * 8) (patch (basinBytes x (off / 8 * 8) 8) (off % 8) (leBytes 4 v)) x)
  have hfit : off % 8 + (leBytes 4 v).length ≤ 8 := by rw [leBytes_length]; omega
  have hoff : off / 8 * 8 + off % 8 = off := by omega
  rw [aperStore, hw]
  refine ⟨fun b => ?_, rfl, rfl⟩
  exact (smGet_setList_patch byteZero x.basin hfit b).trans (by rw [hoff, smGet_setList_leBytes])

theorem aperStore_cis (v : Nat) (x : Core) :
    let y := aperStore 1 off v x
    (∀ e, smGet wordZero y.cis e = if e = off / 4 then BitVec.ofNat 32 v else smGet wordZero x.cis e) ∧
      y.basin = x.basin ∧ y.dmem = x.dmem := by
  refine ⟨fun e => ?_, rfl, rfl⟩
  split
  case isTrue h => rw [h]; exact smGet_set_self _ _ _ _
  case isFalse h => exact smGet_set_ne _ _ h _

theorem aperStore_dmem (v : Nat) (x : Core) :
    let y := aperStore 2 off v x
    (∀ b, smGet byteZero y.dmem b =
      if off ≤ b ∧ b < off + 4 then BitVec.ofNat 8 (v / 256 ^ (b - off)) else smGet byteZero x.dmem b) ∧
      y.basin = x.basin ∧ y.cis = x.cis :=
  ⟨smGet_setList_leBytes x.dmem 4 off v, rfl, rfl⟩

/-- The four bytes that are written do not see what stands above them. -/
theorem aperStore_mod (sp off v : Nat) (x : Core) : aperStore sp off (v % 2 ^ 32) x = aperStore sp off v x := by
  have hb : leBytes 4 (v % 2 ^ 32) = leBytes 4 v := leBytes_mod 4 v
  have hw : BitVec.ofNat 32 (v % 2 ^ 32) = BitVec.ofNat 32 v := BitVec.eq_of_toNat_eq (Nat.mod_mod _ _)
  unfold aperStore
  rw [hb, hw]

end

end Sys2Proof.Machine

namespace Sys2Proof.Proofs

open Sys2Proof.Machine

/-- Settles O9: each access in closed form behind its gates, then the memory that it reads or writes. -/
theorem apertures : Obligations.Apertures := by
  refine ⟨?_, ?_, ?_, ?_⟩
  · intro s h c o hl hr ho h4 a x hsz hown hbas hcis hdm
    rw [completes_apertureRead, aperReadCmd_word hl hr ho h4]
    simp only [if_neg (Nat.not_le.mpr hsz), if_pos hown, a]
    refine ⟨fun ha => ?_, fun ha => ?_, fun ha => ?_⟩
    · rw [ha, aperRead_basin (hbas ha)]
    · rw [ha, aperRead_cis (hcis ha)]
    · rw [ha, aperRead_dmem (hdm ha)]
  · intro s h c o v hl hr ho h4 a x hsz hown hbas
    have hw := (aperWriteCmd_word (v := v) hl hr ho h4).trans
      ((if_neg (Nat.not_le.mpr hsz)).trans ((if_pos hown).trans (aperWrite_eq a.1 (v % 2 ^ 32) hbas)))
    have hal : a.2 % 4 = 0 := aperPhys_aligned h4 _ _
    rw [completes_apertureWrite, hw]
    simp only [coreOf_modCore_self _ c.isLt, aperStore_mod]
    obtain ⟨hctx, hrun, hact⟩ := aperStore_frame a.1 a.2 v x
    refine ⟨fun ha => ?_, fun ha => ?_, fun ha => ?_, hctx, hrun, hact, fun d hd => coreOf_modCore_ne _ hd,
      modCore_frame _ _ _⟩
    · rw [ha]; exact aperStore_basin hal v x
    · rw [ha]; exact aperStore_cis v x
    · rw [ha]; exact aperStore_dmem v x
  · intro s h c o v hl hr ho h4 a hsz hown
    rw [completes_apertureRead, completes_apertureWrite, aperReadCmd_word hl hr ho h4, aperWriteCmd_word hl hr ho h4]
    simp only [if_neg (Nat.not_le.mpr hsz), reaches_host _ false true, hown, a]
    exact ⟨rfl, rfl⟩
  · intro s h c o v hl hr ho h4 a hsz
    rw [completes_apertureRead, completes_apertureWrite, aperReadCmd_word hl hr ho h4, aperWriteCmd_word hl hr ho h4]
    exact ⟨if_pos hsz, if_pos hsz⟩

end Sys2Proof.Proofs

/-! ## The loader -/

namespace Sys2Proof.Machine

/-! ### Cores changed outside their Basin -/

theorem coreOf_out (s : State) {c : Nat} (hc : 16 ≤ c) : coreOf s c = {} := by
  simp [coreOf, vget, hc]

/-- An invariant of every update of a fold holds after the fold. -/
theorem foldl_keeps {α β : Type} {P : α → Prop} {f : α → β → α} (hf : ∀ a b, P a → P (f a b)) (l : List β) {a : α} (h : P a) :
    P (l.foldl f a) := by
  induction l generalizing a with
  | nil => exact h
  | cons b l ih => exact ih (hf a b h)

/-- `t` is `s` with its cores changed, their Basin and what runs on them as they were. -/
structure CoresStored (s t : State) : Prop where
  rest : { t with kc := s.kc } = s
  cores : ∀ e, (coreOf t e).basin = (coreOf s e).basin ∧ (coreOf t e).run = (coreOf s e).run

section
variable {s t : State} {p : Nat}

theorem CoresStored.refl (s : State) : CoresStored s s := ⟨rfl, fun _ => ⟨rfl, rfl⟩⟩

theorem CoresStored.hst (h : CoresStored s t) : t.hst = s.hst := congrArg (·.hst) h.rest

theorem CoresStored.parts (h : CoresStored s t) : t.parts = s.parts := congrArg (·.parts) h.rest

theorem CoresStored.partOf (h : CoresStored s t) (p : Nat) : Machine.partOf t p = Machine.partOf s p :=
  congrArg (fun x => vget x p ({} : Part)) h.parts

theorem CoresStored.modHst (h : CoresStored s t) (f : Hst → Hst) :
    CoresStored { s with hst := f s.hst } { t with hst := f t.hst } :=
  ⟨congrArg (fun u : State => { u with hst := f u.hst }) h.rest, h.cores⟩

/-- A change of one core that leaves its Basin and what runs on it. -/
theorem CoresStored.modCore (h : CoresStored s t) (c : Nat) {f : Core → Core}
    (hf : ∀ x, (f x).basin = x.basin ∧ (f x).run = x.run) : CoresStored s (modCore c f t) := by
  refine ⟨h.rest, fun e => ?_⟩
  rw [← (h.cores e).1, ← (h.cores e).2]
  by_cases he : e = c
  · subst he
    rcases Nat.lt_or_ge e 16 with hlt | hge
    · rw [coreOf_modCore_self f hlt]
      exact hf _
    · rw [coreOf_out _ hge, coreOf_out _ hge]
      exact ⟨rfl, rfl⟩
  · rw [coreOf_modCore_ne f he]
    exact ⟨rfl, rfl⟩

/-- Such changes of one core after another. -/
theorem CoresStored.foldCores {β : Type} (h : CoresStored s t) (l : List β) {c : β → Nat} {f : β → Core → Core}
    (hf : ∀ b x, (f b x).basin = x.basin ∧ (f b x).run = x.run) :
    CoresStored s (l.foldl (fun t b => Machine.modCore (c b) (f b) t) t) :=
  foldl_keeps (fun _ b ht => ht.modCore (c b) (hf b)) l h

/-! ### The load channel (R348, R361) -/

theorem partOf_modLd_self (f : LoadCh → LoadCh) (hp : p < 8) :
    partOf (modLd p f s) p = { partOf s p with ld := f (partOf s p).ld } :=
  partOf_setPart_self s hp _

theorem partOf_modLd_ne (f : LoadCh → LoadCh) {q : Nat} (hq : q ≠ p) : partOf (modLd p f s) q = partOf s q :=
  partOf_setPart_ne s (Ne.symm hq) _

theorem load_cls (n : Fin 32) : ((FaultCode.load n).cls == 8) = false := by
  revert n; decide

/-- The channel after a rejection. -/
def ldRejected (n : Fin 32) (off : Nat) (x : LoadCh) : LoadCh :=
  { x with req := none, state := 6, rej := 0x0600 + n.val, rejOff := off }

/-- A rejection raises its code, ends the request and installs nothing (R353, R354). -/
theorem ldReject_spec (hp : p < 8) (n : Fin 32) (off : Nat) (s : State) :
    let t := ldReject p n off s
    Raised (.load n) islHst t ∧ (partOf t p).ld.req = none ∧ (partOf t p).ld.state = 6 ∧
      (partOf t p).ld.rej = 0x0600 + n.val ∧ (partOf t p).ld.rejOff = off ∧ t.hst = s.hst ∧ t.kc = s.kc := by
  intro t
  obtain ⟨w, q, l, m, x, hraise⟩ := raise_frame (plainFault (.load n) islHst (some p)) (modLd p (ldRejected n off) s)
  have ht : t = _ := hraise
  have hpart : partOf t p = partOf (modLd p (ldRejected n off) s) p := by rw [ht]; rfl
  rw [hpart, partOf_modLd_self _ hp]
  refine ⟨?_, rfl, rfl, rfl, rfl, by rw [ht]; rfl, by rw [ht]; rfl⟩
  exact raise_raised (plainFault (.load n) islHst (some p)) _ (load_cls n) (show islHst < 24 by decide)

/-- The request that a write of the command register makes of the registers (R348, R361). -/
def ldRequest (s : State) (p v : Nat) : LoadReq where
  unload := v % 4 == 2
  handle := bits v 8 16
  src := ldReg s p 0 + ldReg s p 4 * 2 ^ 32
  dst := ldReg s p 8 + ldReg s p 0x0C * 2 ^ 32
  len := ldReg s p 0x10
  cores := BitVec.ofNat 16 (ldReg s p 0x14)
  form := bits (ldReg s p 0x14) 16 2
  stage := 0
  prot := false

/-- The channel that takes the request of a command. -/
def ldAsk (s : State) (p v : Nat) (x : LoadCh) : LoadCh :=
  { x with req := some (ldRequest s p v), state := if v % 4 = 1 then 1 else 4 }

section
variable {h : Fin 4} {v : Nat}

theorem ldCmd_foreign (hl : linked s (.host h) = true) (hr : isReady s = true) (ho : ownerOf (partOf s p) ≠ some h.val) :
    ldCmd (.host h) p v s = denyAccess (.host h) s := by
  rw [ldCmd, prtGate, ringGate, blockGate_open hl hr, if_neg ho]

theorem ldCmd_ignored (hl : linked s (.host h) = true) (hr : isReady s = true) (ho : ownerOf (partOf s p) = some h.val)
    (hv : ldBusy s p = true ∨ v % 4 = 0 ∨ v % 4 = 3) : ldCmd (.host h) p v s = ignWrite (.host h) s := by
  have hc : (v % 4 ≠ 1 ∧ v % 4 ≠ 2) ∨ ldBusy s p = true := hv.symm.imp_left (by omega)
  rw [ldCmd, prtGate, ringGate, blockGate_open hl hr, if_pos ho]
  exact if_pos hc

theorem ldCmd_accepted (hl : linked s (.host h) = true) (hr : isReady s = true) (ho : ownerOf (partOf s p) = some h.val)
    (hb : ldBusy s p = false) (hv : v % 4 = 1 ∨ v % 4 = 2) :
    ldCmd (.host h) p v s = { modLd p (ldAsk s p v) s with hst := { s.hst with ldQueue := s.hst.ldQueue ++ [p] } } := by
  have hc : ¬ ((v % 4 ≠ 1 ∧ v % 4 ≠ 2) ∨ ldBusy s p = true) := by
    rw [hb]; simp only [Bool.false_eq_true, or_false]; omega
  rw [ldCmd, prtGate, ringGate, blockGate_open hl hr, if_pos ho]
  exact if_neg hc

/-- A write of the command register asks for what its code says, of the owning port, while the channel is free. -/
theorem ldCmd_spec (p : Fin 8) (v : Nat) {op : Nat} (hl : linked s (.host h) = true) (hr : isReady s = true)
    (hop : op = 1 ∨ op = 2) :
    (ownerOf (partOf s p.val) ≠ some h.val → ldCmd (.host h) p.val v s = denyAccess (.host h) s) ∧
    (ownerOf (partOf s p.val) = some h.val → ldBusy s p.val = true ∨ v % 4 = 0 ∨ v % 4 = 3 →
      ldCmd (.host h) p.val v s = ignWrite (.host h) s) ∧
    (ownerOf (partOf s p.val) = some h.val → ldBusy s p.val = false → v % 4 = op →
      let t := ldCmd (.host h) p.val v s
      (partOf t p.val).ld.req = some (ldRequest s p.val v) ∧ (partOf t p.val).ld.state = (if v % 4 = 1 then 1 else 4) ∧
      t.hst.ldQueue = s.hst.ldQueue ++ [p.val] ∧ (∀ q, q ≠ p.val → partOf t q = partOf s q) ∧
      { t with hst := s.hst, parts := s.parts } = s) := by
  refine ⟨ldCmd_foreign hl hr, ldCmd_ignored hl hr, fun ho hb hv => ?_⟩
  rw [ldCmd_accepted hl hr ho hb (by omega)]
  have hself := partOf_modLd_self (s := s) (ldAsk s p.val v) p.isLt
  exact ⟨congrArg (fun x : Part => x.ld.req) hself, congrArg (fun x : Part => x.ld.state) hself, rfl,
    fun q hq => partOf_modLd_ne (s := s) (ldAsk s p.val v) hq, rfl⟩

end

/-! ### Unloading (R358) -/

section
variable {handle slot : Nat}

theorem progOf_held (h : (progOf s p handle).isSome = true) : ∃ g, vget s.hst.progs (handle % 64) none = some g := by
  unfold progOf at h
  split at h
  case h_1 g hg => exact ⟨g, hg⟩
  case h_2 => simp at h

/-- A program that leaves its slot takes templates, microkernels and instruction-cache lines of cores along. -/
theorem progFree_stored {g : Program} (hg : vget s.hst.progs slot none = some g) :
    CoresStored { s with hst := { s.hst with progs := vset s.hst.progs slot none } } (progFree slot s) := by
  simp only [progFree, hg]
  refine .foldCores (.foldCores (.refl _) g.ukerns ?_) g.cores ?_
  · exact fun _ _ => ⟨rfl, rfl⟩
  · exact fun _ _ => ⟨rfl, rfl⟩

theorem ldUnload_unheld (h : progOf s p handle = none) : ldUnload p handle s =
    modLd p (fun x => { x with req := none, state := 6, rej := 0, busy := false }) s := by
  simp only [ldUnload, h]

theorem ldUnload_named (h : (progOf s p handle).isSome = true) (hn : progNamed s p handle = true) : ldUnload p handle s =
    modLd p (fun x => { x with req := none, state := 6, rej := 0, busy := true }) s := by
  obtain ⟨g, hg⟩ := Option.isSome_iff_exists.mp h
  simp only [ldUnload, hg, hn, if_true]

theorem ldUnload_unnamed (h : (progOf s p handle).isSome = true) (hn : progNamed s p handle = false) : ldUnload p handle s =
    modLd p (fun x => { x with req := none, state := 5, busy := false, doneCnt := wrapAdd 32 x.doneCnt 1 })
      (progFree (handle % 64) s) := by
  obtain ⟨g, hg⟩ := Option.isSome_iff_exists.mp h
  simp only [ldUnload, hg, hn, Bool.false_eq_true, if_false]

/-- An unload ends its request and leaves the queue and the other partitions. -/
theorem ldUnload_frame (hp : p < 8) (handle : Nat) (s : State) :
    let t := ldUnload p handle s
    t.hst.ldQueue = s.hst.ldQueue ∧ (∀ e, e ≠ p → partOf t e = partOf s e) ∧ (partOf t p).ld.req = none := by
  cases hh : (progOf s p handle).isSome with
  | false =>
    rw [ldUnload_unheld (Option.isNone_iff_eq_none.mp (by simpa using hh))]
    exact ⟨rfl, fun e he => partOf_modLd_ne _ he, by rw [partOf_modLd_self _ hp]⟩
  | true =>
    cases hn : progNamed s p handle with
    | true =>
      rw [ldUnload_named hh hn]
      exact ⟨rfl, fun e he => partOf_modLd_ne _ he, by rw [partOf_modLd_self _ hp]⟩
    | false =>
      obtain ⟨g, hg⟩ := progOf_held hh
      have hf := progFree_stored hg
      rw [ldUnload_unnamed hh hn]
      refine ⟨congrArg (·.ldQueue) hf.hst, fun e he => ?_, by rw [partOf_modLd_self _ hp]⟩
      rw [partOf_modLd_ne _ he]
      exact hf.partOf e

/-- An unload that is performed frees the slot of its program and ends DONE. -/
theorem ldUnload_done (hp : p < 8) (h : (progOf s p handle).isSome = true) (hn : progNamed s p handle = false) :
    let t := ldUnload p handle s
    (partOf t p).ld.state = 5 ∧ (partOf t p).ld.doneCnt = ((partOf s p).ld.doneCnt + 1) % 2 ^ 32 ∧
      vget t.hst.progs (handle % 64) none = none ∧
      ∀ i, i ≠ handle % 64 → vget t.hst.progs i none = vget s.hst.progs i none := by
  obtain ⟨g, hg⟩ := progOf_held h
  have hf := progFree_stored hg
  have hld : (partOf (progFree (handle % 64) s) p).ld = (partOf s p).ld := congrArg (·.ld) (hf.partOf p)
  intro t
  have ht : t.hst.progs = vset s.hst.progs (handle % 64) none := by
    simp only [t, ldUnload_unnamed h hn]
    exact congrArg (·.progs) hf.hst
  simp only [ht]
  refine ⟨?_, ?_, vget_vset_self _ _ _ _ (Nat.mod_lt _ (by decide)), fun i hi => vget_vset_ne _ _ _ (Ne.symm hi)⟩
  · simp only [t, ldUnload_unnamed h hn, partOf_modLd_self _ hp]
  · simp only [t, ldUnload_unnamed h hn, partOf_modLd_self _ hp, hld, wrapAdd]

end

/-! ### The loader's commands (R348, R349, R353, R357) -/

section
variable {P : State → Prop} {r : Requester} {p : Fin 8} {q : LoadReq}

theorem completes_load {v : Nat} : Completes (.load r p v) s P ↔ P (ldCmd r p.val v s) := completes_iff rfl

theorem completes_unload {v : Nat} : Completes (.unload r p v) s P ↔ P (ldCmd r p.val v s) := completes_iff rfl

/-- A request leaves the queue. -/
def ldTake (rest : List Nat) (s : State) : State := { s with hst := { s.hst with ldQueue := rest } }

/-- The loader takes the oldest request and serves it. -/
theorem exec_loaderServeStart {p : Nat} {rest : List Nat} (hr : isReady s = true) (hs : ldServing s = false)
    (hq : s.hst.ldQueue = p :: rest) (hreq : (partOf s p).ld.req = some q) :
    exec .loaderServeStart s = .next (if q.unload then ldUnload p q.handle (ldTake rest s)
      else modLd p (fun x => { x with req := some { q with stage := 1, prot := true } }) (ldTake rest s)) := by
  have hreq' : (partOf { s with hst := { s.hst with ldQueue := rest } } p).ld.req = some q := hreq
  have he : exec .loaderServeStart s = execLoaderServeStart s := rfl
  simp only [he, execLoaderServeStart, hr, hs, hq, hreq', Bool.not_true, Bool.or_self, Bool.false_eq_true, if_false, ldTake]

theorem exec_loaderServeStart_idle (h : isReady s = false ∨ ldServing s = true ∨ s.hst.ldQueue = []) :
    exec .loaderServeStart s = .next s := by
  have he : exec .loaderServeStart s = execLoaderServeStart s := rfl
  rw [he, execLoaderServeStart]
  rcases h with h | h | h <;> simp [h]

/-- The last step of an installation: the stores, then the handle. -/
def ldInstall (p slot : Nat) (k : Chk) (s : State) : State :=
  ldDone p (slot + vget (installProg slot k s).hst.progGen slot 0 * 256) (installProg slot k s)

variable (hr : isReady s = true) (hreq : (partOf s p.val).ld.req = some q)
include hr hreq

theorem exec_loadCopyComplete_err (hst : q.stage = 1) :
    exec (.loadCopyComplete p .err) s = .next (ldReject p.val 0x13 noOff s) := by
  have he : exec (.loadCopyComplete p .err) s = execLoadCopyComplete p .err s := rfl
  simp [he, execLoadCopyComplete, hreq, hr, hst]

/-- The verifier's verdict on the copy that was read back. -/
theorem exec_loadCopyComplete_ok {d b : List Byte} {v w : State} (hst : q.stage = 1)
    (ho : (ownerOf (partOf s p.val)).isSome = true)
    (hc : copyLines false p.val q.dst (chunk64 ((q.len + 63) / 64) (slice d 0 q.len)) s = (.ok (), v))
    (hb : iovaReadBytes agentHst p.val q.dst q.len v = (.ok b, w)) :
    exec (.loadCopyComplete p (.ok d)) s = .next (match imageCheck w (chkOf p.val q b) with
      | some e => ldReject p.val (Fin.ofNat 32 e.1) e.2 w
      | none => modLd p.val (fun x => { x with req := some { q with stage := 2 }, state := 3 }) w) := by
  have he : exec (.loadCopyComplete p (.ok d)) s = execLoadCopyComplete p (.ok d) s := rfl
  obtain ⟨o, ho⟩ := Option.isSome_iff_exists.mp ho
  simp only [he, execLoadCopyComplete, hreq, hr, hst, ho, hc, hb, Bool.not_true, bne_self_eq_false, Bool.or_self,
    Bool.false_eq_true, if_false]
  cases imageCheck w (chkOf p.val q b) <;> rfl

/-- The image read back, relocated and installed. -/
theorem exec_loadInstallComplete {slot : Nat} {b new : List Byte} {k : Chk} {u w : State} (hst : q.stage = 2)
    (hs : freeProgSlot s = some slot)
    (hb : iovaReadLines agentHst p.val q.dst ((q.len + 63) / 64) s = (.ok b, u))
    (hk : k = chkOf p.val q b) (hnew : new = k.relocs.foldl (relocPut k) b)
    (hw : relocLines p.val q.dst b new ((q.len + 63) / 64) u = (.ok (), w)) :
    exec (.loadInstallComplete p) s = .next (ldInstall p.val slot { k with b := new } w) := by
  subst hk hnew
  have he : exec (.loadInstallComplete p) s = execLoadInstallComplete p s := rfl
  simp only [he, execLoadInstallComplete, hreq, hs, hr, hst, hb, hw, Bool.not_true, bne_self_eq_false, Bool.or_self,
    Bool.false_eq_true, if_false, ldInstall]

end

/-! ### Installation (R357) -/

section
variable {slot : Nat}

theorem freeProgSlot_free (h : freeProgSlot s = some slot) : slot < 64 ∧ vget s.hst.progs slot none = none :=
  ⟨List.mem_range.mp (List.mem_of_find?_eq_some h),
    Option.isNone_iff_eq_none.mp (List.find?_some (p := fun n => (vget s.hst.progs n none).isNone) h)⟩

/-- Installation stores templates and microkernels, records the program and takes the slot's next generation. -/
theorem installProg_stored (slot : Nat) (k : Chk) (s : State) :
    let gen := (vget s.hst.progGen slot 0 + 1) % 256
    CoresStored { s with hst := { s.hst with
      progs := vset s.hst.progs slot (some (progRec k gen)), progGen := vset s.hst.progGen slot gen } } (installProg slot k s) := by
  refine CoresStored.modHst (s := s) ?_ fun h => { h with
    progs := vset h.progs slot (some (progRec k ((vget s.hst.progGen slot 0 + 1) % 256)))
    progGen := vset h.progGen slot ((vget s.hst.progGen slot 0 + 1) % 256) }
  refine foldl_keeps (fun t u ht => ht.foldCores u.ix ?_) _ (foldl_keeps (fun t x ht => ht.foldCores x.2.2 ?_) _ (.refl s))
  · exact fun _ _ => ⟨rfl, rfl⟩
  · exact fun _ _ => ⟨rfl, rfl⟩

theorem installProg_progs (hs : slot < 64) (k : Chk) (s : State) :
    let t := installProg slot k s
    let gen := (vget s.hst.progGen slot 0 + 1) % 256
    vget t.hst.progs slot none = some (progRec k gen) ∧ vget t.hst.progGen slot 0 = gen ∧
      ∀ i, i ≠ slot → vget t.hst.progs i none = vget s.hst.progs i none := by
  intro t gen
  have ht := (installProg_stored slot k s).hst
  simp only [t, ht]
  exact ⟨vget_vset_self _ _ _ _ hs, vget_vset_self _ _ _ _ hs, fun i hi => vget_vset_ne _ _ _ (Ne.symm hi)⟩

/-- An installation that ends: the program's record under its slot, the handle in the load channel, the stores in place. -/
theorem ldInstall_spec {p : Nat} (hp : p < 8) (hs : slot < 64) (k : Chk) (s : State) :
    let gen := (vget s.hst.progGen slot 0 + 1) % 256
    let t := ldInstall p slot k s
    vget t.hst.progs slot none = some (progRec k gen) ∧
      (∀ i, i ≠ slot → vget t.hst.progs i none = vget s.hst.progs i none) ∧
      (partOf t p).ld.req = none ∧ (partOf t p).ld.state = 5 ∧ (partOf t p).ld.handle = slot + gen * 256 ∧
      (partOf t p).ld.doneCnt = ((partOf s p).ld.doneCnt + 1) % 2 ^ 32 ∧
      (∀ e, (coreOf t e).basin = (coreOf s e).basin ∧ (coreOf t e).run = (coreOf s e).run) ∧
      { t with kc := s.kc, hst := s.hst, parts := s.parts } = s := by
  intro gen t
  have hst := installProg_stored slot k s
  obtain ⟨hrec, hgen, hother⟩ := installProg_progs hs k s
  have ht : t = ldDone p (slot + gen * 256) (installProg slot k s) := by simp only [t, ldInstall, hgen, gen]
  clear_value t
  subst ht
  generalize installProg slot k s = u at *
  have hpart : partOf u p = partOf s p := hst.partOf p
  have hld : (partOf (ldDone p (slot + gen * 256) u) p).ld = { (partOf s p).ld with
      req := none, state := 5, handle := slot + gen * 256, doneCnt := wrapAdd 32 (partOf s p).ld.doneCnt 1 } := by
    simp only [ldDone, partOf_modLd_self _ hp, hpart]
  rw [hld]
  exact ⟨hrec, hother, rfl, rfl, rfl, rfl, hst.cores,
    congrArg (fun x : State => { x with hst := s.hst, parts := s.parts }) hst.rest⟩

end
end
end Sys2Proof.Machine

namespace Sys2Proof.Proofs

open Sys2Proof.Machine

/-- Settles O54: each command of the loader in closed form, then what its last operation does. -/
theorem loadsAndUnloads : Obligations.LoadsAndUnloads := by
  refine ⟨⟨?_, ?_⟩, ?_, ?_, ?_, ?_⟩
  · intro s h p v hl hr _
    simp only [completes_load]
    exact ldCmd_spec p v hl hr (.inl rfl)
  · intro s h p v hl hr _
    simp only [completes_unload]
    exact ldCmd_spec p v hl hr (.inr rfl)
  · intro s p rest q hr hs hq hreq
    rw [completes_iff (exec_loaderServeStart hr hs hq hreq)]
    cases hu : q.unload with
    | false =>
      rw [if_neg Bool.false_ne_true]
      refine ⟨rfl, fun e he => partOf_modLd_ne _ he, fun _ => ⟨?_, rfl, rfl⟩, ?_, ?_, ?_, ?_⟩
      · exact congrArg (fun x : Part => x.ld.req) (partOf_modLd_self _ p.isLt)
      all_goals exact fun h => Bool.noConfusion h
    | true =>
      rw [if_pos rfl]
      obtain ⟨hqueue, hparts, hend⟩ := ldUnload_frame p.isLt q.handle (ldTake rest s)
      refine ⟨hqueue, hparts, fun h => Bool.noConfusion h, fun _ => hend, fun _ hg => ?_, fun _ hg hn => ?_, fun _ hg hn => ?_⟩
      · rw [ldUnload_unheld (s := ldTake rest s) hg, partOf_modLd_self _ p.isLt]
        exact ⟨rfl, rfl, rfl⟩
      · rw [ldUnload_named (s := ldTake rest s) hg hn, partOf_modLd_self _ p.isLt]
        exact ⟨rfl, rfl, rfl⟩
      · exact ldUnload_done (s := ldTake rest s) p.isLt hg hn
  · exact fun s h => exec_loaderServeStart_idle h
  · intro s p q hr hreq hst
    refine ⟨?_, fun d b v w ho hc hb => ⟨fun hk => ?_, fun n off hk => ?_⟩⟩
    · obtain ⟨hraised, hreq', hstate, hrej, -, hhst, -⟩ := ldReject_spec p.isLt 0x13 noOff s
      rw [completes_iff (exec_loadCopyComplete_err hr hreq hst)]
      exact ⟨hraised, hreq', hstate, hrej, congrArg (·.progs) hhst⟩
    · rw [completes_iff (exec_loadCopyComplete_ok hr hreq hst ho hc hb), hk]
    · rw [completes_iff (exec_loadCopyComplete_ok hr hreq hst ho hc hb), hk]
      exact ldReject_spec p.isLt (Fin.ofNat 32 n) off w
  · intro s p q slot b u w hr hreq hst hs hb k new hw
    have hk : k = chkOf p.val q b := rfl
    have hnew : new = k.relocs.foldl (relocPut k) b := rfl
    clear_value new k
    obtain ⟨hlt, hfree⟩ := freeProgSlot_free hs
    exact (completes_iff (exec_loadInstallComplete hr hreq hst hs hb hk hnew hw)).mpr
      ⟨hlt, hfree, ldInstall_spec p.isLt hlt { k with b := new } w⟩

end Sys2Proof.Proofs

/-! ## Device time -/

namespace Sys2Proof.Machine

/-! ### One idle cycle (R44, R435) -/

section
variable {s u : State}

/-- One cycle of the time base: the count with its fraction grows by 4 ns corrected by the trim, the count by 3 to 5 ns. -/
theorem tbCycle_spec (t : TimeBase) :
    t.master + 3 ≤ (tbCycle t).master ∧ (tbCycle t).master ≤ t.master + 5 ∧
      ((tbCycle t).master : Int) * 2 ^ 24 + (tbCycle t).acc = (t.master : Int) * 2 ^ 24 + t.acc + 4 * (2 ^ 24 + t.trim) ∧
      (tbCycle t).trim = t.trim ∧ (tbCycle t).mode = t.mode := by
  unfold tbCycle
  simp only []
  split
  · refine ⟨?_, ?_, ?_, rfl, rfl⟩ <;> simp only [] <;> push_cast <;> omega
  · split
    · refine ⟨?_, ?_, ?_, rfl, rfl⟩ <;> simp only [] <;> push_cast <;> omega
    · refine ⟨?_, ?_, ?_, rfl, rfl⟩ <;> simp only [] <;> push_cast <;> omega

/-- What a watchdog's step leaves: `u` differs from `s` in jobs and `PRT_WD_PEAK` only. -/
structure WdFrame (s u : State) : Prop where
  rest : { u with regs := s.regs, hst := { u.hst with jobs := s.hst.jobs } } = s
  regs : ∀ k, (∀ p, k ≠ prtKey p 0x218) → regGet u k = regGet s k

theorem WdFrame.refl (s : State) : WdFrame s s := ⟨rfl, fun _ _ => rfl⟩

theorem WdFrame.setJob (h : WdFrame s u) (n : Nat) (j : Job) : WdFrame s (setJob n j u) where
  rest := h.rest
  regs := h.regs

theorem wdPeak_regs (p n : Nat) (u : State) : ∃ g, wdPeak p n u = { u with regs := g } ∧
    ∀ k, k ≠ prtKey p 0x218 → smGet regReset g k = regGet u k := by
  unfold wdPeak
  split
  · exact ⟨_, rfl, fun k hk => smGet_set_ne _ _ hk _⟩
  · exact ⟨u.regs, rfl, fun _ _ => rfl⟩

theorem WdFrame.wdPeak (h : WdFrame s u) (p n : Nat) : WdFrame s (wdPeak p n u) := by
  obtain ⟨g, hg, hk⟩ := wdPeak_regs p n u
  rw [hg]
  exact ⟨h.rest, fun k hp => (hk k (hp p)).trans (h.regs k hp)⟩

/-- Whether a watchdog counts depends on neither the job table nor the registers. -/
theorem WdFrame.wdCounts (h : WdFrame s u) (n : Nat) (j : Job) : wdCounts u n j = wdCounts s n j := by
  have hrest := congrArg (fun t : State => Machine.wdCounts t n j) h.rest
  exact hrest

theorem wdPeak_hst (p n : Nat) (u : State) : (wdPeak p n u).hst = u.hst := by
  obtain ⟨g, hg, -⟩ := wdPeak_regs p n u
  rw [hg]

/-- A job after one cycle of its watchdog. -/
def wdJob (s : State) (n : Nat) (j : Job) : Job :=
  if wdCounts s n j = true then { j with wd := min (j.wd + 24) (65536 * 5) } else j

theorem wdTick_frame (h : WdFrame s u) (e : Nat × Job) : WdFrame s (wdTick u e) := by
  unfold wdTick
  split
  · exact (h.setJob _ _).wdPeak _ _
  · exact h

theorem jobOf_wdTick_self (h : WdFrame s u) (e : Nat × Job) (he : jobOf u e.1 = e.2) :
    jobOf (wdTick u e) e.1 = wdJob s e.1 e.2 := by
  unfold wdTick wdJob
  rw [h.wdCounts]
  split
  · rw [jobOf, wdPeak_hst]
    exact jobOf_setJob_self u _ _
  · exact he

theorem jobOf_wdTick_ne {e : Nat × Job} {n : Nat} (h : n ≠ e.1) : jobOf (wdTick u e) n = jobOf u n := by
  unfold wdTick
  split
  · rw [jobOf, wdPeak_hst]
    exact jobOf_setJob_ne u h _
  · rfl

theorem wdTicks_frame (h : WdFrame s u) (l : List (Nat × Job)) : WdFrame s (l.foldl wdTick u) :=
  foldl_keeps (P := WdFrame s) (fun _ e hu => wdTick_frame hu e) l h

theorem jobOf_wdTicks_out {n : Nat} {l : SMap Job} (h : ∀ e ∈ l, n ≠ e.1) (u : State) :
    jobOf (l.foldl wdTick u) n = jobOf u n := by
  induction l generalizing u with
  | nil => rfl
  | cons e l ih =>
    rw [List.foldl_cons, ih fun x hx => h x (List.mem_cons_of_mem _ hx)]
    exact jobOf_wdTick_ne (h e List.mem_cons_self)

/-- The watchdogs of a job table in its form: each job takes one step of its own. -/
theorem jobOf_wdTicks_in {l : SMap Job} (hs : smSorted l = true) (hf : WdFrame s u) (hl : ∀ e ∈ l, jobOf u e.1 = e.2)
    {e : Nat × Job} (he : e ∈ l) : jobOf (l.foldl wdTick u) e.1 = wdJob s e.1 e.2 := by
  induction l generalizing u with
  | nil => cases he
  | cons x l ih =>
    obtain ⟨habove, hs'⟩ := smSorted_cons.mp hs
    have hne : ∀ y ∈ l, x.1 < y.1 := habove
    rw [List.foldl_cons]
    rcases List.mem_cons.mp he with rfl | he
    · rw [jobOf_wdTicks_out fun y hy => Nat.ne_of_lt (hne y hy)]
      exact jobOf_wdTick_self hf e (hl e List.mem_cons_self)
    · refine ih hs' (wdTick_frame hf x) (fun y hy => ?_) he
      rw [jobOf_wdTick_ne (Nat.ne_of_gt (hne y hy))]
      exact hl y (List.mem_cons_of_mem _ hy)

/-- An entry of a sorted map is what its key reads. -/
theorem smGet_mem {α : Type} {d : Nat → α} {m : SMap α} (hs : smSorted m = true) {e : Nat × α} (he : e ∈ m) :
    smGet d m e.1 = e.2 := by
  induction m with
  | nil => cases he
  | cons x m ih =>
    obtain ⟨habove, hs'⟩ := smSorted_cons.mp hs
    rcases List.mem_cons.mp he with rfl | he
    · exact if_pos rfl
    · exact (if_neg (Nat.ne_of_gt (habove e he))).trans (ih hs' he)

/-- A key that no entry has reads its default. -/
theorem smGet_not_mem {α : Type} {d : Nat → α} {m : SMap α} {n : Nat} (h : ∀ e ∈ m, n ≠ e.1) : smGet d m n = d n := by
  induction m with
  | nil => rfl
  | cons x m ih => exact (if_neg (h x List.mem_cons_self)).trans (ih fun e he => h e (List.mem_cons_of_mem _ he))

/-- All watchdogs of the job table step once. -/
theorem jobOf_wdTicks (hw : smWf jobDflt s.hst.jobs = true) (n : Nat) :
    jobOf (s.hst.jobs.foldl wdTick s) n = wdJob s n (jobOf s n) := by
  have hs : smSorted s.hst.jobs = true := (Bool.and_eq_true_iff.mp hw).1
  by_cases h : ∃ e ∈ s.hst.jobs, n = e.1
  · obtain ⟨e, he, rfl⟩ := h
    rw [jobOf_wdTicks_in hs (.refl s) (fun y hy => smGet_mem hs hy) he]
    exact congrArg _ (smGet_mem hs he).symm
  · have h : ∀ e ∈ s.hst.jobs, n ≠ e.1 := fun e he hn => h ⟨e, he, hn⟩
    have hfree : jobOf s n = {} := smGet_not_mem h
    rw [jobOf_wdTicks_out h, hfree]
    rfl

/-- The device after the time base alone has advanced one cycle. -/
def ticked (s : State) : State := { s with tb := { tbCycle s.tb with upNs := s.tb.upNs + 4 } }

theorem cycle_held (h : s.saf.tapHold = true) : cycle s = s := by simp [cycle, tick, h]

theorem cycle_notReady (ht : s.saf.tapHold = false) (hr : isReady s = false) : cycle s = ticked s := by
  simp [cycle, tick, ht, hr, ticked]

theorem cycle_ready (ht : s.saf.tapHold = false) (hr : isReady s = true) :
    cycle s = s.hst.jobs.foldl wdTick (ticked s) := by
  simp [cycle, tick, ht, hr, ticked]

/-- One cycle changes the time base, jobs and `PRT_WD_PEAK` only. -/
theorem cycle_frame (ht : s.saf.tapHold = false) : WdFrame (ticked s) (cycle s) := by
  cases hr : isReady s with
  | false => rw [cycle_notReady ht hr]; exact .refl _
  | true => rw [cycle_ready ht hr]; exact wdTicks_frame (.refl _) _

theorem step_idle (h : s.pending = []) : step s = .next (cycle s) := by rw [step, h]

end
end Sys2Proof.Machine

namespace Sys2Proof.Proofs

open Sys2Proof.Machine

/-- Settles O3: one cycle of the time base, then each watchdog's own step. -/
theorem idleStepAdvancesTime : Obligations.IdleStepAdvancesTime := by
  refine ⟨fun s hq ht => ⟨cycle s, step_idle hq, ?_⟩, fun s hq ht => by rw [step_idle hq, cycle_held ht]⟩
  have hf := cycle_frame ht
  have htb : (cycle s).tb = (ticked s).tb := congrArg (·.tb) hf.rest
  obtain ⟨hlo, hhi, hsum, htrim, hmode⟩ := tbCycle_spec s.tb
  refine ⟨?_, ?_, ?_, ?_, ?_, ?_, ?_, hf.regs, fun hr => ?_, fun hr hw n => ?_⟩
  · rw [htb]; exact hlo
  · rw [htb]; exact hhi
  · rw [htb]; exact hsum
  · rw [htb]; rfl
  · rw [htb]; exact htrim
  · rw [htb]; exact hmode
  · exact congrArg (fun t : State => { t with tb := s.tb }) hf.rest
  · rw [cycle_notReady ht hr]
    exact ⟨rfl, rfl⟩
  · rw [cycle_ready ht hr]
    exact jobOf_wdTicks (s := ticked s) hw n

end Sys2Proof.Proofs

/-! ## Resets and device time -/

namespace Sys2Proof.Machine

/-! ### What keeps the master count, the trim and the time state (R43) -/

/-- The master count, the rate trim and the time state stand. -/
structure TimeKept (s t : State) : Prop where
  master : t.tb.master = s.tb.master
  trim : t.tb.trim = s.tb.trim
  mode : t.tb.mode = s.tb.mode

section
variable {s t u : State}

theorem TimeKept.of_tb (h : t.tb = s.tb) : TimeKept s t := ⟨by rw [h], by rw [h], by rw [h]⟩

theorem TimeKept.refl (s : State) : TimeKept s s := .of_tb rfl

theorem TimeKept.trans (h : TimeKept s t) (h' : TimeKept t u) : TimeKept s u :=
  ⟨h'.master.trans h.master, h'.trim.trans h.trim, h'.mode.trans h.mode⟩

/-- A change that leaves the time base, then one that keeps the time. -/
theorem TimeKept.after (h : TimeKept t u) (e : t.tb = s.tb) : TimeKept s u := (of_tb e).trans h

theorem TimeKept.foldl {β : Type} {f : State → β → State} (hs : TimeKept s t) (h : ∀ u b, TimeKept u (f u b)) (l : List β) :
    TimeKept s (l.foldl f t) :=
  foldl_keeps (P := TimeKept s) (fun _ b ht => ht.trans (h _ b)) l hs

end

/-! ### Shared operations -/

theorem keepStamp_time (i ts : Nat) (s : State) : TimeKept s (keepStamp i ts s) := ⟨rfl, rfl, rfl⟩

theorem journal_time (i k c ts tg a b d : Nat) (s : State) : TimeKept s (journal i k c ts tg a b d s) := by
  obtain ⟨q, x, g, l, h⟩ := journal_frame i k c ts tg a b d s
  rw [h]
  exact ⟨rfl, rfl, rfl⟩

theorem raise_time (f : FaultRec) (s : State) : TimeKept s (raise f s) := by
  obtain ⟨w, q, l, n, x, h⟩ := raise_frame f s
  rw [h]
  exact ⟨rfl, rfl, rfl⟩

theorem raiseNoJob_time (c : FaultCode) (i : Nat) (s : State) : TimeKept s (raiseNoJob c i s) := raise_time _ s

theorem drivePins_tb (s : State) : (drivePins s).tb = s.tb := by
  obtain ⟨a, b, c, d, h⟩ := drivePins_frame s
  rw [h]

theorem erCheck_tb (s : State) : (erCheck s).tb = s.tb := by
  obtain ⟨n, h⟩ := erCheck_frame s
  rw [h]

theorem setWhy_time (w : BitVec 16) (c ts : Nat) (s : State) : TimeKept s (setWhy w c ts s) := by
  unfold setWhy
  split
  · exact .refl s
  · refine .trans ?_ (.of_tb ((erCheck_tb _).trans (drivePins_tb _)))
    exact (journal_time _ _ _ _ _ _ _ _ _).after rfl

theorem clearReason_time (b c ts : Nat) (s : State) : TimeKept s (clearReason b c ts s) := setWhy_time _ c ts s

/-! ### NMT resets (R486) -/

theorem chBootUp_tb (i : Nat) (s : State) : (chBootUp i s).tb = s.tb := by
  unfold chBootUp
  simp only []
  split <;> rfl

theorem chReset_tb (i : Nat) (s : State) : (chReset i s).tb = s.tb := chBootUp_tb i _

theorem nmtCmd_time (ch node : Nat) (s : State) : TimeKept s (nmtCmd ch node (chReset ch) s) := by
  unfold nmtCmd
  split
  · exact .of_tb (chReset_tb ch s)
  · exact .refl s

/-! ### Ends of jobs, loads and sweeps -/

theorem drainJob_time (n : Nat) (c : EndCause) (s : State) : TimeKept s (drainJob n c s) := by
  unfold drainJob
  simp only []
  split
  case h_1 | h_2 | h_3 | h_4 => exact ⟨rfl, rfl, rfl⟩
  case h_5 =>
    split
    · split <;> exact .of_tb rfl
    · exact .of_tb rfl
  case h_6 => exact .refl s

theorem resetJob_time (code : FaultCode) (f : Job → Job) (e : Nat × Job) (s : State) : TimeKept s (resetJob code f e s) := by
  unfold resetJob
  split
  · exact .refl s
  · refine .trans ?_ (drainJob_time _ _ _)
    exact (raise_time _ _).after rfl

theorem loadIo_time (p : Nat) (s : State) : TimeKept s (loadIo p s) := by
  unfold loadIo
  simp only []
  split
  · split
    · exact .refl s
    · exact (raise_time _ _).after rfl
  · exact .refl s

theorem flushSums_tb (l : List IngItem) (s : State) : (flushSums l s).tb = s.tb := by
  induction l generalizing s with
  | nil => rfl
  | cons i l ih =>
    cases i with
    | pt p => rfl
    | sum x =>
      unfold flushSums
      split
      · exact ih _
      · rfl

theorem sliceClose_time (c : Nat) (s : State) : TimeKept s (sliceClose c s) := by
  unfold sliceClose
  simp only []
  split
  · exact ⟨rfl, rfl, rfl⟩
  · exact .refl s

theorem ingPut_tb (i : IngItem) (s : State) : (ingPut i s).tb = s.tb := flushSums_tb _ _

theorem sweepClose_time (c : Nat) (deg : Bool) (s : State) : TimeKept s (sweepClose c deg s) := by
  unfold sweepClose
  extract_lets u x t y
  split
  · refine .trans ?_ (.of_tb (ingPut_tb _ _))
    refine .trans ?_ (keepStamp_time _ _ _)
    exact .trans (sliceClose_time c s) (.of_tb rfl)
  · exact .refl s

theorem ctxSettle_time (c : Nat) (s : State) : TimeKept s (ctxSettle c s) := by
  unfold ctxSettle
  simp only []
  split
  · exact (sweepClose_time c true s).trans (.of_tb rfl)
  · exact .refl s

theorem ingPortReset_time (h : Nat) (s : State) : TimeKept s (ingPortReset h s) := by
  unfold ingPortReset
  extract_lets _ u
  have hu : TimeKept s u := .of_tb rfl
  refine hu.foldl (fun u c => ?_) _
  refine (ctxSettle_time c _).after ?_
  split <;> rfl

theorem portPart_time (p : Nat) (s : State) : TimeKept s (portPart p s) := by
  unfold portPart
  extract_lets u _ v w x
  have hu : TimeKept s u := (TimeKept.refl s).foldl (fun u e => resetJob_time _ _ e u) _
  clear_value u
  have hw : TimeKept v w := loadIo_time p v
  clear_value w
  have hv : TimeKept u v := .of_tb rfl
  exact hu.trans (hv.trans (hw.trans (.of_tb rfl)))

theorem mbxReset_tb (h : Nat) (s : State) : (mbxReset h s).tb = s.tb := rfl

/-! ### Resets of a partition (R395) -/

theorem modCore_tb (c : Nat) (f : Core → Core) (s : State) : (modCore c f s).tb = s.tb := rfl

theorem foldl_tb {β : Type} {f : State → β → State} (h : ∀ s b, (f s b).tb = s.tb) (l : List β) (s : State) :
    (l.foldl f s).tb = s.tb :=
  foldl_keeps (P := fun t : State => t.tb = s.tb) (fun _ b ht => (h _ b).trans ht) l rfl

theorem prtRegsReset_tb (p lo hi : Nat) (s : State) : (prtRegsReset p lo hi s).tb = s.tb := rfl

theorem coreClear_tb (p : Nat) (r : List Byte) (s : State) (c : Nat) : (coreClear p r s c).tb = s.tb := rfl

theorem progFree_tb (n : Nat) (s : State) : (progFree n s).tb = s.tb := by
  unfold progFree
  split
  · rfl
  · simp only []
    rw [foldl_tb fun u c => modCore_tb c _ u, foldl_tb fun u c => modCore_tb _ _ u]

/-- The programs of a partition leave their slots. -/
def progsFree (p : Nat) (s : State) : State :=
  (List.range 64).foldl (fun s n => match vget s.hst.progs n none with
    | some g => if g.part = p then progFree n s else s
    | none => s) s

theorem progsFree_tb (p : Nat) (s : State) : (progsFree p s).tb = s.tb := by
  refine foldl_tb (fun u n => ?_) _ s
  split
  · split
    · exact progFree_tb n u
    · rfl
  · rfl

theorem partReset_time (p : Nat) (s : State) : TimeKept s (partReset p s) := by
  unfold partReset
  extract_lets _ u v w _ x _
  have hu : TimeKept s u := .of_tb rfl
  have hv : TimeKept s v := hu.foldl (f := partResetJob) (fun v e => resetJob_time _ _ e v) _
  have hw : TimeKept s w := hv.trans (.of_tb (progsFree_tb p v))
  clear_value w
  exact hw.trans (.of_tb rfl)

theorem partClear_time (p : Nat) (s : State) : TimeKept s (partClear p s) := by
  unfold partClear
  extract_lets r t _ u v _ w
  have ht : t.tb = s.tb := by
    unfold t
    split
    · rw [foldl_tb (coreClear_tb p r), clearSems_tb]
    · rfl
  clear_value t
  have hw : w.tb = t.tb := prtRegsReset_tb p 0x200 0x220 _
  clear_value w
  exact (clearReason_time _ _ _ w).after (hw.trans ht)

/-! ### Warm resets (R546) -/

theorem foldl_sinStart_tb (l : List Nat) (s : State) : (l.foldl (fun w n => sinStartN n w) s).tb = s.tb :=
  foldl_tb (f := fun w n => sinStartN n w) (fun _ _ => rfl) l s

theorem warmReset_time (cause : Nat) (s : State) : TimeKept s (warmReset cause s) := by
  unfold warmReset
  extract_lets parts hst _ u v w
  have htb : v.tb = u.tb := foldl_sinStart_tb _ u
  clear_value v
  exact .trans ⟨congrArg (·.master) htb, congrArg (·.trim) htb, congrArg (·.mode) htb⟩ (setWhy_time _ _ _ w)

theorem latchClearWrite_time (s : State) : TimeKept s (latchClearWrite s) := by
  unfold latchClearWrite
  extract_lets u _ v
  have hj : TimeKept s u := journal_time _ _ _ _ _ _ _ _ s
  have hr : TimeKept u v := (clearReason_time _ _ _ _).after rfl
  exact hj.trans (hr.trans (warmReset_time _ v))

theorem thermalSample_time (l : List Int) (p : Nat) (s : State) : TimeKept s (thermalSample l p s) := by
  unfold thermalSample
  simp only []
  split
  · exact (raiseNoJob_time _ _ _).after rfl
  · exact .of_tb rfl

/-! ### The choice of the nonvolatile bank (R470) -/

theorem journalFail_time (ring : Bool) (s : State) : TimeKept s (journalFail ring s) := by
  unfold journalFail
  by_cases h : (if ring then s.jr.ringFail else s.jr.nvFail) = true
  · rw [if_pos h]
    exact .refl s
  · rw [if_neg h]
    exact (raiseNoJob_time _ _ _).after rfl

theorem nvCompactStart_time (s : State) : TimeKept s (nvCompactStart s) := by
  unfold nvCompactStart
  extract_lets
  split
  · exact .refl s
  · exact ⟨rfl, rfl, rfl⟩

theorem nvSelect_time (s : State) : TimeKept s (nvSelect s) := by
  unfold nvSelect
  extract_lets _ u
  split
  · split
    · exact (journalFail_time _ _).after rfl
    · exact .of_tb rfl
  · extract_lets
    split
    · refine .trans ?_ (nvCompactStart_time _)
      exact (journal_time _ _ _ _ _ _ _ _ _).after rfl
    · exact .of_tb rfl

/-! ### Transfers of the dictionary -/

theorem sendMsix_tb (h v : Nat) (s : State) : (sendMsix h v s).tb = s.tb := by
  unfold sendMsix
  simp only []
  split
  · rfl
  · split <;> rfl

theorem mbxEnd_tb (i abort : Nat) (w : Bool) (d : List Byte) (s : State) : (mbxEnd i abort w d s).tb = s.tb := by
  unfold mbxEnd
  extract_lets m m' m'' u
  split
  · rfl
  · split
    · exact sendMsix_tb _ _ u
    · rfl

theorem odDeliver_tb (req abort : Nat) (w : Bool) (d : List Byte) (s : State) : (odDeliver req abort w d s).tb = s.tb := by
  unfold odDeliver
  split
  · simp only []
    split
    · rfl
    · split <;> rfl
  · exact mbxEnd_tb _ _ _ _ _

theorem setRej_tb (req n : Nat) (s : State) : (setRej req n s).tb = s.tb := by
  unfold setRej
  split <;> rfl

/-- A transfer keeps the time where the access it runs does. -/
theorem odServe_time {run : State → Nat × List Byte × State} (h : ∀ u, TimeKept u (run u).2.2) (r : OdReq) (w : Bool)
    (idx sub : Nat) (d : List Byte) (s : State) : TimeKept s (odServe r w idx sub d run s) := by
  unfold odServe
  split
  · exact .refl s
  · split
    · exact (h s).trans (.of_tb rfl)
    · split
      · simp only []
        split
        · refine .trans ?_ (.of_tb (odDeliver_tb _ _ _ _ _))
          exact (h _).after rfl
        · exact (h _).after rfl
      · exact .refl s

/-- A write of an entry keeps the time where its effect does. -/
theorem odWriteRun_time {req idx sub : Nat} {v : List Byte} (h : ∀ u, TimeKept u (odApply req idx sub v u).2) (s : State) :
    TimeKept s (odWriteRun req idx sub v s).2.2 := by
  unfold odWriteRun
  split
  · exact .refl s
  · split
    · exact .refl s
    · split
      · exact .of_tb (setRej_tb _ _ _)
      · split
        · exact .refl s
        · split
          · exact .refl s
          · split
            · exact .refl s
            · simp only []
              split
              · exact .of_tb (setRej_tb _ _ _)
              · exact h s

end Sys2Proof.Machine

namespace Sys2Proof.Proofs

open Sys2Proof.Machine

/-- Settles O4: what each reset runs keeps the time. -/
theorem resetsAndTheMaster : Obligations.ResetsAndTheMaster := by
  refine ⟨fun s pgood => ⟨_, rfl, ?_⟩, fun s => ?_⟩
  · have h := nvSelect_time (powerReset (rstCause (if pgood then 2 else 1) s) s)
    exact ⟨h.master, h.mode⟩
  · intro P
    have kept {i : Instr} {t : State} (he : exec i s = .next t) (h : TimeKept s t) : Completes i s P :=
      ⟨t, he, h.master, h.trim, h.mode⟩
    refine ⟨kept rfl ?_, fun r v => kept rfl ?_, fun l p => kept rfl ?_, fun h => kept rfl ?_, fun r v => kept rfl ?_,
      fun p => kept rfl ?_, fun ch n => kept rfl (nmtCmd_time _ _ s), fun ch n => kept rfl (nmtCmd_time _ _ s)⟩
    · split
      · exact warmReset_time _ s
      · exact .refl s
    · refine odServe_time (odWriteRun_time fun u => ?_) _ _ _ _ _ s
      exact latchClearWrite_time u
    · simp only []
      split
      · exact (thermalSample_time l p s).trans ((warmReset_time _ _).trans (.of_tb rfl))
      · exact thermalSample_time l p s
    · extract_lets u v _
      have hu : TimeKept s u := (TimeKept.refl s).foldl (fun u p => portPart_time p u) _
      clear_value u
      have hv : TimeKept u v := (ingPortReset_time h.val u).trans (.of_tb (mbxReset_tb _ _))
      clear_value v
      exact (hu.trans hv).trans (.of_tb rfl)
    · refine odServe_time (odWriteRun_time fun u => ?_) _ _ _ _ _ s
      exact partReset_time _ u
    · split
      · split
        · exact partClear_time _ s
        · exact .refl s
      · exact .refl s

end Sys2Proof.Proofs

/-! ## gPTP and the time state -/

namespace Sys2Proof.Machine

/-! ### Changes of the time state (R46) -/

section
variable {s : State}

/-- The outputs with `LOCKREQ` drop: nothing but the field bank changes. -/
theorem trigLockreq_frame (s : State) : ∃ f, trigLockreq s = { s with fio := f } := ⟨_, rfl⟩

/-- What a change of the time state leaves. -/
structure ModeMoved (m : TbMode) (s t : State) : Prop where
  mode : t.tb.mode = m
  trim : t.tb.trim = s.tb.trim
  master : t.tb.master = s.tb.master
  holdSince : t.tb.holdSince = if m = .holdover then s.tb.master else s.tb.holdSince
  intake : s.jr.intake.length < 256 → t.jr.intake.length = s.jr.intake.length + 1
  hst : t.hst = s.hst
  ing : t.ing = s.ing

theorem tbSetMode_moved {m : TbMode} (h : s.tb.mode ≠ m) : ModeMoved m s (tbSetMode m s) := by
  unfold tbSetMode
  rw [if_neg h]
  generalize hu : ({ s with tb := { s.tb with
    mode := m, holdSince := if m = .holdover then s.tb.master else s.tb.holdSince } } : State) = u
  obtain ⟨f, hf⟩ := trigLockreq_frame
    (journal 23 2 0 s.tb.master (noJobTag none) (tbModeCode s.tb.mode) (tbModeCode m) 2 u)
  have hlen := journal_intake 23 2 0 s.tb.master (noJobTag none) (tbModeCode s.tb.mode) (tbModeCode m) 2 u
  obtain ⟨q, x, g, l, hj⟩ := journal_frame 23 2 0 s.tb.master (noJobTag none) (tbModeCode s.tb.mode) (tbModeCode m) 2 u
  rw [hf]
  rw [hj] at hlen ⊢
  subst hu
  exact ⟨rfl, rfl, rfl, rfl, hlen, rfl, rfl⟩

/-- A gPTP frame of domain 0 reaches the time base. -/
theorem completes_gptpFrameRx {mac : Fin 8} {f : GptpFrame} {P : State → Prop} :
    Completes (.gptpFrameRx mac ⟨0, f⟩) s P ↔ P (gptpRx mac.val f s) := completes_iff rfl

theorem gptpSlaveOn_iff {m : Nat} : gptpSlaveOn s m = true ↔ tbSrc s = 1 ∧ tbPort s = m := by
  simp [gptpSlaveOn]

end
end Sys2Proof.Machine

namespace Sys2Proof.Proofs

open Sys2Proof.Machine

/-- Settles O11: each command's list of messages, then its sequence number. -/
theorem timeMessagesSent : Obligations.TimeMessagesSent := by
  refine ⟨fun s h => ⟨_, rfl, ?_⟩, fun s h => ⟨_, rfl, ?_⟩, fun s h => ⟨_, rfl, ?_⟩⟩
  · simp only [if_pos h, gptpSendAll_out, wrapAdd, Nat.reducePow, and_self]
  · simp only [if_pos h, gptpSendAll_out, wrapAdd, Nat.reducePow, and_self]
  · rw [if_pos h]
    exact ⟨rfl, rfl, rfl⟩

/-- Settles O12: the moves of the time state, then each message. -/
theorem timeStateCommands : Obligations.TimeStateCommands := by
  refine ⟨?_, ?_, ?_, ?_, ?_, ?_⟩
  · intro s hm hs ht hi
    refine ⟨_, rfl, ?_⟩
    rw [if_pos ⟨hm, hs⟩]
    extract_lets m
    have hne : s.tb.mode ≠ .holdover := by rcases hm with h | h <;> simp [h]
    have hmoved := tbSetMode_moved (s := { s with tb := { s.tb with trim := m, good := 0, sync := none } }) hne
    have htrim : m = s.tb.trims.sum / (s.tb.trims.length : Int) := if_neg (by simpa using ht)
    exact ⟨hmoved.mode, hmoved.trim.trans htrim, hmoved.master, hmoved.holdSince, hmoved.intake hi, hmoved.hst, hmoved.ing⟩
  · intro s hm hh hi
    refine ⟨_, rfl, ?_⟩
    rw [if_pos ⟨hm, hh⟩]
    have hmoved := tbSetMode_moved (m := .freerun) (s := s) (by simp [hm])
    exact ⟨hmoved.mode, hmoved.trim, hmoved.master, hmoved.intake hi, hmoved.hst, hmoved.ing⟩
  · intro s mac q origin corr hs hp
    rw [completes_gptpFrameRx]
    simp only [gptpRx, if_pos (gptpSlaveOn_iff.mpr ⟨hs, hp⟩), if_pos]
  · intro s mac q respTx t1 t2 t4 hs hp hreq hresp
    rw [completes_gptpFrameRx]
    simp only [gptpRx, hreq, hresp, gptpSlaveOn_iff.mpr ⟨hs, hp⟩, beq_self_eq_true, Bool.and_self, if_pos]
  · intro s mac hs
    rw [completes_gptpFrameRx]
    simp only [gptpRx, if_pos hs, wrapAdd]
  · intro s mac f hf
    exact ⟨_, rfl, if_neg hf⟩

end Sys2Proof.Proofs

/-! ## Replicas -/

namespace Sys2Proof.Machine

/-! ### Refreshes (R49 to R51) -/

section
variable {s : State} {i : Fin 24} {lag : Int}

/-- A refresh leaves every replica but its own. -/
theorem replica_refresh_ne {j : Nat} (h : i.val ≠ j) : replica (refreshReplica i.val lag s) j = replica s j := by
  simp only [replica, refreshReplica, vget_vset_ne _ _ _ h]

/-- A refreshed replica holds where it would move backwards, unless the master has stepped back (R50). -/
theorem replica_le_refresh (hi : i.val ≠ 23) (hu : 0 ≤ vget s.tb.unseen i.val 0) :
    replica s i.val ≤ replica (refreshReplica i.val lag s) i.val := by
  have hhold : vget (refreshReplica i.val lag s).tb.hold i.val 0 = replica s i.val := by
    simp only [refreshReplica, decide_eq_false (not_lt.mpr hu), Bool.false_eq_true, if_false]
    exact vget_vset_self _ _ _ _ i.isLt
  conv_rhs => rw [replica, if_neg hi, hhold]
  exact Nat.le_max_left _ _

/-- A passing refresh of an island with a clear skew state. -/
theorem exec_refresh_clear (hi : i.val ≠ 23) (hl : 0 ≤ lag ∧ lag ≤ 4) (hs : s.tb.skewState.getLsbD i.val = false) :
    exec (.replicaRefresh i lag) s = .next (refreshReplica i.val lag s) := by
  have hs' : (refreshReplica i.val lag s).tb.skewState.getLsbD i.val = false := hs
  change execReplicaRefresh i lag s = _
  simp only [execReplicaRefresh, if_neg hi, if_pos hl, hs', Bool.false_eq_true, if_false]

/-- A passing refresh of an island whose skew state is set counts one pass (R51). -/
theorem exec_refresh_counts (hi : i.val ≠ 23) (hl : 0 ≤ lag ∧ lag ≤ 4) (hs : s.tb.skewState.getLsbD i.val = true)
    (hn : vget s.tb.passes i.val 0 + 1 < 1024) : exec (.replicaRefresh i lag) s = .next { s with tb :=
      { (refreshReplica i.val lag s).tb with passes := vset s.tb.passes i.val (vget s.tb.passes i.val 0 + 1) } } := by
  have hs' : (refreshReplica i.val lag s).tb.skewState.getLsbD i.val = true := hs
  have hn' : ¬ vget (refreshReplica i.val lag s).tb.passes i.val 0 + 1 ≥ 1024 := Nat.not_le.mpr hn
  change execReplicaRefresh i lag s = _
  simp only [execReplicaRefresh, if_neg hi, if_pos hl, hs', if_true, if_neg hn']
  rfl

/-- The 1,024th consecutive pass clears the skew state (R51). -/
theorem exec_refresh_clears (hi : i.val ≠ 23) (hl : 0 ≤ lag ∧ lag ≤ 4) (hs : s.tb.skewState.getLsbD i.val = true)
    (hn : 1024 ≤ vget s.tb.passes i.val 0 + 1) : exec (.replicaRefresh i lag) s = .next { s with tb :=
      { (refreshReplica i.val lag s).tb with
        passes := vset s.tb.passes i.val 0, skewState := s.tb.skewState &&& ~~~(1#24 <<< i.val) } } := by
  have hs' : (refreshReplica i.val lag s).tb.skewState.getLsbD i.val = true := hs
  have hn' : vget (refreshReplica i.val lag s).tb.passes i.val 0 + 1 ≥ 1024 := hn
  change execReplicaRefresh i lag s = _
  simp only [execReplicaRefresh, if_neg hi, if_pos hl, hs', if_true, if_pos hn']
  rfl

/-- A failing refresh before its fault is raised: the skew state is set, and every RUNNING job is marked (R51). -/
def skewSet (i : Nat) (lag : Int) (s : State) : State :=
  let u := refreshReplica i lag s
  { u with
    tb := { u.tb with
      passes := vset u.tb.passes i 0, skewFlt := u.tb.skewFlt ||| (1#24 <<< i), skewState := u.tb.skewState ||| (1#24 <<< i) }
    hst := { u.hst with jobs := u.hst.jobs.map fun e =>
      (e.1, if e.2.st = .running then { e.2 with skewed := true } else e.2) } }

/-- REPLICA_SKEW of SAF, with the islands that have failed. -/
def skewFault (s : State) : FaultRec :=
  { plainFault .replicaSkew 23 none with detail := [BitVec.ofNat 32 s.tb.skewFlt.toNat] }

theorem exec_refresh_fail (hi : i.val ≠ 23) (hl : lag < 0 ∨ 4 < lag) :
    exec (.replicaRefresh i lag) s = .next (
      if s.tb.skewState.getLsbD i.val = false then raise (skewFault (skewSet i.val lag s)) (skewSet i.val lag s)
      else skewSet i.val lag s) := by
  have hl' : ¬ (0 ≤ lag ∧ lag ≤ 4) := by omega
  have hs' : (refreshReplica i.val lag s).tb.skewState.getLsbD i.val = s.tb.skewState.getLsbD i.val := rfl
  change execReplicaRefresh i lag s = _
  simp only [execReplicaRefresh, if_neg hi, if_neg hl', hs', Bool.not_eq_true']
  rfl

end
end Sys2Proof.Machine

namespace Sys2Proof.Proofs

open Sys2Proof.Machine

/-- Settles O13: a failing refresh, then a passing one by the island's skew state. -/
theorem replicaSkew : Obligations.ReplicaSkew := by
  refine ⟨?_, ?_, ?_, ?_⟩
  · intro s i lag hi hl
    rw [completes_iff (exec_refresh_fail hi hl)]
    have hpass : vget (skewSet i.val lag s).tb.passes i.val 0 = 0 := vget_vset_self _ _ _ _ i.isLt
    have hjobs (n : Nat) (j : Job) (hj : (n, j) ∈ s.hst.jobs) (hr : j.st = .running) :
        (n, { j with skewed := true }) ∈ (skewSet i.val lag s).hst.jobs :=
      List.mem_map.mpr ⟨(n, j), hj, by rw [if_pos hr]⟩
    split
    case isTrue hs =>
      have hraised := raise_raised (skewFault (skewSet i.val lag s)) (skewSet i.val lag s)
        (show (FaultCode.replicaSkew.cls == 8) = false by decide) (by decide : 23 < 24)
      obtain ⟨w, q, l, n, x, h⟩ := raise_frame (skewFault (skewSet i.val lag s)) (skewSet i.val lag s)
      refine ⟨?_, ?_, ?_, ?_, ?_, fun _ => hraised, fun n j hj hr => ?_⟩
      all_goals rw [h]
      · rfl
      · rfl
      · exact hpass
      · rfl
      · rfl
      · exact hjobs n j hj hr
    case isFalse hs =>
      exact ⟨rfl, rfl, hpass, rfl, rfl, fun h => absurd h hs, hjobs⟩
  · intro s i lag hi h0 h4 hs
    rw [completes_iff (exec_refresh_clear hi ⟨h0, h4⟩ hs)]
    refine ⟨rfl, replica_le_refresh hi, fun j hj => replica_refresh_ne fun e => hj (Fin.ext e.symm),
      rfl, rfl, rfl, rfl, rfl, rfl, rfl⟩
  · intro s i lag hi h0 h4 hs hn
    rw [completes_iff (exec_refresh_counts hi ⟨h0, h4⟩ hs hn)]
    exact ⟨rfl, rfl, vget_vset_self _ _ _ _ i.isLt, rfl⟩
  · intro s i lag hi h0 h4 hs hn
    rw [completes_iff (exec_refresh_clears hi ⟨h0, h4⟩ hs hn)]
    exact ⟨rfl, rfl, rfl⟩

end Sys2Proof.Proofs

/-! ## The journal -/

namespace Sys2Proof.Machine

/-! ### The canonical order (R58, R60) -/

/-- A record stands no later than another: by the side of the backward steps, then by stamp, then by island. -/
def jrecLe (a b : JRec) : Prop :=
  a.side < b.side ∨ (a.side = b.side ∧ (a.ts < b.ts ∨ (a.ts = b.ts ∧ a.isl ≤ b.isl)))

theorem jrecLe_trans {a b c : JRec} (h : jrecLe a b) (h' : jrecLe b c) : jrecLe a c := by
  unfold jrecLe at *
  omega

theorem jrecBefore_le {a b : JRec} (h : jrecBefore a b = true) : jrecLe a b := by
  simp only [jrecBefore, Bool.or_eq_true, Bool.and_eq_true, decide_eq_true_eq, beq_iff_eq] at h
  unfold jrecLe
  omega

theorem jrecBefore_ge {a b : JRec} (h : jrecBefore a b = false) : jrecLe b a := by
  simp only [jrecBefore, Bool.or_eq_false_iff, Bool.and_eq_false_iff, decide_eq_false_iff_not, beq_eq_false_iff_ne] at h
  unfold jrecLe
  omega

/-- The element that `takeMin` takes stands before every other, in any preorder that the order respects. -/
theorem takeMin_le {α : Type} {lt : α → α → Bool} {R : α → α → Prop} (ht : ∀ {a b c}, R a b → R b c → R a c)
    (hlt : ∀ {a b}, lt a b = true → R a b) (hge : ∀ {a b}, lt a b = false → R b a) {l rest : List α} {m : α}
    (h : takeMin lt l = some (m, rest)) : ∀ x ∈ rest, R m x := by
  induction l generalizing m rest with
  | nil => cases h
  | cons y l ih =>
    rw [takeMin] at h
    split at h
    case h_1 =>
      obtain ⟨rfl, rfl⟩ := Prod.mk.inj (Option.some.inj h)
      exact fun x hx => nomatch hx
    case h_2 k r hk =>
      have hr := ih hk
      split at h
      case isTrue hb =>
        obtain ⟨rfl, rfl⟩ := Prod.mk.inj (Option.some.inj h)
        exact List.forall_mem_cons.mpr ⟨hlt hb, hr⟩
      case isFalse hb =>
        obtain ⟨rfl, rfl⟩ := Prod.mk.inj (Option.some.inj h)
        have hy := hge (Bool.eq_false_iff.mpr hb)
        exact List.forall_mem_cons.mpr ⟨hy, fun x hx => ht hy (hr x hx)⟩

/-! ### A write of the ring (R464, R465, R467) -/

section
variable {s : State} {r : JRec}

/-- What a record that the journal writes shares with the one that waited: all but three of its flags and its place. -/
structure SameRecord (x r : JRec) : Prop where
  seq : x.seq = r.seq
  isl : x.isl = r.isl
  kind : x.kind = r.kind
  code : x.code = r.code
  ts : x.ts = r.ts
  tag : x.tag = r.tag
  a0 : x.a0 = r.a0
  a1 : x.a1 = r.a1
  a2 : x.a2 = r.a2
  pwr : bitOf x.flags 4 = bitOf r.flags 4

theorem SameRecord.refl (r : JRec) : SameRecord r r := ⟨rfl, rfl, rfl, rfl, rfl, rfl, rfl, rfl, rfl, rfl⟩

theorem SameRecord.trans {x y : JRec} (h : SameRecord x y) (h' : SameRecord y r) : SameRecord x r :=
  ⟨h.seq.trans h'.seq, h.isl.trans h'.isl, h.kind.trans h'.kind, h.code.trans h'.code, h.ts.trans h'.ts,
    h.tag.trans h'.tag, h.a0.trans h'.a0, h.a1.trans h'.a1, h.a2.trans h'.a2, h.pwr.trans h'.pwr⟩

theorem SameRecord.eligible {x : JRec} (h : SameRecord x r) : nvEligible x = nvEligible r := by
  rw [nvEligible, nvEligible, h.kind, h.code]

theorem SameRecord.setFlag {x : JRec} (h : SameRecord x r) {i : Nat} (hi : i = 1 ∨ i = 2 ∨ i = 3) : SameRecord (setFlag i x) r := by
  refine ⟨h.seq, h.isl, h.kind, h.code, h.ts, h.tag, h.a0, h.a1, h.a2, ?_⟩
  have hb : bitOf (putBit x.flags i true) 4 = bitOf x.flags 4 := by
    unfold bitOf putBit putBits
    rcases hi with rfl | rfl | rfl <;> congr 1 <;> norm_num <;> omega
  exact hb.trans h.pwr

/-- The record as the journal numbers it and marks it, before MRAM takes it (R464). -/
def numbered (s : State) (r : JRec) : JRec :=
  let r := { r with jseq := s.jr.jseq, side := 0 }
  let r := if decide (r.ts < s.jr.topTs) then setFlag 1 r else r
  if s.jr.dropped then setFlag 2 r else r

theorem numbered_same (s : State) (r : JRec) : SameRecord (numbered s r) r ∧ (numbered s r).jseq = s.jr.jseq := by
  have h0 : SameRecord { r with jseq := s.jr.jseq, side := 0 } r := ⟨rfl, rfl, rfl, rfl, rfl, rfl, rfl, rfl, rfl, rfl⟩
  unfold numbered
  extract_lets u v
  have h1 : SameRecord v r ∧ v.jseq = s.jr.jseq := by
    unfold v
    split
    · exact ⟨h0.setFlag (.inl rfl), rfl⟩
    · exact ⟨h0, rfl⟩
  split
  · exact ⟨h1.1.setFlag (.inr (.inl rfl)), h1.2⟩
  · exact h1

/-- The record goes to MRAM, or carries NVLOST; the queue of MRAM and NVLOST's counter change, nothing else (R467). -/
theorem nvPut_spec (r : JRec) (s : State) : ∃ x q g, nvPut r s = (x, { s with jr := { s.jr with nvPend := q }, regs := g }) ∧
    SameRecord x r ∧ x.jseq = r.jseq ∧ (nvEligible r = false → q = s.jr.nvPend) ∧
    (nvEligible r = true → bitOf r.flags 4 = false → s.jr.nvFail = false → s.saf.pwrFail = false →
      s.jr.nvClosed = false → s.jr.nvPend.length < 64 → q = s.jr.nvPend ++ [x]) := by
  unfold nvPut
  split
  case isTrue h =>
    simp only [Bool.and_eq_true, Bool.not_eq_true'] at h
    split
    case isTrue h' =>
      obtain ⟨g, hg⟩ := regCount_frame s (rkey 0 0x0402018) 1
      rw [hg]
      refine ⟨_, s.jr.nvPend, g, rfl, (SameRecord.refl r).setFlag (.inr (.inr rfl)), rfl, fun _ => rfl,
        fun _ _ h1 h2 h3 h4 => ?_⟩
      simp [h1, h2, h3] at h'
      omega
    case isFalse =>
      exact ⟨r, s.jr.nvPend ++ [r], s.regs, rfl, .refl r, rfl, fun e => by simp [h.1] at e, fun _ _ _ _ _ _ => rfl⟩
  case isFalse h =>
    refine ⟨r, s.jr.nvPend, s.regs, rfl, .refl r, rfl, fun _ => rfl, fun h1 h2 => ?_⟩
    simp [h1, h2] at h

/-- The journal once a record has left the intake, counted where it is out of order (R464). -/
def taken (r : JRec) (rest : List JRec) (s : State) : State :=
  let u := if decide (r.ts < s.jr.topTs) then regWrap (rkey 0 0x040200C) 1 s else s
  { u with jr := { u.jr with intake := rest, dropped := false, topTs := max u.jr.topTs (numbered s r).ts
                             jseq := wrapAdd 32 u.jr.jseq 1 } }

theorem taken_frame (r : JRec) (rest : List JRec) (s : State) : ∃ g, taken r rest s = { s with
    jr := { s.jr with intake := rest, dropped := false, topTs := max s.jr.topTs (numbered s r).ts
                      jseq := wrapAdd 32 s.jr.jseq 1 }
    regs := g } := by
  unfold taken
  split <;> exact ⟨_, rfl⟩

/-- A record goes into its slot of the ring. -/
def ringPut (x : JRec) (s : State) : State :=
  { s with jr := { s.jr with ring := smSet (fun _ => none) s.jr.ring (x.jseq % 8192) (some x) } }

theorem exec_journalWrite_ok {rest : List JRec} (hm : takeMin jrecBefore s.jr.intake = some (r, rest)) :
    exec (.journalWrite true) s = .next (
      let p := nvPut (numbered s r) (taken r rest s)
      let u := lastWord p.1 p.2
      if u.jr.ringFail then u else ringPut p.1 u) := by
  change execJournalWrite true s = _
  unfold execJournalWrite
  rw [hm]
  rfl

/-- JOURNAL_WRITE that verifies: the record in its slot and in the last-word registers (R464, R465, R473). -/
theorem exec_journalWrite {rest : List JRec} (hm : takeMin jrecBefore s.jr.intake = some (r, rest))
    (hf : s.jr.ringFail = false) : ∃ x w q g top, exec (.journalWrite true) s = .next { s with
      jr := { s.jr with
        intake := rest, dropped := false, topTs := top, jseq := wrapAdd 32 s.jr.jseq 1, nvPend := q
        lastw0 := w, lastw1 := w, lastw2 := w
        ring := smSet (fun _ => none) s.jr.ring (s.jr.jseq % 8192) (some x) }
      regs := g } ∧ w = bytesWords (jrecBytes x) ∧
      SameRecord x r ∧ x.jseq = s.jr.jseq ∧ (nvEligible r = false → q = s.jr.nvPend) ∧
      (nvEligible r = true → bitOf r.flags 4 = false → s.jr.nvFail = false → s.saf.pwrFail = false →
        s.jr.nvClosed = false → s.jr.nvPend.length < 64 → q = s.jr.nvPend ++ [x]) := by
  obtain ⟨hsame, hseq⟩ := numbered_same s r
  obtain ⟨g0, hu⟩ := taken_frame r rest s
  obtain ⟨x, q, g, hput, hx, hxseq, hno, hyes⟩ := nvPut_spec (numbered s r) (taken r rest s)
  rw [hu] at hput hno hyes
  refine ⟨x, _, q, g, max s.jr.topTs (numbered s r).ts, ?_, rfl, hx.trans hsame, hxseq.trans hseq,
    fun h => hno (hsame.eligible.trans h), fun h1 h2 => hyes (hsame.eligible.trans h1) (hsame.pwr.trans h2)⟩
  rw [exec_journalWrite_ok hm, hu, hput]
  simp only [lastWord, hf, Bool.false_eq_true, if_false, ringPut, hxseq, hseq]

/-! ### The nonvolatile banks (R467 to R469) -/

section
variable (b : NvBank) (s : State)

@[simp] theorem activeBank_putActive : activeBank (putActive b s) = b := by
  cases h : s.jr.active1 <;> simp [activeBank, putActive, h]

@[simp] theorem otherBank_putActive : otherBank (putActive b s) = otherBank s := by
  cases h : s.jr.active1 <;> simp [otherBank, putActive, h]

@[simp] theorem activeBank_putOther : activeBank (putOther b s) = activeBank s := by
  cases h : s.jr.active1 <;> simp [activeBank, putOther, h]

@[simp] theorem otherBank_putOther : otherBank (putOther b s) = b := by
  cases h : s.jr.active1 <;> simp [otherBank, putOther, h]

theorem putActive_frame : ∃ j : NvBank × NvBank, putActive b s = { s with jr := { s.jr with bank0 := j.1, bank1 := j.2 } } := by
  cases h : s.jr.active1
  · exact ⟨(b, s.jr.bank1), by rw [putActive, if_neg (by simp [h])]⟩
  · exact ⟨(s.jr.bank0, b), by rw [putActive, if_pos h]⟩

theorem putOther_frame : ∃ j : NvBank × NvBank, putOther b s = { s with jr := { s.jr with bank0 := j.1, bank1 := j.2 } } := by
  cases h : s.jr.active1
  · exact ⟨(s.jr.bank0, b), by rw [putOther, if_neg (by simp [h])]⟩
  · exact ⟨(b, s.jr.bank1), by rw [putOther, if_pos h]⟩

/-- The other bank becomes the active one. -/
def swapBanks (s : State) : State := { s with jr := { s.jr with compact := none, active1 := !s.jr.active1 } }

theorem activeBank_swap : activeBank (swapBanks s) = otherBank s := by
  cases h : s.jr.active1 <;> simp [activeBank, otherBank, swapBanks, h]

theorem otherBank_swap : otherBank (swapBanks s) = activeBank s := by
  cases h : s.jr.active1 <;> simp [activeBank, otherBank, swapBanks, h]

end

theorem nvCompactStart_below (h : (activeBank s).used < 1792) : nvCompactStart s = s := by
  unfold nvCompactStart
  exact if_pos (.inl h)

/-- The oldest pending record goes to the active bank. -/
def nvAppend (r : JRec) (rest : List JRec) (s : State) : State :=
  putActive (bankAppend r (activeBank s)) { s with jr := { s.jr with nvPend := rest } }

theorem nvAppend_nvPend (r : JRec) (rest : List JRec) (s : State) : (nvAppend r rest s).jr.nvPend = rest := by
  obtain ⟨j, hj⟩ := putActive_frame (bankAppend r (activeBank s)) { s with jr := { s.jr with nvPend := rest } }
  exact congrArg (·.jr.nvPend) hj

theorem activeBank_nvAppend (r : JRec) (rest : List JRec) (s : State) :
    activeBank (nvAppend r rest s) = bankAppend r (activeBank s) := activeBank_putActive _ _

theorem otherBank_nvAppend (r : JRec) (rest : List JRec) (s : State) : otherBank (nvAppend r rest s) = otherBank s :=
  otherBank_putActive _ _

theorem exec_nvRecordWrite {rest : List JRec} (hq : s.jr.nvPend = r :: rest) (hf : s.jr.nvFail = false)
    (hc : s.jr.nvClosed = false) (hp : s.saf.pwrFail = false) (hu : (activeBank s).used < 1791) :
    exec (.nvRecordWrite true) s = .next (nvAppend r rest s) := by
  have hu' : ¬ 2047 ≤ (activeBank s).used := by omega
  have hp' : (nvAppend r rest s).saf.pwrFail = false := hp
  have hused : (activeBank (nvAppend r rest s)).used < 1792 := by
    rw [activeBank_nvAppend]
    exact Nat.succ_lt_succ hu
  have hexec : exec (.nvRecordWrite true) s = .next (
      if s.jr.nvFail || s.jr.nvClosed then s
      else if 2047 ≤ (activeBank s).used then s
      else
        let r := if s.saf.pwrFail then setFlag 4 r else r
        let u := nvAppend r rest s
        let v := if u.saf.pwrFail && rest.isEmpty then { u with jr := { u.jr with nvClosed := true } } else u
        if v.saf.pwrFail then v else nvCompactStart v) := by
    change execNvRecordWrite true s = _
    unfold execNvRecordWrite
    rw [hq]
    rfl
  rw [hexec, hf, hc, if_neg (by decide), if_neg hu', hp, if_neg Bool.false_ne_true]
  simp only [hp', Bool.false_and, Bool.false_eq_true, if_false, nvCompactStart_below hused]

/-- A write that does not verify sets `FAIL` and raises JOURNAL_FAIL. -/
theorem exec_nvRecordWrite_fail {rest : List JRec} (hq : s.jr.nvPend = r :: rest) (hf : s.jr.nvFail = false)
    (hc : s.jr.nvClosed = false) : exec (.nvRecordWrite false) s = .next (journalFail false s) := by
  change execNvRecordWrite false s = _
  unfold execNvRecordWrite
  rw [hq]
  simp only [hf, hc, Bool.or_self, Bool.not_false, Bool.false_eq_true, if_false, if_true]

theorem journalFail_nv (h : s.jr.nvFail = false) : (journalFail false s).jr = { s.jr with
    ringFail := s.jr.ringFail || false, nvFail := true, compact := none, nvPend := [] } := by
  unfold journalFail
  rw [if_neg (by simp [h])]
  obtain ⟨w, q, l, n, x, hr⟩ := raiseNoJob_frame .journalFail 23 { s with jr := { s.jr with
    ringFail := s.jr.ringFail || false, nvFail := s.jr.nvFail || !false, compact := none, nvPend := [] } }
  refine (congrArg (·.jr) hr).trans ?_
  simp

section
variable {k : Compaction}

/-- The next record of the active bank stands in the other bank, too. -/
def compactNext (k : Compaction) (s : State) : State :=
  let u := putOther { otherBank s with
    slots := smSet slotEmpty (otherBank s).slots ((otherBank s).used + 1) (smGet slotEmpty (activeBank s).slots k.src)
    used := (otherBank s).used + 1 } s
  { u with jr := { u.jr with compact := some ⟨k.src + 1, k.copied + 1⟩ } }

theorem otherBank_compactNext (k : Compaction) (s : State) : otherBank (compactNext k s) = { otherBank s with
    slots := smSet slotEmpty (otherBank s).slots ((otherBank s).used + 1) (smGet slotEmpty (activeBank s).slots k.src)
    used := (otherBank s).used + 1 } := otherBank_putOther _ s

theorem activeBank_compactNext (k : Compaction) (s : State) : activeBank (compactNext k s) = activeBank s :=
  activeBank_putOther _ s

theorem exec_nvCompactCopy (hk : s.jr.compact = some k) (hp : s.saf.pwrFail = false) (hq : s.jr.nvPend = []) :
    exec (.nvCompactCopy true) s = .next (
      if k.src ≤ (activeBank s).used then compactNext k s
      else swapBanks (putOther { otherBank s with gen := some ((activeBank s).gen.getD 0 + 1) } s)) := by
  change execNvCompactCopy true s = _
  unfold execNvCompactCopy
  rw [hk]
  simp only [hp, hq, List.isEmpty_nil, Bool.not_true, Bool.or_self, Bool.false_eq_true, if_false]
  split <;> rfl

end

/-! ### Power failure (R471) -/

theorem imgTrigger_frame (src req code : Nat) (s : State) : ∃ x, imgTrigger src req code s = { s with img := x } := by
  unfold imgTrigger
  extract_lets _ miss start
  split
  · exact ⟨s.img, rfl⟩
  · split
    · exact ⟨_, rfl⟩
    · exact ⟨_, rfl⟩
    · exact ⟨_, rfl⟩
    · split <;> exact ⟨_, rfl⟩

/-- Reasons that are not 0 leave both pins low; the journal's intake takes the record, the emergency queue the frame. -/
theorem setWhy_low {w : BitVec 16} (c ts : Nat) (hw : w ≠ 0)
    (hs : s.saf.why ≠ 0 → s.saf.pinA = false ∧ s.saf.pinB = false) : ∃ a b e f q d g l n, a = false ∧ b = false ∧
      setWhy w c ts s = { s with
        saf := { s.saf with why := w, pinA := a, pinB := b, rbA := e, rbB := f }
        jr := { s.jr with intake := q, dropped := d }, regs := g, tb := { s.tb with seq := l }, node := n } := by
  unfold setWhy
  split
  case isTrue h =>
    subst h
    exact ⟨_, _, _, _, _, _, _, _, _, (hs hw).1, (hs hw).2, rfl⟩
  case isFalse =>
    obtain ⟨q, d, g, l, hj⟩ := journal_frame 23 2 c ts (noJobTag none) s.saf.why.toNat w.toNat 1
      { s with saf := { s.saf with why := w } }
    rw [hj, drivePins, if_pos (by simpa using .inl hw)]
    obtain ⟨n, he⟩ := erCheck_frame { s with
      saf := { s.saf with why := w, pinA := false, pinB := false, rbA := false, rbB := false }
      jr := { s.jr with intake := q, dropped := d }, regs := g, tb := { s.tb with seq := l } }
    exact ⟨false, false, _, _, _, _, _, _, _, rfl, rfl, he⟩

/-- The PWRFAIL record, which carries `PWR` (R471). -/
def pwrRec (q ts : Nat) : JRec :=
  { seq := q, isl := 23, kind := 1, code := 0x0A08, ts := ts, tag := noJobTag none, flags := 17, a0 := 0x70FFFFFFFF }

theorem pwrWhy_ne (w : BitVec 16) : w ||| 0x1000 ≠ 0 := by
  intro h
  have hb := congrArg (BitVec.getLsbD · 12) h
  simp at hb

/-- PWRFAIL: the pins low, the queue of MRAM cut to its newest 8 (R471). -/
theorem exec_pwrfail (hp : s.saf.pwrFail = false) (hf : s.jr.nvFail = false)
    (hs : s.saf.why ≠ 0 → s.saf.pinA = false ∧ s.saf.pinB = false) :
    ∃ a b e f q d g l n m i, a = false ∧ b = false ∧ exec .pwrfail s = .next { s with
      saf := { s.saf with pwrFail := true, why := s.saf.why ||| 0x1000, pinA := a, pinB := b, rbA := e, rbB := f }
      jr := { s.jr with intake := q, dropped := d
                        nvPend := (s.jr.nvPend ++ [pwrRec m s.tb.master]).drop ((s.jr.nvPend ++ [pwrRec m s.tb.master]).length - 8) }
      regs := g, tb := { s.tb with seq := l }, node := n, img := i } := by
  obtain ⟨a, b, e, f, q, d, g, l, n, ha, hb, hw⟩ := setWhy_low (s := { s with saf := { s.saf with pwrFail := true } })
    0x0A08 s.tb.master (pwrWhy_ne s.saf.why) hs
  have hset : setReason 12 0x0A08 s.tb.master { s with saf := { s.saf with pwrFail := true } } = _ := hw
  let r := pwrRec (vget l 23 0) s.tb.master
  let u : State := { s with
    saf := { s.saf with pwrFail := true, why := s.saf.why ||| 0x1000, pinA := a, pinB := b, rbA := e, rbB := f }
    jr := { s.jr with intake := q, dropped := d }
    regs := g, tb := { s.tb with seq := vset l 23 (wrapAdd 32 (vget l 23 0) 1) }, node := n }
  have hexec : exec .pwrfail s = .next (
      let v := intakePut r u
      let w := { v with jr := { v.jr with
        nvPend := if v.jr.nvFail then [] else (v.jr.nvPend ++ [r]).drop ((v.jr.nvPend ++ [r]).length - 8) } }
      let x := if bitOf (imgFaultMask w) 10 then imgTrigger 4 0xFF 0x0A08 w else w
      emcyEvent 0x0A08 0 s.tb.master x) := by
    change execPwrfail s = _
    unfold execPwrfail
    rw [hp, if_neg Bool.false_ne_true]
    simp only []
    rw [hset]
    rfl
  obtain ⟨q', d', g', hput⟩ := intakePut_frame r u
  have himg (w : State) : ∃ i, (if bitOf (imgFaultMask w) 10 then imgTrigger 4 0xFF 0x0A08 w else w) = { w with img := i } := by
    split
    · exact imgTrigger_frame _ _ _ w
    · exact ⟨w.img, rfl⟩
  rw [hput] at hexec
  obtain ⟨i, hi⟩ := himg { u with
    jr := { u.jr with intake := q', dropped := d', nvPend := (u.jr.nvPend ++ [r]).drop ((u.jr.nvPend ++ [r]).length - 8) }
    regs := g' }
  obtain ⟨n', hn⟩ := emcyEvent_frame 0x0A08 0 s.tb.master { u with
    jr := { u.jr with intake := q', dropped := d', nvPend := (u.jr.nvPend ++ [r]).drop ((u.jr.nvPend ++ [r]).length - 8) }
    regs := g', img := i }
  refine ⟨a, b, e, f, q', d', g', vset l 23 (wrapAdd 32 (vget l 23 0) 1), n', vget l 23 0, i, ha, hb, hexec.trans ?_⟩
  simp only [hf, u, Bool.false_eq_true, if_false] at hi hn ⊢
  rw [hi, hn]

end
end Sys2Proof.Machine

namespace Sys2Proof.Proofs

open Sys2Proof.Machine

/-- Settles O20: the ring, the banks and the compaction in closed form, then the power failure. -/
theorem theJournal : Obligations.TheJournal := by
  refine ⟨?_, ?_, ?_, ?_, ?_, ?_, ?_⟩
  · intro s r rest hm hf
    obtain ⟨x, w, q, g, top, hx, hlast, hs, hseq, hno, hyes⟩ := exec_journalWrite hm hf
    rw [completes_iff hx]
    refine ⟨rfl, rfl, rfl, ⟨x, smGet_set_self (fun _ => none) s.jr.ring _ (some x), hseq, hs.seq, hs.isl, hs.kind, hs.code, hs.ts, hs.tag, hs.a0,
      hs.a1, hs.a2, hlast, hno, hyes⟩, fun n hn => smGet_set_ne (fun _ => none) s.jr.ring hn (some x), ?_, rfl, rfl, rfl⟩
    exact takeMin_le (R := jrecLe) jrecLe_trans jrecBefore_le jrecBefore_ge hm
  · intro s h ok
    refine ⟨_, rfl, ?_⟩
    rw [h]
    rfl
  · intro s r rest hq hf hc hp hu _
    rw [completes_iff (exec_nvRecordWrite hq hf hc hp hu)]
    rw [activeBank_nvAppend, otherBank_nvAppend]
    exact ⟨nvAppend_nvPend r rest s, smGet_set_self slotEmpty (activeBank s).slots _ (.full r), rfl, rfl, fun n hn => smGet_set_ne slotEmpty _ hn (.full r), rfl⟩
  · intro s k hk hp hq hle
    rw [completes_iff (exec_nvCompactCopy hk hp hq), if_pos hle, activeBank_compactNext, otherBank_compactNext]
    exact ⟨rfl, rfl, smGet_set_self slotEmpty (otherBank s).slots _ _, rfl, rfl⟩
  · intro s k hk hp hq hlt
    rw [completes_iff (exec_nvCompactCopy hk hp hq), if_neg (Nat.not_le.mpr hlt)]
    rw [activeBank_swap, otherBank_swap, activeBank_putOther, otherBank_putOther]
    obtain ⟨j, hj⟩ := putOther_frame { otherBank s with gen := some ((activeBank s).gen.getD 0 + 1) } s
    rw [hj]
    exact ⟨rfl, rfl, rfl, rfl, rfl, rfl⟩
  · intro s r rest hq hf hc
    rw [completes_iff (exec_nvRecordWrite_fail hq hf hc), journalFail_nv hf]
    exact ⟨rfl, rfl, rfl⟩
  · intro s hp hf hs
    obtain ⟨a, b, e, f, q, d, g, l, n, m, i, rfl, rfl, hx⟩ := exec_pwrfail hp hf hs
    rw [completes_iff hx]
    refine ⟨rfl, rfl, rfl, rfl, ?_, ?_, rfl, rfl, rfl, rfl, rfl, rfl⟩
    · simp
      omega
    · rw [List.getLast?_drop, if_neg (by simp), List.getLast?_concat]
      simp [pwrRec, bitOf]

end Sys2Proof.Proofs

/-! ## Sweeps, gaps, slices and poses -/

namespace Sys2Proof.Machine

/-! ### Stamps and stream contexts -/

/-- A stamp once kept is the stamp that the island takes next, where nothing crosses a Weir (R50, R53). -/
theorem stampOf_keepStamp {i : Nat} (hi : i < 24) (s : State) : stampOf (keepStamp i (stampOf s i 0) s) i 0 = stampOf s i 0 := by
  have hr : replica (keepStamp i (stampOf s i 0) s) i = replica s i := rfl
  have ht : stampTop (keepStamp i (stampOf s i 0) s) i = stampTop s i := rfl
  have hl : vget (keepStamp i (stampOf s i 0) s).tb.last i 0 = stampOf s i 0 := vget_vset_self _ _ _ _ hi
  conv_lhs => rw [stampOf, hr, ht, hl]
  simp only [stampOf, if_true]
  omega

section
variable {s u : State} {c : Nat} {x : StreamCtx}

theorem ingCtx_congr (h : u.ing = s.ing) (d : Nat) : ingCtx u d = ingCtx s d := by rw [ingCtx, h]; rfl

theorem ingCtx_set_ne {d : Nat} (h : d ≠ c) (x : StreamCtx) (s : State) : ingCtx (setIngCtx c x s) d = ingCtx s d :=
  vget_vset_ne _ _ _ h.symm

/-- A state that differs in ING's stamps and in one stream context, which is `x`. -/
structure CtxMoved (c : Nat) (x : StreamCtx) (s u : State) : Prop where
  rest : ∃ v l, u = { s with ing := { s.ing with ctx := v }, tb := { s.tb with last := l } }
  self : ingCtx u c = x
  others : ∀ d, d ≠ c → ingCtx u d = ingCtx s d

theorem CtxMoved.set (hc : c < 128) (y : StreamCtx) (s : State) : CtxMoved c y s (setIngCtx c y s) :=
  ⟨⟨_, s.tb.last, rfl⟩, ingCtx_set_self s hc y, fun _ hd => ingCtx_set_ne hd y s⟩

/-- A further setting of the context, stamped. -/
theorem CtxMoved.stamped (h : CtxMoved c x s u) (hc : c < 128) (y : StreamCtx) (t : Nat) :
    CtxMoved c y s (keepStamp islIng t (setIngCtx c y u)) := by
  obtain ⟨⟨v, l, rfl⟩, -, ho⟩ := h
  exact ⟨⟨_, _, rfl⟩, ingCtx_set_self _ hc y, fun d hd => (ingCtx_set_ne hd y _).trans (ho d hd)⟩

theorem CtxMoved.refl (s : State) : CtxMoved c (ingCtx s c) s s := ⟨⟨s.ing.ctx, s.tb.last, rfl⟩, rfl, fun _ _ => rfl⟩

/-! ### Summaries on their way to VOX -/

/-- A summary goes on to VOX at once where nothing waits before it and the Weir has room (R531). -/
theorem ingPut_sum (g : SweepSum) (hq : s.ing.deskew = []) (hv : voxRoom s = true) : ingPut (.sum g) s = voxPut (.sum g) s := by
  have hv' : voxRoom { s with ing := { s.ing with deskew := [.sum g] } } = true := hv
  have hs : { s with ing := { s.ing with deskew := [] } } = s := by rw [← hq]
  simp only [ingPut, hq, List.nil_append, flushSums, if_pos hv']
  exact congrArg (voxPut (.sum g)) hs

/-- An item waits behind a point, or while VOX takes none. -/
theorem ingPut_waits (i : IngItem) (h : (∃ q l, s.ing.deskew = .pt q :: l) ∨ voxRoom s = false) :
    ingPut i s = { s with ing := { s.ing with deskew := s.ing.deskew ++ [i] } } := by
  refine flushSums_stay ?_
  rcases h with ⟨q, l, h⟩ | h
  · exact .inl (by simp [h])
  · exact .inr h

/-! ### The close of a sweep (R80) -/

/-- The open slice closes and is stamped. -/
theorem sliceClose_open {sl : SliceSt} (h : (ingCtx s c).slice = some sl) : sliceClose c s =
    keepStamp islIng (stampOf s islIng 0) (setIngCtx c { ingCtx s c with
      slice := none, sliceTs := (sl.openTs, stampOf s islIng 0) } s) := by
  simp only [sliceClose, h]

/-- What `sliceClose` leaves: the context without a slice, and the island's next stamp. -/
theorem sliceClose_moved (hc : c < 128) (s : State) : ∃ z, CtxMoved c { ingCtx s c with slice := none, sliceTs := z } s (sliceClose c s) ∧
    stampOf (sliceClose c s) islIng 0 = stampOf s islIng 0 := by
  cases h : (ingCtx s c).slice with
  | none =>
    have hx : ({ ingCtx s c with slice := none, sliceTs := (ingCtx s c).sliceTs } : StreamCtx) = ingCtx s c := by rw [← h]
    have hs : sliceClose c s = s := by simp only [sliceClose, h]
    exact ⟨(ingCtx s c).sliceTs, by rw [hs, hx]; exact .refl s, by rw [hs]⟩
  | some sl =>
    rw [sliceClose_open h]
    exact ⟨_, (CtxMoved.refl s).stamped hc _ _, stampOf_keepStamp (by decide) s⟩

/-- The summary of a sweep that `MAX_SWEEP` closes. -/
def forcedSum (s : State) (c : Nat) : SweepSum := { sweepSumOf c (ingCtx s c) (stampOf s islIng 0) with degraded := true }

/-- A sweep that `MAX_SWEEP` closes: its context ends the sweep, and its summary, marked DEGRADED, is put. -/
theorem sweepClose_degraded (h : (ingCtx s c).sweepOpen = true) : ∃ u y, CtxMoved c y s u ∧ y.sweepOpen = false ∧ y.slice = none ∧
    y.seq = (ingCtx s c).seq ∧
    sweepClose c true s = ingPut (.sum (forcedSum s c)) u := by
  have hc := lt_of_sweepOpen h
  obtain ⟨z, hm, ht⟩ := sliceClose_moved hc s
  refine ⟨_, _, hm.stamped hc _ _, ?_, ?_, ?_, by simp only [sweepClose, if_pos h, hm.self, ht, Bool.or_true]; rfl⟩
  all_goals rfl

/-- A code of ING counted in a context's register and raised leaves ING and VOX. -/
theorem ingCode_counted (code : FaultCode) (c k lo len d : Nat) (s : State) : ∃ g w q l n x,
    ingCode code c (regCountField k lo len d s) = { s with
      regs := g, saf := { s.saf with weirs := w, stalls := q, lost := l, raised := n }, tb := { s.tb with last := x } } := by
  obtain ⟨w, q, l, n, x, h⟩ := raise_frame (plainFault code islIng none) (regCountField k lo len d s)
  exact ⟨_, w, q, l, n, x, h⟩

/-- A fault of any class stands in its island's Weir into SAF where the Weir has room. -/
theorem raise_room (f : FaultRec) (s : State) (hi : f.isl < 24) (hw : (vget s.saf.weirs f.isl []).length < 32)
    (hq : vget s.saf.stalls f.isl [] = []) : Raised f.code f.isl (raise f s) := by
  refine ⟨{ f with ts := stampOf s f.isl f.ts }, ?_, rfl⟩
  unfold raise weirPut
  rw [if_pos ⟨hw, hq⟩]
  simp [weirAll, vget_vset_self _ _ _ _ hi]

theorem CtxMoved.saf (h : CtxMoved c x s u) : u.saf = s.saf := by
  obtain ⟨⟨v, l, rfl⟩, -, -⟩ := h
  rfl

theorem CtxMoved.vox (h : CtxMoved c x s u) : u.vox = s.vox := by
  obtain ⟨⟨v, l, rfl⟩, -, -⟩ := h
  rfl

theorem CtxMoved.room (h : CtxMoved c x s u) : voxRoom u = voxRoom s := by rw [voxRoom, voxRoom, h.vox]

theorem CtxMoved.deskew (h : CtxMoved c x s u) : u.ing.deskew = s.ing.deskew := by
  obtain ⟨⟨v, l, rfl⟩, -, -⟩ := h
  rfl

theorem exec_sweepMaxExpiry {c : Fin 128} (hr : isReady s = true) (h : sweepExpired s c.val = true) :
    exec (.sweepMaxExpiry c) s = .next (sweepForced c.val s) := by
  change execSweepMaxExpiry c s = _
  simp only [execSweepMaxExpiry, hr, h, Bool.and_self, if_true]

theorem sweepOpen_of_expired (h : sweepExpired s c = true) : (ingCtx s c).sweepOpen = true := (Bool.and_eq_true _ _ ▸ h).1

/-- A forced close whose summary VOX has room for. -/
theorem sweepForced_room (h : (ingCtx s c).sweepOpen = true) (hq : s.ing.deskew = []) (hv : voxRoom s = true) :
    ∃ u y, CtxMoved c y s u ∧ y.sweepOpen = false ∧ y.slice = none ∧ y.seq = (ingCtx s c).seq ∧
      sweepForced c s = ingCode .sweepForced c (regCountField (ingCtxReg c 0x1C) 16 16 1 (voxPut (.sum (forcedSum s c)) u)) := by
  obtain ⟨u, y, hm, ho, hsl, hseq, he⟩ := sweepClose_degraded h
  refine ⟨u, y, hm, ho, hsl, hseq, ?_⟩
  rw [sweepForced, he, ingPut_sum _ (hm.deskew.trans hq) (hm.room.trans hv)]

/-- A forced close whose summary waits in the deskew queue. -/
theorem sweepForced_waits (h : (ingCtx s c).sweepOpen = true) (hq : (∃ q l, s.ing.deskew = .pt q :: l) ∨ voxRoom s = false) :
    ∃ u y, CtxMoved c y s u ∧ y.sweepOpen = false ∧ sweepForced c s =
      ingCode .sweepForced c (regCountField (ingCtxReg c 0x1C) 16 16 1
        { u with ing := { u.ing with deskew := s.ing.deskew ++ [.sum (forcedSum s c)] } }) := by
  obtain ⟨u, y, hm, ho, hsl, hseq, he⟩ := sweepClose_degraded h
  refine ⟨u, y, hm, ho, ?_⟩
  rw [sweepForced, he, ingPut_waits _ (by rwa [hm.deskew, hm.room]), hm.deskew]

/-! ### Gaps (R82) -/

/-- The context after a gap. -/
def gapCtx (s : State) (c : Nat) : StreamCtx :=
  let x := ingCtx s c
  let tg := x.gapFrom + ctxNat s c 0x10
  { x with seq := x.nextSeq, nextSeq := wrapAdd 32 x.nextSeq 1, tref := tg, gapFrom := tg, silent := true, pts := 0 }

/-- The summary that marks a gap. -/
def gapSum (s : State) (c : Nat) : SweepSum :=
  let tg := (ingCtx s c).gapFrom + ctxNat s c 0x10
  { sweepSumOf c { gapCtx s c with degraded := true } tg with
    openAt := tg, drops := 0, slices := 0, nopSlices := 0, nopose := false, gap := true }

/-- The state in which a gap's summary has left for VOX and the gap is counted. -/
def gapState (c : Nat) (s : State) : State :=
  regCountField (ingCtxReg c 0x1C) 16 16 1 (voxPut (.sum (gapSum s c)) (setIngCtx c (gapCtx s c) s))

theorem gapState_frame (c : Nat) (s : State) : ∃ g, gapState c s =
    { voxPut (.sum (gapSum s c)) (setIngCtx c (gapCtx s c) s) with regs := g } := ⟨_, rfl⟩

/-- The conditions under which a gap is marked. -/
def gapDue (s : State) (c : Nat) : Bool :=
  isReady s && (ingCtx s c).en && !(ingCtx s c).sweepOpen && decide ((ingCtx s c).gapFrom + ctxNat s c 0x10 ≤ replica s islIng)

/-- A gap puts its summary; it raises STREAM_SILENT once, later ones are counted as lost events. -/
theorem streamGap_eq (h : gapDue s c = true) : streamGap c s =
    let u := regCountField (ingCtxReg c 0x1C) 16 16 1 (ingPut (.sum (gapSum s c)) (setIngCtx c (gapCtx s c) s))
    if (ingCtx s c).silent then
      { u with saf := { u.saf with lost := addLost islIng FaultCode.streamSilent.num 1 u.saf.lost } }
    else ingCode .streamSilent c u := by
  unfold streamGap
  exact if_pos h

theorem streamGap_room (h : gapDue s c = true) (hq : s.ing.deskew = []) (hv : voxRoom s = true) :
    streamGap c s = let u := gapState c s
      if (ingCtx s c).silent then
        { u with saf := { u.saf with lost := addLost islIng FaultCode.streamSilent.num 1 u.saf.lost } }
      else ingCode .streamSilent c u := by
  rw [streamGap_eq h, ingPut_sum (s := setIngCtx c (gapCtx s c) s) (gapSum s c) hq hv, gapState]

end

/-! ### Summaries taken by VOX (R83, R117, R118) -/

section
variable {s u : State} {c : Nat}

theorem voxCtx_set_ne {d : Nat} (h : d ≠ c) (x : VoxCtx) (s : State) : voxCtx (setVoxCtx c x s) d = voxCtx s d :=
  vget_vset_ne _ _ _ h.symm

/-- A context with a closed sweep is not settled. -/
theorem voxSettle_sealed (h : (voxCtx s c).sealed.isSome = true) : voxSettle c s = s := by
  obtain ⟨x, hx⟩ := Option.isSome_iff_exists.mp h
  simp [voxSettle, voxQuiet, hx]

/-- Settling a context returns its pages (R104) and leaves the rest. -/
structure VoxSettled (c : Nat) (s t : State) : Prop where
  rest : ∃ v, t = { s with vox := { s.vox with ctx := v } }
  self : ∃ p r i, voxCtx t c = { voxCtx s c with pages := p, renew := r, inserting := i }
  others : ∀ d, d ≠ c → voxCtx t d = voxCtx s d

theorem voxSettle_settled (hc : c < 128) (s : State) : VoxSettled c s (voxSettle c s) := by
  unfold voxSettle
  split
  · exact ⟨⟨_, rfl⟩, ⟨_, _, _, voxCtx_set_self s hc _⟩, fun d hd => voxCtx_set_ne hd _ s⟩
  · exact ⟨⟨s.vox.ctx, rfl⟩, ⟨(voxCtx s c).pages, _, _, rfl⟩, fun _ _ => rfl⟩

/-- No summary stands at the front of the deskew queue. -/
def NoSumFirst (s : State) : Prop := s.ing.deskew = [] ∨ ∃ q l, s.ing.deskew = .pt q :: l

theorem NoSumFirst.stays (h : NoSumFirst s) (hu : u.ing = s.ing) : flushSums u.ing.deskew u = u := by
  refine flushSums_stay (.inl ?_)
  rw [hu]
  rcases h with h | ⟨q, l, h⟩
  · simp [h]
  · simp [h]

/-- The Weir to VOX after its first entry is taken. -/
def weirTake (r : List VoxIn) (s : State) : State := { s with vox := { s.vox with weir := r } }

/-- The entry at the front of the Weir takes effect once its crossing is over (R52). -/
theorem voxStep_front {v : VoxIn} {r : List VoxIn} (hr : isReady s = true) (hw : s.vox.weir = v :: r)
    (hx : crossed s islVox (inTs v) = true) : voxStep (isHeldPt v) s =
      let u := voxSettle (inCtx v) (voxTake v (weirTake r s))
      flushSums u.ing.deskew u := by
  unfold voxStep
  rw [hw]
  simp only [hr, hx, beq_self_eq_true, Bool.and_self, if_true]
  rfl

/-- A summary that waits behind a closed sweep. -/
theorem holdPut_sum (x : SweepSum) (s : State) : ∃ g, holdPut (.sum x) s =
    { s with regs := g, vox := { s.vox with hold := s.vox.hold ++ [.sum x] } } := by
  unfold holdPut
  simp only [isHeldPt, Bool.false_and, Bool.false_eq_true, if_false]
  split
  · exact ⟨_, rfl⟩
  · exact ⟨s.regs, rfl⟩

theorem exec_summary_held {x : SweepSum} {r : List VoxIn} (hr : isReady s = true) (hw : s.vox.weir = .sum x :: r)
    (hx : crossed s islVox x.close = true) (hq : NoSumFirst s) (hs : (voxCtx s x.ctx).sealed.isSome = true) :
    exec .sweepSummary s = .next (holdPut (.sum x) (weirTake r s)) := by
  have ht : voxTake (.sum x) (weirTake r s) = holdPut (.sum x) (weirTake r s) := if_pos hs
  obtain ⟨g, hf⟩ := holdPut_sum x (weirTake r s)
  have hset : voxSettle x.ctx (holdPut (.sum x) (weirTake r s)) = holdPut (.sum x) (weirTake r s) :=
    voxSettle_sealed (by rw [hf]; exact hs)
  have hstay : flushSums (holdPut (.sum x) (weirTake r s)).ing.deskew (holdPut (.sum x) (weirTake r s)) =
      holdPut (.sum x) (weirTake r s) := hq.stays (by rw [hf]; rfl)
  refine congrArg Host.Outcome.next ((voxStep_front hr hw hx).trans ?_)
  simp only [inCtx, ht, hset, hstay]

theorem exec_summary_seals {x : SweepSum} {r : List VoxIn} (hc : x.ctx < 128) (hr : isReady s = true) (hw : s.vox.weir = .sum x :: r)
    (hx : crossed s islVox x.close = true) (hq : NoSumFirst s) (hs : (voxCtx s x.ctx).sealed = none) (hg : x.gap = false) :
    exec .sweepSummary s = .next (setVoxCtx x.ctx { voxCtx s x.ctx with sealed := some x, req := none } (weirTake r s)) := by
  have ht : voxTake (.sum x) (weirTake r s) =
      setVoxCtx x.ctx { voxCtx s x.ctx with sealed := some x, req := none } (weirTake r s) := by
    have hn : (voxCtx (weirTake r s) (inCtx (.sum x))).sealed.isSome = false := by
      rw [show voxCtx (weirTake r s) (inCtx (.sum x)) = voxCtx s x.ctx from rfl, hs]; rfl
    simp only [voxTake, hn, voxSeal, hg, Bool.false_eq_true, if_false]
    rfl
  have hset := voxSettle_sealed (s := setVoxCtx x.ctx { voxCtx s x.ctx with sealed := some x, req := none } (weirTake r s))
    (c := x.ctx) (by rw [voxCtx_set_self _ hc]; rfl)
  refine congrArg Host.Outcome.next ((voxStep_front hr hw hx).trans ?_)
  simp only [inCtx, ht, hset]
  exact hq.stays rfl

/-- The state in which the sweep-ready of a skipped sweep has left (R82). -/
def gapReady (x : SweepSum) (r : List VoxIn) (s : State) : State :=
  setVoxCtx x.ctx { voxCtx s x.ctx with seq := x.seq, anySeq := true }
    { s with vox := { s.vox with weir := r, ready := s.vox.ready ++ [⟨x.ctx, x.seq, true, sweepRefs x.ctx x.seq s⟩] } }

theorem voxCtx_gapReady {x : SweepSum} (hc : x.ctx < 128) (r : List VoxIn) (s : State) :
    voxCtx (gapReady x r s) x.ctx = { voxCtx s x.ctx with seq := x.seq, anySeq := true } := voxCtx_set_self _ hc _

theorem voxCtx_gapReady_ne {x : SweepSum} {d : Nat} (h : d ≠ x.ctx) (r : List VoxIn) (s : State) :
    voxCtx (gapReady x r s) d = voxCtx s d := voxCtx_set_ne h _ _

theorem exec_summary_gap {x : SweepSum} {r : List VoxIn} (hc : x.ctx < 128) (hr : isReady s = true) (hw : s.vox.weir = .sum x :: r)
    (hx : crossed s islVox x.close = true) (hq : NoSumFirst s) (hs : (voxCtx s x.ctx).sealed = none) (hg : x.gap = true) :
    exec .sweepSummary s = .next (voxSettle x.ctx (gapReady x r s)) := by
  have ht : voxTake (.sum x) (weirTake r s) = gapReady x r s := by
    have hn : (voxCtx (weirTake r s) (inCtx (.sum x))).sealed.isSome = false := by
      rw [show voxCtx (weirTake r s) (inCtx (.sum x)) = voxCtx s x.ctx from rfl, hs]; rfl
    simp only [voxTake, hn, voxSeal, hg, Bool.false_eq_true, if_false, if_true]
    rfl
  have hing : (voxSettle x.ctx (gapReady x r s)).ing = s.ing := by
    obtain ⟨v, h⟩ := (voxSettle_settled hc (gapReady x r s)).rest
    rw [h]
    rfl
  refine congrArg Host.Outcome.next ((voxStep_front hr hw hx).trans ?_)
  simp only [inCtx, ht]
  exact hq.stays hing

end

/-! ### Poses (R88) -/

section
variable {s : State}

/-- Clearing registers leaves the rest. -/
theorem clearRegs_frame (f : Nat → Nat) (l : List Nat) (s : State) :
    ∃ g, l.foldl (fun s k => regPut (f k) 0 s) s = { s with regs := g } := by
  induction l generalizing s with
  | nil => exact ⟨s.regs, rfl⟩
  | cons k l ih =>
    obtain ⟨g, h⟩ := ih (regPut (f k) 0 s)
    exact ⟨g, h⟩

/-- A register cleared, or clear before, is clear. -/
theorem regGet_clearRegs (f : Nat → Nat) (l : List Nat) {j : Nat} (h : j ∈ l.map f ∨ regGet s j = 0) :
    regGet (l.foldl (fun s k => regPut (f k) 0 s) s) j = 0 := by
  induction l generalizing s with
  | nil => simpa using h
  | cons k l ih =>
    refine ih ?_
    by_cases hk : j = f k
    · exact .inr (by rw [hk, regGet_put_self])
    · rw [regGet_put_ne _ hk]
      simpa [hk] using h

/-- The staging after a commit: every word zero. -/
def stageClear (s : State) : State := (List.range 16).foldl (fun s k => regPut (ingReg (0x100 + 4 * k)) 0 s) s

theorem regGet_stageClear (k : Fin 16) (s : State) : regGet (stageClear s) (ingReg (0x100 + 4 * k.val)) = 0 :=
  regGet_clearRegs (fun k => ingReg (0x100 + 4 * k)) _ (.inl (List.mem_map.mpr ⟨k.val, List.mem_range.mpr k.isLt, rfl⟩))

/-- The record staged when word 15 is written. -/
def stagedRec (v : Nat) (s : State) : List Byte :=
  ((List.range 15).flatMap fun k => leBytes 4 (regGet s (ingReg (0x100 + 4 * k))).toNat) ++ leBytes 4 v

theorem poseStaged_commit (v : Nat) (s : State) : poseStaged (regPut (ingReg 0x13C) (BitVec.ofNat 32 v) s) = stagedRec v s := by
  have hlast : leBytes 4 (regGet (regPut (ingReg 0x13C) (BitVec.ofNat 32 v) s) (ingReg (0x100 + 4 * 15))).toNat = leBytes 4 v := by
    rw [regGet_put_self, BitVec.toNat_ofNat]
    exact leBytes_mod 4 v
  rw [poseStaged, List.range_succ, List.flatMap_append, stagedRec, List.flatMap_singleton, hlast]
  congr 1
  refine List.flatMap_congr fun k hk => ?_
  rw [regGet_put_ne]
  have := List.mem_range.mp hk
  simp only [ingReg, rkey]
  omega

/-- A rate-limited fault changes the fault path, the rates and the island's last stamp. -/
theorem raiseLimited_frame (gap : Nat) (f : FaultRec) (s : State) : ∃ a l, raiseLimited gap f s = { s with
    saf := a, tb := { s.tb with last := l } } := by
  unfold raiseLimited
  simp only []
  split
  · obtain ⟨w, q, l, n, x, h⟩ := raise_frame { f with count := _ + f.count } _
    exact ⟨_, _, h⟩
  · exact ⟨_, s.tb.last, rfl⟩

/-- A commit by `POSE_PORT`: the staging is cleared, and the record goes to the ring or is refused. -/
theorem exec_poseCommit {h : Fin 4} {v : Nat} (hl : linked s (.host h) = true) (hr : isReady s = true)
    (hp : h.val = odNat s 0x2400 9) : ∃ g, (∀ k : Fin 16, smGet regReset g (ingReg (0x100 + 4 * k.val)) = 0) ∧
      exec (.poseCommit (.host h) v) s = .next (
        let u := { s with regs := g }
        let k := poseReject s (stagedRec v s)
        if k = 0 then { u with ing := { u.ing with poses := keepLast 64 (s.ing.poses ++ [poseOf (stagedRec v s)]) } }
        else raiseLimited 10000000 (plainFault .poseReject 17 none)
          (regCount (ingReg 0x30) 1 { u with ing := { u.ing with poseRej := k } })) := by
  obtain ⟨g, hg⟩ := clearRegs_frame (fun k => ingReg (0x100 + 4 * k)) (List.range 16) s
  have hg' : stageClear s = { s with regs := g } := hg
  refine ⟨g, fun k => (congrArg (regGet · _) hg').symm.trans (regGet_stageClear k s), ?_⟩
  refine congrArg Host.Outcome.next ((blockGate_open hl hr).trans ?_)
  have hp' : decide (h.val = odNat s 0x2400 9) = true := decide_eq_true hp
  simp only [hp', if_true, poseStaged_commit]
  rw [show (List.range 16).foldl (fun s k => regPut (ingReg (0x100 + 4 * k)) 0 s) s = _ from hg']
  rfl

/-- A record that the checks pass joins the ring. -/
theorem exec_poseCommit_added {h : Fin 4} {v : Nat} (hl : linked s (.host h) = true) (hr : isReady s = true)
    (hp : h.val = odNat s 0x2400 9) (hk : poseReject s (stagedRec v s) = 0) :
    ∃ g, (∀ k : Fin 16, smGet regReset g (ingReg (0x100 + 4 * k.val)) = 0) ∧ exec (.poseCommit (.host h) v) s = .next { s with
      regs := g, ing := { s.ing with poses := keepLast 64 (s.ing.poses ++ [poseOf (stagedRec v s)]) } } := by
  obtain ⟨g, hz, he⟩ := exec_poseCommit (v := v) hl hr hp
  exact ⟨g, hz, he.trans (congrArg Host.Outcome.next (if_pos hk))⟩

/-- A record that a check refuses is counted and its reason kept. -/
theorem exec_poseCommit_refused {h : Fin 4} {v : Nat} (hl : linked s (.host h) = true) (hr : isReady s = true)
    (hp : h.val = odNat s 0x2400 9) (hk : poseReject s (stagedRec v s) ≠ 0) :
    ∃ g a l, (∀ k : Fin 16, smGet regReset g (ingReg (0x100 + 4 * k.val)) = 0) ∧ exec (.poseCommit (.host h) v) s = .next { s with
      regs := g, saf := a, tb := { s.tb with last := l }, ing := { s.ing with poseRej := poseReject s (stagedRec v s) } } := by
  obtain ⟨g, hz, he⟩ := exec_poseCommit (v := v) hl hr hp
  obtain ⟨a, l, hf⟩ := raiseLimited_frame 10000000 (plainFault .poseReject 17 none) (regCount (ingReg 0x30) 1
    { s with regs := g, ing := { s.ing with poseRej := poseReject s (stagedRec v s) } })
  have hne (k : Fin 16) : ingReg (0x100 + 4 * k.val) ≠ ingReg 0x30 := by simp only [ingReg, rkey]; omega
  exact ⟨_, a, l, fun k => (smGet_set_ne _ _ (hne k) _).trans (hz k),
    he.trans (congrArg Host.Outcome.next ((if_neg hk).trans hf))⟩

end

end Sys2Proof.Machine

namespace Sys2Proof.Proofs
open Sys2Proof.Machine

section
variable {s t u : State} {c : Nat} {y : StreamCtx}

/-- After a stream context moves, its summary is put and a fault raised, the rest of the device stands. -/
theorem CtxMoved.summed_rest {g : SweepSum} (h : CtxMoved c y s u) (code : FaultCode) (k lo len d : Nat) :
    let t := ingCode code c (regCountField k lo len d (voxPut (.sum g) u))
    t.ing = u.ing ∧ t.vox.weir = s.vox.weir ++ [.sum g] ∧
      { t with ing := s.ing, vox := s.vox, regs := s.regs, saf := s.saf, tb := s.tb } = s := by
  obtain ⟨r, w, q, l, n, x, he⟩ := ingCode_counted code c k lo len d (voxPut (.sum g) u)
  obtain ⟨⟨v, l, rfl⟩, -, -⟩ := h
  intro t
  rw [show t = _ from he]
  exact ⟨rfl, rfl, rfl⟩

end

/-- A sweep summary's forced close, with room in the Weirs. -/
theorem sweepMaxExpiry_room (s : State) (c : Fin 128) (hr : isReady s = true) (hx : sweepExpired s c.val = true)
    (hq : s.ing.deskew = []) (hv : voxRoom s = true) (hw : (vget s.saf.weirs 17 []).length < 32)
    (hst : vget s.saf.stalls 17 [] = []) : Completes (.sweepMaxExpiry c) s fun t =>
      (ingCtx t c.val).sweepOpen = false ∧ (ingCtx t c.val).slice = none ∧ (ingCtx t c.val).seq = (ingCtx s c.val).seq ∧
      t.vox.weir = s.vox.weir ++ [.sum (forcedSum s c.val)] ∧
      t.ing.deskew = [] ∧ Raised .sweepForced 17 t ∧ (∀ d, d ≠ c.val → ingCtx t d = ingCtx s d) ∧
      { t with ing := s.ing, vox := s.vox, regs := s.regs, saf := s.saf, tb := s.tb } = s := by
  obtain ⟨u, y, hm, hy, hsl, hseq, he⟩ := sweepForced_room (sweepOpen_of_expired hx) hq hv
  rw [completes_iff (exec_sweepMaxExpiry hr hx), he]
  obtain ⟨hing, hweir, hrest⟩ := CtxMoved.summed_rest (g := forcedSum s c.val) hm .sweepForced (ingCtxReg c.val 0x1C) 16 16 1
  have hctx : ∀ d, ingCtx (ingCode .sweepForced c.val (regCountField (ingCtxReg c.val 0x1C) 16 16 1
      (voxPut (.sum (forcedSum s c.val)) u))) d = ingCtx u d := fun d => by rw [ingCtx, hing]; rfl
  refine ⟨by rw [hctx, hm.self, hy], by rw [hctx, hm.self, hsl], by rw [hctx, hm.self, hseq], hweir, ?_, ?_, ?_, hrest⟩
  · rw [hing, hm.deskew, hq]
  · have hsaf : (regCountField (ingCtxReg c.val 0x1C) 16 16 1 (voxPut (.sum (forcedSum s c.val)) u)).saf = s.saf :=
      (regPut_saf _ _ _).trans hm.saf
    exact raise_room (plainFault .sweepForced islIng none) _ (by decide) (by rw [hsaf]; exact hw) (by rw [hsaf]; exact hst)
  · exact fun d hd => (hctx d).trans (hm.others d hd)

/-- A sweep's forced close whose summary waits. -/
theorem sweepMaxExpiry_waits (s : State) (c : Fin 128) (hr : isReady s = true) (hx : sweepExpired s c.val = true)
    (hq : (∃ q l, s.ing.deskew = .pt q :: l) ∨ voxRoom s = false) : Completes (.sweepMaxExpiry c) s fun t =>
      (ingCtx t c.val).sweepOpen = false ∧ t.vox = s.vox ∧ t.ing.deskew = s.ing.deskew ++ [.sum (forcedSum s c.val)] := by
  obtain ⟨u, y, hm, hy, he⟩ := sweepForced_waits (sweepOpen_of_expired hx) hq
  rw [completes_iff (exec_sweepMaxExpiry hr hx), he]
  obtain ⟨g, w, q, l, n, x, hf⟩ := ingCode_counted .sweepForced c.val (ingCtxReg c.val 0x1C) 16 16 1
    { u with ing := { u.ing with deskew := s.ing.deskew ++ [.sum (forcedSum s c.val)] } }
  rw [hf]
  exact ⟨(congrArg (·.sweepOpen) hm.self).trans hy, hm.vox, rfl⟩

/-- A gap's effects on ING, VOX and the fault path. -/
theorem streamGap_spec (s : State) (c : Fin 128) (h : gapDue s c.val = true) (hq : s.ing.deskew = []) (hv : voxRoom s = true)
    (hw : (vget s.saf.weirs 17 []).length < 32) (hst : vget s.saf.stalls 17 [] = []) : Completes (.streamGap c) s fun t =>
      ingCtx t c.val = gapCtx s c.val ∧ t.vox.weir = s.vox.weir ++ [.sum (gapSum s c.val)] ∧
      ((ingCtx s c.val).silent = false → Raised .streamSilent 17 t) ∧ (∀ d, d ≠ c.val → ingCtx t d = ingCtx s d) ∧
      { t with ing := s.ing, vox := s.vox, regs := s.regs, saf := s.saf, tb := s.tb } = s := by
  have hm := CtxMoved.set c.isLt (gapCtx s c.val) s
  have he : exec (.streamGap c) s = .next (streamGap c.val s) := rfl
  rw [completes_iff he, streamGap_room h hq hv]
  cases hsil : (ingCtx s c.val).silent with
  | true =>
    obtain ⟨g, hg⟩ := gapState_frame c.val s
    simp only [if_true, hg]
    exact ⟨(ingCtx_congr (s := setIngCtx c.val (gapCtx s c.val) s) rfl _).trans hm.self, rfl, nofun,
      fun d hd => (ingCtx_congr (s := setIngCtx c.val (gapCtx s c.val) s) rfl _).trans (hm.others d hd), rfl⟩
  | false =>
    simp only [Bool.false_eq_true, if_false]
    obtain ⟨hing, hweir, hrest⟩ := CtxMoved.summed_rest (g := gapSum s c.val) hm .streamSilent (ingCtxReg c.val 0x1C) 16 16 1
    have hsaf : (gapState c.val s).saf = s.saf := regPut_saf _ _ _
    have hctx : ∀ d, ingCtx (ingCode .streamSilent c.val (gapState c.val s)) d = ingCtx (setIngCtx c.val (gapCtx s c.val) s) d :=
      ingCtx_congr hing
    refine ⟨(hctx _).trans hm.self, hweir, fun _ => ?_, fun d hd => (hctx d).trans (hm.others d hd), hrest⟩
    exact raise_room (plainFault .streamSilent islIng none) _ (by decide) (by rw [hsaf]; exact hw) (by rw [hsaf]; exact hst)

/-- A slice past its end and its grace closes (R84). -/
theorem sliceGrace_closes (s : State) (c : Fin 128) (sl : SliceSt) (hr : isReady s = true)
    (h : (ingCtx s c.val).slice = some sl) (ht : sl.start + ctxNat s c.val 0x11 + ctxNat s c.val 0x13 ≤ replica s 17) :
    exec (.sliceGraceExpiry c) s = .next (sliceClose c.val s) := by
  have ht' : decide (sliceEnd s c.val sl + ctxNat s c.val 0x13 ≤ replica s islIng) = true := decide_eq_true ht
  change execSliceGraceExpiry c s = _
  simp only [execSliceGraceExpiry, h, hr, ht', Bool.and_self, if_true]

theorem poseReject_notLater {s : State} {b : List Byte} (h : ∃ p ∈ s.ing.poses, p.epoch = field b 0x3C 1 ∧ field b 0 8 ≤ p.ts) :
    poseReject s b = 1 := by
  obtain ⟨p, hp, he, ht⟩ := h
  have hm : p ∈ s.ing.poses.filter (·.epoch == field b 0x3C 1) := List.mem_filter.mpr ⟨hp, beq_iff_eq.mpr he⟩
  exact if_pos (List.any_eq_true.mpr ⟨p, hm, decide_eq_true ht⟩)

/-- Settles O37: each event is brought to the state it leaves (`sweepForced_room`, `streamGap_room`, `sliceClose_open`, the
`exec_summary` lemmas, `exec_poseCommit`), of which the clauses are read off. -/
theorem sweepsGapsAndPoses : Obligations.SweepsGapsAndPoses := by
  unfold Obligations.SweepsGapsAndPoses
  refine ⟨fun s c hr hx hq hv hw hst => sweepMaxExpiry_room s c hr hx hq hv hw hst,
    fun s c hr hx hq => sweepMaxExpiry_waits s c hr hx hq, ?gap, ?slice, ?taken, ?held, ?pose, ?refused⟩
  case gap =>
    intro s c x tg hr hen ho ht hq hv hw hst
    have hd : gapDue s c.val = true := by
      simp only [gapDue, hr, show (ingCtx s c.val).en = true from hen, show (ingCtx s c.val).sweepOpen = false from ho,
        decide_eq_true (show (ingCtx s c.val).gapFrom + ctxNat s c.val 0x10 ≤ replica s islIng from ht)]
      rfl
    obtain ⟨t, he, hctx, hweir, hraise, hother, hrest⟩ := streamGap_spec s c hd hq hv hw hst
    refine ⟨t, he, ?_, ?_, ?_, ?_, ⟨_, hweir, rfl, rfl, rfl, rfl, rfl, rfl⟩, hraise, hother, hrest⟩ <;> rw [hctx]
    · rfl
    · rfl
    · rfl
    · exact ho
  case slice =>
    intro s c sl hr h ht
    rw [completes_iff (sliceGrace_closes s c sl hr h ht)]
    exact sliceClose_open h
  case taken =>
    intro s x r hr hw hc hx hq hs
    cases hg : x.gap with
    | false =>
      rw [completes_iff (exec_summary_seals hc hr hw hx hq hs hg)]
      exact ⟨rfl, rfl, rfl, fun d hd => voxCtx_set_ne hd _ _, fun _ => ⟨voxCtx_set_self _ hc _, rfl⟩, nofun⟩
    | true =>
      rw [completes_iff (exec_summary_gap hc hr hw hx hq hs hg)]
      obtain ⟨⟨v, hv⟩, ⟨p, n, i, hself⟩, ho⟩ := voxSettle_settled hc (gapReady x r s)
      rw [voxCtx_gapReady hc] at hself
      refine ⟨?_, ?_, ?_, fun d hd => (ho d hd).trans (voxCtx_gapReady_ne hd r s), nofun,
        fun _ => ⟨congrArg (·.seq) hself, (congrArg (·.sealed) hself).trans hs, ?_⟩⟩ <;> rw [hv] <;> rfl
  case held =>
    intro s x r hr hw hx hq hs
    rw [completes_iff (exec_summary_held hr hw hx hq hs)]
    obtain ⟨g, hg⟩ := holdPut_sum x (weirTake r s)
    rw [hg]
    exact ⟨rfl, rfl, rfl⟩
  case pose =>
    intro s h v b hl hr hp hk
    obtain ⟨g, hz, he⟩ := exec_poseCommit_added (v := v) hl hr hp hk
    exact ⟨_, he, rfl, hz, rfl, rfl⟩
  case refused =>
    intro s h v b hl hr hp hk
    have hk' : poseReject s (stagedRec v s) = 1 := poseReject_notLater hk
    obtain ⟨g, a, l, hz, he⟩ := exec_poseCommit_refused (v := v) hl hr hp (by rw [hk']; decide)
    exact ⟨_, he, rfl, hk', hz, rfl, rfl, rfl, rfl⟩

end Sys2Proof.Proofs

/-! ## The Pond -/

namespace Sys2Proof.Machine

/-! ### One context moves -/

section
variable {s u : State} {c : Nat} {x : VoxCtx}

/-- A state that differs in VOX's stamps and in one context of VOX, which is `x`. -/
structure VoxMoved (c : Nat) (x : VoxCtx) (s u : State) : Prop where
  rest : ∃ v l, u = { s with vox := { s.vox with ctx := v }, tb := { s.tb with last := l } }
  self : voxCtx u c = x
  others : ∀ d, d ≠ c → voxCtx u d = voxCtx s d

theorem VoxMoved.refl (s : State) : VoxMoved c (voxCtx s c) s s := ⟨⟨s.vox.ctx, s.tb.last, rfl⟩, rfl, fun _ _ => rfl⟩

theorem voxCtx_congr (h : u.vox = s.vox) (d : Nat) : voxCtx u d = voxCtx s d := by rw [voxCtx, h]; rfl

/-- A further change of the context. -/
theorem VoxMoved.mod (h : VoxMoved c x s u) (hc : c < 128) (f : VoxCtx → VoxCtx) : VoxMoved c (f x) s (modVoxCtx c f u) := by
  obtain ⟨⟨v, l, hu⟩, hx, ho⟩ := h
  refine ⟨⟨_, l, by rw [hu]; rfl⟩, ?_, fun d hd => (voxCtx_set_ne hd _ u).trans (ho d hd)⟩
  exact (voxCtx_set_self u hc _).trans (congrArg f hx)

/-- A slot given a value. -/
theorem VoxMoved.put (h : VoxMoved c x s u) (hc : c < 128) (j : Nat) (v : PondSlot) :
    VoxMoved c { x with table := smSet slotDflt x.table j v } s (pondPut c j v u) :=
  h.mod hc fun x => { x with table := smSet slotDflt x.table j v }

theorem VoxMoved.stamp (h : VoxMoved c x s u) (i t : Nat) : VoxMoved c x s (keepStamp i t u) := by
  obtain ⟨⟨v, l, rfl⟩, hx, ho⟩ := h
  exact ⟨⟨v, _, rfl⟩, hx, ho⟩

/-- What VOX's part of an answer leaves, seen from before the Weir's first entry was taken. -/
theorem VoxMoved.answer {r : List VoxIn} (h : VoxMoved c x (weirTake r s) u) :
    u.vox.weir = r ∧ (∀ d, d ≠ c → voxCtx u d = voxCtx s d) ∧ { u with vox := s.vox, tb := s.tb } = s := by
  obtain ⟨⟨v, l, rfl⟩, -, ho⟩ := h
  exact ⟨rfl, ho, rfl⟩

theorem VoxMoved.ing (h : VoxMoved c x s u) : u.ing = s.ing := by
  obtain ⟨⟨v, l, rfl⟩, -, -⟩ := h
  rfl

/-! ### The home slot of a key (R109) -/

theorem pondHome_lt (k : Nat) {cap : Nat} (h : 0 < cap) : pondHome k cap < cap := by
  have hh : k * 0xD6E8FEB86659FD93 % 2 ^ 64 / 2 ^ 32 < 2 ^ 32 := by
    have := Nat.mod_lt (k * 0xD6E8FEB86659FD93) (show 0 < 2 ^ 64 by decide)
    omega
  exact Nat.div_lt_of_lt_mul ((Nat.mul_lt_mul_right h).mpr hh)

/-- A slot whose code words have no error is read as it stands (R127). -/
theorem pondAt_clean {j : Nat} (h : ∀ n ∈ pondWords j, smGet upZero (voxCtx s c).up n = 0) :
    pondAt c j s = (smGet slotDflt (voxCtx s c).table j, s) := by
  have hz : ∀ e ∈ (pondWords j).map (smGet upZero (voxCtx s c).up), e = 0 := by
    intro e he
    obtain ⟨n, hn, rfl⟩ := List.mem_map.mp he
    exact h n hn
  have h1 : ((pondWords j).map (smGet upZero (voxCtx s c).up)).filter (· == 1) = [] :=
    List.filter_eq_nil_iff.mpr fun e he => by simp [hz e he]
  have h2 : ((pondWords j).map (smGet upZero (voxCtx s c).up)).filter (fun e => decide (2 ≤ e)) = [] :=
    List.filter_eq_nil_iff.mpr fun e he => by simp [hz e he]
  unfold pondAt
  simp only [h1, h2, List.length_nil, Nat.add_zero, if_true]

/-- The home slot of a key in a context, where it can be read without error. -/
structure HomeClean (s : State) (c key j : Nat) : Prop where
  home : j = pondHome key (pondCap (voxCtx s c))
  pages : (voxCtx s c).pages ≠ 0
  clean : ∀ n ∈ pondWords j, smGet upZero (voxCtx s c).up n = 0

theorem HomeClean.lt {key j : Nat} (h : HomeClean s c key j) : j < pondCap (voxCtx s c) :=
  h.home ▸ pondHome_lt _ (Nat.mul_pos (Nat.pos_of_ne_zero h.pages) (by decide))

/-- An entry whose home slot is empty goes there. -/
theorem pondPlace_empty {new : PondEntry} {j : Nat} (fold : Bool) (h : HomeClean s c new.key j)
    (he : smGet slotDflt (voxCtx s c).table j = .empty) : pondPlace c fold new s = (true,
      modVoxCtx c (fun x => { x with live := x.live + 1, born := x.born + 1, high := max x.high (x.live + 1) })
        (pondPut c j (.live { new with born := (voxCtx s c).born }) s)) := by
  unfold pondPlace
  simp only [← h.home, pondProbe, Nat.add_zero, Nat.mod_eq_of_lt h.lt, pondAt_clean h.clean, he, Option.getD_none]

/-- An entry whose home slot holds its key is merged there. -/
theorem pondPlace_found {new e : PondEntry} {j : Nat} (fold : Bool) (h : HomeClean s c new.key j)
    (he : smGet slotDflt (voxCtx s c).table j = .live e) (hk : e.key = new.key) : pondPlace c fold new s =
      (true, pondPut c j (.live (pondMerge s c fold e new)) s) := by
  unfold pondPlace
  simp only [← h.home, pondProbe, Nat.add_zero, Nat.mod_eq_of_lt h.lt, pondAt_clean h.clean, he, hk, if_true]

/-- The merge of a point into an entry (R111): the count grows, `TS32` stands, and the sample is one of the two. -/
theorem pondMerge_point (s : State) (c : Nat) (old new : PondEntry) :
    let e := pondMerge s c false old new
    e.key = old.key ∧ e.count = satAdd 16 old.count new.count ∧ e.ts = old.ts ∧
      ((e.x, e.y, e.z) = (old.x, old.y, old.z) ∨ (e.x, e.y, e.z) = (new.x, new.y, new.z)) := by
  unfold pondMerge
  simp only [Bool.false_and, Bool.false_eq_true, if_false]
  split
  · exact ⟨rfl, rfl, rfl, .inr rfl⟩
  · exact ⟨rfl, rfl, rfl, .inl rfl⟩

/-! ### A point (R105, R111) -/

variable {p : PointRec} {r : List VoxIn}

/-- The entry of a point. -/
def pointEntry (s : State) (p : PointRec) (i : Nat × Nat × Nat) : PondEntry :=
  let l := (voxCtx s p.ctx).level
  { key := voxKey (i.1 / 2 ^ l) (i.2.1 / 2 ^ l) (i.2.2 / 2 ^ l) l, count := 1, x := p.x, y := p.y, z := p.z,
    int := p.int, colw := p.colw, row := p.row, slice := p.slice,
    meta_ := bitAt (bitOf p.colw 15) 0 + bitAt (bitOf p.colw 14) 1, ts := stampOf s islVox p.ts % 2 ^ 32, born := 0 }

/-- The state in which the point's entry is placed. -/
def pointState (s : State) (p : PointRec) : State :=
  keepStamp islVox (stampOf s islVox p.ts) (modVoxCtx p.ctx (fun x => { x with inserting := true, lastSlice := p.slice }) s)

theorem pointState_moved (hc : p.ctx < 128) (s : State) :
    VoxMoved p.ctx { voxCtx s p.ctx with inserting := true, lastSlice := p.slice } s (pointState s p) :=
  ((VoxMoved.refl s).mod hc fun x => { x with inserting := true, lastSlice := p.slice }).stamp _ _

/-- After a placed point a coarsening request may stand (R113). -/
def afterPlace (p : PointRec) (s : State) : State :=
  if pondHigh (voxCtx s p.ctx) ≤ (voxCtx s p.ctx).live then coarsenReq p.ctx p.slice s else s

theorem voxInsert_placed {i : Nat × Nat × Nat} (hi : voxIndices s p = some i) (hq : (voxCtx s p.ctx).req = none)
    (hp : pondPlace p.ctx false (pointEntry s p i) (pointState s p) = (true, u)) : voxInsert p s = afterPlace p u := by
  unfold voxInsert
  simp only [hi, hq]
  simp only [pointEntry, pointState] at hp
  rw [hp]
  rfl

/-- What a coarsening request leaves of a context. -/
theorem afterPlace_moved (hc : p.ctx < 128) (h : VoxMoved p.ctx x s u) : ∃ q, VoxMoved p.ctx { x with req := q } s (afterPlace p u) := by
  unfold afterPlace coarsenReq
  split
  · have hm := h.mod hc fun x => if x.level < 3 ∧ !x.folding ∧ x.req.isNone then { x with req := some p.slice } else x
    by_cases hb : x.level < 3 ∧ !x.folding ∧ x.req.isNone
    · rw [if_pos hb] at hm
      exact ⟨_, hm⟩
    · rw [if_neg hb] at hm
      exact ⟨x.req, hm⟩
  · exact ⟨x.req, h⟩

/-- A context with an entry in its table is not settled. -/
theorem voxSettle_held {j : Nat} {e : PondEntry} (h : smGet slotDflt (voxCtx s c).table j = .live e) : voxSettle c s = s := by
  have ht : (voxCtx s c).table.isEmpty = false := by
    cases ht : (voxCtx s c).table with
    | nil => rw [ht] at h; cases h
    | cons _ _ => rfl
  simp [voxSettle, voxQuiet, ht]

theorem exec_pointInsert (hr : isReady s = true) (hw : s.vox.weir = .pt p :: r) (hx : crossed s islVox p.ts = true)
    (hs : (voxCtx s p.ctx).sealed = none) : exec .voxPointInsert s = .next (
      let u := voxSettle p.ctx (voxInsert p (weirTake r s))
      flushSums u.ing.deskew u) := by
  have ht : voxTake (.pt p) (weirTake r s) = voxInsert p (weirTake r s) := by
    have hn : (voxCtx (weirTake r s) (inCtx (.pt p))).sealed.isSome = false := by
      rw [show voxCtx (weirTake r s) (inCtx (.pt p)) = voxCtx s p.ctx from rfl, hs]; rfl
    simp only [voxTake, hn, Bool.false_eq_true, if_false]
  refine congrArg Host.Outcome.next ((voxStep_front hr hw hx).trans ?_)
  rw [ht]
  rfl

/-- A point outside the region is counted (R105). -/
theorem exec_pointInsert_outside (hc : p.ctx < 128) (hr : isReady s = true) (hw : s.vox.weir = .pt p :: r)
    (hx : crossed s islVox p.ts = true) (hd : NoSumFirst s) (hs : (voxCtx s p.ctx).sealed = none) (hi : voxIndices s p = none) :
    ∃ u t, u = regCount (voxCtxReg p.ctx 0x10) 1 (setVoxCtx p.ctx { voxCtx s p.ctx with inserting := true } (weirTake r s)) ∧
      VoxSettled p.ctx u t ∧ exec .voxPointInsert s = .next t := by
  have hv : voxInsert p (weirTake r s) =
      regCount (voxCtxReg p.ctx 0x10) 1 (setVoxCtx p.ctx { voxCtx s p.ctx with inserting := true } (weirTake r s)) := by
    rw [voxInsert, show voxIndices (weirTake r s) p = none from hi]
    rfl
  refine ⟨voxInsert p (weirTake r s), _, hv, voxSettle_settled hc _,
    (exec_pointInsert hr hw hx hs).trans (congrArg Host.Outcome.next ?_)⟩
  obtain ⟨v, ht⟩ := (voxSettle_settled hc (voxInsert p (weirTake r s))).rest
  have hing : (voxSettle p.ctx (voxInsert p (weirTake r s))).ing = s.ing := by
    rw [ht]
    simp only [hv, regCount_ing]
    rfl
  exact hd.stays hing

/-- A point whose entry is placed leaves only its context changed. -/
theorem exec_pointInsert_placed {i : Nat × Nat × Nat} {j : Nat} {e : PondEntry} {m : SMap PondSlot}
    (hc : p.ctx < 128) (hr : isReady s = true)
    (hw : s.vox.weir = .pt p :: r) (hx : crossed s islVox p.ts = true) (hd : NoSumFirst s) (hs : (voxCtx s p.ctx).sealed = none)
    (hi : voxIndices s p = some i) (hq : (voxCtx s p.ctx).req = none)
    (hp : pondPlace p.ctx false (pointEntry s p i) (pointState (weirTake r s) p) = (true, u))
    (hm : VoxMoved p.ctx x (weirTake r s) u) (he : x.table = smSet slotDflt m j (.live e)) :
    ∃ q t, VoxMoved p.ctx { x with req := q } (weirTake r s) t ∧ (voxCtx t p.ctx).table = smSet slotDflt m j (.live e) ∧
      exec .voxPointInsert s = .next t := by
  obtain ⟨q, ha⟩ := afterPlace_moved hc hm
  refine ⟨q, _, ha, by rw [ha.self]; exact he, (exec_pointInsert hr hw hx hs).trans (congrArg Host.Outcome.next ?_)⟩
  have hins : voxInsert p (weirTake r s) = afterPlace p u := voxInsert_placed hi hq hp
  have hset : voxSettle p.ctx (afterPlace p u) = afterPlace p u := 
    voxSettle_held (j := j) (e := e) (by rw [ha.self]; exact (congrArg (smGet slotDflt · j) he).trans (smGet_set_self _ _ _ _))
  rw [hins, hset]
  exact hd.stays ha.ing

end

/-! ### The fold (R114) -/

/-- The level of a key is what it was made with, up to 15. -/
theorem keyLevel_voxKey (x y z l : Nat) : keyLevel (voxKey x y z l) = l % 16 := by
  unfold keyLevel voxKey bits
  omega

theorem keyLevel_keyUp (k : Nat) : keyLevel (keyUp k) = (keyLevel k + 1) % 16 := keyLevel_voxKey _ _ _ _

/-- The slot `j` of context `c`. -/
def pondSlot (s : State) (c j : Nat) : PondSlot := smGet slotDflt (voxCtx s c).table j

/-- What a step of context `c`'s fold to level `l` keeps: a LIVE entry is an old one in its place, or one of the new level. -/
structure FoldKept (c l : Nat) (s t : State) : Prop where
  live : ∀ j v, pondSlot t c j = .live v → pondSlot s c j = .live v ∨ keyLevel v.key = l
  level : (voxCtx t c).level = (voxCtx s c).level
  others : ∀ d, d ≠ c → voxCtx t d = voxCtx s d
  ing : t.ing = s.ing
  hst : t.hst = s.hst
  od : t.od = s.od

section
variable {s t u : State} {c l : Nat}

theorem FoldKept.refl (s : State) : FoldKept c l s s := ⟨fun _ _ h => .inl h, rfl, fun _ _ => rfl, rfl, rfl, rfl⟩

theorem FoldKept.trans (h : FoldKept c l s t) (k : FoldKept c l t u) : FoldKept c l s u where
  live j v hv := (k.live j v hv).elim (h.live j v) .inr
  level := k.level.trans h.level
  others d hd := (k.others d hd).trans (h.others d hd)
  ing := k.ing.trans h.ing
  hst := k.hst.trans h.hst
  od := k.od.trans h.od

/-- A step that leaves VOX, ING, HST and the dictionary. -/
theorem FoldKept.of_eq (hv : t.vox = s.vox) (hi : t.ing = s.ing) (hh : t.hst = s.hst) (ho : t.od = s.od) : FoldKept c l s t := by
  have hc : ∀ d, voxCtx t d = voxCtx s d := voxCtx_congr hv
  exact ⟨fun j v h => .inl (by rwa [pondSlot, hc] at h), by rw [hc], fun d _ => hc d, hi, hh, ho⟩

/-- A change of the context that keeps its level, and whose table has only old entries and entries of the new level. -/
theorem FoldKept.of_set (hc : c < 128) {x : VoxCtx} (hl : x.level = (voxCtx s c).level)
    (hx : ∀ j v, smGet slotDflt x.table j = .live v → pondSlot s c j = .live v ∨ keyLevel v.key = l) :
    FoldKept c l s (setVoxCtx c x s) where
  live j v h := hx j v (by rwa [pondSlot, voxCtx_set_self s hc] at h)
  level := by rw [voxCtx_set_self s hc, hl]
  others d hd := voxCtx_set_ne hd _ _
  ing := rfl
  hst := rfl
  od := rfl

theorem FoldKept.regCountField (h : FoldKept c l s t) (k lo len d : Nat) : FoldKept c l s (Machine.regCountField k lo len d t) :=
  h.trans (.of_eq (regPut_vox _ _ _) (regPut_ing _ _ _) (regPut_hst _ _ _) (regPut_od _ _ _))

theorem FoldKept.regCount (h : FoldKept c l s t) (k d : Nat) : FoldKept c l s (Machine.regCount k d t) :=
  h.trans (.of_eq (regCount_vox _ _ _) (regCount_ing _ _ _) (regCount_hst _ _ _) (regCount_od _ _ _))

theorem FoldKept.voxCode (h : FoldKept c l s t) (code : FaultCode) (d : List Word) : FoldKept c l s (Machine.voxCode code d t) := by
  obtain ⟨w, q, n, m, x, he⟩ := raise_frame { plainFault code islVox none with detail := d } t
  have hf : Machine.voxCode code d t = _ := he
  rw [hf]
  exact h.trans (.of_eq rfl rfl rfl rfl)

/-- A slot given a value that is no entry, or one of the new level. -/
theorem FoldKept.put (h : FoldKept c l s t) (hc : c < 128) (j : Nat) {v : PondSlot} (hv : ∀ e, v = .live e → keyLevel e.key = l) :
    FoldKept c l s (pondPut c j v t) := by
  refine h.trans (.of_set hc rfl fun i e he => ?_)
  by_cases hi : i = j
  · subst hi
    exact .inr (hv e (by rwa [smGet_set_self] at he))
  · exact .inl (by rwa [smGet_set_ne slotDflt _ hi] at he)

/-- A change of the context that keeps its level and its table. -/
theorem FoldKept.mod (h : FoldKept c l s t) (hc : c < 128) (f : VoxCtx → VoxCtx) (hf : ∀ x, (f x).level = x.level ∧ (f x).table = x.table) :
    FoldKept c l s (modVoxCtx c f t) :=
  h.trans (.of_set hc (hf _).1 fun i e he => .inl (by rwa [(hf _).2] at he))

theorem pondSlot_put_self (hc : c < 128) (j : Nat) (v : PondSlot) : pondSlot (pondPut c j v s) c j = v := by
  rw [pondSlot, pondPut, modVoxCtx, voxCtx_set_self s hc]
  exact smGet_set_self _ _ _ _

theorem pondSlot_congr (h : t.vox = s.vox) (c j : Nat) : pondSlot t c j = pondSlot s c j := by
  rw [pondSlot, voxCtx_congr h]
  rfl

theorem voxCode_vox (code : FaultCode) (d : List Word) (s : State) : (voxCode code d s).vox = s.vox := by
  obtain ⟨w, q, n, m, x, he⟩ := raise_frame { plainFault code islVox none with detail := d } s
  rw [show voxCode code d s = _ from he]

/-- A slot is read as it stands afterwards: its entry, or none where its words were beyond repair (R127). -/
theorem pondAt_kept (hc : c < 128) (j : Nat) (s : State) :
    FoldKept c l s (pondAt c j s).2 ∧ pondSlot (pondAt c j s).2 c j = (pondAt c j s).1 := by
  unfold pondAt
  extract_lets x v errs one more up s1 lost
  have h1 : FoldKept c l s s1 := FoldKept.regCountField (.refl s) _ _ _ _
  have hx : voxCtx s1 c = x := voxCtx_congr (regPut_vox s _ _) c
  clear_value s1
  split
  · exact ⟨.refl s, rfl⟩
  · split
    · refine ⟨h1.trans (.of_set hc (by rw [hx]) fun i e he => .inl (by rwa [pondSlot, hx])), ?_⟩
      rw [pondSlot, voxCtx_set_self s1 hc]
    · constructor
      · refine (h1.trans (.of_set hc (by rw [hx]) fun i e he => ?_)).regCountField _ _ _ _ |>.voxCode _ _
        by_cases hi : i = j
        · subst hi
          cases (smGet_set_self slotDflt x.table i .empty).symm.trans he
        · exact .inl (by rwa [pondSlot, hx, ← smGet_set_ne slotDflt x.table hi .empty])
      · rw [pondSlot_congr (voxCode_vox _ _ _), pondSlot_congr (show (regCountField _ _ _ _ _).vox = _ from regPut_vox _ _ _),
          pondSlot, voxCtx_set_self s1 hc]
        exact smGet_set_self slotDflt x.table j .empty

/-- Probing for a key changes no slot but by the errors met, and finds only the key asked for. -/
theorem pondProbe_kept (hc : c < 128) (key cap home : Nat) (n i : Nat) (free : Option Nat) (s : State) :
    FoldKept c l s (pondProbe c key cap home n i free s).2 ∧
      ∀ j e, (pondProbe c key cap home n i free s).1 = .found j e → e.key = key := by
  induction n generalizing i free s with
  | zero => cases free <;> exact ⟨.refl s, nofun⟩
  | succ n ih =>
    obtain ⟨hk, -⟩ := pondAt_kept (l := l) hc ((home + i) % cap) s
    unfold pondProbe
    simp only []
    generalize pondAt c ((home + i) % cap) s = a at hk
    obtain ⟨v, u⟩ := a
    cases v with
    | empty => exact ⟨hk, nofun⟩
    | tomb => exact ⟨hk.trans (ih _ _ u).1, (ih _ _ u).2⟩
    | live e =>
      simp only []
      split
      next h => exact ⟨hk, fun j e' he => by cases he; exact h⟩
      next => exact ⟨hk.trans (ih _ _ u).1, (ih _ _ u).2⟩

theorem pondMerge_key (s : State) (c : Nat) (fold : Bool) (old new : PondEntry) : (pondMerge s c fold old new).key = old.key := by
  unfold pondMerge
  simp only []
  split <;> rfl

/-- Placing an entry of the new level leaves the old entries. -/
theorem pondPlace_kept (hc : c < 128) (fold : Bool) {new : PondEntry} (hl : keyLevel new.key = l) (s : State) :
    FoldKept c l s (pondPlace c fold new s).2 := by
  obtain ⟨hk, hf⟩ := pondProbe_kept (l := l) hc new.key (pondCap (voxCtx s c)) (pondHome new.key (pondCap (voxCtx s c))) 8 0 none s
  unfold pondPlace
  simp only []
  generalize pondProbe c new.key _ _ 8 0 none s = a at hk hf
  obtain ⟨v, u⟩ := a
  cases v with
  | noroom => exact hk
  | found j e =>
    refine hk.put hc j fun e' he => ?_
    obtain rfl := PondSlot.live.inj he
    rw [pondMerge_key, hf j e rfl, hl]
  | free j =>
    refine (hk.put hc j fun e' he => ?_).mod hc
      (fun x => { x with live := x.live + 1, born := x.born + 1, high := max x.high (x.live + 1) }) fun _ => ⟨rfl, rfl⟩
    obtain rfl := PondSlot.live.inj he
    exact hl

/-- The old entry's slot becomes TOMB before its fold is placed. -/
def foldTomb (c j : Nat) (s : State) : State := pondPut c j .tomb (modVoxCtx c (fun x => { x with live := x.live - 1 }) s)

theorem foldTomb_kept (hc : c < 128) (j : Nat) (s : State) : FoldKept c l s (foldTomb c j s) :=
  (FoldKept.mod (.refl s) hc (fun x => { x with live := x.live - 1 }) fun _ => ⟨rfl, rfl⟩).put hc j fun _ => nofun

/-- One folded entry: the fold's invariant stands, and the slot holds the entry no more. -/
theorem foldOne_kept (hc : c < 128) {e : Nat × PondEntry} (he : keyLevel e.2.key + 1 = l) (hl : l ≤ 3) (s : State) :
    FoldKept c l s (foldOne c s e) ∧ ∀ v, pondSlot (foldOne c s e) c e.1 = .live v → v.key ≠ e.2.key := by
  obtain ⟨hk, hv⟩ := pondAt_kept (l := l) hc e.1 s
  unfold foldOne
  generalize pondAt c e.1 s = a at hk hv
  obtain ⟨v, u⟩ := a
  cases v with
  | empty => exact ⟨hk, fun w hw => nomatch hv.symm.trans hw⟩
  | tomb => exact ⟨hk, fun w hw => nomatch hv.symm.trans hw⟩
  | live v =>
    simp only []
    split
    next hne =>
      refine ⟨hk, fun w hw => ?_⟩
      obtain rfl := PondSlot.live.inj (hv.symm.trans hw)
      exact hne
    next heq =>
      have hkey : v.key = e.2.key := not_not.mp heq
      have hnew : keyLevel (keyUp v.key) = l := by rw [keyLevel_keyUp, hkey]; omega
      have ht : FoldKept c l (foldTomb c e.1 u) (pondPlace c true { v with key := keyUp v.key } (foldTomb c e.1 u)).2 :=
        pondPlace_kept hc true hnew _
      -- whatever stands in the slot after the placing is of the new level
      have hslot : ∀ t, FoldKept c l (foldTomb c e.1 u) t → ∀ w, pondSlot t c e.1 = .live w → w.key ≠ e.2.key := by
        intro t ht w hw hwe
        rcases ht.live _ _ hw with h | h
        · exact nomatch (pondSlot_put_self hc e.1 .tomb).symm.trans h
        · rw [hwe] at h
          omega
      have hu := hk.trans (foldTomb_kept hc e.1 u)
      change FoldKept c l s (match pondPlace c true { v with key := keyUp v.key } (foldTomb c e.1 u) with
        | (true, s) => s
        | (false, s) => foldOne.pondNoroomFold c v.count s) ∧ ∀ w, pondSlot (match pondPlace c true _ (foldTomb c e.1 u) with
        | (true, s) => s
        | (false, s) => foldOne.pondNoroomFold c v.count s) c e.1 = .live w → _
      generalize pondPlace c true { v with key := keyUp v.key } (foldTomb c e.1 u) = b at ht
      obtain ⟨placed, t⟩ := b
      cases placed with
      | true => exact ⟨hu.trans ht, hslot t ht⟩
      | false =>
        have ht' : FoldKept c l (foldTomb c e.1 u) (foldOne.pondNoroomFold c v.count t) :=
          (ht.mod hc (fun x => { x with noroom := satAdd 32 x.noroom v.count, partial_ := true }) fun _ => ⟨rfl, rfl⟩).regCount _ _
        exact ⟨hu.trans ht', hslot _ ht'⟩

/-- After a fold of every entry that has an entry of the level below stands in no slot. -/
theorem foldAll_kept (hc : c < 128) (hl : l ≤ 3) (es : List (Nat × PondEntry)) (he : ∀ e ∈ es, keyLevel e.2.key + 1 = l) (s : State)
    (hs : ∀ j v, pondSlot s c j = .live v → keyLevel v.key + 1 = l → ∃ e ∈ es, e.1 = j ∧ e.2.key = v.key) :
    FoldKept c l s (es.foldl (foldOne c) s) ∧
      ∀ j v, pondSlot (es.foldl (foldOne c) s) c j = .live v → keyLevel v.key + 1 ≠ l := by
  induction es generalizing s with
  | nil => exact ⟨.refl s, fun j v hv hk => by obtain ⟨e, h, -⟩ := hs j v hv hk; cases h⟩
  | cons e es ih =>
    obtain ⟨hk, hgone⟩ := foldOne_kept hc (he e List.mem_cons_self) hl s
    obtain ⟨hk', hend⟩ := ih (fun e' h => he e' (List.mem_cons_of_mem _ h)) (foldOne c s e) fun j v hv hlow => by
      have hold : pondSlot s c j = .live v := (hk.live j v hv).resolve_right (by omega)
      obtain ⟨e', hmem, rfl, hkey⟩ := hs j v hold hlow
      rcases List.mem_cons.mp hmem with rfl | hmem
      · exact absurd hkey.symm (hgone v hv)
      · exact ⟨e', hmem, rfl, hkey⟩
    exact ⟨hk.trans hk', hend⟩

/-- A LIVE slot is listed with its entry. -/
theorem mem_liveEntries {x : VoxCtx} {j : Nat} {e : PondEntry} (h : smGet slotDflt x.table j = .live e) : (j, e) ∈ liveEntries x := by
  have hmem : (j, PondSlot.live e) ∈ x.table := by
    generalize x.table = m at h
    induction m with
    | nil => cases h
    | cons a m ih =>
      obtain ⟨k, v⟩ := a
      by_cases hk : j = k
      · subst hk
        rw [smGet, if_pos rfl] at h
        exact h ▸ List.mem_cons_self
      · rw [smGet, if_neg hk] at h
        exact List.mem_cons_of_mem _ (ih h)
  exact List.mem_mergeSort.mpr (List.mem_filterMap.mpr ⟨_, hmem, rfl⟩)

/-- The entries that a fold of context `c` takes. -/
def foldEntries (s : State) (c : Nat) : List (Nat × PondEntry) :=
  (liveEntries (voxCtx s c)).filter fun e => keyLevel e.2.key + 1 == (voxCtx s c).level

/-- A coarsening request leaves a context's level, table and fold. -/
theorem coarsenReq_kept (hc : c < 128) (sl : Nat) (s : State) :
    FoldKept c l s (coarsenReq c sl s) ∧ (voxCtx (coarsenReq c sl s) c).folding = (voxCtx s c).folding := by
  have hf (x : VoxCtx) : let y := if x.level < 3 ∧ !x.folding ∧ x.req.isNone then { x with req := some sl } else x
      (y.level = x.level ∧ y.table = x.table) ∧ y.folding = x.folding := by
    by_cases h : x.level < 3 ∧ !x.folding ∧ x.req.isNone
    · simp only [if_pos h, and_self]
    · simp only [if_neg h, and_self]
  refine ⟨FoldKept.mod (.refl s) hc _ fun x => (hf x).1, ?_⟩
  rw [coarsenReq, modVoxCtx, voxCtx_set_self s hc]
  exact (hf _).2

/-- The fold's end (R114). -/
theorem foldComplete_spec (hc : c < 128) (hr : isReady s = true) (hf : (voxCtx s c).folding = true) (hl : (voxCtx s c).level ≤ 3) :
    FoldKept c (voxCtx s c).level s (foldComplete c s) ∧ (voxCtx (foldComplete c s) c).folding = false ∧
      ∀ j v, pondSlot (foldComplete c s) c j = .live v → keyLevel v.key + 1 ≠ (voxCtx s c).level := by
  obtain ⟨hk, hend⟩ := foldAll_kept hc hl (foldEntries s c) (fun e he => beq_iff_eq.mp (List.mem_filter.mp he).2) s
    fun j v hv hlow => ⟨(j, v), List.mem_filter.mpr ⟨mem_liveEntries hv, beq_iff_eq.mpr hlow⟩, rfl, rfl⟩
  generalize hu : (foldEntries s c).foldl (foldOne c) s = u at hk hend
  have hm : FoldKept c (voxCtx s c).level u (modVoxCtx c (fun x => { x with folding := false }) u) :=
    FoldKept.mod (.refl u) hc _ fun _ => ⟨rfl, rfl⟩
  have hm' : (voxCtx (modVoxCtx c (fun x => { x with folding := false }) u) c).folding = false := by
    rw [modVoxCtx, voxCtx_set_self u hc]
  -- the request may follow; no step after the fold brings an entry of the level below
  have hfin : ∀ t, FoldKept c (voxCtx s c).level u t → (voxCtx t c).folding = false → FoldKept c (voxCtx s c).level s t ∧
      (voxCtx t c).folding = false ∧ ∀ j v, pondSlot t c j = .live v → keyLevel v.key + 1 ≠ (voxCtx s c).level :=
    fun t ht hft => ⟨hk.trans ht, hft, fun j v hv => (ht.live j v hv).elim (hend j v) (by omega)⟩
  have hgate : (isReady s && (voxCtx s c).folding) = true := by rw [hr, hf]; rfl
  rw [foldComplete, if_pos hgate]
  simp only []
  rw [show List.foldl (foldOne c) s ((liveEntries (voxCtx s c)).filter _) = u from hu]
  split
  · obtain ⟨hq, hq'⟩ := coarsenReq_kept (l := (voxCtx s c).level) hc
      (voxCtx (modVoxCtx c (fun x => { x with folding := false }) u) c).lastSlice
      (modVoxCtx c (fun x => { x with folding := false }) u)
    exact hfin _ (hm.trans hq) (hq'.trans hm')
  · exact hfin _ hm hm'

end

end Sys2Proof.Machine

namespace Sys2Proof.Proofs
open Sys2Proof.Machine

/-- Settles O38: a placed point moves one context (`exec_pointInsert_placed`), the fold leaves only entries of other levels
(`foldComplete_spec`). -/
theorem pondInsertion : Obligations.PondInsertion := by
  unfold Obligations.PondInsertion
  refine ⟨?outside, ?new, ?known, ?fold⟩
  case outside =>
    intro s p r hr hw hc hx hd hs hi
    obtain ⟨u, t, hu, ⟨⟨v, ht⟩, ⟨n, q, i, hself⟩, ho⟩, he⟩ := exec_pointInsert_outside hc hr hw hx hd hs hi
    obtain ⟨g, hg⟩ := regCount_frame (setVoxCtx p.ctx { voxCtx s p.ctx with inserting := true } (weirTake r s)) (voxCtxReg p.ctx 0x10) 1
    have hctx : ∀ d, voxCtx u d = voxCtx (setVoxCtx p.ctx { voxCtx s p.ctx with inserting := true } (weirTake r s)) d :=
      voxCtx_congr (by rw [hu, hg])
    rw [hctx, voxCtx_set_self _ hc] at hself
    refine ⟨t, he, by rw [ht, hu, hg]; rfl, by rw [hself], by rw [hself], ?_, ?_, by rw [ht, hu, hg]; rfl⟩
    · have hreg : regGet t (voxCtxReg p.ctx 0x10) = regGet u (voxCtxReg p.ctx 0x10) := by rw [ht]; rfl
      rw [hreg, hu, regGet_count_self]
      rfl
    · exact fun d hd => ((ho d hd).trans (hctx d)).trans (voxCtx_set_ne hd _ _)
  case new =>
    intro s p r ix iy iz hr hw hc hx hd x k j hs hi hq hp hcl he
    have hm := pointState_moved hc (weirTake r s)
    have hplace := pondPlace_empty (s := pointState (weirTake r s) p) (new := pointEntry s p (ix, iy, iz)) (j := j) false
      ⟨by rw [hm.self]; rfl, by rw [hm.self]; exact hp, by rw [hm.self]; exact hcl⟩ (by rw [hm.self]; exact he)
    obtain ⟨q, t, ht, htab, hex⟩ := exec_pointInsert_placed hc hr hw hx hd hs hi hq hplace
      ((hm.put hc j _).mod hc fun x => { x with live := x.live + 1, born := x.born + 1, high := max x.high (x.live + 1) }) rfl
    obtain ⟨hweir, ho, hrest⟩ := ht.answer
    refine ⟨t, hex, hweir, by rw [ht.self]; rfl, by rw [ht.self]; rfl, ⟨_, by rw [htab]; exact smGet_set_self slotDflt _ j _, ?_⟩,
      fun i hi => by rw [htab]; exact smGet_set_ne slotDflt _ hi _, ho, hrest⟩
    exact ⟨rfl, rfl, rfl, rfl, rfl, rfl, rfl, rfl, rfl, rfl⟩
  case known =>
    intro s p r ix iy iz e hr hw hc hx hd x k j hs hi hq hp hcl he hk
    have hm := pointState_moved hc (weirTake r s)
    have hplace := pondPlace_found (s := pointState (weirTake r s) p) (new := pointEntry s p (ix, iy, iz)) (j := j) false
      ⟨by rw [hm.self]; rfl, by rw [hm.self]; exact hp, by rw [hm.self]; exact hcl⟩ (by rw [hm.self]; exact he) hk
    obtain ⟨q, t, ht, htab, hex⟩ := exec_pointInsert_placed hc hr hw hx hd hs hi hq hplace (hm.put hc j _) rfl
    obtain ⟨hweir, ho, hrest⟩ := ht.answer
    obtain ⟨hkey, hcount, hts, hsample⟩ := pondMerge_point (pointState (weirTake r s) p) p.ctx e (pointEntry s p (ix, iy, iz))
    exact ⟨t, hex, hweir, by rw [ht.self]; rfl, by rw [ht.self]; rfl,
      ⟨_, by rw [htab]; exact smGet_set_self slotDflt _ j _, hkey.trans hk, hcount, hts, hsample⟩,
      fun i hi => by rw [htab]; exact smGet_set_ne slotDflt _ hi _, ho, hrest⟩
  case fold =>
    intro s c hr hf hl _
    obtain ⟨hk, hfold, hend⟩ := foldComplete_spec c.isLt hr hf hl
    exact ⟨_, rfl, hfold, hk.level, hend, hk.others, hk.ing, hk.hst, hk.od⟩

end Sys2Proof.Proofs

/-! ## The scrubber, the patrol and remote accesses -/

namespace Sys2Proof.Machine

/-! ### Faults that stand on the fault path -/

section
variable {α : Type}

/-- Taking out an element that satisfies a predicate leaves every element that does not. -/
theorem mem_of_takeFirst {p : α → Bool} {l r : List α} {x y : α} (h : takeFirst p l = some (x, r)) (hy : y ∈ l) (hp : p y = false) :
    y ∈ r := by
  induction l generalizing r with
  | nil => cases hy
  | cons a l ih =>
    unfold takeFirst at h
    split at h
    next ha =>
      cases h
      rcases List.mem_cons.mp hy with rfl | hy
      · rw [ha] at hp; cases hp
      · exact hy
    next ha =>
      obtain ⟨⟨z, q⟩, hq, he⟩ := Option.map_eq_some_iff.mp h
      cases he
      rcases List.mem_cons.mp hy with rfl | hy
      · exact List.mem_cons_self
      · exact List.mem_cons_of_mem _ (ih hq hy)

end

section
variable {s t u : State} {c i : Nat}

theorem mem_weirAll {f : FaultRec} : f ∈ weirAll s i ↔ f ∈ vget s.saf.weirs i [] ∨ f ∈ vget s.saf.stalls i [] := List.mem_append

/-- A list of a bank after one of its lists was replaced: an element stays where the replacement has it. -/
theorem mem_vget_vset {α : Type} {n : Nat} {v : Vector (List α) n} {j : Nat} {l : List α} {x : α} (h : x ∈ vget v i [])
    (hl : j = i → x ∈ vget v j [] → x ∈ l) : x ∈ vget (vset v j l) i [] := by
  by_cases hj : j = i
  · subst hj
    by_cases hn : j < n
    · rw [vget_vset_self _ _ _ _ hn]
      exact hl rfl h
    · simp [vget, hn] at h
  · rwa [vget_vset_ne _ _ _ hj]

/-- A fault that no other may displace stays on the fault path when another is put there (R533). -/
theorem mem_weirPut {f : FaultRec} (g : FaultRec) (hf : sheddable f = false) (h : f ∈ weirAll s i) : f ∈ weirAll (weirPut g s) i := by
  have hstall : f ∈ weirAll (weirStall g s) i := by
    rcases mem_weirAll.mp h with h | h
    · exact mem_weirAll.mpr (.inl h)
    · exact mem_weirAll.mpr (.inr (mem_vget_vset h fun _ h => List.mem_append_left _ h))
  have hset : ∀ l n, (∀ x ∈ vget s.saf.weirs g.isl [], sheddable x = false → x ∈ l) →
      f ∈ weirAll { s with saf := { s.saf with weirs := vset s.saf.weirs g.isl l, lost := n } } i := fun l n hl => by
    rcases mem_weirAll.mp h with h | h
    · exact mem_weirAll.mpr (.inl (mem_vget_vset h fun _ h => hl f h hf))
    · exact mem_weirAll.mpr (.inr h)
  have hadd : ∀ x ∈ vget s.saf.weirs g.isl [], sheddable x = false → x ∈ vget s.saf.weirs g.isl [] ++ [g] :=
    fun x hx _ => List.mem_append_left _ hx
  unfold weirPut
  simp only []
  split
  · exact hset _ s.saf.lost hadd
  · split
    · exact h
    · split
      · exact hstall
      · split
        next x r hr =>
          exact hset _ _ fun y hy hp => List.mem_append_left _ (List.mem_reverse.mpr (mem_of_takeFirst hr (List.mem_reverse.mpr hy) hp))
        next =>
          split
          · exact hset _ s.saf.lost hadd
          · exact hstall

theorem raised_congr {code : FaultCode} (h : Raised code i s) (ht : t.saf = s.saf) : Raised code i t := by
  obtain ⟨f, hf, rfl⟩ := h
  rw [weirAll, ← ht] at hf
  exact ⟨f, hf, rfl⟩

theorem coreOf_congr (h : t.kc = s.kc) (c : Nat) : coreOf t c = coreOf s c := by rw [coreOf, h]; rfl

/-- A fault that no other may displace stands after another is raised. -/
theorem raised_raise {code : FaultCode} (h : Raised code i s) (hc : (code.cls == 8) = false) (hs : code ≠ .stale) (g : FaultRec) :
    Raised code i (raise g s) := by
  obtain ⟨f, hf, rfl⟩ := h
  refine ⟨f, mem_weirPut _ ?_ hf, rfl⟩
  simp [sheddable, hc, hs]

/-- `t` differs from `s` in registers and on the fault path. -/
structure FaultPath (s t : State) : Prop where
  rest : { t with regs := s.regs, saf := s.saf, tb := s.tb } = s

theorem FaultPath.refl (s : State) : FaultPath s s := ⟨rfl⟩

theorem FaultPath.trans (h : FaultPath s t) (k : FaultPath t u) : FaultPath s u :=
  ⟨Eq.trans (congrArg (fun v : State => { v with regs := s.regs, saf := s.saf, tb := s.tb }) k.rest) h.rest⟩

theorem FaultPath.coreOf (h : FaultPath s t) (c : Nat) : Machine.coreOf t c = Machine.coreOf s c := by
  have hk := congrArg (fun v : State => v.kc) h.rest
  exact coreOf_congr hk c

theorem FaultPath.raise (f : FaultRec) (s : State) : FaultPath s (raise f s) := by
  obtain ⟨w, q, l, n, x, h⟩ := raise_frame f s
  exact ⟨by rw [h]⟩

theorem FaultPath.of_regs (g : SMap Word) (s : State) : FaultPath s { s with regs := g } := ⟨rfl⟩

/-! ### A line's words (R188) -/

/-- A word whose errors are beyond its code. -/
def wordBad (x : Core) (k : Nat) : Bool := decide (eccReach (smGet clsFalse x.basinCls k) < smGet upZero x.basinUp k)

theorem regCountField_frame (k lo len d : Nat) (s : State) : ∃ g, regCountField k lo len d s = { s with regs := g } := ⟨_, rfl⟩

theorem regFirst_frame (k n v : Nat) (s : State) : ∃ g, regFirst k n v s = { s with regs := g } := by
  unfold regFirst
  split
  · exact ⟨s.regs, rfl⟩
  · exact ⟨_, rfl⟩

/-- Counting an error changes registers. -/
theorem eccCounted_frame (c : Nat) (w unc : Bool) (line lo : Nat) (s : State) :
    ∃ g, eccLast c false w unc line (regCountField (kreg c 0x3000) lo 16 1 s) = { s with regs := g } := by
  obtain ⟨g, hg⟩ := regCountField_frame (kreg c 0x3000) lo 16 1 s
  obtain ⟨g', hg'⟩ := regFirst_frame (kreg c 0x3008) 31
    (2 ^ 31 + bitAt false 30 + bitAt w 29 + bitAt unc 28 + line % 131072) { s with regs := g }
  exact ⟨g', by rw [hg, eccLast, hg']⟩

/-- Decoding a word counts its errors. -/
theorem wordDecode_spec (c k : Nat) (s : State) : ∃ g, wordDecode c k s = (!wordBad (coreOf s c) k, { s with regs := g }) ∧
    (smGet upZero (coreOf s c).basinUp k = 0 → g = s.regs) := by
  unfold wordDecode wordBad
  simp only []
  split
  next h0 => exact ⟨s.regs, by rw [h0]; rfl, fun _ => rfl⟩
  next h0 =>
    split
    next hr =>
      obtain ⟨g, hg⟩ := eccCounted_frame c (smGet clsFalse (coreOf s c).basinCls k) false (k / 8) 0 s
      exact ⟨g, by rw [hg, decide_eq_false (by omega)]; rfl, fun h => absurd h h0⟩
    next hr =>
      obtain ⟨g, hg⟩ := eccCounted_frame c (smGet clsFalse (coreOf s c).basinCls k) true (k / 8) 16 s
      exact ⟨g, by rw [hg, decide_eq_true (by omega)]; rfl, fun h => absurd h h0⟩

/-- Decoding words one after another counts those beyond their code. -/
theorem wordsDecode_spec (c : Nat) (ks : List Nat) (n : Nat) (s : State) : ∃ g, ks.foldl (fun r k =>
      let d := wordDecode c k r.2
      (if d.1 then r.1 else r.1 + 1, d.2)) (n, s) = (n + (ks.filter (wordBad (coreOf s c))).length, { s with regs := g }) ∧
    ((∀ k ∈ ks, smGet upZero (coreOf s c).basinUp k = 0) → g = s.regs) := by
  induction ks generalizing n s with
  | nil => exact ⟨s.regs, rfl, fun _ => rfl⟩
  | cons k ks ih =>
    obtain ⟨g, hg, hz⟩ := wordDecode_spec c k s
    obtain ⟨g', hg', hz'⟩ := ih (if wordBad (coreOf s c) k then n + 1 else n) { s with regs := g }
    refine ⟨g', ?_, fun h => ?_⟩
    · rw [List.foldl_cons]
      simp only [hg]
      cases hb : wordBad (coreOf s c) k with
      | true =>
        simp only [hb, if_true] at hg'
        rw [List.filter_cons_of_pos hb, List.length_cons]
        exact hg'.trans (Prod.ext (show n + 1 + (ks.filter (wordBad (coreOf s c))).length = _ by omega) rfl)
      | false =>
        simp only [hb, Bool.false_eq_true, if_false] at hg'
        rw [List.filter_cons_of_neg (by rw [hb]; decide)]
        exact hg'
    · exact (hz' fun j hj => h j (List.mem_cons_of_mem _ hj)).trans (hz (h k List.mem_cons_self))

/-- The words of a line. -/
def wordsOfLine (line : Nat) : List Nat := (List.range 8).map (line * 8 + ·)

theorem mem_wordsOfLine {line k : Nat} : k ∈ wordsOfLine line ↔ ∃ j < 8, k = 8 * line + j := by
  simp only [wordsOfLine, List.mem_map, List.mem_range]
  constructor
  · rintro ⟨j, hj, rfl⟩
    exact ⟨j, hj, by omega⟩
  · rintro ⟨j, hj, rfl⟩
    exact ⟨j, hj, by omega⟩

/-- The words of a line beyond their code. -/
def lineBad (x : Core) (line : Nat) : List Nat := (wordsOfLine line).filter (wordBad x)

/-- Decoding a line answers how many of its words are beyond their code, and changes registers alone. -/
theorem lineDecode_spec (c line : Nat) (s : State) : ∃ g, lineDecode c line s =
    ((lineBad (coreOf s c) line).length, { s with regs := g }) ∧
      ((∀ k < 8, smGet upZero (coreOf s c).basinUp (8 * line + k) = 0) → g = s.regs) := by
  obtain ⟨g, hg, hz⟩ := wordsDecode_spec c (wordsOfLine line) 0 s
  refine ⟨g, hg.trans (by rw [Nat.zero_add]; rfl), fun h => hz fun k hk => ?_⟩
  obtain ⟨j, hj, rfl⟩ := mem_wordsOfLine.mp hk
  exact h j hj

/-! ### The words that a pass rewrites (R189) -/

/-- What rewriting the words `ks` of a core does: their error bits go, no byte changes. -/
structure WordsRewritten (ks : List Nat) (x y : Core) : Prop where
  bytes : ∀ a, smGet byteZero y.basin a = smGet byteZero x.basin a
  up : ∀ k, smGet upZero y.basinUp k = if k ∈ ks then 0 else smGet upZero x.basinUp k
  rest : { y with basin := x.basin, basinCls := x.basinCls, basinUp := x.basinUp } = x

theorem WordsRewritten.fields {ks : List Nat} {x y : Core} (h : WordsRewritten ks x y) :
    y.cis = x.cis ∧ y.dmem = x.dmem ∧ y.ctx = x.ctx ∧ y.run = x.run := by
  have h := congrArg (fun z : Core => (z.cis, z.dmem, z.ctx, z.run)) h.rest
  simpa using h

/-- A word stored as it is read. -/
theorem basinStore_same (k : Nat) (x : Core) : WordsRewritten [k] x (basinStore (k * 8) (basinBytes x (k * 8) 8) x) := by
  have hlen : (basinBytes x (k * 8) 8).length = 8 := smGetList_length _ _ _ _
  refine ⟨fun a => ?_, fun j => ?_, rfl⟩
  · change smGet byteZero (smSetList byteZero x.basin (k * 8) (smGetList byteZero x.basin (k * 8) 8)) a = _
    rw [smGet_setList, smGetList_getElem?]
    split
    next h =>
      split
      · rw [Option.getD_some, Nat.add_sub_cancel' h]
      · rfl
    next => rfl
  · have hks : (List.range ((basinBytes x (k * 8) 8).length / 8)).map (k * 8 / 8 + ·) = [k] := by
      rw [hlen, Nat.mul_div_cancel k (by decide)]; rfl
    change smGet upZero (((List.range ((basinBytes x (k * 8) 8).length / 8)).map (k * 8 / 8 + ·)).foldl
      (fun m k => smSet upZero m k 0) x.basinUp) j = _
    rw [hks]
    by_cases hj : j = k
    · subst hj
      simp [smGet_set_self]
    · simp [smGet_set_ne upZero _ hj, hj]

theorem rewriteWords_spec (ks : List Nat) (x : Core) :
    WordsRewritten ks x (ks.foldl (fun x k => basinStore (k * 8) (basinBytes x (k * 8) 8) x) x) := by
  induction ks generalizing x with
  | nil => exact ⟨fun _ => rfl, fun _ => by simp, rfl⟩
  | cons k ks ih =>
    have h1 := basinStore_same k x
    have h2 := ih (basinStore (k * 8) (basinBytes x (k * 8) 8) x)
    refine ⟨fun a => (h2.bytes a).trans (h1.bytes a), fun j => ?_, ?_⟩
    · rw [List.foldl_cons, h2.up, h1.up]
      by_cases hj : j ∈ ks <;> simp [hj]
    · exact (congrArg (fun y : Core => { y with basin := x.basin, basinCls := x.basinCls, basinUp := x.basinUp }) h2.rest).trans h1.rest

/-- The core of a pass after its line's words were rewritten. -/
theorem scrubRewrite_spec (line : Nat) (x : Core) : WordsRewritten (lineCor x line) x (scrubRewrite line x) := rewriteWords_spec _ x

/-- The words rewritten are those with errors within their code. -/
theorem mem_lineCor {line k : Nat} {x : Core} :
    k ∈ lineCor x line ↔ k ∈ wordsOfLine line ∧ 0 < smGet upZero x.basinUp k ∧ wordBad x k = false := by
  simp [lineCor, wordsOfLine, wordBad]

/-- A line without a word beyond its code has no error after the pass. -/
theorem up_scrubRewrite {line : Nat} {x : Core} (h : lineBad x line = []) {k : Nat} (hk : k ∈ wordsOfLine line) :
    smGet upZero (scrubRewrite line x).basinUp k = 0 := by
  rw [(scrubRewrite_spec line x).up]
  split
  · rfl
  next hn =>
    have hb : wordBad x k = false := by simpa using List.filter_eq_nil_iff.mp h k hk
    by_contra h0
    exact hn (mem_lineCor.mpr ⟨hk, Nat.pos_of_ne_zero h0, hb⟩)

/-! ### Faults of the scrubber -/

/-- A fault of the scrubber is one raised in the core, with some registers written. -/
theorem scrubFault_eq (c line : Nat) (code : FaultCode) (s : State) :
    ∃ f g, f.code = code ∧ f.isl = c ∧ scrubFault c line code s = raise f { s with regs := g } := by
  unfold scrubFault aperFault
  split
  · exact ⟨_, _, rfl, rfl, rfl⟩
  · exact ⟨_, _, rfl, rfl, rfl⟩

theorem scrubFault_path (c line : Nat) (code : FaultCode) (s : State) : FaultPath s (scrubFault c line code s) := by
  obtain ⟨f, g, -, -, h⟩ := scrubFault_eq c line code s
  rw [h]
  exact (FaultPath.of_regs g s).trans (.raise f _)

theorem scrubFault_raised {code : FaultCode} (hc : c < 16) (h8 : (code.cls == 8) = false) (line : Nat) (s : State) :
    Raised code c (scrubFault c line code s) := by
  obtain ⟨f, g, rfl, rfl, h⟩ := scrubFault_eq c line code s
  rw [h]
  exact raise_raised f _ h8 (by omega)

theorem raised_scrubFault {code : FaultCode} (h : Raised code i s) (h8 : (code.cls == 8) = false) (hs : code ≠ .stale)
    (c line : Nat) (code' : FaultCode) : Raised code i (scrubFault c line code' s) := by
  obtain ⟨f, g, -, -, he⟩ := scrubFault_eq c line code' s
  rw [he]
  exact raised_raise (raised_congr (t := { s with regs := g }) h rfl) h8 hs f

/-- BASIN_UE for each of `n` words of a line. -/
def scrubFaults (c line n : Nat) (s : State) : State := (List.range n).foldl (fun s _ => scrubFault c line .basinUe s) s

theorem scrubFaults_path (c line n : Nat) (s : State) : FaultPath s (scrubFaults c line n s) :=
  foldl_keeps (fun _ _ h => h.trans (scrubFault_path ..)) _ (.refl s)

theorem scrubFaults_raised (hc : c < 16) (line : Nat) {n : Nat} (hn : 0 < n) (s : State) : Raised .basinUe c (scrubFaults c line n s) := by
  obtain ⟨n, rfl⟩ := Nat.exists_eq_add_of_lt hn
  rw [scrubFaults, Nat.zero_add, List.range_succ, List.foldl_append]
  exact scrubFault_raised hc (by decide) line _

/-! ### A pass over one line (R189) -/

/-- The block stayed VALID through the pass. -/
def scrubValid (x : Core) : Bool := (wblkOf x (x.scrub / 64)).1 == 3 && (x.scrub % 64 == 0 || x.scrubOk)

/-- The core after its line is decoded and rewritten. -/
def scrubCore (x : Core) : Core := { scrubRewrite x.scrub x with scrub := (x.scrub + 1) % 131072, scrubOk := scrubValid x }

/-- The end of a pass: the block's check at its last line, the count of passes at the last line of all. -/
def scrubEnd (c line : Nat) (valid : Bool) (s : State) : State :=
  let s := if valid && line % 64 == 63 then scrubBlock c (line / 64) s else s
  if line = 131071 then regWrap (kreg c 0x3014) 1 s else s

theorem exec_scrubLine {c : Fin 16} (hr : isReady s = true) : ∃ g, exec (.scrubLine c) s = .next (
    let x := coreOf s c.val
    scrubEnd c.val x.scrub (scrubValid x) (scrubFaults c.val x.scrub (lineBad x x.scrub).length
      (setCore c.val (scrubCore x) { s with regs := g }))) ∧
    ((∀ k < 8, smGet upZero (coreOf s c.val).basinUp (8 * (coreOf s c.val).scrub + k) = 0) → g = s.regs) := by
  obtain ⟨g, hg, hz⟩ := lineDecode_spec c.val (coreOf s c.val).scrub s
  refine ⟨g, ?_, hz⟩
  change execScrubLine c s = _
  unfold execScrubLine
  simp only [hr, Bool.not_true, Bool.false_eq_true, if_false, hg]
  rfl

theorem wblkOf_set {x : Core} {b : Nat} (h : (winOf x b).isSome = true) (v : Nat × Nat) : wblkOf (wblkSet b v x) b = v :=
  (if_pos h).trans (smGet_set_self wblkDflt x.wblk b v)

theorem scrubBlock_eq (c blk : Nat) (s : State) (h : crc32c (basinBytes (coreOf s c) (blk * 4096) 4096) ≠ (wblkOf (coreOf s c) blk).2) :
    ∃ g, scrubBlock c blk s = scrubFault c (blk * 64 + 63) .weightCrc
      { modCore c (wblkSet blk (4, (wblkOf (coreOf s c) blk).2)) s with regs := g } := by
  obtain ⟨g, hg⟩ := regCountField_frame (kreg c 0x300C) 16 16 1 (modCore c (wblkSet blk (4, (wblkOf (coreOf s c) blk).2)) s)
  exact ⟨g, by rw [scrubBlock, if_neg h, hg]⟩

/-- The end of a pass keeps the faults raised and the core's pass and bytes. -/
theorem scrubEnd_keeps (hc : c < 16) {line : Nat} (valid : Bool) (hr : Raised .basinUe c s) :
    let t := scrubEnd c line valid s
    Raised .basinUe c t ∧ (coreOf t c).scrub = (coreOf s c).scrub ∧ (coreOf t c).basin = (coreOf s c).basin := by
  have hblock : Raised .basinUe c (scrubBlock c (line / 64) s) ∧ (coreOf (scrubBlock c (line / 64) s) c).scrub = (coreOf s c).scrub ∧
      (coreOf (scrubBlock c (line / 64) s) c).basin = (coreOf s c).basin := by
    by_cases h : crc32c (basinBytes (coreOf s c) (line / 64 * 4096) 4096) = (wblkOf (coreOf s c) (line / 64)).2
    · rw [scrubBlock, if_pos h]
      exact ⟨hr, rfl, rfl⟩
    · obtain ⟨g, hg⟩ := scrubBlock_eq c (line / 64) s h
      have hcore : coreOf (scrubBlock c (line / 64) s) c = wblkSet (line / 64) (4, (wblkOf (coreOf s c) (line / 64)).2) (coreOf s c) := by
        rw [hg, (scrubFault_path ..).coreOf]
        exact coreOf_modCore_self _ hc
      rw [hcore]
      refine ⟨?_, rfl, rfl⟩
      rw [hg]
      refine raised_scrubFault (raised_congr hr ?_) (by decide) (by decide) _ _ _
      rfl
  have hmid : let u := if valid && line % 64 == 63 then scrubBlock c (line / 64) s else s
      Raised .basinUe c u ∧ (coreOf u c).scrub = (coreOf s c).scrub ∧ (coreOf u c).basin = (coreOf s c).basin := by
    split
    · exact hblock
    · exact ⟨hr, rfl, rfl⟩
  unfold scrubEnd
  simp only []
  generalize (if valid && line % 64 == 63 then scrubBlock c (line / 64) s else s) = u at hmid
  split
  · rw [coreOf_congr (regWrap_kc u _ _)]
    exact ⟨raised_congr hmid.1 (regWrap_saf u _ _), hmid.2⟩
  · exact hmid

/-! ### The patrol (R398) -/

/-- The line after the patrol's. -/
def patrolNext (s : State) : Nat := if s.dram.patrol + 64 < carveOut s then s.dram.patrol + 64 else 0

/-- The patrol with its next line in hand. -/
def patrolStep (s : State) : State := { s with dram := { s.dram with patrol := patrolNext s } }

theorem exec_patrol_plain (hr : isReady s = true) (h : dramEcc s s.dram.patrol = false) : exec .dramPatrolRead s = .next (patrolStep s) := by
  have h' : dramEcc (patrolStep s) s.dram.patrol = false := h
  change execDramPatrolRead s = _
  unfold execDramPatrolRead
  simp only [hr, Bool.not_true, Bool.false_eq_true, if_false]
  change Host.Outcome.next (if dramEcc (patrolStep s) s.dram.patrol = true then _ else patrolStep s) = _
  rw [h']
  rfl

theorem exec_patrol_ok {b : List Byte} (hr : isReady s = true) (h : dramEcc s s.dram.patrol = true)
    (hk : dramCheck s.dram.patrol (patrolStep s) = (.ok b, t)) : exec .dramPatrolRead s = .next t := by
  have h' : dramEcc (patrolStep s) s.dram.patrol = true := h
  change execDramPatrolRead s = _
  unfold execDramPatrolRead
  simp only [hr, Bool.not_true, Bool.false_eq_true, if_false]
  change Host.Outcome.next (if dramEcc (patrolStep s) s.dram.patrol = true then (match dramCheck s.dram.patrol (patrolStep s) with
    | (.error e, s) => raise _ s
    | (.ok _, s) => s) else patrolStep s) = _
  rw [h', hk]
  rfl

theorem exec_patrol_err {e : FaultCode} (hr : isReady s = true) (h : dramEcc s s.dram.patrol = true)
    (hk : dramCheck s.dram.patrol (patrolStep s) = (.error e, t)) :
    exec .dramPatrolRead s = .next (raise (plainFault e 20 (dramOwner t s.dram.patrol)) t) := by
  have h' : dramEcc (patrolStep s) s.dram.patrol = true := h
  change execDramPatrolRead s = _
  unfold execDramPatrolRead
  simp only [hr, Bool.not_true, Bool.false_eq_true, if_false]
  change Host.Outcome.next (if dramEcc (patrolStep s) s.dram.patrol = true then (match dramCheck s.dram.patrol (patrolStep s) with
    | (.error e, s) => raise (plainFault e 20 (dramOwner s _)) s
    | (.ok _, s) => s) else patrolStep s) = _
  rw [h', hk]
  rfl

theorem eccCount_frame (line lo : Nat) (s : State) : ∃ g, eccCount line lo s = { s with regs := g } := by
  unfold eccCount
  split
  · exact regCountField_frame _ _ _ _ _
  · exact ⟨s.regs, rfl⟩

/-- A line's code checked where the line has no error (R398). -/
theorem dramCheck_clean {line : Nat} (h : dramEcc s line = true) (hu : smGet upZero s.dram.upset line = 0)
    (hf : freshLine s line = false) : dramCheck line s = (.ok (dramLine s line), s) := by
  have hu' : smGet (fun _ => 0) s.dram.upset line = 0 := hu
  unfold dramCheck
  simp only [h, hu', hf, Bool.not_true, Bool.false_eq_true, if_false]
  rfl

/-- A single-bit error is counted and rewritten. -/
theorem dramCheck_single {line : Nat} (h : dramEcc s line = true) (hu : smGet upZero s.dram.upset line = 1) :
    ∃ g, dramCheck line s = (.ok (dramLine s line),
      { s with regs := g, dram := { s.dram with upset := smSet upZero s.dram.upset line 0 } }) := by
  have hu' : smGet (fun _ => 0) s.dram.upset line = 1 := hu
  obtain ⟨g, hg⟩ := eccCount_frame line 0 { s with dram := { s.dram with upset := smSet upZero s.dram.upset line 0 } }
  refine ⟨g, ?_⟩
  unfold dramCheck
  simp only [h, hu', Bool.not_true, Bool.false_eq_true, if_false, if_true]
  exact congrArg (Prod.mk _) hg

/-- A worse error is counted and faults. -/
theorem dramCheck_worse {line : Nat} (h : dramEcc s line = true) (hu : 2 ≤ smGet upZero s.dram.upset line) :
    ∃ g, dramCheck line s = (.error .dramUe, { s with regs := g }) := by
  have hu' : 2 ≤ smGet (fun _ => 0) s.dram.upset line := hu
  obtain ⟨g, hg⟩ := eccCount_frame line 16 s
  refine ⟨g, ?_⟩
  unfold dramCheck
  simp only [h, if_neg (show ¬ smGet (fun _ => 0) s.dram.upset line = 1 by omega), if_pos hu', Bool.not_true, Bool.false_eq_true,
    if_false, hg]

end

/-! ### Engine work, step by step -/

section
variable {α β : Type} {s t : State}

theorem engRun_pure (a : α) (s : State) : engRun (pure a) s = (.ok a, s) := rfl

theorem engRun_get_bind (f : State → EngM α) (s : State) : engRun (get >>= f) s = engRun (f s) s := rfl

theorem engRun_modify (g : State → State) (s : State) : engRun (modify g) s = (.ok (), g s) := rfl

theorem engRun_modify_bind (g : State → State) (f : PUnit → EngM α) (s : State) :
    engRun (modify g >>= f) s = engRun (f ()) (g s) := rfl

theorem engRun_stopF (c : FaultCode) (s : State) : engRun (stopF c : EngM α) s = (.error (.fault c 0), s) := rfl

theorem engRun_stopF_bind (c : FaultCode) (f : β → EngM α) (s : State) :
    engRun (stopF c >>= f) s = (.error (.fault c 0), s) := rfl

theorem engRun_bind_ok {m : EngM β} {b : β} (h : engRun m s = (.ok b, t)) (f : β → EngM α) :
    engRun (m >>= f) s = engRun (f b) t := by
  change (ExceptT.bindCont f (engRun m s).1 : StateM State _) (engRun m s).2 = _
  rw [h]
  rfl

end

section
variable {s t u : State} {r : RemReq} {rest : List RemReq} {off l : Nat} {bs : List Byte} {a : Acc}

/-! ### Remote accesses (R190, R191) -/

theorem remWork_write (ho : r.op = .write off bs) (hl : remLine s r.part r.dst off = some l)
    (hw : winOf (coreOf s r.dst) (l / 64) = none) :
    engRun (remWork r a) s = (.ok 0, modCore r.dst (basinStore (l * 64) bs) s) := by
  unfold remWork
  rw [engRun_get_bind]
  simp only [ho, hl, hw, Option.isSome_none, Bool.false_eq_true, if_false]
  rfl

theorem remWork_denied (ho : r.op = .write off bs) (hl : remLine s r.part r.dst off = none) :
    engRun (remWork r a) s = (.error (.fault .remoteDeny 0), s) := by
  unfold remWork
  rw [engRun_get_bind]
  simp only [ho, hl]
  rfl

/-- The remote queue without its first access. -/
def remTake (rest : List RemReq) (s : State) : State := { s with fab := { s.fab with remote := rest } }

/-- The first remote access, which no landing write precedes. -/
structure RemFront (s : State) (r : RemReq) (rest : List RemReq) : Prop where
  ready : isReady s = true
  front : s.fab.remote = r :: rest
  first : (s.fab.landing.any fun m => m.src == r.src && m.dst == r.dst && decide (m.ord < r.ord)) = false

theorem exec_remoteAccess_lost (h : RemFront s r rest) (ht : r.ts + 1000000 < replica s r.dst) :
    exec .remoteAccess s = .next (remTake rest s) := by
  have hf : fabLost s r.dst r.ts = true := decide_eq_true ht
  change Host.Outcome.next (if isReady s then remTry s [] s.fab.remote [] else s) = _
  rw [if_pos h.ready, h.front]
  unfold remTry
  simp only [h.first, hf, List.contains_nil, Bool.and_false, Bool.or_self, Bool.false_eq_true, if_false, if_true, List.nil_append]
  rfl

theorem exec_remoteAccess_done (h : RemFront s r rest) (ht : replica s r.dst ≤ r.ts + 1000000)
    (hd : remOne r (remTake rest s) = some t) : exec .remoteAccess s = .next t := by
  have hf : fabLost s r.dst r.ts = false := decide_eq_false (by omega)
  change Host.Outcome.next (if isReady s then remTry s [] s.fab.remote [] else s) = _
  rw [if_pos h.ready, h.front]
  unfold remTry
  simp only [h.first, hf, List.contains_nil, Bool.and_false, Bool.or_self, Bool.false_eq_true, if_false, List.nil_append]
  change Host.Outcome.next (match remOne r (remTake rest s) with
    | some t => t
    | none => _) = _
  rw [hd]

/-- A remote write that the region admits. -/
theorem remOne_write {f : Flight} (hf : flightOf s r.src r.commit r.taggen r.part = some f) (ho : r.op = .write off bs)
    (hl : remLine s r.part r.dst off = some l) (hw : winOf (coreOf s r.dst) (l / 64) = none) :
    remOne r s = some (modRun r.src (putFlight { f with outst := f.outst - 1 }) (modCore r.dst (basinStore (l * 64) bs) s)) := by
  unfold remOne
  rw [hf]
  simp only [remWork_write ho hl hw]
  rfl

/-- A remote write outside the region fails its descriptor. -/
theorem remOne_denied {f : Flight} (hf : flightOf s r.src r.commit r.taggen r.part = some f) (ho : r.op = .write off bs)
    (hl : remLine s r.part r.dst off = none) (he : f.eng ≠ 2) : remOne r s = some (failFlight r.src f .remoteDeny 0 s) := by
  unfold remOne
  rw [hf]
  simp only [remWork_denied ho hl, if_neg he]

/-- The flight after it meets a fault. -/
def failedFlight (c : Nat) (f : Flight) (code : FaultCode) (s : State) : Flight :=
  { f with failed := some (code.num, stampOf s c 0), failIsl := c, failOrd := s.saf.raised, loading := false }

theorem countedPut_frame (p : Prop) [Decidable p] (k j : Nat) (v : Word) (s : State) :
    ∃ y, (if p then regCount k 1 (regPut j v s) else regPut j v s) = { s with regs := y } := by
  obtain ⟨g, hg⟩ := regPut_frame s j v
  rw [hg]
  split
  · obtain ⟨y, hy⟩ := regCount_frame { s with regs := g } k 1
    exact ⟨y, hy⟩
  · exact ⟨g, rfl⟩

/-- A core's fault is raised there with its code, after registers are written. -/
theorem coreFault_spec (c eng : Nat) (commit : Option Nat) (code : FaultCode) (s : State) :
    ∃ g x, g.code = code ∧ g.isl = c ∧ coreFault c eng commit code s = raise g { s with regs := x } := by
  unfold coreFault
  extract_lets x t s1 s2 job
  obtain ⟨y, hy⟩ : ∃ y, s2 = { s with regs := y } := countedPut_frame _ _ _ _ _
  clear_value s2
  exact ⟨_, y, rfl, rfl, congrArg (raise _) hy⟩

/-- A failing descriptor's fault is raised in its core; the rest of the device stands but for its flight. -/
theorem failFlight_spec {c : Nat} {f : Flight} {code : FaultCode} (he : f.eng ≠ 2) (idx : Nat) (s : State) :
    ∃ g x, g.code = code ∧ g.isl = c ∧
      failFlight c f code idx s = raise g { modRun c (putFlight (failedFlight c f code s)) s with regs := x } := by
  obtain ⟨g, x, hc, hi, hg⟩ := coreFault_spec c f.eng (some f.d.commit) code (modRun c (putFlight (failedFlight c f code s)) s)
  refine ⟨g, x, hc, hi, ?_⟩
  unfold failFlight
  simp only [if_neg he]
  exact hg

/-- What was stored is what is read. -/
theorem smGetList_setList {α : Type} [DecidableEq α] (d : Nat → α) (m : SMap α) (k : Nat) (vs : List α) :
    smGetList d (smSetList d m k vs) k vs.length = vs := by
  refine List.ext_getElem? fun i => ?_
  rw [smGetList_getElem?]
  split
  next h => rw [smGet_setList_in d vs m k i h, List.getElem?_eq_getElem h]
  next h => rw [List.getElem?_eq_none (by omega)]

theorem coreOf_modRun_self {c : Nat} (hc : c < 16) (f : CtxRun → CtxRun) (s : State) :
    coreOf (modRun c f s) c = { coreOf s c with run := f (coreOf s c).run } := coreOf_modCore_self _ hc

theorem coreOf_modRun_ne {c d : Nat} (h : d ≠ c) (f : CtxRun → CtxRun) (s : State) : coreOf (modRun c f s) d = coreOf s d :=
  coreOf_modCore_ne _ h

/-- A change of a core leaves all but the cores. -/
theorem modCore_rest {k : Vector Core 16} {b : FabQ} (c : Nat) (f : Core → Core) (s : State) :
    { modCore c f s with kc := k, fab := b } = { s with kc := k, fab := b } := rfl

/-- Two changes of cores leave all but the cores and the remote queue. -/
theorem remDone_rest (c d : Nat) (f : CtxRun → CtxRun) (g : Core → Core) (rest : List RemReq) (s : State) :
    { modRun c f (modCore d g (remTake rest s)) with kc := s.kc, fab := s.fab } = s :=
  (modCore_rest c _ _).trans (modCore_rest d g _)

end

end Sys2Proof.Machine

namespace Sys2Proof.Proofs
open Sys2Proof.Machine

/-- A pass over a line whose words are all within their code. -/
theorem scrubLine_clean (s : State) (c : Fin 16) (hr : isReady s = true) (hl : (coreOf s c.val).scrub % 64 ≠ 63)
    (hb : lineBad (coreOf s c.val) (coreOf s c.val).scrub = []) : ∃ g, exec (.scrubLine c) s =
      .next (setCore c.val (scrubCore (coreOf s c.val)) { s with regs := g }) ∧
    ((∀ k < 8, smGet upZero (coreOf s c.val).basinUp (8 * (coreOf s c.val).scrub + k) = 0) → g = s.regs) := by
  obtain ⟨g, hg, hz⟩ := exec_scrubLine (c := c) hr
  refine ⟨g, hg.trans (congrArg Host.Outcome.next ?_), hz⟩
  have hlast : (scrubValid (coreOf s c.val) && (coreOf s c.val).scrub % 64 == 63) = false := by simp [hl]
  have hend : (coreOf s c.val).scrub ≠ 131071 := by omega
  simp only [hb, scrubEnd, hlast, Bool.false_eq_true, if_false, if_neg hend]
  rfl

/-- A pass over a line without an error. -/
theorem scrubLine_noError (s : State) (c : Fin 16) (hr : isReady s = true)
    (hk : ∀ k < 8, smGet upZero (coreOf s c.val).basinUp (8 * (coreOf s c.val).scrub + k) = 0) :
    let x := coreOf s c.val
    ∃ u, exec (.scrubLine c) s = .next (scrubEnd c.val x.scrub (scrubValid x) u) ∧
      coreOf u c.val = { x with scrub := (x.scrub + 1) % 131072, scrubOk := scrubValid x } := by
  intro x
  have hzero : ∀ k ∈ wordsOfLine x.scrub, smGet upZero x.basinUp k = 0 := fun k hm => by
    obtain ⟨j, hj, rfl⟩ := mem_wordsOfLine.mp hm
    exact hk j hj
  have hb : lineBad x x.scrub = [] := List.filter_eq_nil_iff.mpr fun k hm => by simp [wordBad, hzero k hm]
  have hcor : lineCor x x.scrub = [] := List.eq_nil_iff_forall_not_mem.mpr fun k hm => by
    obtain ⟨hmem, hpos, -⟩ := mem_lineCor.mp hm
    exact absurd (hzero k hmem) (by omega)
  obtain ⟨g, he, -⟩ := exec_scrubLine (c := c) hr
  refine ⟨_, he, ?_⟩
  have hrw : scrubRewrite x.scrub x = x := by rw [scrubRewrite, hcor]; rfl
  rw [(scrubFaults_path ..).coreOf, coreOf_setCore_self _ c.isLt]
  exact congrArg (fun y : Core => { y with scrub := (x.scrub + 1) % 131072, scrubOk := scrubValid x }) hrw

/-- Settles O40: a pass decodes, rewrites and checks (`exec_scrubLine`), the patrol checks its line (`dramCheck_clean`,
`dramCheck_single`, `dramCheck_worse`), the front of the remote queue is performed, denied or lost (`remOne_write`,
`remOne_denied`, `exec_remoteAccess_lost`). -/
theorem scrubberPatrolAndRemoteAccesses : Obligations.ScrubberPatrolAndRemoteAccesses := by
  unfold Obligations.ScrubberPatrolAndRemoteAccesses
  refine ⟨?clean, ?worse, ?crc, ?patrol, ?single, ?dramUe, ?write, ?lost, ?denied⟩
  case clean =>
    intro s c x hr hl hk
    have hb : lineBad x x.scrub = [] := List.filter_eq_nil_iff.mpr fun k hm => by
      obtain ⟨j, hj, rfl⟩ := mem_wordsOfLine.mp hm
      simpa [wordBad] using hk j hj
    obtain ⟨g, he, hg⟩ := scrubLine_clean s c hr hl hb
    have hrw := scrubRewrite_spec x.scrub x
    rw [completes_iff he]
    have hself : coreOf (setCore c.val (scrubCore (coreOf s c.val)) { s with regs := g }) c.val = scrubCore x :=
      coreOf_setCore_self _ c.isLt _
    simp only [hself]
    obtain ⟨hcis, hdmem, hctx, hrun⟩ := hrw.fields
    exact ⟨rfl, hrw.bytes, fun k hk => up_scrubRewrite hb (mem_wordsOfLine.mpr ⟨k, hk, rfl⟩), hcis, hdmem, hctx, hrun,
      fun d hd => coreOf_setCore_ne _ (Ne.symm hd) _, rfl, hg⟩
  case worse =>
    intro s c k x hr hk hbad
    have hn : 0 < (lineBad x x.scrub).length := List.length_pos_of_mem
      (List.mem_filter.mpr ⟨mem_wordsOfLine.mpr ⟨k, hk, rfl⟩, decide_eq_true hbad⟩)
    obtain ⟨g, he, -⟩ := exec_scrubLine (c := c) hr
    obtain ⟨hraise, hscrub, hbasin⟩ := scrubEnd_keeps c.isLt (line := x.scrub) (scrubValid x)
      (scrubFaults_raised c.isLt x.scrub hn (setCore c.val (scrubCore x) { s with regs := g }))
    rw [(scrubFaults_path ..).coreOf, coreOf_setCore_self _ c.isLt] at hscrub hbasin
    refine ⟨_, he, hraise, hscrub, fun a => ?_⟩
    exact (congrArg (smGet byteZero · a) hbasin).trans ((scrubRewrite_spec x.scrub x).bytes a)
  case crc =>
    intro s c x b hr hl hst hok hk hcrc
    have hwin : (winOf x b).isSome = true := by
      by_contra hw
      simp [wblkOf, hw] at hst
    obtain ⟨u, he, hcore⟩ := scrubLine_noError s c hr hk
    have hvalid : scrubValid x = true := by simp [scrubValid, show (wblkOf x (x.scrub / 64)).1 = 3 from hst, hok]
    have hb : (scrubValid x && x.scrub % 64 == 63) = true := by simp [hvalid, hl]
    obtain ⟨g, hg⟩ := scrubBlock_eq c.val b u (by rw [hcore]; exact hcrc)
    have hself : coreOf (scrubBlock c.val b u) c.val = wblkSet b (4, (wblkOf (coreOf u c.val) b).2) (coreOf u c.val) := by
      rw [hg, (scrubFault_path ..).coreOf]
      exact coreOf_modCore_self _ c.isLt
    have hblk : (wblkOf (coreOf (scrubBlock c.val b u) c.val) b).1 = 4 := by
      rw [hself, wblkOf_set (by rw [hcore]; exact hwin)]
    have hraise : Raised .weightCrc c.val (scrubBlock c.val b u) := by
      rw [hg]
      exact scrubFault_raised c.isLt (by decide) _ _
    rw [completes_iff he, scrubEnd, if_pos hb]
    split
    · exact ⟨raised_congr hraise (regWrap_saf _ _ _), by rw [coreOf_congr (regWrap_kc _ _ _)]; exact hblk⟩
    · exact ⟨hraise, hblk⟩
  case patrol =>
    intro s hr hclean
    cases he : dramEcc s s.dram.patrol with
    | false => exact ⟨_, exec_patrol_plain hr he, rfl⟩
    | true =>
      obtain ⟨hu, hf⟩ := hclean he
      exact ⟨_, exec_patrol_ok hr he (dramCheck_clean (s := patrolStep s) he hu hf), rfl⟩
  case single =>
    intro s hr he hu
    obtain ⟨g, hg⟩ := dramCheck_single (s := patrolStep s) he hu
    rw [completes_iff (exec_patrol_ok hr he hg)]
    exact ⟨smGet_set_self upZero s.dram.upset s.dram.patrol 0, fun l hl => smGet_set_ne upZero s.dram.upset hl 0, rfl, rfl⟩
  case dramUe =>
    intro s hr he hu
    obtain ⟨g, hg⟩ := dramCheck_worse (s := patrolStep s) he hu
    rw [completes_iff (exec_patrol_err hr he hg)]
    obtain ⟨w, q, l, n, x, hf⟩ := raise_frame (plainFault .dramUe 20 (dramOwner { patrolStep s with regs := g } s.dram.patrol))
      { patrolStep s with regs := g }
    exact ⟨raise_raised _ _ (show (FaultCode.dramUe.cls == 8) = false by decide) (show 20 < 24 by decide), by rw [hf]; rfl,
      by rw [hf]; rfl⟩
  case write =>
    intro s r rest off l bs f hr hq ht ho hlen hd hs hne hf hl hw hfirst
    have he := exec_remoteAccess_done ⟨hr, hq, hfirst⟩ ht (remOne_write (s := remTake rest s) hf ho hl hw)
    rw [completes_iff he]
    have hdst : coreOf (modRun r.src (putFlight { f with outst := f.outst - 1 })
        (modCore r.dst (basinStore (l * 64) bs) (remTake rest s))) r.dst = basinStore (l * 64) bs (coreOf s r.dst) :=
      (coreOf_modRun_ne hne.symm _ _).trans (coreOf_modCore_self _ hd)
    have hsrc : (coreOf (modRun r.src (putFlight { f with outst := f.outst - 1 })
        (modCore r.dst (basinStore (l * 64) bs) (remTake rest s))) r.src).run =
          putFlight { f with outst := f.outst - 1 } (coreOf s r.src).run := by
      rw [coreOf_modRun_self hs, coreOf_modCore_ne _ hne]
      rfl
    rw [hdst, hsrc]
    refine ⟨rfl, ?_, fun a ha => smGet_setList_out byteZero bs _ _ _ (by omega), rfl, rfl, rfl, fun d hds hdd => ?_,
      remDone_rest _ _ _ _ rest s⟩
    · exact hlen ▸ smGetList_setList byteZero _ (l * 64) bs
    · exact (coreOf_modRun_ne hds _ _).trans (coreOf_modCore_ne _ hdd)
  case lost =>
    intro s r rest hr hq ht hfirst
    exact ⟨_, exec_remoteAccess_lost ⟨hr, hq, hfirst⟩ ht, rfl⟩
  case denied =>
    intro s r rest off bs f hr hq ht ho hs heng hf hl hfirst
    have he := exec_remoteAccess_done ⟨hr, hq, hfirst⟩ ht (remOne_denied (s := remTake rest s) hf ho hl heng)
    obtain ⟨g, x, hcode, hisl, hg⟩ := failFlight_spec (c := r.src) (code := .remoteDeny) heng 0 (remTake rest s)
    rw [completes_iff he, hg]
    have hraise : Raised .remoteDeny r.src (raise g { modRun r.src (putFlight (failedFlight r.src f .remoteDeny (remTake rest s)))
        (remTake rest s) with regs := x }) := by
      rw [← hcode, ← hisl]
      exact raise_raised g _ (by rw [hcode]; decide) (by omega)
    have hpath := FaultPath.raise g { modRun r.src (putFlight (failedFlight r.src f .remoteDeny (remTake rest s)))
      (remTake rest s) with regs := x }
    obtain ⟨w, q, n, k, y, hy⟩ := raise_frame g { modRun r.src (putFlight (failedFlight r.src f .remoteDeny (remTake rest s)))
      (remTake rest s) with regs := x }
    have hcore : ∀ d, coreOf (raise g { modRun r.src (putFlight (failedFlight r.src f .remoteDeny (remTake rest s)))
        (remTake rest s) with regs := x }) d =
        coreOf (modRun r.src (putFlight (failedFlight r.src f .remoteDeny (remTake rest s))) (remTake rest s)) d := hpath.coreOf
    refine ⟨by rw [hy]; rfl, hraise, fun d => ?_, ?_, by rw [hy]; rfl, by rw [hy]; rfl⟩
    · rw [hcore]
      by_cases hd : d = r.src
      · subst hd
        rw [coreOf_modRun_self hs]
        exact ⟨rfl, rfl, rfl⟩
      · rw [coreOf_modRun_ne hd]
        exact ⟨rfl, rfl, rfl⟩
    · rw [hcore, coreOf_modRun_self hs]
      exact ⟨_, rfl⟩

end Sys2Proof.Proofs

/-! ## The directory -/

namespace Sys2Proof.Machine

/-! ### Lists -/

section
variable {α : Type} {p : α → Bool} {x : α} {l : List α}

theorem takeFirst_head (h : p x = true) : takeFirst p (x :: l) = some (x, l) := if_pos h

theorem takeFirst_none (h : ∀ y ∈ l, p y = false) : takeFirst p l = none := by
  induction l with
  | nil => rfl
  | cons y l ih =>
    rw [takeFirst, if_neg (by rw [h y List.mem_cons_self]; decide), ih fun z hz => h z (List.mem_cons_of_mem _ hz)]
    rfl

theorem slice_full {b : List Byte} {n : Nat} (h : b.length = n) : slice b 0 n = b := by
  simp [slice, ← h]

theorem bitOf_toNat {n : Nat} (m : BitVec n) (i : Nat) : bitOf m.toNat i = m.getLsbD i := by
  rw [BitVec.getLsbD, Nat.testBit_eq_decide_div_mod_eq, bitOf]
  rfl

theorem mem_onesFrom {v i n j : Nat} : j ∈ onesFrom v i n ↔ i ≤ j ∧ j < i + n ∧ bitOf v j = true := by
  induction n generalizing i with
  | zero => simpa [onesFrom] using fun _ _ => by omega
  | succ n ih =>
    unfold onesFrom
    by_cases hb : bitOf v i = true
    · rw [if_pos hb, List.mem_cons, ih]
      constructor
      · rintro (rfl | ⟨h1, h2, h3⟩)
        · exact ⟨le_refl _, by omega, hb⟩
        · exact ⟨by omega, by omega, h3⟩
      · rintro ⟨h1, h2, h3⟩
        by_cases hj : j = i
        · exact .inl hj
        · exact .inr ⟨by omega, by omega, h3⟩
    · rw [if_neg hb, ih]
      constructor
      · rintro ⟨h1, h2, h3⟩
        exact ⟨by omega, by omega, h3⟩
      · rintro ⟨h1, h2, h3⟩
        have hj : j ≠ i := by rintro rfl; exact hb h3
        exact ⟨by omega, by omega, h3⟩

theorem nodup_onesFrom (v i n : Nat) : (onesFrom v i n).Nodup := by
  induction n generalizing i with
  | zero => exact List.nodup_nil
  | succ n ih =>
    unfold onesFrom
    split
    · exact List.nodup_cons.mpr ⟨fun h => by have := (mem_onesFrom.mp h).1; omega, ih _⟩
    · exact ih _

end

/-! ### Lines and messages of the directory -/

section
variable {s t u : State} {c l m : Nat}

theorem dirOf_setDir_self (l : Nat) (d : Option DirState) (s : State) : dirOf (setDir l d s) l = d :=
  smGet_set_self (fun _ => none) s.dir.entries l d

theorem dirOf_setDir_ne (h : m ≠ l) (d : Option DirState) (s : State) : dirOf (setDir l d s) m = dirOf s m :=
  smGet_set_ne (fun _ => none) s.dir.entries h d

theorem dirOf_congr (h : t.dir.entries = s.dir.entries) (m : Nat) : dirOf t m = dirOf s m := by rw [dirOf, h]; rfl

/-- A line stored reads back. -/
theorem dramLine_store {b : List Byte} (hb : b.length = 64) (l : Nat) (s : State) : dramLine (dramStore l b s) l = b := by
  change smGetList byteZero (smSetList byteZero s.dram.mem l (slice b 0 64)) l 64 = b
  rw [slice_full hb]
  exact hb ▸ smGetList_setList byteZero s.dram.mem l b

/-- A line's store leaves every other byte. -/
theorem mem_store_ne {b : List Byte} (hb : b.length = 64) {a : Nat} (h : a < l ∨ l + 64 ≤ a) (s : State) :
    smGet byteZero (dramStore l b s).dram.mem a = smGet byteZero s.dram.mem a := by
  change smGet byteZero (smSetList byteZero s.dram.mem l (slice b 0 64)) a = _
  rw [slice_full hb]
  exact smGet_setList_out byteZero b _ _ _ (by omega)

/-- A message joins the end of a cache's. -/
theorem toCache_send_self (hc : c < 16) (x : DirMsg) (s : State) :
    vget (dirSend c x s).dir.toCache c [] = vget s.dir.toCache c [] ++ [x] := vget_vset_self _ _ _ _ hc

theorem toCache_send_ne {d : Nat} (h : d ≠ c) (x : DirMsg) (s : State) :
    vget (dirSend c x s).dir.toCache d [] = vget s.dir.toCache d [] := vget_vset_ne _ _ _ h.symm

/-- Sending changes only the messages to the caches. -/
theorem dirSendAll_frame (cs : List Nat) (x : DirMsg) (s : State) :
    ∃ v, dirSendAll cs x s = { s with dir := { s.dir with toCache := v } } := by
  unfold dirSendAll
  induction cs generalizing s with
  | nil => exact ⟨s.dir.toCache, rfl⟩
  | cons c cs ih =>
    obtain ⟨v, hv⟩ := ih (dirSend c x s)
    exact ⟨v, hv⟩

/-- Each cache of a list without repetition is sent one message, no other any. -/
theorem toCache_sendAll {cs : List Nat} (hn : cs.Nodup) (x : DirMsg) (s : State) {d : Nat} (hd : d < 16) :
    vget (dirSendAll cs x s).dir.toCache d [] = vget s.dir.toCache d [] ++ if d ∈ cs then [x] else [] := by
  unfold dirSendAll
  induction cs generalizing s with
  | nil => simp
  | cons c cs ih =>
    obtain ⟨hc, hcs⟩ := List.nodup_cons.mp hn
    rw [List.foldl_cons, ih hcs]
    by_cases h : d = c
    · subst h
      simp [toCache_send_self hd, hc]
    · simp [toCache_send_ne h, h]

/-- A line that the cache does not hold arrives in front of its lines. -/
theorem lines_dcFill (hc : c < 16) (h : ∀ x ∈ (coreOf s c).dc.lines, x.line ≠ l) (b : List Byte) (excl : Bool) :
    (coreOf (dcFill c l b excl s) c).dc.lines = ⟨l, excl, b, []⟩ :: (coreOf s c).dc.lines := by
  have hn : ((coreOf s c).dc.lines.any (·.line == l)) = false := List.any_eq_false.mpr fun x hx => by simpa using h x hx
  rw [dcFill, modDc, coreOf_modCore_self _ hc]
  simp only [hn, Bool.false_eq_true, if_false]

theorem coreOf_dcFill_ne {d : Nat} (h : d ≠ c) (b : List Byte) (excl : Bool) (s : State) :
    coreOf (dcFill c l b excl s) d = coreOf s d := coreOf_modCore_ne _ h

/-! ### What a request meets -/

/-- An entry without an error stands. -/
theorem dirScrub_clean (h : smGet upZero s.dir.upset l = 0) : dirScrub l s = s := if_pos h

/-- A set that is not full gives up no entry. -/
theorem dirMakeRoom_room (h : dirFull s l = false) : dirMakeRoom l s = s := by
  unfold dirMakeRoom
  simp [h]

/-- A line with an entry finds no full set. -/
theorem dirFull_entry {d : DirState} (h : dirOf s l = some d) : dirFull s l = false := by simp [dirFull, h]

/-- Where no request waits on a line, none starts by itself. -/
theorem dirWake_idle (h : ∀ x ∈ s.dir.wait, reqLine x.req ≠ l) (n : Nat) : dirWake l n s = s := by
  cases n with
  | zero => rfl
  | succ n =>
    rw [dirWake, takeFirst_none fun y hy => by simpa using h y hy]
    split <;> rfl

/-- The requests that wait at the directory. -/
def withWait (w : List DirWait) (s : State) : State := modDir (fun d => { d with wait := w }) s

/-- A kind's first waiting request that can start is served. -/
theorem dirServeKind_front {p : DirReq → Bool} {e : DirWait} {rest : List DirWait} (hr : isReady s = true)
    (hw : s.dir.wait = e :: rest) (hp : p e.req = true) (hb : lineBusy s (reqLine e.req) = false) (hroom : dirRoom s e.req = true) :
    dirServeKind p s = dirServe e rest s := by
  have hfind : (s.dir.wait.find? fun x => reqLine x.req == reqLine e.req) = some e := by
    rw [hw]
    exact List.find?_cons_of_pos (beq_self_eq_true _)
  have htake : dirReady s p = some (e, rest) := by
    unfold dirReady
    conv_lhs => rw [hw]
    refine takeFirst_head ?_
    have hfind' := hfind
    rw [hw] at hfind'
    simp only [hp, hb, hroom, hfind', Bool.not_false, Bool.and_self, beq_self_eq_true]
  rw [dirServeKind, htake]
  simp [hr]

theorem replica_withWait (w : List DirWait) (s : State) (i : Nat) : replica (withWait w s) i = replica s i := rfl

theorem dirLate_withWait (w : List DirWait) (s : State) (ts : Nat) : dirLate (withWait w s) ts = dirLate s ts := by
  rw [dirLate, replica_withWait, dirLate]

/-- A request that has not travelled too long starts (R57). -/
theorem dirServe_fresh {e : DirWait} (rest : List DirWait) (ht : dirLate s e.ts = false) :
    dirServe e rest s = dirWake (reqLine e.req) 64 (dirStart e.req e.job (withWait rest s)) := by
  rw [dirServe, show modDir (fun d => { d with wait := rest }) s = withWait rest s from rfl, dirLate_withWait, ht]
  rfl

theorem dirServe_late {e : DirWait} (rest : List DirWait) (ht : dirLate s e.ts = true) :
    dirServe e rest s = dirExpire (reqLine e.req) e.req e.job (withWait rest s) := by
  rw [dirServe, show modDir (fun d => { d with wait := rest }) s = withWait rest s from rfl, dirLate_withWait, ht]
  rfl

theorem dirLate_false {ts : Nat} (h : replica s 16 ≤ ts + 1000000) : dirLate s ts = false := decide_eq_false (by omega)

theorem dirLate_true {ts : Nat} (h : ts + 1000000 < replica s 16) : dirLate s ts = true := decide_eq_true h

/-- The front of the waiting requests is fresh, and its line free and without error. -/
structure Serves (s : State) (q : DirReq) (j : Option JobRef) (tw : Nat) (rest : List DirWait) : Prop where
  ready : isReady s = true
  front : s.dir.wait = ⟨q, j, tw⟩ :: rest
  alone : ∀ x ∈ rest, reqLine x.req ≠ reqLine q
  idle : lineBusy s (reqLine q) = false
  room : dirRoom s q = true

/-- The directory's next state from a served request. -/
theorem Serves.done {q : DirReq} {j : Option JobRef} {tw : Nat} {rest : List DirWait} {p : DirReq → Bool} (h : Serves s q j tw rest)
    (hp : p q = true) (ht : dirLate s tw = false) (hu : dirStart q j (withWait rest s) = u) (hw : u.dir.wait = rest) :
    dirServeKind p s = u := by
  rw [dirServeKind_front h.ready h.front hp h.idle h.room, dirServe_fresh rest ht, hu, dirWake_idle (by rw [hw]; exact h.alone)]

/-! ### How a request starts (R417) -/

variable {q : DirReq} {j : Option JobRef}

/-- Nothing wrong stands at a line: its entry has no error and it is not poisoned. -/
structure LineSound (s : State) (l : Nat) : Prop where
  up : smGet upZero s.dir.upset l = 0
  clean : s.dir.poisoned.contains l = false

theorem dirStart_getS (h : LineSound s l) (hst : ∀ o, dirOf s l ≠ some (.m o)) :
    dirStart (.getS c l) j s = dirFromDram (.getS c l) j c l false (dirMakeRoom l s) := by
  unfold dirStart
  simp only [reqLine, dirScrub_clean h.up, h.clean, Bool.false_eq_true, if_false]

theorem dirStart_getS_owned {o : Nat} (h : LineSound s l) (hst : dirOf s l = some (.m o)) :
    dirStart (.getS c l) j s = dirOpen (.getS c l) j [o] (dirSend o (.fwdS l c) s) := by
  unfold dirStart
  simp only [reqLine, dirScrub_clean h.up, h.clean, hst, Bool.false_eq_true, if_false]

theorem dirStart_getM_owned {o : Nat} (h : LineSound s l) (hst : dirOf s l = some (.m o)) :
    dirStart (.getM c l) j s = dirOpen (.getM c l) j [o] (dirSend o (.fwdM l c) s) := by
  unfold dirStart
  simp only [reqLine, dirScrub_clean h.up, h.clean, hst, Bool.false_eq_true, if_false]

theorem dirStart_getM_free (h : LineSound s l) (hst : dirOf s l = none) :
    dirStart (.getM c l) j s = dirGrantM (.getM c l) j c l (dirMakeRoom l s) := by
  unfold dirStart
  simp only [reqLine, dirScrub_clean h.up, h.clean, hst, holders, List.isEmpty_nil, Bool.false_eq_true, if_false, if_true]

theorem dirStart_getM_shared {m : BitVec 16} (h : LineSound s l) (hst : dirOf s l = some (.s m)) (hh : holders (some (.s m)) c ≠ []) :
    dirStart (.getM c l) j s = dirOpen (.getM c l) j (holders (some (.s m)) c) (dirSendAll (holders (some (.s m)) c) (.inv l) s) := by
  have he : (holders (some (.s m)) c).isEmpty = false := by simpa using hh
  unfold dirStart
  simp only [reqLine, dirScrub_clean h.up, h.clean, hst, he, Bool.false_eq_true, if_false]

theorem dirStart_putM {b : List Byte} (h : smGet upZero s.dir.upset l = 0) : dirStart (.putM c l b) j s =
    dirSend c (.putAck l) (if dirOf s l = some (.m c) then setDir l none (dramStore l b s) else s) := by
  unfold dirStart
  simp only [reqLine, dirScrub_clean h]

theorem dirStart_read_owned {o : Nat} (h : LineSound s l) (hst : dirOf s l = some (.m o)) :
    dirStart (.read l) j s = dirOpen (.read l) j [o] (dirSend o (.recallKeep l) s) := by
  unfold dirStart
  simp only [reqLine, dirScrub_clean h.up, h.clean, hst, Bool.false_eq_true, if_false]

theorem dirStart_write_free {b : List Byte} (h : LineSound s l) (hst : dirOf s l = none) :
    dirStart (.write l b) j s = setDir l none (dramStore l b s) := by
  unfold dirStart
  simp only [reqLine, dirScrub_clean h.up, h.clean, hst, holders, List.isEmpty_nil, Bool.false_eq_true, if_false, if_true]

/-- Data of a line that its check gave arrive at the cache. The definition is unfolded as a function: applied, the kernel
would evaluate the check to compare the two sides. -/
theorem dirFromDram_ok {b : List Byte} (h : dramCheck l s = (.ok b, t)) (excl : Bool) : dirFromDram q j c l excl s =
    dcFill c l b excl (setDir l (some (if excl then .m c else withSharer (dirOf t l) c)) t) := by
  have e : dirFromDram = dirFromDram := rfl
  conv at e => rhs; delta dirFromDram
  rw [e]
  beta_reduce
  rw [h]

theorem dramCheck_plain (h : dramEcc s l = false) : dramCheck l s = (.ok (dramLine s l), s) := by
  unfold dramCheck
  rw [if_pos (by rw [h]; rfl)]

/-- A line without a code comes from DRAM as it stands. -/
theorem dirFromDram_plain (h : dramEcc s l = false) (excl : Bool) : dirFromDram q j c l excl s =
    dcFill c l (dramLine s l) excl (setDir l (some (if excl then .m c else withSharer (dirOf s l) c)) s) :=
  dirFromDram_ok (dramCheck_plain h) excl

theorem dirGrantM_new (h : ∀ x ∈ (coreOf s c).dc.lines, x.line ≠ l) : dirGrantM q j c l s = dirFromDram q j c l true s := by
  have hn : ((coreOf s c).dc.lines.any (·.line == l)) = false := List.any_eq_false.mpr fun x hx => by simpa using h x hx
  rw [dirGrantM, hn, if_neg Bool.false_ne_true]

/-! ### A full set (R416) -/

/-- A step that leaves every entry of the directory but that of line `v`, and the transactions. -/
structure EntryKept (v : Nat) (s t : State) : Prop where
  entries : ∀ m, m ≠ v → dirOf t m = dirOf s m

theorem EntryKept.of_dir (h : t.dir.entries = s.dir.entries) (v : Nat) : EntryKept v s t := ⟨fun m _ => dirOf_congr h m⟩

theorem EntryKept.trans {v : Nat} (h : EntryKept v s t) (k : EntryKept v t u) : EntryKept v s u :=
  ⟨fun m hm => (k.entries m hm).trans (h.entries m hm)⟩

theorem EntryKept.setDir {v : Nat} (h : EntryKept v s t) (d : Option DirState) : EntryKept v s (setDir v d t) :=
  ⟨fun m hm => (dirOf_setDir_ne hm d t).trans (h.entries m hm)⟩

/-- Dropping a line from a core's cache, and a core's fault, leave the directory. -/
theorem dcDrop_dir (c l : Nat) (s : State) : (dcDrop c l s).dir = s.dir := rfl

theorem coreFault_dir (c eng : Nat) (commit : Option Nat) (code : FaultCode) (s : State) :
    (coreFault c eng commit code s).dir = s.dir := by
  obtain ⟨g, x, -, -, h⟩ := coreFault_spec c eng commit code s
  obtain ⟨w, q, n, k, y, hy⟩ := raise_frame g { s with regs := x }
  rw [h, hy]

theorem ccStopRec_frame (c kind cause code tval : Nat) (s : State) : ∃ g, ccStopRec c kind cause code tval s = { s with regs := g } := by
  unfold ccStopRec
  simp only []
  split
  · exact ⟨s.regs, rfl⟩
  · obtain ⟨g, hg⟩ := regPut_frame s (kreg c 0x3810) (BitVec.ofNat 32 (2 ^ 31 + kind * 2 ^ 28 + cause * 2 ^ 16 + code))
    rw [hg]
    exact regPut_frame _ _ _

theorem dcLost_dir (c l : Nat) (s : State) : (dcLost c l s).dir = s.dir := by
  unfold dcLost
  rw [coreFault_dir]
  obtain ⟨g, hg⟩ := ccStopRec_frame c 5 0 0 0 (modDc c (fun d => { d with evict := d.evict.filter (·.line != l) }) (dcDrop c l s))
  rw [hg]
  rfl

theorem dcDecode_dir (c l : Nat) (ws : List Nat) (s : State) : (dcDecode c l ws s).2.dir = s.dir := by
  unfold dcDecode
  split
  · rfl
  · extract_lets cor unc mend s1 s2 s3
    split
    · rfl
    · -- the counters follow the mended words
      have h2 : s2.dir = s1.dir := by
        simp only [s2]
        split
        · rfl
        · exact regPut_dir _ _ _
      have h3 : s3.dir = s2.dir := by
        simp only [s3]
        split
        · rfl
        · exact regPut_dir _ _ _
      exact h3.trans h2

/-- What an uncorrectable entry does to one cache leaves the directory. -/
theorem scrubOne_dir (v c : Nat) (s : State) : (match dcFind (coreOf s c).dc v with
    | some l =>
      let r := if l.dirty then dcDecode c v lineWords s else (true, s)
      let s := if !r.1 then dcLost c v r.2 else if l.dirty then dramStore v l.bytes r.2 else r.2
      if (coreOf s c).active.isSome then coreFault c 7 none .dirUe (dcDrop c v s) else dcDrop c v s
    | none => s).dir = s.dir := by
  split
  next l hl =>
    extract_lets r s1
    have hr : r.2.dir = s.dir := by
      simp only [r]
      split
      · exact dcDecode_dir _ _ _ _
      · rfl
    have h1 : s1.dir = s.dir := by
      simp only [s1]
      split
      · exact (dcLost_dir _ _ _).trans hr
      · split
        · exact hr
        · exact hr
    split
    · exact (coreFault_dir _ _ _ _ _).trans h1
    · exact h1
  next => rfl

/-- Setting aside an entry's error leaves the entries of other lines. -/
theorem dirScrub_kept (v : Nat) (s : State) : EntryKept v s (dirScrub v s) := by
  unfold dirScrub
  extract_lets u s1 one
  have h1 : EntryKept v s s1 := EntryKept.of_dir (s := s) (t := s1) rfl v
  have hone : ∀ t c, (one t c).dir = t.dir := fun t c => scrubOne_dir v c t
  split
  · exact .of_dir rfl v
  · split
    · exact h1
    · have hall : ((List.range 16).foldl one s1).dir = s1.dir :=
        foldl_keeps (P := fun t => t.dir = s1.dir) (fun t c ht => (hone t c).trans ht) _ rfl
      exact (h1.trans (.of_dir (congrArg Dir.entries hall) v)).setDir none

theorem recallLine_kept (v : Nat) (s : State) : EntryKept v s (recallLine v s).2 := by
  unfold recallLine
  split
  next o ho =>
    split
    next x hx =>
      simp only []
      have hd := EntryKept.of_dir (v := v) (congrArg Dir.entries (dcDecode_dir o v lineWords s))
      generalize dcDecode o v lineWords s = r at hd
      split
      · exact (hd.trans (.of_dir (congrArg Dir.entries (dcLost_dir o v r.2)) v)).setDir none
      · exact (hd.trans (EntryKept.of_dir (s := r.2) (t := dramStore v x.bytes (dcClean o v r.2)) rfl v)).setDir _
    next => exact (EntryKept.of_dir rfl v).setDir _
  next => exact .of_dir rfl v

/-- Every holder invalidated: the line has no entry, and no cache holds it. -/
theorem dropAll_spec (v : Nat) (n : Nat) (hn : n ≤ 16) (s : State) :
    let t := (List.range n).foldl (fun s c => dcDrop c v s) s
    t.dir = s.dir ∧ ∀ c < n, ∀ y ∈ (coreOf t c).dc.lines, y.line ≠ v := by
  induction n with
  | zero => exact ⟨rfl, fun _ h => absurd h (Nat.not_lt_zero _)⟩
  | succ n ih =>
    obtain ⟨hd, hl⟩ := ih (by omega)
    rw [List.range_succ, List.foldl_append]
    generalize (List.range n).foldl (fun s c => dcDrop c v s) s = t at hd hl
    refine ⟨hd, fun c hc y hy => ?_⟩
    by_cases h : c = n
    · subst h
      rw [List.foldl_cons, List.foldl_nil, dcDrop, coreOf_setCore_self _ (by omega)] at hy
      simpa using (List.mem_filter.mp hy).2
    · rw [List.foldl_cons, List.foldl_nil, dcDrop, coreOf_setCore_ne _ (Ne.symm h)] at hy
      exact hl c (by omega) y hy

theorem invalidateLine_spec (v : Nat) (s : State) : EntryKept v s (invalidateLine v s) ∧ dirOf (invalidateLine v s) v = none ∧
    ∀ c < 16, ∀ y ∈ (coreOf (invalidateLine v s) c).dc.lines, y.line ≠ v := by
  obtain ⟨hd, hl⟩ := dropAll_spec v 16 (le_refl _) s
  exact ⟨(EntryKept.of_dir (congrArg Dir.entries hd) v).setDir none, dirOf_setDir_self v none _, hl⟩

/-- A set gives up at most one entry, of an idle line of the set, which no cache then holds (R416). -/
theorem dirMakeRoom_spec (l m : Nat) (s : State) : let u := dirMakeRoom l s
    dirOf u m = dirOf s m ∨ (m ≠ l ∧ dirSetOf m = dirSetOf l ∧ lineBusy s m = false ∧ dirOf u m = none ∧
      ∀ c < 16, ∀ y ∈ (coreOf u c).dc.lines, y.line ≠ m) := by
  unfold dirMakeRoom
  split
  · exact .inl rfl
  · simp only []
    split
    next v hv =>
      have hmem := List.mem_of_getElem? hv
      obtain ⟨hsame, hbusy⟩ := List.mem_filter.mp hmem
      obtain ⟨-, hset⟩ := List.mem_filter.mp hsame
      obtain ⟨hinv, hnone, hcaches⟩ := invalidateLine_spec v (recallLine v (dirScrub v (takeFree s).2)).2
      have hkept : EntryKept v s (invalidateLine v (recallLine v (dirScrub v (takeFree s).2)).2) :=
        (EntryKept.of_dir (s := s) (t := (takeFree s).2) rfl v).trans ((dirScrub_kept v _).trans ((recallLine_kept v _).trans hinv))
      by_cases hm : m = v
      · subst hm
        simp only [Bool.and_eq_true, bne_iff_ne, ne_eq, beq_iff_eq] at hset
        exact .inr ⟨hset.1, hset.2, by simpa using hbusy, hnone, hcaches⟩
      · exact .inl (hkept.entries m hm)
    next => exact .inl rfl

/-! ### A lost message (R419) -/

/-- A change of a core leaves all but the cores. -/
theorem modCore_rest_regs {k : Vector Core 16} {r : SMap Word} (c : Nat) (f : Core → Core) (s : State) :
    { modCore c f s with kc := k, regs := r } = { s with kc := k, regs := r } := rfl

/-- A core's miss ended. -/
def missEnd (c : Nat) (s : State) : State := modDc c (fun d => { d with miss := none }) s

/-- A core's miss ended and its control core stopped. -/
def missStop (c : Nat) (s : State) : State := modRun c (fun r => { r with cc := { r.cc with st := .stopped } }) (missEnd c s)

/-- What changes in a core whose miss ends. -/
structure MissEnded (c : Nat) (s u : State) : Prop where
  rest : { u with kc := s.kc, regs := s.regs } = s
  self : (coreOf u c).dc = { (coreOf s c).dc with miss := none }
  others : ∀ d, d ≠ c → coreOf u d = coreOf s d

theorem missEnd_ended (hc : c < 16) (s : State) : MissEnded c s (missEnd c s) :=
  ⟨modCore_rest_regs c _ s, congrArg (fun x : Core => x.dc) (coreOf_modCore_self _ hc), fun _ hd => coreOf_modCore_ne _ hd⟩

theorem missStop_ended (hc : c < 16) (s : State) : MissEnded c s (missStop c s) := by
  obtain ⟨hrest, hself, ho⟩ := missEnd_ended hc s
  refine ⟨(modCore_rest_regs c _ (missEnd c s)).trans hrest, ?_, fun d hd => (coreOf_modRun_ne hd _ _).trans (ho d hd)⟩
  rw [missStop, coreOf_modRun_self hc]
  exact hself

theorem MissEnded.regs (h : MissEnded c s u) (g : SMap Word) : MissEnded c s { u with regs := g } where
  rest := h.rest
  self := (congrArg (fun x : Core => x.dc) (coreOf_congr (s := u) rfl c)).trans h.self
  others d hd := (coreOf_congr (s := u) rfl d).trans (h.others d hd)

/-- A request of a core that is not performed: a fault of the core, its miss ended. -/
theorem missFault_eq {code : FaultCode} (hc : c < 16) (hcode : code ≠ .dcacheUe) (j : Option JobRef) (s : State) :
    ∃ f u, f.code = code ∧ f.isl = c ∧ missFault c j code s = raise f u ∧ MissEnded c s u := by
  unfold missFault
  simp only [if_neg hcode]
  split
  · obtain ⟨f, x, hf, hi, he⟩ := coreFault_spec c 7 none code (missStop c s)
    exact ⟨f, _, hf, hi, he, (missStop_ended hc s).regs x⟩
  · exact ⟨_, _, rfl, rfl, rfl, missEnd_ended hc s⟩

/-- What a request of a core that has lost a message leaves. -/
theorem missFault_timeout (hc : c < 16) (j : Option JobRef) (s : State) : let t := missFault c j .dirTimeout s
    Raised .dirTimeout c t ∧ (coreOf t c).dc = { (coreOf s c).dc with miss := none } ∧ (∀ d, d ≠ c → coreOf t d = coreOf s d) ∧
      t.dir = s.dir ∧ t.dram = s.dram := by
  obtain ⟨f, u, hf, hi, he, hrest, hdc, ho⟩ := missFault_eq (code := .dirTimeout) hc (by decide) j s
  intro t
  have ht : t = raise f u := he
  have hdir := congrArg (fun v : State => v.dir) hrest
  have hdram := congrArg (fun v : State => v.dram) hrest
  have hraise : Raised .dirTimeout c (raise f u) := by
    rw [← hf, ← hi]
    exact raise_raised f u (by rw [hf]; decide) (by omega)
  have hcore := (FaultPath.raise f u).coreOf
  obtain ⟨w, q, n, k, y, hy⟩ := raise_frame f u
  rw [ht]
  refine ⟨hraise, by rw [hcore, hdc], fun d hd => by rw [hcore, ho d hd], ?_, ?_⟩ <;> rw [hy]
  · exact hdir
  · exact hdram

/-- The directory after what it held of a line's transaction is gone, the line poisoned. -/
def expireClean (l : Nat) (s : State) : State := modDir (fun d => { d with
  txns := d.txns.filter (·.line != l), poisoned := if d.poisoned.contains l then d.poisoned else d.poisoned ++ [l],
  toDir := d.toDir.filter fun a => ansLine a != l,
  toCache := vmap d.toCache [] fun _ q => q.filter fun m => m == .putAck l || msgLine m != l }) s

theorem poisoned_expireClean (l : Nat) (s : State) : (expireClean l s).dir.poisoned.contains l = true ∧
    ∀ k, k ≠ l → (expireClean l s).dir.poisoned.contains k = s.dir.poisoned.contains k := by
  change (if s.dir.poisoned.contains l then s.dir.poisoned else s.dir.poisoned ++ [l]).contains l = true ∧
    ∀ k, k ≠ l → (if s.dir.poisoned.contains l then s.dir.poisoned else s.dir.poisoned ++ [l]).contains k = _
  split
  next h => exact ⟨h, fun _ _ => rfl⟩
  next h => exact ⟨by simp, fun k hk => by simp [hk]⟩

/-- Where no request waits on a line, none has its age set back. -/
theorem waitFresh_idle (h : ∀ x ∈ s.dir.wait, reqLine x.req ≠ l) : waitFresh l s = s := by
  have hm : (s.dir.wait.map fun e => if reqLine e.req = l then { e with ts := replica s 16 } else e) = s.dir.wait :=
    (List.map_congr_left fun x hx => if_neg (h x hx)).trans (List.map_id _)
  change { s with dir := { s.dir with wait := s.dir.wait.map fun e => if reqLine e.req = l then { e with ts := replica s 16 } else e } } = s
  rw [hm]

/-- A transaction of a core that has lost a message, where nothing waits on its line. -/
theorem dirExpire_core (hc : c < 16) (hq : q = .getS c l ∨ q = .getM c l) (hw : ∀ x ∈ s.dir.wait, reqLine x.req ≠ m) :
    dirExpire m q j s = missFault c j .dirTimeout (expireClean m s) := by
  obtain ⟨-, -, -, hdir, -⟩ := missFault_timeout hc j (expireClean m s)
  have hidle : ∀ x ∈ (missFault c j .dirTimeout (expireClean m s)).dir.wait, reqLine x.req ≠ m := by rw [hdir]; exact hw
  have hf : reqFault q j .dirTimeout (expireClean m s) = missFault c j .dirTimeout (expireClean m s) := by
    rcases hq with rfl | rfl <;> rfl
  unfold dirExpire
  change dirWake m 64 (waitFresh m (reqFault q j .dirTimeout (expireClean m s))) = _
  rw [hf, waitFresh_idle hidle, dirWake_idle hidle]

/-! ### Requests of other agents (R417) -/

/-- A request of an agent starts where its line has no transaction and no request waits. -/
theorem dirArrive_starts (hr : isReady s = true) (hb : lineBusy s (reqLine q) = false)
    (hw : ∀ x ∈ s.dir.wait, reqLine x.req ≠ reqLine q) : dirArrive q s = dirStart q none s := by
  have hany : (s.dir.wait.any fun e => reqLine e.req == reqLine q) = false := List.any_eq_false.mpr fun x hx => by simpa using hw x hx
  rw [dirArrive, hr, hb, hany]
  rfl

/-- A request of an agent waits behind a transaction of its line. -/
theorem dirArrive_waits (hr : isReady s = true) (hb : lineBusy s (reqLine q) = true) :
    dirArrive q s = withWait (s.dir.wait ++ [⟨q, none, replica s 16⟩]) s := by
  rw [dirArrive, hr, hb]
  rfl

/-- The other sharers of a line. -/
theorem mem_holders {m : BitVec 16} {e : Nat} : e ∈ holders (some (.s m)) c ↔ e < 16 ∧ e ≠ c ∧ m.getLsbD e = true := by
  simp only [holders, List.mem_filter, mem_onesFrom, bitOf_toNat, bne_iff_ne, ne_eq, Nat.zero_le, true_and, Nat.zero_add]
  exact ⟨fun ⟨⟨h, hb⟩, hc⟩ => ⟨h, hc, hb⟩, fun ⟨h, hc, hb⟩ => ⟨⟨h, hb⟩, hc⟩⟩

theorem nodup_holders (m : BitVec 16) (c : Nat) : (holders (some (.s m)) c).Nodup := (nodup_onesFrom _ _ _).filter _

/-- A change of a core leaves the directory. -/
theorem modCore_rest_dir {k : Vector Core 16} {d : Dir} (c : Nat) (f : Core → Core) (s : State) :
    { modCore c f s with kc := k, dir := d } = { s with kc := k, dir := d } := rfl

/-- What data from DRAM leave: the line in front in the requester's cache, the entry, and one waiting request fewer. -/
theorem dcFill_spec (hc : c < 16) (h : ∀ x ∈ (coreOf s c).dc.lines, x.line ≠ l) (b : List Byte) (excl : Bool) (d : DirState)
    (w : List DirWait) : let t := dcFill c l b excl (setDir l (some d) (withWait w s))
    (coreOf t c).dc.lines = ⟨l, excl, b, []⟩ :: (coreOf s c).dc.lines ∧ dirOf t l = some d ∧
      (∀ m, m ≠ l → dirOf t m = dirOf s m) ∧ t.dir.wait = w ∧ t.dir.txns = s.dir.txns ∧ t.dir.toCache = s.dir.toCache ∧
      (∀ d, d ≠ c → coreOf t d = coreOf s d) ∧ { t with kc := s.kc, dir := s.dir } = s := by
  have hlines := lines_dcFill (s := setDir l (some d) (withWait w s)) hc h b excl
  have hdir : (dcFill c l b excl (setDir l (some d) (withWait w s))).dir = (setDir l (some d) (withWait w s)).dir := rfl
  have hrest : { dcFill c l b excl (setDir l (some d) (withWait w s)) with kc := s.kc, dir := s.dir } = s :=
    modCore_rest_dir c _ (setDir l (some d) (withWait w s))
  have hcores : ∀ d', d' ≠ c → coreOf (dcFill c l b excl (setDir l (some d) (withWait w s))) d' = coreOf s d' :=
    fun d' hd => coreOf_dcFill_ne hd b excl (setDir l (some d) (withWait w s))
  generalize dcFill c l b excl (setDir l (some d) (withWait w s)) = t at hlines hdir hrest hcores
  refine ⟨hlines, ?_, fun m hm => ?_, by rw [hdir]; rfl, by rw [hdir]; rfl, by rw [hdir]; rfl, hcores, hrest⟩
  · exact (dirOf_congr (congrArg Dir.entries hdir) l).trans (dirOf_setDir_self l _ _)
  · exact (dirOf_congr (congrArg Dir.entries hdir) m).trans (dirOf_setDir_ne hm _ _)

/-- A change of the directory leaves the rest. -/
theorem modDir_rest {d : Dir} (f : Dir → Dir) (s : State) : { modDir f s with dir := d } = { s with dir := d } := rfl

/-- A transaction opened with one message sent changes only the directory. -/
theorem opened_rest (w : List Nat) (x : DirMsg) (s : State) : { dirOpen q j w (dirSend c x s) with dir := s.dir } = s :=
  (modDir_rest _ _).trans (modDir_rest _ s)

/-- What a request that is sent on to the owner `o` leaves. -/
theorem opened_spec {o : Nat} (ho : o < 16) (x : DirMsg) (rest : List DirWait) :
    let t := dirOpen q j [o] (dirSend o x (withWait rest s))
    t.dir.txns = s.dir.txns ++ [⟨q, reqLine q, [o], j, s.tb.master⟩] ∧
      vget t.dir.toCache o [] = vget s.dir.toCache o [] ++ [x] ∧
      (∀ d : Fin 16, d.val ≠ o → vget t.dir.toCache d.val [] = vget s.dir.toCache d.val []) ∧ t.dir.wait = rest ∧
      t.dir.entries = s.dir.entries ∧ { t with dir := s.dir } = s := by
  have hrest : { dirOpen q j [o] (dirSend o x (withWait rest s)) with dir := s.dir } = s :=
    (modDir_rest _ _).trans ((modDir_rest _ _).trans (modDir_rest _ s))
  exact ⟨rfl, toCache_send_self ho x (withWait rest s), fun d hd => toCache_send_ne hd x (withWait rest s), rfl, rfl, hrest⟩

/-- A served request of each kind is the command's answer. -/
theorem Serves.gets {c : Fin 16} {tw : Nat} {rest : List DirWait} (h : Serves s (.getS c.val l) j tw rest)
    (ht : dirLate s tw = false) (hu : dirStart (.getS c.val l) j (withWait rest s) = u) (hw : u.dir.wait = rest) :
    exec (.dirGets c) s = .next u := by
  refine congrArg Host.Outcome.next (h.done ?_ ht hu hw)
  exact beq_self_eq_true c.val

theorem Serves.getm {c : Fin 16} {tw : Nat} {rest : List DirWait} (h : Serves s (.getM c.val l) j tw rest)
    (ht : dirLate s tw = false) (hu : dirStart (.getM c.val l) j (withWait rest s) = u) (hw : u.dir.wait = rest) :
    exec (.dirGetm c) s = .next u := by
  refine congrArg Host.Outcome.next (h.done ?_ ht hu hw)
  exact beq_self_eq_true c.val

theorem Serves.putm {c : Fin 16} {b : List Byte} {tw : Nat} {rest : List DirWait} (h : Serves s (.putM c.val l b) j tw rest)
    (ht : dirLate s tw = false) (hu : dirStart (.putM c.val l b) j (withWait rest s) = u) (hw : u.dir.wait = rest) :
    exec (.dirPutm c) s = .next u := by
  refine congrArg Host.Outcome.next (h.done ?_ ht hu hw)
  exact beq_self_eq_true c.val

/-- What a served PutM leaves: the owner's line in DRAM and no entry; another core's changes nothing. -/
def putMState (c l : Nat) (b : List Byte) (s : State) : State :=
  if dirOf s l = some (.m c) then setDir l none (dramStore l b s) else s

theorem putMState_rest (c l : Nat) (b : List Byte) (s : State) :
    (∀ d m, { putMState c l b s with dir := d, dram := m } = { s with dir := d, dram := m }) ∧ (putMState c l b s).dir.wait = s.dir.wait ∧
      (putMState c l b s).dir.toCache = s.dir.toCache ∧ ∀ m, m ≠ l → dirOf (putMState c l b s) m = dirOf s m := by
  unfold putMState
  split
  · exact ⟨fun _ _ => rfl, rfl, rfl, fun m hm => dirOf_setDir_ne hm none _⟩
  · exact ⟨fun _ _ => rfl, rfl, rfl, fun _ _ => rfl⟩

end

end Sys2Proof.Machine

namespace Sys2Proof.Proofs
open Sys2Proof.Machine

/-- Settles O41: the front request is served (`Serves.done`), by the `dirStart` lemma of its kind; a full set gives up one idle
line (`dirMakeRoom_spec`). -/
theorem directoryRequests : Obligations.DirectoryRequests := by
  unfold Obligations.DirectoryRequests
  refine ⟨?getS, ?owned, ?getM, ?shared, ?putM, ?read, ?write, ?room, ?late, ?waits⟩
  case getS =>
    intro s c l j tw rest hr hw ha ht hb hu hp hst hecc hlines hfull
    have hs : Serves s (.getS c.val l) j tw rest := ⟨hr, hw, ha, hb, by simp [dirRoom, hfull]⟩
    have hstart : dirStart (.getS c.val l) j (withWait rest s) = dcFill c.val l (dramLine s l) false
        (setDir l (some (withSharer (dirOf s l) c.val)) (withWait rest s)) := by
      rw [dirStart_getS (s := withWait rest s) ⟨hu, hp⟩ hst, dirMakeRoom_room (s := withWait rest s) hfull,
        dirFromDram_plain (s := withWait rest s) hecc]
      rfl
    obtain ⟨h1, h2, h3, hwait, h5, h6, h7, h8⟩ := dcFill_spec c.isLt hlines (dramLine s l) false (withSharer (dirOf s l) c.val) rest
    exact ⟨_, hs.gets (dirLate_false ht) hstart hwait, h1, h2, h3, hwait, h5, h6, h7, h8⟩
  case owned =>
    intro s c l o j tw rest ex hr hw ha ht hb hu hp hst ho
    have hroom : dirFull s l = false := dirFull_entry hst
    cases ex with
    | false =>
      simp only [Bool.false_eq_true, if_false] at hw ⊢
      have hs : Serves s (.getS c.val l) j tw rest := ⟨hr, hw, ha, hb, by simp [dirRoom, hroom]⟩
      have hstart := dirStart_getS_owned (s := withWait rest s) (c := c.val) (j := j) ⟨hu, hp⟩ hst
      obtain ⟨h1, h2, h3, hwait, h5, h6⟩ := opened_spec (s := s) (q := .getS c.val l) (j := j) ho (.fwdS l c.val) rest
      exact ⟨_, hs.gets (dirLate_false ht) hstart hwait, h1, h2, h3, hwait, h5, h6⟩
    | true =>
      simp only [if_true] at hw ⊢
      have hs : Serves s (.getM c.val l) j tw rest := ⟨hr, hw, ha, hb, by simp [dirRoom, hroom]⟩
      have hstart := dirStart_getM_owned (s := withWait rest s) (c := c.val) (j := j) ⟨hu, hp⟩ hst
      obtain ⟨h1, h2, h3, hwait, h5, h6⟩ := opened_spec (s := s) (q := .getM c.val l) (j := j) ho (.fwdM l c.val) rest
      exact ⟨_, hs.getm (dirLate_false ht) hstart hwait, h1, h2, h3, hwait, h5, h6⟩
  case getM =>
    intro s c l j tw rest hr hw ha ht hb hu hp hst hecc hlines hfull
    have hs : Serves s (.getM c.val l) j tw rest := ⟨hr, hw, ha, hb, by simp [dirRoom, hfull]⟩
    have hstart : dirStart (.getM c.val l) j (withWait rest s) = dcFill c.val l (dramLine s l) true
        (setDir l (some (.m c.val)) (withWait rest s)) := by
      rw [dirStart_getM_free (s := withWait rest s) ⟨hu, hp⟩ hst, dirMakeRoom_room (s := withWait rest s) hfull,
        dirGrantM_new (s := withWait rest s) hlines, dirFromDram_plain (s := withWait rest s) hecc]
      rfl
    obtain ⟨h1, h2, h3, hwait, h5, -, h7, h8⟩ := dcFill_spec c.isLt hlines (dramLine s l) true (.m c.val) rest
    exact ⟨_, hs.getm (dirLate_false ht) hstart hwait, h1, h2, h3, hwait, h5, h7, h8⟩
  case shared =>
    intro s c d l m j tw rest hr hw ha ht hb hu hp hst hdc hm
    have hs : Serves s (.getM c.val l) j tw rest := ⟨hr, hw, ha, hb, by simp [dirRoom, dirFull_entry hst]⟩
    have hd : d.val ∈ holders (some (.s m)) c.val := mem_holders.mpr ⟨d.isLt, fun h => hdc (Fin.ext h), hm⟩
    have hmem (e : Fin 16) : e.val ∈ holders (some (.s m)) c.val ↔ e ≠ c ∧ m.getLsbD e.val = true := by
      rw [mem_holders]
      exact ⟨fun ⟨_, h, hb⟩ => ⟨fun he => h (congrArg Fin.val he), hb⟩, fun ⟨h, hb⟩ => ⟨e.isLt, fun he => h (Fin.ext he), hb⟩⟩
    have hstart := dirStart_getM_shared (s := withWait rest s) (c := c.val) (j := j) ⟨hu, hp⟩ hst (List.ne_nil_of_mem hd)
    have hsend (e : Fin 16) := toCache_sendAll (nodup_holders m c.val) (.inv l) (withWait rest s) e.isLt
    obtain ⟨v, hv⟩ := dirSendAll_frame (holders (some (.s m)) c.val) (.inv l) (withWait rest s)
    rw [hv] at hstart hsend
    refine ⟨_, hs.getm (dirLate_false ht) hstart rfl, ?_⟩
    refine ⟨⟨_, rfl, hmem⟩, fun e => ?_, rfl, rfl, rfl⟩
    refine (hsend e).trans ?_
    simp only [hmem]
    rfl
  case putM =>
    intro s c l b j tw rest hr hw ha ht hb hu hlen
    have hs : Serves s (.putM c.val l b) j tw rest := ⟨hr, hw, ha, hb, rfl⟩
    have hstart : dirStart (.putM c.val l b) j (withWait rest s) = dirSend c.val (.putAck l) (putMState c.val l b (withWait rest s)) :=
      dirStart_putM hu
    obtain ⟨hrest, hwait, hcache, ho⟩ := putMState_rest c.val l b (withWait rest s)
    have hown : dirOf s l = some (.m c.val) → putMState c.val l b (withWait rest s) = setDir l none (dramStore l b (withWait rest s)) :=
      fun h => if_pos h
    have hnot : dirOf s l ≠ some (.m c.val) → putMState c.val l b (withWait rest s) = withWait rest s := fun h => if_neg h
    generalize putMState c.val l b (withWait rest s) = u at hstart hrest hwait hcache ho hown hnot
    refine ⟨_, hs.putm (dirLate_false ht) hstart hwait, ?_⟩
    refine ⟨fun h => ?_, fun h => ?_, (toCache_send_self c.isLt _ u).trans (by rw [hcache]; rfl), ho, hwait, hrest s.dir s.dram⟩
    · obtain rfl := hown h
      exact ⟨dramLine_store hlen _ _, dirOf_setDir_self l none _, fun a ha => mem_store_ne hlen ha s⟩
    · obtain rfl := hnot h
      exact ⟨rfl, rfl⟩
  case read =>
    intro s a o hr hb hw hu hp hst ho
    have hstart := dirStart_read_owned (j := none) ⟨hu, hp⟩ hst
    refine ⟨_, congrArg Host.Outcome.next ((dirArrive_starts (q := .read (lineOf a)) hr hb hw).trans hstart), ?_⟩
    exact ⟨rfl, toCache_send_self ho _ _, opened_rest _ _ s⟩
  case write =>
    intro s a b hr hb hw hu hp hst hlen
    have hstart := dirStart_write_free (j := none) (b := slice b 0 64) ⟨hu, hp⟩ hst
    refine ⟨_, congrArg Host.Outcome.next ((dirArrive_starts (q := .write (lineOf a) (slice b 0 64)) hr hb hw).trans hstart), ?_⟩
    rw [slice_full hlen]
    exact ⟨dramLine_store hlen _ _, dirOf_setDir_self _ none _, fun k hk => mem_store_ne hlen hk s, rfl⟩
  case room => exact fun s l m => ⟨dirMakeRoom_room, dirMakeRoom_spec l m s⟩
  case late =>
    intro s c l j tw rest hr hw ha hb hfull ht
    have hserve := dirServeKind_front (p := fun q => match q with
      | .getS d _ => d == c.val
      | _ => false) hr hw (beq_self_eq_true _) hb (by simp [dirRoom, hfull])
    have hexp := dirExpire_core (s := withWait rest s) (m := l) (l := l) (q := .getS c.val l) (j := j) c.isLt (.inl rfl) ha
    obtain ⟨hraise, hdc, -, hdir, hdram⟩ := missFault_timeout c.isLt j (expireClean l (withWait rest s))
    refine ⟨_, congrArg Host.Outcome.next (hserve.trans ((dirServe_late rest (dirLate_true ht)).trans hexp)), ?_⟩
    refine ⟨?_, by rw [hdir]; rfl, hraise, by rw [hdc]; rfl, by rw [hdir]; rfl, by rw [hdram]; rfl⟩
    rw [hdir]
    exact (poisoned_expireClean l (withWait rest s)).1
  case waits =>
    intro s a b hr hb
    exact ⟨_, congrArg Host.Outcome.next (dirArrive_waits (q := .write (lineOf a) (slice b 0 64)) hr hb), rfl⟩

end Sys2Proof.Proofs

/-! ## What the caches answer -/

namespace Sys2Proof.Machine

/-! ### A cache's lines -/

section
variable {s t u : State} {c l : Nat} {m : DirMsg} {rest : List DirMsg}

theorem list_getD_zero {n : List Nat} (h : ∀ k ∈ n, k = 0) (i : Nat) : n.getD i 0 = 0 := by
  by_cases hi : i < n.length
  · rw [List.getD_eq_getElem _ _ hi]
    exact h _ (List.getElem_mem hi)
  · exact List.getD_eq_default _ _ (by omega)

/-- A line without an error decodes as it stands (R331). -/
theorem dcDecode_clean {x : DcLine} (hx : dcFind (coreOf s c).dc l = some x) (hu : ∀ n ∈ x.up, n = 0) (ws : List Nat) :
    dcDecode c l ws s = (true, s) := by
  have hcor : ws.filter (fun w => x.up.getD w 0 == 1) = [] :=
    List.filter_eq_nil_iff.mpr fun w _ => by rw [list_getD_zero hu]; decide
  have hunc : ws.filter (fun w => decide (2 ≤ x.up.getD w 0)) = [] :=
    List.filter_eq_nil_iff.mpr fun w _ => by rw [list_getD_zero hu]; decide
  unfold dcDecode
  rw [hx]
  simp only [hcor, hunc, List.isEmpty_nil, Bool.and_self, if_true]

/-- A line without an error is answered with its bytes. -/
theorem cacheData_clean {x : DcLine} (hx : dcFind (coreOf s c).dc l = some x) (hu : ∀ n ∈ x.up, n = 0) (after : State → State) :
    cacheData c l after s = dirAnswer (.data l c (some x.bytes) (replica s c)) (after s) := by
  unfold cacheData
  rw [hx]
  simp only [dcDecode_clean hx hu, Bool.not_true, Bool.and_false, Bool.false_eq_true, if_false]

/-- A line no longer modified. -/
def cleaned (l : Nat) (x : DcLine) : DcLine := if x.line = l then { x with dirty := false } else x

theorem cleaned_line (l : Nat) (x : DcLine) : (cleaned l x).line = x.line := by
  unfold cleaned
  split <;> rfl

/-- Cleaning keeps which line a search finds. -/
theorem find_cleaned {ls : List DcLine} {x : DcLine} (h : ls.find? (·.line == l) = some x) :
    (ls.map (cleaned l)).find? (·.line == l) = some { x with dirty := false } := by
  have hx : x.line = l := by simpa using List.find?_some h
  rw [List.find?_map, show ((fun y : DcLine => y.line == l) ∘ cleaned l) = fun y => y.line == l from
    funext fun y => by simp [cleaned_line], h]
  exact congrArg some (if_pos hx)

theorem dc_dcClean (hc : c < 16) (s : State) : (coreOf (dcClean c l s) c).dc =
    { (coreOf s c).dc with lines := (coreOf s c).dc.lines.map (cleaned l), evict := (coreOf s c).dc.evict.map (cleaned l) } :=
  congrArg (fun x : Core => x.dc) (coreOf_modCore_self _ hc)

theorem lines_dcDrop (hc : c < 16) (s : State) : (coreOf (dcDrop c l s) c).dc.lines = (coreOf s c).dc.lines.filter (·.line != l) :=
  congrArg (fun x : Core => x.dc.lines) (coreOf_setCore_self _ hc _)

/-- A snoop clears a reservation on its line (R332). -/
theorem rsv_dcDrop (hc : c < 16) (s : State) : (coreOf (dcDrop c l s) c).run.cc.rsv.bind (·.2) ≠ some l := by
  rw [dcDrop, coreOf_setCore_self _ hc]
  by_cases h : (coreOf s c).run.cc.rsv.bind (·.2) = some l
  · simp [h]
  · simp [h]

/-! ### One message at a cache -/

/-- The messages to a cache. -/
def withMsgs (c : Nat) (r : List DirMsg) (s : State) : State := modDir (fun d => { d with toCache := vset d.toCache c r }) s

theorem toCache_withMsgs (hc : c < 16) (r : List DirMsg) (s : State) : vget (withMsgs c r s).dir.toCache c [] = r :=
  vget_vset_self _ _ _ _ hc

/-- The front message to a cache, which nothing holds back. -/
structure MsgFront (s : State) (c : Nat) (m : DirMsg) (rest : List DirMsg) : Prop where
  ready : isReady s = true
  front : vget s.dir.toCache c [] = m :: rest
  free : snoopWaits c m s = false

theorem MsgFront.taken {p : DirMsg → Bool} (h : MsgFront s c m rest) (hp : p m = true) : cacheTake c p s =
    if msgLost c m s then withMsgs c rest s else cacheMsg c m (withMsgs c rest s) := by
  unfold cacheTake
  rw [h.front]
  simp only [h.ready, hp, h.free, Bool.and_self, Bool.not_true, Bool.or_self, Bool.false_eq_true, if_false]
  rfl

/-- `u` is `s` with core `c` changed. -/
structure CoreOnly (c : Nat) (s u : State) : Prop where
  rest : ∀ k d, { u with kc := k, dir := d } = { s with kc := k, dir := d }
  dir : u.dir = s.dir
  others : ∀ d, d ≠ c → coreOf u d = coreOf s d

theorem CoreOnly.modCore (c : Nat) (f : Core → Core) (s : State) : CoreOnly c s (modCore c f s) :=
  ⟨fun _ _ => rfl, rfl, fun _ hd => coreOf_modCore_ne _ hd⟩

theorem dcClean_only (c l : Nat) (s : State) : CoreOnly c s (dcClean c l s) := by
  unfold dcClean modDc
  exact .modCore c _ s

theorem dcDrop_only (c l : Nat) (s : State) : CoreOnly c s (dcDrop c l s) :=
  ⟨fun _ _ => rfl, rfl, fun _ hd => coreOf_setCore_ne _ (Ne.symm hd) _⟩

theorem dcFill_only (c l : Nat) (b : List Byte) (excl : Bool) (s : State) : CoreOnly c s (dcFill c l b excl s) := by
  unfold dcFill modDc
  exact .modCore c _ s

theorem CoreOnly.dram (h : CoreOnly c s u) : u.dram = s.dram := by
  have hd := congrArg (fun v : State => v.dram) (h.rest s.kc s.dir)
  exact hd

/-- What an answered message leaves. -/
theorem CoreOnly.answered (hc : c < 16) (h : CoreOnly c (withMsgs c rest s) u) (a : DirAns) : let t := dirAnswer a u
    t.dir.toDir = s.dir.toDir ++ [a] ∧ vget t.dir.toCache c [] = rest ∧ (∀ d, d ≠ c → coreOf t d = coreOf s d) ∧
      { t with kc := s.kc, dir := s.dir } = s := by
  refine ⟨?_, ?_, h.others, h.rest s.kc s.dir⟩
  · have hd := congrArg (fun d : Dir => d.toDir ++ [a]) h.dir
    exact hd
  · exact (congrArg (fun d : Dir => vget d.toCache c []) h.dir).trans (toCache_withMsgs hc rest s)

/-- A forward of a GetS or a recall-keep of a line without error (R418). -/
theorem snoopClean_spec {x : DcLine} (hc : c < 16) (hx : dcFind (coreOf s c).dc l = some x) (hu : ∀ n ∈ x.up, n = 0) :
    let t := cacheData c l (dcClean c l) (withMsgs c rest s)
    t.dir.toDir = s.dir.toDir ++ [.data l c (some x.bytes) (replica s c)] ∧ vget t.dir.toCache c [] = rest ∧
      ((coreOf s c).dc.lines.find? (·.line == l) = some x → ∃ y, dcFind (coreOf t c).dc l = some y ∧ y.dirty = false ∧ y.bytes = x.bytes) ∧
      (coreOf t c).dc.lines.length = (coreOf s c).dc.lines.length ∧
      (∀ d, d ≠ c → coreOf t d = coreOf s d) ∧ { t with kc := s.kc, dir := s.dir } = s := by
  obtain ⟨h1, h2, h3, h4⟩ := (dcClean_only c l (withMsgs c rest s)).answered hc (.data l c (some x.bytes) (replica s c))
  have hdc := dc_dcClean (l := l) hc (withMsgs c rest s)
  have heq : cacheData c l (dcClean c l) (withMsgs c rest s) =
      dirAnswer (.data l c (some x.bytes) (replica s c)) (dcClean c l (withMsgs c rest s)) :=
    cacheData_clean (s := withMsgs c rest s) hx hu _
  rw [heq]
  have hself : (coreOf (dirAnswer (.data l c (some x.bytes) (replica s c)) (dcClean c l (withMsgs c rest s))) c).dc =
      { (coreOf s c).dc with lines := (coreOf s c).dc.lines.map (cleaned l), evict := (coreOf s c).dc.evict.map (cleaned l) } := hdc
  refine ⟨h1, h2, fun hf => ⟨{ x with dirty := false }, ?_, rfl, rfl⟩, ?_, h3, h4⟩
  · rw [hself, dcFind, find_cleaned hf]
  · rw [hself]
    exact List.length_map _

/-! ### Answers at the directory -/

/-- The answers on their way to the directory. -/
def withAns (r : List DirAns) (s : State) : State := modDir (fun d => { d with toDir := r }) s

/-- The directory's transactions. -/
def withTxns (r : List DirTxn) (s : State) : State := modDir (fun d => { d with txns := r }) s

/-- The oldest answer is taken, or dropped where it is older than 1 ms (R57). -/
theorem exec_dirAck {a : DirAns} {r : List DirAns} (hr : isReady s = true) (h : s.dir.toDir = a :: r) :
    exec .dirAck s = .next (if dirLate s (ansTs a) then withAns r s else dirTake a (withAns r s)) := by
  change execDirAck s = _
  unfold execDirAck
  rw [h]
  simp only [hr, Bool.not_true, Bool.false_eq_true, if_false]
  rfl

/-- A transaction's last answer, where nothing waits on its line, ends it. -/
theorem dirTake_last {a : DirAns} {data : Option (Option (List Byte))} {x : DirTxn} {xs : List DirTxn} {o : Nat}
    (ha : (∃ tw, a = .ack l o tw ∧ data = none) ∨ ∃ b tw, a = .data l o b tw ∧ data = some b)
    (hx : s.dir.txns = x :: xs) (hl : x.line = l) (hw : x.await = [o]) (hidle : ∀ y ∈ s.dir.wait, reqLine y.req ≠ l)
    (hfin : (dirFinish x data (withTxns xs s)).dir.wait = s.dir.wait) : dirTake a s = dirFinish x data (withTxns xs s) := by
  have hline : ansLine a = l := by rcases ha with ⟨tw, rfl, -⟩ | ⟨b, tw, rfl, -⟩ <;> rfl
  have hleft : ([o].filter (· != o)).isEmpty = true := by simp
  have htake : takeFirst (fun t : DirTxn => t.line == l) s.dir.txns = some (x, xs) := by
    rw [hx]
    exact takeFirst_head (by simp [hl])
  have hwake : dirWake l 64 (waitFresh l (dirFinish x data (withTxns xs s))) = dirFinish x data (withTxns xs s) := by
    rw [waitFresh_idle (by rw [hfin]; exact hidle), dirWake_idle (by rw [hfin]; exact hidle)]
  unfold dirTake
  simp only [hline, htake]
  rcases ha with ⟨tw, rfl, rfl⟩ | ⟨b, tw, rfl, rfl⟩
  · simp only [hw, hleft, if_true]
    exact hwake
  · simp only [hw, hleft, if_true]
    exact hwake

/-- An answer that is not the last is only taken off. -/
theorem dirTake_more {x : DirTxn} {xs : List DirTxn} {o tw : Nat} (hx : s.dir.txns = x :: xs) (hl : x.line = l)
    (hw : ∃ d ∈ x.await, d ≠ o) : dirTake (.ack l o tw) s = withTxns
      (s.dir.txns.map fun u => if u.line = l then { u with await := x.await.filter (· != o) } else u) s := by
  have htake : takeFirst (fun t : DirTxn => t.line == l) s.dir.txns = some (x, xs) := by
    rw [hx]
    exact takeFirst_head (by simp [hl])
  have hleft : (x.await.filter (· != o)).isEmpty = false := by
    obtain ⟨d, hd, hne⟩ := hw
    rw [List.isEmpty_eq_false_iff_exists_mem]
    exact ⟨d, List.mem_filter.mpr ⟨hd, by simpa using hne⟩⟩
  unfold dirTake
  simp only [ansLine, htake, hleft, Bool.false_eq_true, if_false]
  rfl

/-- A step that changes at most cores, the directory and DRAM. -/
structure MemStep (s t : State) : Prop where
  rest : ∀ k d m, { t with kc := k, dir := d, dram := m } = { s with kc := k, dir := d, dram := m }

theorem MemStep.trans (h : MemStep s t) (k : MemStep t u) : MemStep s u :=
  ⟨fun a d m => (k.rest a d m).trans (h.rest a d m)⟩

theorem MemStep.modDir (f : Dir → Dir) (s : State) : MemStep s (modDir f s) := ⟨fun _ _ _ => rfl⟩

theorem MemStep.store (l : Nat) (b : List Byte) (s : State) : MemStep s (dramStore l b s) := ⟨fun _ _ _ => rfl⟩

theorem MemStep.setDir (l : Nat) (d : Option DirState) (s : State) : MemStep s (setDir l d s) := ⟨fun _ _ _ => rfl⟩

theorem CoreOnly.memStep (h : CoreOnly c s u) : MemStep s u where
  rest k d m := by
    have hm := congrArg (fun v : State => { v with dram := m }) (h.rest k d)
    exact hm

/-- A line stored and its entry set, once the answer and the transaction are off their lists. -/
theorem stored_step (xs : List DirTxn) (r : List DirAns) (d : Option DirState) (b : List Byte) (s : State) :
    MemStep s (setDir l d (dramStore l b (withTxns xs (withAns r s)))) :=
  (((MemStep.modDir _ s).trans (.modDir _ _)).trans (.store l b _)).trans (.setDir l d _)

theorem dirFinish_write {b : List Byte} {w : List Nat} {j : Option JobRef} {ts : Nat} (d : Option (Option (List Byte))) :
    dirFinish ⟨.write l b, l, w, j, ts⟩ d s = setDir l none (dramStore l b s) := by
  unfold dirFinish
  rfl

theorem setDir_dram (l : Nat) (d : Option DirState) (s : State) : (setDir l d s).dram = s.dram := rfl

theorem store_txns (l : Nat) (d : Option DirState) (b : List Byte) (s : State) :
    (setDir l d (dramStore l b s)).dir.txns = s.dir.txns := rfl

theorem store_toDir (l : Nat) (d : Option DirState) (b : List Byte) (s : State) :
    (setDir l d (dramStore l b s)).dir.toDir = s.dir.toDir := rfl

/-- A line stored, its entry set and the line filled into a cache. -/
theorem storeFill_spec {b : List Byte} {d : DirState} (hc : c < 16) (hb : b.length = 64)
    (h : ∀ x ∈ (coreOf s c).dc.lines, x.line ≠ l) :
    let t := dcFill c l b false (setDir l (some d) (dramStore l b s))
    dramLine t l = b ∧ dirOf t l = some d ∧ t.dir.txns = s.dir.txns ∧ t.dir.toDir = s.dir.toDir ∧
      (coreOf t c).dc.lines = ⟨l, false, b, []⟩ :: (coreOf s c).dc.lines ∧
      (∀ a, a < l ∨ l + 64 ≤ a → smGet byteZero t.dram.mem a = smGet byteZero s.dram.mem a) ∧
      ∀ e, e ≠ c → coreOf t e = coreOf s e := by
  have hlines := lines_dcFill (s := setDir l (some d) (dramStore l b s)) hc h b false
  have honly := dcFill_only c l b false (setDir l (some d) (dramStore l b s))
  have hdir := honly.dir
  have hdram := honly.dram.trans (setDir_dram l (some d) (dramStore l b s))
  have htxns := (congrArg Dir.txns hdir).trans (store_txns l (some d) b s)
  have hto := (congrArg Dir.toDir hdir).trans (store_toDir l (some d) b s)
  have hentry := (dirOf_congr (congrArg Dir.entries hdir) l).trans (dirOf_setDir_self l _ _)
  have hmem : dramLine (dcFill c l b false (setDir l (some d) (dramStore l b s))) l = b := by
    rw [dramLine, hdram]
    exact dramLine_store hb l s
  refine ⟨hmem, hentry, htxns, hto, hlines, fun a ha => ?_, honly.others⟩
  rw [hdram]
  exact mem_store_ne hb ha s

/-- What the owner's data leave at the end of a GetS. -/
theorem getSEnd_spec {b : List Byte} {xs : List DirTxn} {r : List DirAns} {d : DirState} (hc : c < 16) (hb : b.length = 64)
    (h : ∀ x ∈ (coreOf s c).dc.lines, x.line ≠ l) :
    let t := dcFill c l b false (setDir l (some d) (dramStore l b (withTxns xs (withAns r s))))
    dramLine t l = b ∧ dirOf t l = some d ∧ t.dir.txns = xs ∧ t.dir.toDir = r ∧
      (coreOf t c).dc.lines = ⟨l, false, b, []⟩ :: (coreOf s c).dc.lines ∧
      (∀ a, a < l ∨ l + 64 ≤ a → smGet byteZero t.dram.mem a = smGet byteZero s.dram.mem a) ∧
      (∀ d, d ≠ c → coreOf t d = coreOf s d) ∧ { t with kc := s.kc, dir := s.dir, dram := s.dram } = s := by
  have hspec := storeFill_spec (s := withTxns xs (withAns r s)) (d := d) hc hb h
  have hstep := (stored_step (l := l) xs r (some d) b s).trans
    (dcFill_only c l b false (setDir l (some d) (dramStore l b (withTxns xs (withAns r s))))).memStep
  intro t
  obtain ⟨hmem, hentry, htxns, hto, hlines, hram, hother⟩ := hspec
  exact ⟨hmem, hentry, htxns, hto, hlines, hram, hother, hstep.rest s.kc s.dir s.dram⟩

/-- The owner's data end a GetS: the line in DRAM, both as sharers, the bytes at the requester. -/
theorem dirFinish_getS {b : List Byte} {w : List Nat} {j : Option JobRef} {ts o : Nat} (ho : dirOf s l = some (.m o)) :
    dirFinish ⟨.getS c l, l, w, j, ts⟩ (some (some b)) s =
      dcFill c l b false (setDir l (some (.s ((1#16 <<< c) ||| (1#16 <<< o)))) (dramStore l b s)) := by
  have hm : ([c, o].foldl (fun m i => m ||| (1#16 <<< i)) (0 : BitVec 16)) = (1#16 <<< c) ||| (1#16 <<< o) := by simp
  unfold dirFinish
  simp only [ho, hm]

end

end Sys2Proof.Machine

namespace Sys2Proof.Proofs
open Sys2Proof.Machine

/-- Settles O42: the front message of a cache is taken (`MsgFront.taken`) and answered (`CoreOnly.answered`); the oldest answer
ends its transaction or is taken off (`dirTake_last`, `dirTake_more`); a lost message expires it (`dirExpire_core`). -/
theorem cachesAnswerTheDirectory : Obligations.CachesAnswerTheDirectory := by
  unfold Obligations.CachesAnswerTheDirectory
  refine ⟨?clean, ?fwdM, ?inv, ?putAck, ?data, ?write, ?more, ?lost, ?late, ?timeout⟩
  case clean =>
    intro s c l m rest x hr hf hx hu hw hm P
    have hfront : MsgFront s c.val m rest := ⟨hr, hf, hw⟩
    have hP : P (cacheData c.val l (dcClean c.val l) (withMsgs c.val rest s)) := snoopClean_spec c.isLt hx hu
    constructor
    · rintro ⟨q, rfl⟩
      refine ⟨_, congrArg Host.Outcome.next (hfront.taken rfl), ?_⟩
      rw [hm]
      exact hP
    · rintro rfl
      refine ⟨_, congrArg Host.Outcome.next (hfront.taken rfl), ?_⟩
      rw [hm]
      exact hP
  case fwdM =>
    intro s c l q rest x hr hf hx hu hw hm
    have hfront : MsgFront s c.val (.fwdM l q) rest := ⟨hr, hf, hw⟩
    have heq : cacheMsg c.val (.fwdM l q) (withMsgs c.val rest s) =
        dirAnswer (.data l c.val (some x.bytes) (replica s c.val)) (dcDrop c.val l (withMsgs c.val rest s)) :=
      cacheData_clean (s := withMsgs c.val rest s) hx hu _
    obtain ⟨h1, h2, h3, h4⟩ := (dcDrop_only c.val l (withMsgs c.val rest s)).answered c.isLt (.data l c.val (some x.bytes) (replica s c.val))
    have hlines := lines_dcDrop (l := l) c.isLt (withMsgs c.val rest s)
    refine ⟨_, congrArg Host.Outcome.next (hfront.taken rfl), ?_⟩
    rw [hm, if_neg Bool.false_ne_true, heq]
    have hself : (coreOf (dirAnswer (.data l c.val (some x.bytes) (replica s c.val)) (dcDrop c.val l (withMsgs c.val rest s))) c.val).dc.lines =
        (coreOf s c.val).dc.lines.filter (·.line != l) := hlines
    refine ⟨h1, h2, ?_, ?_, h3, h4⟩ <;> rw [hself]
    · exact fun y hy => by simpa using (List.mem_filter.mp hy).2
    · exact fun y hy => by simp [List.mem_filter, hy]
  case inv =>
    intro s c l rest hr hf hw hm
    have hfront : MsgFront s c.val (.inv l) rest := ⟨hr, hf, hw⟩
    obtain ⟨h1, h2, h3, h4⟩ := (dcDrop_only c.val l (withMsgs c.val rest s)).answered c.isLt (.ack l c.val (replica s c.val))
    have hlines := lines_dcDrop (l := l) c.isLt (withMsgs c.val rest s)
    refine ⟨_, congrArg Host.Outcome.next (hfront.taken rfl), ?_⟩
    rw [hm, if_neg Bool.false_ne_true]
    refine ⟨h1, h2, fun y hy => ?_, rsv_dcDrop c.isLt (withMsgs c.val rest s), h3, h4⟩
    have hy : y ∈ (coreOf (dcDrop c.val l (withMsgs c.val rest s)) c.val).dc.lines := hy
    rw [hlines] at hy
    simpa using (List.mem_filter.mp hy).2
  case putAck =>
    intro s c l rest hr hf
    have hfront : MsgFront s c.val (.putAck l) rest := ⟨hr, hf, rfl⟩
    refine ⟨_, congrArg Host.Outcome.next (hfront.taken rfl), ?_⟩
    have hself := coreOf_modCore_self (s := withMsgs c.val rest s)
      (fun x => { x with dc := { x.dc with evict := x.dc.evict.filter (·.line != l) } }) c.isLt
    have honly := CoreOnly.modCore c.val (fun x => { x with dc := { x.dc with evict := x.dc.evict.filter (·.line != l) } })
      (withMsgs c.val rest s)
    exact ⟨congrArg (fun x : Core => x.dc) hself, toCache_withMsgs c.isLt rest s, rfl, honly.others, honly.rest s.kc s.dir⟩
  case data =>
    intro s l c o b j ts tw rest xs hr ha ht hx hw ho hlen hc hlines
    have hlate : dirLate s tw = false := dirLate_false ht
    have hget := dirFinish_getS (s := withTxns xs (withAns rest s)) (c := c) (b := b) (w := [o]) (j := j) (ts := ts) ho
    have hfin := dirTake_last (s := withAns rest s) (a := .data l o (some b) tw) (data := some (some b)) (.inr ⟨_, tw, rfl, rfl⟩)
      hx rfl rfl hw (by rw [hget]; rfl)
    rw [hget] at hfin
    rw [completes_iff (exec_dirAck hr ha), show ansTs (.data l o (some b) tw) = tw from rfl, hlate, if_neg Bool.false_ne_true, hfin]
    exact getSEnd_spec hc hlen hlines
  case write =>
    intro s l c b j ts tw rest xs hr ha ht hx hw hlen
    have hlate : dirLate s tw = false := dirLate_false ht
    have hfin := dirTake_last (s := withAns rest s) (a := .ack l c tw) (data := none) (.inl ⟨tw, rfl, rfl⟩) hx rfl rfl hw
      (by rw [dirFinish_write]; rfl)
    rw [dirFinish_write] at hfin
    rw [completes_iff (exec_dirAck hr ha), show ansTs (.ack l c tw) = tw from rfl, hlate, if_neg Bool.false_ne_true, hfin]
    exact ⟨dramLine_store hlen _ _, dirOf_setDir_self l none _, rfl, rfl,
      (stored_step xs rest none b s).rest s.kc s.dir s.dram⟩
  case more =>
    intro s l c q w j ts tw rest hr ha ht hx hw
    have hlate : dirLate s tw = false := dirLate_false ht
    have hmore := dirTake_more (s := withAns rest s) (l := l) (o := c) (tw := tw) hx rfl hw
    rw [completes_iff (exec_dirAck hr ha), show ansTs (.ack l c tw) = tw from rfl, hlate, if_neg Bool.false_ne_true, hmore,
      show (withAns rest s).dir.txns = _ from hx]
    simp only [List.map_cons, List.map_nil, if_true]
    rfl
  case lost =>
    intro s c m rest hr hf hw hm u
    have hfront : MsgFront s c.val m rest := ⟨hr, hf, hw⟩
    have htake : ∀ p : DirMsg → Bool, p m = true → cacheTake c.val p s = u := fun p hp => by
      rw [hfront.taken hp, hm, if_pos rfl]
      rfl
    cases m with
    | fwdS _ _ => exact ⟨_, congrArg Host.Outcome.next (htake _ rfl), rfl⟩
    | fwdM _ _ => exact ⟨_, congrArg Host.Outcome.next (htake _ rfl), rfl⟩
    | recallKeep _ => exact ⟨_, congrArg Host.Outcome.next (htake _ rfl), rfl⟩
    | inv _ => exact ⟨_, congrArg Host.Outcome.next (htake _ rfl), rfl⟩
    | putAck _ => exact Bool.false_ne_true hm
  case late =>
    intro s a rest hr ha ht
    rw [completes_iff (exec_dirAck hr ha), dirLate_true ht, if_pos rfl]
    rfl
  case timeout =>
    intro s a c j w ts xs hr hx hc hw ht
    have hfind : s.dir.txns.find? (·.line == lineOf a) = some ⟨.getS c (lineOf a), lineOf a, w, j, ts⟩ := by
      rw [hx]
      exact List.find?_cons_of_pos (beq_self_eq_true _)
    have hexp := dirExpire_core (m := lineOf a) (l := lineOf a) (q := .getS c (lineOf a)) (j := j) hc (.inl rfl) hw
    obtain ⟨hraise, hdc, ho, hdir, hdram⟩ := missFault_timeout hc j (expireClean (lineOf a) s)
    have he : exec (.dirTimeout a) s = .next (missFault c j .dirTimeout (expireClean (lineOf a) s)) := by
      change execDirTimeout a s = _
      unfold execDirTimeout
      simp only [hfind, hr, Bool.not_true, Bool.false_or, decide_eq_true_eq, if_neg (not_le.mpr ht), hexp]
    obtain ⟨hpois, hkeep⟩ := poisoned_expireClean (lineOf a) s
    rw [completes_iff he]
    refine ⟨by rw [hdir]; exact hpois, fun k hk => by rw [hdir]; exact hkeep k hk, ?_, hraise, by rw [hdc], by rw [hdc]; rfl, ho,
      hdram⟩
    rw [hdir]
    change s.dir.txns.filter (·.line != lineOf a) = _
    rw [hx, List.filter_cons_of_neg (by simp)]

end Sys2Proof.Proofs

/-! ## Issue, forward channels and their messages -/

namespace Sys2Proof.Machine

section
variable {s t u : State} {c e : Nat}

/-! ### What semaphore operations and faults of a core leave (R157, R302) -/

/-- `t` differs from `s` in core `c`'s semaphores, the chip-wide ones, registers, the fault path and stamps. -/
structure SetStep (c : Nat) (s t : State) : Prop where
  rest : ∃ k m g a l, t = { s with kc := k, sems := m, regs := g, saf := a, tb := { s.tb with last := l } }
  others : ∀ e, e ≠ c → coreOf t e = coreOf s e
  core : ∃ z, coreOf t c = { coreOf s c with run := { (coreOf s c).run with sems := z } }

theorem SetStep.of_eq {m : Vector Nat 64} {g : SMap Word} {a : Safety} {l : Vector Nat 24}
    (h : t = { s with sems := m, regs := g, saf := a, tb := { s.tb with last := l } }) : SetStep c s t := by
  subst h
  exact ⟨⟨s.kc, m, g, a, l, rfl⟩, fun _ _ => rfl, (coreOf s c).run.sems, rfl⟩

theorem SetStep.refl (s : State) : SetStep c s s := .of_eq rfl

theorem SetStep.trans (h : SetStep c s t) (k : SetStep c t u) : SetStep c s u := by
  obtain ⟨⟨k1, m1, g1, a1, l1, h1⟩, ho, z, hz⟩ := h
  obtain ⟨⟨k2, m2, g2, a2, l2, h2⟩, ho', z', hz'⟩ := k
  exact ⟨⟨k2, m2, g2, a2, l2, by rw [h2, h1]⟩, fun e he => (ho' e he).trans (ho e he), z', by rw [hz', hz]⟩

theorem SetStep.stamp (i ts : Nat) (s : State) : SetStep c s (keepStamp i ts s) := .of_eq rfl

theorem SetStep.regPut (k : Nat) (v : Word) (s : State) : SetStep c s (regPut k v s) := .of_eq rfl

theorem SetStep.semPut (hc : c < 16) (q v : Nat) (s : State) : SetStep c s (semPut c q v s) := by
  unfold Machine.semPut
  split
  · exact ⟨⟨_, s.sems, s.regs, s.saf, s.tb.last, rfl⟩, fun e he => coreOf_modRun_ne he _ s, _, coreOf_modRun_self hc _ s⟩
  · exact .of_eq rfl

theorem SetStep.raise (f : FaultRec) (s : State) : SetStep c s (raise f s) := by
  obtain ⟨w, q, l, n, x, h⟩ := raise_frame f s
  exact .of_eq h

theorem SetStep.fault (d eng : Nat) (commit : Option Nat) (code : FaultCode) (s : State) :
    SetStep c s (coreFault d eng commit code s) := by
  obtain ⟨g, x, -, -, h⟩ := coreFault_spec d eng commit code s
  rw [h]
  exact .trans (.of_eq rfl) (.raise g { s with regs := x })

theorem SetStep.foldl {β : Type} {f : State → β → State} (h : ∀ u b, SetStep c u (f u b)) (l : List β) (s : State) :
    SetStep c s (l.foldl f s) := by
  induction l generalizing s with
  | nil => exact .refl s
  | cons b l ih => exact (h s b).trans (ih _)

theorem applySet_step (hc : c < 16) (eng commit : Nat) (d : Nat × Nat) (s : State) :
    SetStep c s (match semFault s c (ctxOf (coreOf s c)).part d.1 d.2 with
      | some f => coreFault c eng (some commit) f s
      | none => semPut c d.1 (semGet s c d.1 + d.2) s) := by
  split
  · exact .fault c eng _ _ s
  · exact .semPut hc _ _ s

theorem applySets_step (hc : c < 16) (eng commit : Nat) (ds : List (Nat × Nat)) (s : State) :
    SetStep c s (applySets c eng commit ds s) :=
  .foldl (fun u d => applySet_step hc eng commit d u) ds s

theorem takeWaits_step (hc : c < 16) (w : List Word) (s : State) : SetStep c s (takeWaits c w s) :=
  .foldl (fun u _ => .semPut hc _ _ u) (waitsOf w) s

theorem sbPeak_step (s : State) : SetStep c s (sbPeak c s) := by
  unfold sbPeak
  dsimp only
  split
  · exact .regPut _ _ s
  · exact .refl s

/-! ### The issue cycle (R157) -/

/-- What the issue cycle of core `c` may change, apart from its Runnels, its flights and its scoreboard. -/
structure IssueStep (c : Nat) (r : CtxRun) (s t : State) : Prop where
  rest : ∃ k m g a l q, t = { s with kc := k, sems := m, regs := g, saf := a, tb := { s.tb with last := l }, fab := { s.fab with semq := q } }
  others : ∀ e, e ≠ c → coreOf t e = coreOf s e
  core : ∃ z p n b, coreOf t c = { coreOf s c with pre := p, rr := n, run := { r with sems := z, sb := b } }

theorem IssueStep.then (h : IssueStep c r s t) (k : SetStep c t u) : IssueStep c r s u := by
  obtain ⟨⟨k1, m1, g1, a1, l1, q, h1⟩, ho, z, p, n, b, hz⟩ := h
  obtain ⟨⟨k2, m2, g2, a2, l2, h2⟩, ho', z', hz'⟩ := k
  exact ⟨⟨k2, m2, g2, a2, l2, q, by rw [h2, h1]⟩, fun e he => (ho' e he).trans (ho e he), z', p, n, b, by rw [hz', hz]⟩

theorem SetStep.issue (h : SetStep c s t) : IssueStep c (coreOf s c).run s t := by
  obtain ⟨⟨k, m, g, a, l, hr⟩, ho, z, hz⟩ := h
  exact ⟨⟨k, m, g, a, l, s.fab.semq, hr⟩, ho, z, _, _, _, hz⟩

/-- The core changes its place in the round robin and its preempting context. -/
theorem IssueStep.turn (hc : c < 16) (h : IssueStep c r s t) {f : Core → Core}
    (hf : ∀ x, ∃ p n, f x = { x with pre := p, rr := n }) : IssueStep c r s (modCore c f t) := by
  obtain ⟨⟨k, m, g, a, l, q, h1⟩, ho, z, p, n, b, hz⟩ := h
  obtain ⟨p', n', hf⟩ := hf (coreOf t c)
  refine ⟨⟨_, m, g, a, l, q, congrArg (setCore c (f (coreOf t c))) h1⟩, fun e he => (coreOf_modCore_ne f he).trans (ho e he), z, p', n', b, ?_⟩
  rw [coreOf_modCore_self f hc, hf, hz]

/-- The descriptor leaves its Runnel and stands in flight, with its scoreboard entries. -/
def issuedRun (s : State) (c eng : Nat) (d : QDesc) : CtxRun :=
  { popHead eng (coreOf s c).run with
    flight := (coreOf s c).run.flight ++ [{ eng := eng, d := d, issueTs := stampOf s c 0 }] }

theorem IssueStep.placed (hc : c < 16) (h : IssueStep c (coreOf s c).run s t) (eng : Nat) (d : QDesc) (es : List SbEntry) :
    IssueStep c (issuedRun s c eng d) s (modRun c (fun r => { popHead eng r with
      flight := r.flight ++ [{ eng := eng, d := d, issueTs := stampOf s c 0 }], sb := r.sb ++ es }) t) := by
  obtain ⟨⟨k, m, g, a, l, q, h1⟩, ho, z, p, n, b, hz⟩ := h
  refine ⟨⟨_, m, g, a, l, q, congrArg (setCore c _) h1⟩, fun e he => (coreOf_modRun_ne he _ t).trans (ho e he), z, p, n, b ++ es, ?_⟩
  rw [coreOf_modRun_self hc, hz]
  rfl

theorem preMax_step (hc : c < 16) (p : Nat) (h : IssueStep c r s t) : IssueStep c r s (preMax c p t) := by
  unfold preMax
  split
  · exact h
  · split
    · exact h
    · have hturn : IssueStep c r s (modCore c (fun x => { x with pre := none }) t) := h.turn hc fun x => ⟨none, x.rr, rfl⟩
      dsimp only
      split
      · exact hturn.then (.regPut _ _ _)
      · exact hturn

theorem IssueStep.arrive (h : IssueStep c r s t) : IssueStep c r s (semArrive c t) := by
  obtain ⟨⟨k, m, g, a, l, q, h1⟩, ho, hz⟩ := h
  exact ⟨⟨k, m, g, a, l, _, by unfold semArrive; rw [h1]⟩, ho, hz⟩

/-- The state in which the work of a descriptor begins. -/
def issuedState (s : State) (c eng : Nat) (d : QDesc) : State := semArrive c (issueCycle c eng d s).2

theorem issued_step (hc : c < 16) (eng : Nat) (d : QDesc) (s : State) :
    IssueStep c (issuedRun s c eng d) s (issuedState s c eng d) := by
  have hwaits := (SetStep.stamp (c := c) c (stampOf s c 0) s).trans (takeWaits_step hc d.w _)
  have hplaced := hwaits.issue.placed hc eng d (sbEntries (ctxOf (coreOf s c)) eng d.commit d.w)
  have hturn := preMax_step hc (ctxOf (coreOf s c)).part (hplaced.turn hc fun x => ⟨x.pre, eng, rfl⟩)
  exact ((hturn.then (sbPeak_step _)).then (applySets_step hc eng d.commit (setsOf d.w false) _)).arrive

/-- The descriptor as it is issued. -/
def issuedFlight (s : State) (c eng : Nat) (d : QDesc) : Flight := { eng := eng, d := d, issueTs := stampOf s c 0 }

/-- What the issue cycle leaves as it was. -/
theorem IssueStep.parts (h : IssueStep c r s t) : t.parts = s.parts := by
  obtain ⟨⟨k, m, g, a, l, q, rfl⟩, -, -⟩ := h
  rfl

theorem IssueStep.recOf (h : IssueStep c r s t) (p : Nat) : recOf t p = recOf s p := by
  unfold Machine.recOf partOf
  rw [h.parts]

theorem IssueStep.replica (h : IssueStep c r s t) (i : Nat) : replica t i = replica s i := by
  obtain ⟨⟨k, m, g, a, l, q, rfl⟩, -, -⟩ := h
  rfl

theorem IssueStep.fab (h : IssueStep c r s t) : ∃ q, t.fab = { s.fab with semq := q } := by
  obtain ⟨⟨k, m, g, a, l, q, rfl⟩, -, -⟩ := h
  exact ⟨q, rfl⟩

/-- A field of a core that issue does not touch. -/
theorem IssueStep.field {α : Type} (h : IssueStep c r s t) (p : Core → α) (hp : ∀ x o n y, p { x with pre := o, rr := n, run := y } = p x)
    (e : Nat) : p (coreOf t e) = p (coreOf s e) := by
  by_cases he : e = c
  · subst he
    obtain ⟨z, o, n, b, hz⟩ := h.core
    rw [hz, hp]
  · rw [h.others e he]

/-- A field of what runs on the core that issue does not touch. -/
theorem IssueStep.run {α : Type} (h : IssueStep c r s t) (p : CtxRun → α) (hp : ∀ x z b, p { x with sems := z, sb := b } = p x) :
    p (coreOf t c).run = p r := by
  obtain ⟨z, o, n, b, hz⟩ := h.core
  rw [hz, hp]

theorem IssueStep.ctxOf (h : IssueStep c r s t) (e : Nat) : ctxOf (coreOf t e) = ctxOf (coreOf s e) :=
  h.field Machine.ctxOf (fun _ _ _ _ => rfl) e

/-- A head that may issue stands first in its Runnel, its core issues, and the unit behind its engine is free (R157). -/
theorem ready_head {eng opc : Nat} {d : QDesc} (h : headState s c eng opc = .ready d) :
    (∃ ds, vget (coreOf s c).run.runnels eng [] = d :: ds) ∧ wbits d.w 0 0 8 = opc ∧ unitFree s c d.w = true := by
  unfold headState at h
  dsimp only at h
  split at h
  · cases h
  next d' ds hd =>
    split at h
    · cases h
    next hop =>
      split at h
      · cases h
      · split at h
        · cases h
        · split at h
          · cases h
          · split at h
            next hmay =>
              cases h
              refine ⟨⟨ds, hd⟩, ?_, ?_⟩
              · by_contra hne
                exact hop (.inl hne)
              · have hm := (Bool.and_eq_true_iff.mp hmay).1
                unfold mayIssue readyHead at hm
                simp only [hd] at hm
                split at hm
                next y hy =>
                  split at hy
                  next hall =>
                    simp only [Bool.and_eq_true] at hall
                    obtain ⟨⟨⟨⟨_, hunit⟩, _⟩, _⟩, _⟩ := hall
                    exact hunit
                  next => cases hy
                next => cases hm
            next => cases h

theorem headCheck_good {eng : Nat} (h : ∀ d ∈ (vget (coreOf s c).run.runnels eng []).head?, qBad d = false) : headCheck c eng s = s := by
  unfold headCheck
  split
  next d ds hd =>
    have hb : qBad d = false := h d (by rw [hd]; rfl)
    rw [hb]
    rfl
  next => rfl

theorem commitResume_none (h : (coreOf s c).run.cc.pendCommit = none) : commitResume c s = s := by
  unfold commitResume
  rw [h]

theorem issuedState_head {eng opc : Nat} {d : QDesc} (hc : c < 16) (he : eng < 5) (h : Issues s c eng opc d) :
    headCheck c eng (issuedState s c eng d) = issuedState s c eng d := by
  refine headCheck_good fun x hx => h.2.2 x ?_
  have hrun := (issued_step hc eng d s).run (fun r => r.runnels) (fun _ _ _ => rfl)
  have hself : vget (issuedRun s c eng d).runnels eng [] = (vget (coreOf s c).run.runnels eng []).drop 1 := vget_vset_self _ _ _ _ he
  rw [hrun, hself] at hx
  exact hx

theorem issuedState_commit {eng opc : Nat} {d : QDesc} (hc : c < 16) (h : Issues s c eng opc d) :
    (coreOf (issuedState s c eng d) c).run.cc.pendCommit = none :=
  ((issued_step hc eng d s).run (fun r => r.cc.pendCommit) (fun _ _ _ => rfl)).trans h.2.1

theorem issuedState_flight (hc : c < 16) (eng : Nat) (d : QDesc) (s : State) :
    issuedFlight s c eng d ∈ (coreOf (issuedState s c eng d) c).run.flight := by
  rw [(issued_step hc eng d s).run (fun r => r.flight) (fun _ _ _ => rfl)]
  exact List.mem_append_right _ (List.mem_singleton.mpr rfl)

theorem issue_eq {eng opc : Nat} {d : QDesc} (hc : c < 16) (he : eng < 5) (h : Issues s c eng opc d)
    (work : Acc → Flight → EngM Flight) :
    issue c eng opc work s = commitResume c (runWork c (issuedFlight s c eng d) work (issuedState s c eng d)) := by
  have hhead := issuedState_head hc he h
  unfold issue
  rw [h.1]
  exact congrArg (fun u => commitResume c (runWork c (issuedFlight s c eng d) work u)) hhead

/-- A descriptor issues and its work is done, or leaves accesses to wait for. -/
theorem issue_ok {eng opc : Nat} {d : QDesc} (hc : c < 16) (he : eng < 5) (h : Issues s c eng opc d)
    {work : Acc → Flight → EngM Flight} {g : Flight}
    (hw : engRun (work ⟨c, eng, d.w⟩ (issuedFlight s c eng d)) (issuedState s c eng d) = (.ok g, t))
    (ht : (coreOf t c).run.cc = (coreOf (issuedState s c eng d) c).run.cc) :
    issue c eng opc work s = modRun c (putFlight g) t := by
  have hrun : runWork c (issuedFlight s c eng d) work (issuedState s c eng d) = modRun c (putFlight g) t := by
    unfold runWork
    dsimp only [issuedFlight] at hw ⊢
    rw [hw]
  rw [issue_eq hc he h, hrun]
  refine commitResume_none ?_
  rw [coreOf_modRun_self hc]
  exact (congrArg CcCtx.pendCommit ht).trans (issuedState_commit hc h)

/-- A descriptor issues and its work meets a fault. -/
theorem issue_fault {eng opc : Nat} {d : QDesc} {code : FaultCode} {idx : Nat} (hc : c < 16) (he : eng < 5) (h : Issues s c eng opc d)
    {work : Acc → Flight → EngM Flight}
    (hw : engRun (work ⟨c, eng, d.w⟩ (issuedFlight s c eng d)) (issuedState s c eng d) = (.error (.fault code idx), t))
    (ht : (coreOf (failFlight c (issuedFlight s c eng d) code idx t) c).run.cc = (coreOf (issuedState s c eng d) c).run.cc) :
    issue c eng opc work s = failFlight c (issuedFlight s c eng d) code idx t := by
  have hrun : runWork c (issuedFlight s c eng d) work (issuedState s c eng d) = failFlight c (issuedFlight s c eng d) code idx t := by
    unfold runWork
    dsimp only [issuedFlight] at hw ⊢
    rw [hw]
  rw [issue_eq hc he h, hrun]
  exact commitResume_none ((congrArg CcCtx.pendCommit ht).trans (issuedState_commit hc h))

/-! ### The run of a context -/

section
variable {n : Nat} {f : CtxRun → CtxRun}

theorem modCtxRun_rest (c n : Nat) (f : CtxRun → CtxRun) (s : State) : ∃ k, modCtxRun c n f s = { s with kc := k } := by
  unfold modCtxRun
  dsimp only
  split
  · exact ⟨_, rfl⟩
  · exact ⟨_, rfl⟩

theorem coreOf_modCtxRun_ne (h : e ≠ c) : coreOf (modCtxRun c n f s) e = coreOf s e := by
  unfold modCtxRun
  dsimp only
  split
  · exact coreOf_modRun_ne h f s
  · exact coreOf_modCore_ne _ h

/-- A field of a core outside its contexts and what runs on it. -/
theorem modCtxRun_field {α : Type} (hc : c < 16) (p : Core → α) (hp : ∀ x y z, p { x with ctx := y, run := z } = p x) (e : Nat) :
    p (coreOf (modCtxRun c n f s) e) = p (coreOf s e) := by
  by_cases he : e = c
  · subst he
    unfold modCtxRun
    dsimp only
    split
    · rw [coreOf_modRun_self hc]
      exact hp _ (coreOf s e).ctx _
    · unfold setCtx
      rw [coreOf_modCore_self _ hc]
      exact hp _ _ (coreOf s e).run
  · rw [coreOf_modCtxRun_ne he]

/-- What the change of a context's run keeps of what runs on a core. -/
theorem modCtxRun_run {α : Type} (hc : c < 16) (p : CtxRun → α) (hp : ∀ r, p (f r) = p r) (e : Nat) :
    p (coreOf (modCtxRun c n f s) e).run = p (coreOf s e).run := by
  by_cases he : e = c
  · subst he
    unfold modCtxRun
    dsimp only
    split
    · rw [coreOf_modRun_self hc]
      exact hp _
    · unfold setCtx
      rw [coreOf_modCore_self _ hc]
  · rw [coreOf_modCtxRun_ne he]

/-- A context has a run: it is the running one, or its run is saved. -/
def HasRun (s : State) (c n : Nat) : Prop := (coreOf s c).active = some n ∨ (tctx (coreOf s c) n).saved.isSome = true

theorem hasRun_of {α : Type} (p : CtxRun → α) (h : p (ctxRunOf s c n) ≠ p {}) : HasRun s c n := by
  by_cases ha : (coreOf s c).active = some n
  · exact .inl ha
  · refine .inr ?_
    cases hs : (tctx (coreOf s c) n).saved with
    | some r => rfl
    | none =>
      refine absurd ?_ h
      unfold ctxRunOf
      dsimp only
      rw [if_neg ha, hs]
      rfl

theorem ctxRunOf_modCtxRun (hc : c < 16) (hn : n < 8) (h : HasRun s c n) : ctxRunOf (modCtxRun c n f s) c n = f (ctxRunOf s c n) := by
  unfold ctxRunOf modCtxRun
  dsimp only
  by_cases ha : (coreOf s c).active = some n
  · rw [if_pos ha, if_pos ha, coreOf_modRun_self hc]
    exact if_pos ha
  · rw [if_neg ha, if_neg ha]
    unfold setCtx
    rw [coreOf_modCore_self _ hc]
    dsimp only
    rw [if_neg ha]
    unfold tctx
    dsimp only
    rw [vget_vset_self _ _ _ _ hn]
    obtain ⟨r, hr⟩ := Option.isSome_iff_exists.mp (h.resolve_left ha)
    unfold tctx at hr
    rw [hr]
    rfl

/-- What a change of what runs on a core keeps of the runs of the contexts. -/
theorem ctxRunOf_modRun {α : Type} (p : CtxRun → α) (hc : c < 16) (hp : ∀ r, p (f r) = p r) (e n : Nat) :
    p (ctxRunOf (modRun c f s) e n) = p (ctxRunOf s e n) := by
  unfold ctxRunOf
  dsimp only
  by_cases he : e = c
  · subst he
    rw [coreOf_modRun_self hc]
    dsimp only
    split
    · exact hp _
    · rfl
  · rw [coreOf_modRun_ne he]

theorem ctxRunOf_congr (h : coreOf t c = coreOf s c) (n : Nat) : ctxRunOf t c n = ctxRunOf s c n := by
  unfold ctxRunOf
  rw [h]

theorem IssueStep.ctxRun {α : Type} (h : IssueStep c r s t) (p : CtxRun → α) (hr : p r = p (coreOf s c).run)
    (hp : ∀ x z b, p { x with sems := z, sb := b } = p x) (e n : Nat) : p (ctxRunOf t e n) = p (ctxRunOf s e n) := by
  by_cases he : e = c
  · subst he
    have hrun := (h.run p hp).trans hr
    have hact := h.field (fun x => x.active) (fun _ _ _ _ => rfl) e
    have hctx := h.field (fun x => (tctx x n).saved) (fun _ _ _ _ => rfl) e
    unfold ctxRunOf
    dsimp only at hact hctx ⊢
    rw [hact, hctx]
    split
    · exact hrun
    · rfl
  · rw [ctxRunOf_congr (h.others e he)]

theorem ctxByTag_lt {p tg : Nat} (h : ctxByTag s c p tg = some n) : n < 8 := List.mem_range.mp (List.mem_of_find?_eq_some h)

theorem ctxByTag_congr (h : (coreOf t c).ctx = (coreOf s c).ctx) (p tg : Nat) : ctxByTag t c p tg = ctxByTag s c p tg := by
  unfold ctxByTag tctx
  rw [h]

end

/-! ### SETUP (R268) -/

theorem wbits_lt (w : List Word) (i lo len : Nat) : wbits w i lo len < 2 ^ len := Nat.mod_lt _ (Nat.two_pow_pos len)

/-- The ring as SETUP leaves it. -/
def setupRing (c ch q : Nat) (g : Ring) : Ring :=
  { g with full := List.replicate g.full.length false, wr := 0, rd := 0, feeder := some (c, ch, q) }

/-- What SETUP finds. -/
structure SetupSite (s : State) (c : Nat) (w : List Word) (n : Nat) (g : Ring) : Prop where
  region : (prBasin (recOf s (ctxOf (coreOf s c)).part) (wbits w 11 3 4)).1 < (prBasin (recOf s (ctxOf (coreOf s c)).part) (wbits w 11 3 4)).2
  ctx : ctxByTag s (wbits w 11 3 4) (ctxOf (coreOf s c)).part (ctxOf (coreOf s c)).taggen = some n
  ring : vget (ctxRunOf s (wbits w 11 3 4) n).rings (wbits w 11 7 4) none = some g
  peer : g.prod = 4
  inside : ringInRegion s (ctxOf (coreOf s c)).part (wbits w 11 3 4) ((tctx (coreOf s (wbits w 11 3 4)) n).basinBase * 64) g = true

/-- A ring set in a run. -/
def withRing (i : Nat) (g : Ring) (r : CtxRun) : CtxRun := { r with rings := vset r.rings i (some g) }

/-- A forward channel set in a run. -/
def withFwd (i : Nat) (w : FwdCh) (r : CtxRun) : CtxRun := { r with fwd := vset r.fwd i w }

/-- The setup count that a SETUP of the channel takes. -/
def setupNo (s : State) (c : Nat) (w : List Word) : Nat := ((vget (coreOf s c).run.fwd (wbits w 11 0 3) {}).setup + 1) % 16

/-- The channel as SETUP leaves it. -/
def setupChan (s : State) (c : Nat) (w : List Word) (g : Ring) : FwdCh :=
  ⟨true, wbits w 11 3 4, wbits w 11 7 4, setupNo s c w, g.full.length, g.full.length, g.slotl, 0⟩

/-- The channel and the ring bound. -/
def setupDone (c : Nat) (w : List Word) (n commit : Nat) (g : Ring) (s : State) : State :=
  modRun c (releaseReads commit) (modRun c (withFwd (wbits w 11 0 3) (setupChan s c w g))
    (modCtxRun (wbits w 11 3 4) n (withRing (wbits w 11 7 4) (setupRing c (wbits w 11 0 3) (setupNo s c w) g)) s))

theorem peSetup_bound {w : List Word} {n : Nat} {g : Ring} (h : SetupSite s c w n g) (f : Flight) :
    engRun (peSetup ⟨c, 4, w⟩ f) s = (.ok { f with done := true }, setupDone c w n f.d.commit g s) := by
  have hmap : g.full.map (fun _ => false) = List.replicate g.full.length false := List.map_const' ..
  have hpeer : ¬ g.prod ≠ 4 := fun k => k h.peer
  unfold peSetup
  rw [engRun_get_bind]
  simp only [if_neg (Nat.not_le.mpr h.region), h.ctx, h.ring, if_neg hpeer, h.inside, hmap, Bool.not_true, Bool.false_eq_true, if_false]
  rfl

theorem peSetup_denied {w : List Word} (h : (prBasin (recOf s (ctxOf (coreOf s c)).part) (wbits w 11 3 4)).2 ≤
    (prBasin (recOf s (ctxOf (coreOf s c)).part) (wbits w 11 3 4)).1) (f : Flight) :
    engRun (peSetup ⟨c, 4, w⟩ f) s = (.error (.fault .remoteDeny 0), s) := by
  unfold peSetup
  rw [engRun_get_bind]
  simp only [if_pos h]
  exact engRun_stopF_bind _ _ _

/-- SETUP finds after the issue cycle what stood before it. -/
theorem SetupSite.issued {w : List Word} {n : Nat} {g : Ring} (h : SetupSite s c w n g) (k : IssueStep c r s t)
    (hr : r.rings = (coreOf s c).run.rings) : SetupSite t c w n g := by
  have hctx : ∀ e, (coreOf t e).ctx = (coreOf s e).ctx := k.field (fun x => x.ctx) fun _ _ _ _ => rfl
  have hrings := k.ctxRun (fun r => r.rings) hr (fun _ _ _ => rfl) (wbits w 11 3 4) n
  have hbase : tctx (coreOf t (wbits w 11 3 4)) n = tctx (coreOf s (wbits w 11 3 4)) n := by
    unfold tctx
    rw [hctx]
  obtain ⟨hreg, htag, hring, hpeer, hin⟩ := h
  refine ⟨?_, ?_, ?_, hpeer, ?_⟩
  · rw [k.ctxOf, k.recOf]
    exact hreg
  · rw [k.ctxOf, ctxByTag_congr (hctx _)]
    exact htag
  · rw [hrings]
    exact hring
  · rw [k.ctxOf, hbase]
    unfold ringInRegion at hin ⊢
    rw [k.recOf]
    exact hin

/-- What a change of what runs on a core keeps of it. -/
theorem modRun_run {α : Type} {f : CtxRun → CtxRun} (p : CtxRun → α) (hc : c < 16) (hp : ∀ r, p (f r) = p r) (e : Nat) :
    p (coreOf (modRun c f s) e).run = p (coreOf s e).run := by
  by_cases he : e = c
  · subst he
    rw [coreOf_modRun_self hc]
    exact hp _
  · rw [coreOf_modRun_ne he]

theorem modRun_field {α : Type} {f : CtxRun → CtxRun} (p : Core → α) (hc : c < 16) (hp : ∀ x y, p { x with run := y } = p x) (e : Nat) :
    p (coreOf (modRun c f s) e) = p (coreOf s e) := by
  by_cases he : e = c
  · subst he
    rw [coreOf_modRun_self hc]
    exact hp _ _
  · rw [coreOf_modRun_ne he]

theorem mem_putFlight {f g : Flight} {r : CtxRun} (h : f ∈ r.flight) (hd : f.d.commit = g.d.commit) : g ∈ (putFlight g r).flight :=
  List.mem_map.mpr ⟨f, h, if_pos hd⟩

/-- The flight stands as the work left it. -/
theorem mem_flight_put {f g : Flight} (hc : c < 16) (h : f ∈ (coreOf s c).run.flight) (hd : f.d.commit = g.d.commit) :
    g ∈ (coreOf (modRun c (putFlight g) s) c).run.flight := by
  rw [coreOf_modRun_self hc]
  exact mem_putFlight h hd

theorem coreOf_regs (g : SMap Word) (s : State) (e : Nat) : coreOf { s with regs := g } e = coreOf s e := rfl

/-- What a failing descriptor leaves of its core, of the others and of FAB. -/
structure FailedAt (c : Nat) (code : FaultCode) (s t : State) : Prop where
  raised : Raised code c t
  fab : t.fab = s.fab
  run : (coreOf t c).run.cc = (coreOf s c).run.cc ∧ (coreOf t c).run.fwd = (coreOf s c).run.fwd
  others : ∀ e, e ≠ c → coreOf t e = coreOf s e

theorem failed_spec {f : Flight} {code : FaultCode} (hc : c < 16) (he : f.eng ≠ 2) (idx : Nat) (h8 : (code.cls == 8) = false) (s : State) :
    FailedAt c code s (failFlight c f code idx s) := by
  obtain ⟨g, x, hcode, hisl, hfail⟩ := failFlight_spec (c := c) (f := f) (code := code) he idx s
  have hpath := FaultPath.raise g { modRun c (putFlight (failedFlight c f code s)) s with regs := x }
  have hcore : ∀ e, coreOf (failFlight c f code idx s) e = coreOf (modRun c (putFlight (failedFlight c f code s)) s) e := fun e => by
    rw [hfail, hpath.coreOf, coreOf_regs]
  refine ⟨?_, ?_, ⟨?_, ?_⟩, fun e he => ?_⟩
  · rw [hfail, ← hcode, ← hisl]
    exact raise_raised g _ (by rw [hcode]; exact h8) (by rw [hisl]; omega)
  · have hf := congrArg (fun v : State => v.fab) hpath.rest
    rw [hfail]
    exact hf
  · rw [hcore, modRun_run (f := putFlight _) (fun r => r.cc) hc (fun _ => rfl)]
  · rw [hcore, modRun_run (f := putFlight _) (fun r => r.fwd) hc (fun _ => rfl)]
  · rw [hcore, coreOf_modRun_ne he]

section
variable {w : List Word} {n commit : Nat} {g : Ring}

theorem setupDone_run {α : Type} (p : CtxRun → α) (hc : c < 16) (hp : ∀ x y z v, p { x with fwd := y, rings := z, sb := v } = p x) (e : Nat) :
    p (coreOf (setupDone c w n commit g s) e).run = p (coreOf s e).run := by
  unfold setupDone
  rw [modRun_run (f := releaseReads commit) p hc (fun r => hp r r.fwd r.rings _),
    modRun_run (f := withFwd _ _) p hc (fun r => hp r _ r.rings r.sb),
    modCtxRun_run (f := withRing _ _) (wbits_lt w 11 3 4) p (fun r => hp r r.fwd _ r.sb)]

theorem setupDone_fwd (hc : c < 16) : (coreOf (setupDone c w n commit g s) c).run.fwd =
    vset (coreOf s c).run.fwd (wbits w 11 0 3) (setupChan s c w g) := by
  unfold setupDone
  rw [modRun_run (f := releaseReads commit) (fun r => r.fwd) hc (fun _ => rfl), coreOf_modRun_self hc]
  unfold withFwd
  dsimp only
  rw [modCtxRun_run (f := withRing _ _) (wbits_lt w 11 3 4) (fun r => r.fwd) (fun _ => rfl)]

theorem setupDone_ring (hc : c < 16) (hn : n < 8) (h : HasRun s (wbits w 11 3 4) n) :
    (ctxRunOf (setupDone c w n commit g s) (wbits w 11 3 4) n).rings =
      vset (ctxRunOf s (wbits w 11 3 4) n).rings (wbits w 11 7 4) (some (setupRing c (wbits w 11 0 3) (setupNo s c w) g)) := by
  unfold setupDone
  rw [ctxRunOf_modRun (f := releaseReads commit) (fun r => r.rings) hc (fun _ => rfl),
    ctxRunOf_modRun (f := withFwd _ _) (fun r => r.rings) hc (fun _ => rfl), ctxRunOf_modCtxRun (wbits_lt w 11 3 4) hn h]
  rfl

theorem setupDone_others (hc : e ≠ c) (ht : e ≠ wbits w 11 3 4) : coreOf (setupDone c w n commit g s) e = coreOf s e := by
  unfold setupDone
  rw [coreOf_modRun_ne hc, coreOf_modRun_ne hc, coreOf_modCtxRun_ne ht]

theorem setupDone_basin (hc : c < 16) (e : Nat) : (coreOf (setupDone c w n commit g s) e).basin = (coreOf s e).basin := by
  unfold setupDone
  rw [modRun_field (f := releaseReads commit) (fun x => x.basin) hc (fun _ _ => rfl),
    modRun_field (f := withFwd _ _) (fun x => x.basin) hc (fun _ _ => rfl),
    modCtxRun_field (wbits_lt w 11 3 4) (fun x => x.basin) (fun _ _ _ => rfl)]

/-- The state that SETUP leaves, its descriptor in flight. -/
def setupState (c : Nat) (f : Flight) (w : List Word) (n : Nat) (g : Ring) (s : State) : State :=
  modRun c (putFlight { f with done := true }) (setupDone c w n f.d.commit g s)

theorem setupState_fwd {f : Flight} (hc : c < 16) : (coreOf (setupState c f w n g s) c).run.fwd =
    vset (coreOf s c).run.fwd (wbits w 11 0 3) (setupChan s c w g) := by
  unfold setupState
  rw [modRun_run (f := putFlight _) (fun r => r.fwd) hc (fun _ => rfl), setupDone_fwd hc]

theorem setupState_rings {f : Flight} (hc : c < 16) (hn : n < 8) (h : HasRun s (wbits w 11 3 4) n) :
    (ctxRunOf (setupState c f w n g s) (wbits w 11 3 4) n).rings =
      vset (ctxRunOf s (wbits w 11 3 4) n).rings (wbits w 11 7 4) (some (setupRing c (wbits w 11 0 3) (setupNo s c w) g)) := by
  unfold setupState
  rw [ctxRunOf_modRun (f := putFlight _) (fun r => r.rings) hc (fun _ => rfl), setupDone_ring hc hn h]

theorem setupState_flight {f : Flight} (hc : c < 16) (h : f ∈ (coreOf s c).run.flight) :
    { f with done := true } ∈ (coreOf (setupState c f w n g s) c).run.flight := by
  refine mem_flight_put (f := f) hc ?_ rfl
  rw [setupDone_run (fun r => r.flight) hc (fun _ _ _ _ => rfl)]
  exact h

theorem setupState_others {f : Flight} (hc : e ≠ c) (ht : e ≠ wbits w 11 3 4) : coreOf (setupState c f w n g s) e = coreOf s e := by
  unfold setupState
  rw [coreOf_modRun_ne hc, setupDone_others hc ht]

theorem setupState_basin {f : Flight} (hc : c < 16) (e : Nat) : (coreOf (setupState c f w n g s) e).basin = (coreOf s e).basin := by
  unfold setupState
  rw [modRun_field (f := putFlight _) (fun x => x.basin) hc (fun _ _ => rfl), setupDone_basin hc]

end

/-! ### SEND (R269) -/

/-- A read of an open line without error answers its bytes and changes nothing (R163, R188). -/
theorem basinRead_open {a : Acc} {line l : Nat} (hr : relocLine (coreOf s a.c) line = some l) (hd : declared a.w false line false = true)
    (hw : winOf (coreOf s a.c) (l / 64) = none) (hg : ∀ r, vget (coreOf s a.c).run.rings r none = none)
    (hu : ∀ k, smGet upZero (coreOf s a.c).basinUp k = 0) :
    engRun (basinRead a false line) s = (.ok (basinBytes (coreOf s a.c) (l * 64) 64), s) := by
  have hring : ringAt (coreOf s a.c).run line a.eng false = none := by
    unfold ringAt
    rw [List.findSome?_eq_none_iff]
    intro i _
    rw [hg i]
  have hpre : engRun (ringPre a line false) s = (.ok (), s) := by
    unfold ringPre
    rw [engRun_get_bind, hring]
    rfl
  have hpost : engRun (ringPost a line false) s = (.ok (), s) := by
    unfold ringPost
    rw [engRun_get_bind, hring]
    rfl
  have hblk : wblkOf (coreOf s a.c) (l / 64) = (0, 0) := by
    unfold wblkOf
    rw [hw]
    rfl
  have hdec : basinDecode a.c l s = (true, s) := by
    obtain ⟨g, hg, hz⟩ := lineDecode_spec a.c l s
    have hbad : lineBad (coreOf s a.c) l = [] := List.filter_eq_nil_iff.mpr fun k _ => by simp [wordBad, hu k]
    unfold basinDecode
    rw [hg, hbad, hz fun k _ => hu _]
    rfl
  have hphys : engRun (basinPhysRead a.c l) s = (.ok (basinBytes (coreOf s a.c) (l * 64) 64), s) := by
    unfold basinPhysRead
    rw [engRun_get_bind]
    simp only [hblk, ne_eq, not_true_eq_false, false_and, if_false]
    rw [engRun_get_bind, hdec]
    rfl
  unfold basinRead
  rw [engRun_get_bind]
  simp only [hr, hd, Bool.not_true, Bool.false_eq_true, Bool.false_and, if_false]
  rw [engRun_bind_ok hpre, engRun_bind_ok hphys, engRun_bind_ok hpost]
  rfl

theorem basinReadLines_open {a : Acc} (n line : Nat) (hl : LinesOpen (coreOf s a.c) a.w line n false)
    (hu : ∀ k, smGet upZero (coreOf s a.c).basinUp k = 0) :
    engRun (basinReadLines a false line n) s = (.ok ((List.range n).map fun k => lineBytes (coreOf s a.c) (line + k)), s) := by
  induction n generalizing line with
  | zero => rfl
  | succ n ih =>
    obtain ⟨hopen, hring⟩ := hl
    obtain ⟨h1, h2, h3⟩ := hopen 0 (Nat.zero_lt_succ n)
    have hrest : LinesOpen (coreOf s a.c) a.w (line + 1) n false := ⟨fun i hi => by
      have hnext := hopen (i + 1) (by omega)
      rwa [show line + (i + 1) = line + 1 + i by omega, show taskLine (coreOf s a.c) + line + (i + 1) =
        taskLine (coreOf s a.c) + (line + 1) + i by omega] at hnext, hring⟩
    have hfirst : engRun (basinRead a false line) s = (.ok (lineBytes (coreOf s a.c) (line + 0)), s) :=
      basinRead_open h1 h2 h3 hring hu
    unfold basinReadLines
    rw [engRun_bind_ok hfirst, engRun_bind_ok (ih (line + 1) hrest), List.range_succ_eq_map, List.map_cons,
      List.map_map]
    have hmap : ((List.range n).map fun k => lineBytes (coreOf s a.c) (line + 1 + k)) =
        (List.range n).map ((fun k => lineBytes (coreOf s a.c) (line + k)) ∘ Nat.succ) :=
      List.map_congr_left fun k _ => congrArg (lineBytes (coreOf s a.c)) (by omega)
    rw [hmap]
    rfl

theorem fabToken_frame (p : Nat) (s : State) : ∃ x g, fabToken p s = { s with parts := x, regs := g } := by
  unfold fabToken
  dsimp only
  split
  · exact ⟨_, s.regs, rfl⟩
  · exact ⟨_, _, rfl⟩

/-- The tokens of a partition that its lines take (R408). -/
def fabTokens (p : Nat) (ls : List (List Byte)) (s : State) : State := ls.foldl (fun s _ => fabToken p s) s

theorem fabTokens_frame (p : Nat) (ls : List (List Byte)) (s : State) : ∃ x g, fabTokens p ls s = { s with parts := x, regs := g } := by
  unfold fabTokens
  induction ls generalizing s with
  | nil => exact ⟨s.parts, s.regs, rfl⟩
  | cons l ls ih =>
    obtain ⟨x, g, hx⟩ := fabToken_frame p s
    obtain ⟨y, h, hy⟩ := ih (fabToken p s)
    exact ⟨y, h, by rw [List.foldl_cons, hy, hx]⟩

/-- Landing writes join their queue. -/
def launch (q : List Landing) (n : Nat) (s : State) : State := { s with fab := { s.fab with landing := s.fab.landing ++ q, next := s.fab.next + n } }

/-- The channel after a SEND. -/
def spent (w : FwdCh) : FwdCh := { w with credits := w.credits - 1, next := (w.next + 1) % w.slots }

/-- The channel that a descriptor names. -/
def chanOf (s : State) (c : Nat) (w : List Word) : FwdCh := vget (coreOf s c).run.fwd (wbits w 11 0 3) {}

/-- The state that SEND's work leaves. -/
def sendDone (c commit : Nat) (w : List Word) (ls : List (List Byte)) (s : State) : State :=
  let t := ctxOf (coreOf s c)
  modRun c (releaseReads commit) (modRun c (withFwd (wbits w 11 0 3) (spent (chanOf s c w)))
    (launch (landings ⟨c, 4, w⟩ t (replica s c) s.fab.next commit (wbits w 11 0 3) (chanOf s c w) ls) ls.length (fabTokens t.part ls s)))

theorem peSend_done {w : List Word} (hcr : 0 < (chanOf s c w).credits) (f : Flight) {ls : List (List Byte)}
    (hls : engRun (basinReadLines ⟨c, 4, w⟩ false (wbits w 12 0 17) (chanOf s c w).slotl) s = (.ok ls, s)) :
    engRun (peSend ⟨c, 4, w⟩ f) s = (.ok { f with outst := f.outst + ls.length, done := true }, sendDone c f.d.commit w ls s) := by
  have hne : ¬ (vget (coreOf s c).run.fwd (wbits w 11 0 3) {}).credits = 0 := fun h => by
    unfold chanOf at hcr
    omega
  obtain ⟨x, g, hx⟩ := fabTokens_frame (ctxOf (coreOf s c)).part ls s
  have hrep : replica (fabTokens (ctxOf (coreOf s c)).part ls s) c = replica s c := by
    rw [hx]
    rfl
  have hnext : (fabTokens (ctxOf (coreOf s c)).part ls s).fab.next = s.fab.next := by rw [hx]
  unfold chanOf at hls
  unfold peSend
  rw [engRun_get_bind]
  simp only [if_neg hne]
  rw [engRun_bind_ok hls, engRun_modify_bind, engRun_modify_bind, engRun_modify_bind]
  unfold sendDone
  rw [← hrep, ← hnext]
  rfl

section
variable {w : List Word} {ls : List (List Byte)} {commit : Nat}

/-- What the tokens and the launch leave. -/
theorem launched_core (p n : Nat) (q : List Landing) (e : Nat) : coreOf (launch q n (fabTokens p ls s)) e = coreOf s e := by
  obtain ⟨x, g, hx⟩ := fabTokens_frame p ls s
  rw [hx]
  rfl

theorem launched_fab (p n : Nat) (q : List Landing) :
    (launch q n (fabTokens p ls s)).fab = { s.fab with landing := s.fab.landing ++ q, next := s.fab.next + n } := by
  obtain ⟨x, g, hx⟩ := fabTokens_frame p ls s
  rw [hx]
  rfl

theorem modRun_fab (c : Nat) (f : CtxRun → CtxRun) (s : State) : (modRun c f s).fab = s.fab := rfl

/-- The state that SEND leaves, its descriptor in flight. -/
def sendState (c : Nat) (f : Flight) (w : List Word) (ls : List (List Byte)) (s : State) : State :=
  modRun c (putFlight { f with outst := f.outst + ls.length, done := true }) (sendDone c f.d.commit w ls s)

theorem sendDone_run {α : Type} (p : CtxRun → α) (hc : c < 16) (hp : ∀ x y b, p { x with fwd := y, sb := b } = p x) (e : Nat) :
    p (coreOf (sendDone c commit w ls s) e).run = p (coreOf s e).run := by
  unfold sendDone
  rw [modRun_run (f := releaseReads commit) p hc (fun r => hp r r.fwd _), modRun_run (f := withFwd _ _) p hc (fun r => hp r _ r.sb), launched_core]

theorem sendState_fab {f : Flight} : (sendState c f w ls s).fab = { s.fab with
    landing := s.fab.landing ++ landings ⟨c, 4, w⟩ (ctxOf (coreOf s c)) (replica s c) s.fab.next f.d.commit (wbits w 11 0 3) (chanOf s c w) ls
    next := s.fab.next + ls.length } := by
  unfold sendState sendDone
  rw [modRun_fab, modRun_fab, modRun_fab, launched_fab]

theorem sendState_fwd {f : Flight} (hc : c < 16) : (coreOf (sendState c f w ls s) c).run.fwd =
    vset (coreOf s c).run.fwd (wbits w 11 0 3) (spent (chanOf s c w)) := by
  unfold sendState sendDone
  rw [modRun_run (f := putFlight _) (fun r => r.fwd) hc (fun _ => rfl), modRun_run (f := releaseReads _) (fun r => r.fwd) hc (fun _ => rfl),
    coreOf_modRun_self hc, launched_core]
  rfl

theorem sendState_flight {f : Flight} (hc : c < 16) (h : f ∈ (coreOf s c).run.flight) :
    { f with outst := f.outst + ls.length, done := true } ∈ (coreOf (sendState c f w ls s) c).run.flight := by
  refine mem_flight_put (f := f) hc ?_ rfl
  rw [sendDone_run (fun r => r.flight) hc (fun _ _ _ => rfl)]
  exact h

theorem sendState_others {f : Flight} (hc : e ≠ c) : coreOf (sendState c f w ls s) e = coreOf s e := by
  unfold sendState sendDone
  rw [coreOf_modRun_ne hc, coreOf_modRun_ne hc, coreOf_modRun_ne hc, launched_core]

theorem sendState_basin {f : Flight} (hc : c < 16) : (coreOf (sendState c f w ls s) c).basin = (coreOf s c).basin := by
  unfold sendState sendDone
  rw [modRun_field (f := putFlight _) (fun x => x.basin) hc (fun _ _ => rfl),
    modRun_field (f := releaseReads _) (fun x => x.basin) hc (fun _ _ => rfl),
    modRun_field (f := withFwd _ _) (fun x => x.basin) hc (fun _ _ => rfl), launched_core]

/-- The landing writes of lines that a function gives. -/
theorem landings_map (a : Acc) (t : TaskCtx) (ts ord commit ch : Nat) (v : FwdCh) (n : Nat) (b : Nat → List Byte) :
    landings a t ts ord commit ch v ((List.range n).map b) = (List.range n).map fun k =>
      ⟨a.c, commit, ch, t.taggen, t.part, v.setup, v.tcore, v.tring, v.next, k, b k, k + 1 == n, ts, ord + k⟩ := by
  unfold landings
  rw [List.length_map, List.length_range]
  refine List.map_congr_left fun k hk => ?_
  have hb : ((List.range n).map b).getD k [] = b k := by
    simp [List.getD_eq_getElem?_getD, List.getElem?_range (List.mem_range.mp hk)]
  rw [hb]

end

/-! ### Landing writes (R190, R269, R271) -/

section
variable {l : Landing} {rest : List Landing} {n : Nat} {g : Ring}

/-- The landing queue without its first write. -/
def landTake (rest : List Landing) (s : State) : State := { s with fab := { s.fab with landing := rest } }

/-- The first landing write, which no access of its core to the same Basin precedes. -/
structure LandFront (s : State) (l : Landing) (rest : List Landing) : Prop where
  ready : isReady s = true
  front : s.fab.landing = l :: rest
  first : ∀ r ∈ s.fab.remote, remBasin r = true → r.src = l.src → r.dst = l.dst → l.ord ≤ r.ord

/-- An earlier access of the core to the same Basin. -/
def precedes (l : Landing) (r : RemReq) : Bool := remBasin r && r.src == l.src && r.dst == l.dst && decide (r.ord < l.ord)

theorem precedes_iff {r : RemReq} : precedes l r = true ↔ remBasin r = true ∧ r.src = l.src ∧ r.dst = l.dst ∧ r.ord < l.ord := by
  simp [precedes, and_assoc]

theorem landNext_cons (h : s.fab.remote.any (precedes l) = b) : landNext s [] (l :: rest) =
    if b then landNext s [l] rest else some ([], l, rest) := by
  unfold precedes at h
  rw [landNext, List.any_nil, Bool.false_or, h]
  rfl

theorem LandFront.next (h : LandFront s l rest) : landNext s [] s.fab.landing = some ([], l, rest) := by
  have hnone : s.fab.remote.any (precedes l) = false := by
    rw [List.any_eq_false]
    intro r hr hp
    obtain ⟨hb, hs, hd, ho⟩ := precedes_iff.mp hp
    exact absurd (h.first r hr hb hs hd) (by omega)
  rw [h.front, landNext_cons hnone]
  rfl

theorem LandFront.exec_eq (h : LandFront s l rest) : exec .peerLandingWrite s =
    .next (if fabLost s l.dst l.ts then landTake rest s else landingWrite l (landTake rest s)) := by
  change execPeerLandingWrite s = _
  unfold execPeerLandingWrite
  rw [h.next]
  simp only [h.ready, Bool.not_true, Bool.false_eq_true, if_false]
  rfl

theorem fabLost_false {i ts : Nat} (h : replica s i ≤ ts + 1000000) : fabLost s i ts = false := decide_eq_false (by omega)

/-- A stale arrival leaves the registers, the cores and FAB. -/
theorem staleArrival_keeps (p : Nat) (s : State) :
    (staleArrival p s).regs = s.regs ∧ (staleArrival p s).kc = s.kc ∧ (staleArrival p s).fab = s.fab := by
  unfold staleArrival
  dsimp only
  split
  next h _ =>
    obtain ⟨a, l, hx⟩ := raiseLimited_frame 1000000 (plainFault .stale islHst (some p)) { s with hst := { s.hst with
      ports := vset s.hst.ports h { vget s.hst.ports h {} with staleCnt := satAdd 32 (vget s.hst.ports h {}).staleCnt 1 } } }
    rw [hx]
    exact ⟨rfl, rfl, rfl⟩
  next =>
    obtain ⟨a, l, hx⟩ := raiseLimited_frame 1000000 (plainFault .stale islHst (some p)) s
    rw [hx]
    exact ⟨rfl, rfl, rfl⟩

/-- A message of a channel that no longer stands is counted and does nothing else to the cores and to FAB. -/
structure CountedAt (c : Nat) (s t : State) : Prop where
  fab : t.fab = s.fab
  kc : t.kc = s.kc
  count : (regGet t (kreg c 0x2864)).toNat = min ((regGet s (kreg c 0x2864)).toNat + 1) (2 ^ 32 - 1)

theorem counted_at (c : Nat) (s : State) : CountedAt c s (regCount (kreg c 0x2864) 1 s) :=
  ⟨regCount_fab s _ 1, regCount_kc s _ 1, regGet_count_self s _ 1⟩

theorem peerStale_at (c p : Nat) (s : State) : CountedAt c s (peerStale c p s) := by
  obtain ⟨hr, hk, hf⟩ := staleArrival_keeps p (regCount (kreg c 0x2864) 1 s)
  have hcount := counted_at c s
  refine ⟨hf.trans hcount.fab, hk.trans hcount.kc, ?_⟩
  rw [regGet, peerStale, hr]
  exact hcount.count

theorem landingWrite_gone (h : ctxByTag s l.dst l.part l.taggen = none) : landingWrite l s = peerStale l.dst l.part s := by
  unfold landingWrite
  rw [h]

theorem landingWrite_other (h : ctxByTag s l.dst l.part l.taggen = some n) (hg : vget (ctxRunOf s l.dst n).rings l.ring none = some g)
    (hf : g.feeder ≠ some (l.src, l.ch, l.setup)) : landingWrite l s = regCount (kreg l.dst 0x2864) 1 s := by
  unfold landingWrite
  rw [h]
  dsimp only
  rw [hg]
  exact if_pos hf

/-- The physical line of a landing write. -/
def landLine (s : State) (l : Landing) (n : Nat) (g : Ring) : Nat :=
  (tctx (coreOf s l.dst) n).basinBase * 64 + g.base + l.slot * g.slotl + l.k

/-- The slot of a landing write marked full by its last line. -/
def landMark (l : Landing) (n : Nat) (g : Ring) (s : State) : State :=
  if l.last then modCtxRun l.dst n (withRing l.ring { g with full := g.full.set l.slot true }) s else s

/-- The line stored. -/
def landStore (l : Landing) (line : Nat) (s : State) : State := deBytes l.src 64 (modCore l.dst (basinStore (line * 64) l.line) s)

theorem landingWrite_live {f : Flight} (h : ctxByTag s l.dst l.part l.taggen = some n)
    (hg : vget (ctxRunOf s l.dst n).rings l.ring none = some g) (hf : g.feeder = some (l.src, l.ch, l.setup))
    (hfl : flightOf s l.src l.commit l.taggen l.part = some f) (hlo : (prBasin (recOf s l.part) l.dst).1 * 64 ≤ landLine s l n g)
    (hhi : landLine s l n g < (prBasin (recOf s l.part) l.dst).2 * 64) (hw : winOf (coreOf s l.dst) (landLine s l n g / 64) = none) :
    landingWrite l s = flightStep l.src f (landMark l n g (landStore l (landLine s l n g) s)) := by
  have hin : ¬ (landLine s l n g < (prBasin (recOf s l.part) l.dst).1 * 64 ∨ (prBasin (recOf s l.part) l.dst).2 * 64 ≤ landLine s l n g) := by
    omega
  have hfeed : ¬ g.feeder ≠ some (l.src, l.ch, l.setup) := fun k => k hf
  unfold landLine at hin hw ⊢
  unfold landingWrite
  rw [h, hfl]
  dsimp only
  rw [hg]
  dsimp only
  rw [if_neg hfeed, if_neg hin, hw]
  rfl

theorem regPut_twice_frame (i j : Nat) (v w : Word) (s : State) : ∃ g, regPut i v (regPut j w s) = { s with regs := g } := ⟨_, rfl⟩

theorem deBytes_frame (c k : Nat) (s : State) : ∃ g, deBytes c k s = { s with regs := g } := by
  unfold deBytes regWrap64
  exact regPut_twice_frame _ _ _ _ s

theorem landStore_core (line e : Nat) : coreOf (landStore l line s) e = coreOf (modCore l.dst (basinStore (line * 64) l.line) s) e := by
  obtain ⟨g, hg⟩ := deBytes_frame l.src 64 (modCore l.dst (basinStore (line * 64) l.line) s)
  rw [landStore, hg, coreOf_regs]

theorem landStore_fab (line : Nat) : (landStore l line s).fab = s.fab := by
  obtain ⟨g, hg⟩ := deBytes_frame l.src 64 (modCore l.dst (basinStore (line * 64) l.line) s)
  rw [landStore, hg]
  rfl

/-- What the store keeps of a core. -/
theorem landStore_field {α : Type} (hd : l.dst < 16) (line : Nat) (p : Core → α)
    (hp : ∀ x b y z, p { x with basin := b, basinCls := y, basinUp := z } = p x) (e : Nat) :
    p (coreOf (landStore l line s) e) = p (coreOf s e) := by
  rw [landStore_core]
  by_cases he : e = l.dst
  · rw [he, coreOf_modCore_self _ hd]
    exact hp _ _ _ _
  · rw [coreOf_modCore_ne _ he]

theorem landStore_basin (hd : l.dst < 16) (line : Nat) :
    (coreOf (landStore l line s) l.dst).basin = smSetList byteZero (coreOf s l.dst).basin (line * 64) l.line := by
  rw [landStore_core, coreOf_modCore_self _ hd]
  rfl

theorem landStore_ctxRun (hd : l.dst < 16) (line n : Nat) : ctxRunOf (landStore l line s) l.dst n = ctxRunOf s l.dst n :=
  landStore_field hd line (fun x => if x.active = some n then x.run else (tctx x n).saved.getD {}) (fun _ _ _ _ => rfl) l.dst

theorem landMark_fab : (landMark l n g s).fab = s.fab := by
  unfold landMark
  split
  · obtain ⟨k, hk⟩ := modCtxRun_rest l.dst n (withRing l.ring { g with full := g.full.set l.slot true }) s
    rw [hk]
  · rfl

theorem landMark_basin (hd : l.dst < 16) (e : Nat) : (coreOf (landMark l n g s) e).basin = (coreOf s e).basin := by
  unfold landMark
  split
  · exact modCtxRun_field hd (fun x => x.basin) (fun _ _ _ => rfl) e
  · rfl

theorem landMark_flight (hd : l.dst < 16) (e : Nat) : (coreOf (landMark l n g s) e).run.flight = (coreOf s e).run.flight := by
  unfold landMark
  split
  · exact modCtxRun_run (f := withRing _ _) hd (fun r => r.flight) (fun _ => rfl) e
  · rfl

theorem landMark_others (he : e ≠ l.dst) : coreOf (landMark l n g s) e = coreOf s e := by
  unfold landMark
  split
  · exact coreOf_modCtxRun_ne he
  · rfl

theorem ring_lt {r : CtxRun} {i : Nat} (h : vget r.rings i none = some g) : i < 16 := by
  by_contra hi
  rw [vget, Vector.getElem?_eq_none (by omega)] at h
  cases h

theorem landMark_ring (hd : l.dst < 16) (hn : n < 8) (hg : vget (ctxRunOf s l.dst n).rings l.ring none = some g) :
    vget (ctxRunOf (landMark l n g s) l.dst n).rings l.ring none =
      some { g with full := if l.last then g.full.set l.slot true else g.full } := by
  have hr : l.ring < 16 := ring_lt hg
  have hhas : HasRun s l.dst n := hasRun_of (fun r => vget r.rings l.ring none) (by
    dsimp only
    rw [hg, show vget ({} : CtxRun).rings l.ring none = none from vget_replicate _ _ hr _]
    exact Option.some_ne_none g)
  unfold landMark
  split
  · rw [ctxRunOf_modCtxRun hd hn hhas]
    exact vget_vset_self _ _ _ _ hr
  · exact hg

theorem flightOf_mem {k tg p : Nat} {f : Flight} (h : flightOf s c k tg p = some f) : f ∈ (coreOf s c).run.flight := by
  unfold flightOf at h
  dsimp only at h
  split at h
  · exact List.mem_of_find?_eq_some h
  · cases h

theorem flightStep_fab (c : Nat) (f : Flight) (s : State) : (flightStep c f s).fab = s.fab := rfl

end

/-! ### Credits (R270, R271) -/

section
variable {k : Credit} {rest : List Credit} {n : Nat}

/-- The credit queue without its first credit. -/
def creditPop (rest : List Credit) (s : State) : State := { s with fab := { s.fab with credit := rest } }

theorem exec_creditReturn (hr : isReady s = true) (h : s.fab.credit = k :: rest) : exec .creditReturn s =
    .next (if fabLost s k.dst k.ts then creditPop rest s else creditTake k (creditPop rest s)) := by
  change execCreditReturn s = _
  unfold execCreditReturn
  rw [h]
  simp only [hr, Bool.not_true, Bool.false_eq_true, if_false]
  rfl

/-- The channel of a credit after it. -/
def chanCredited (w : FwdCh) : FwdCh := { w with credits := min w.slots (w.credits + 1) }

theorem creditTake_live (h : ctxByTag s k.dst k.part k.taggen = some n)
    (hv : (vget (ctxRunOf s k.dst n).fwd k.ch {}).valid = true) (hq : (vget (ctxRunOf s k.dst n).fwd k.ch {}).setup = k.setup) :
    creditTake k s = modCtxRun k.dst n (withFwd k.ch (chanCredited (vget (ctxRunOf s k.dst n).fwd k.ch {}))) s := by
  unfold creditTake
  rw [h]
  dsimp only
  exact if_pos (by simp [hv, hq])

theorem creditTake_other (h : ctxByTag s k.dst k.part k.taggen = some n)
    (hq : ¬ ((vget (ctxRunOf s k.dst n).fwd k.ch {}).valid = true ∧ (vget (ctxRunOf s k.dst n).fwd k.ch {}).setup = k.setup)) :
    creditTake k s = regCount (kreg k.dst 0x2864) 1 s := by
  unfold creditTake
  rw [h]
  dsimp only
  exact if_neg fun hb => hq (by simpa using hb)

theorem chan_lt {r : CtxRun} {i : Nat} (h : (vget r.fwd i {}).valid = true) : i < 8 := by
  by_contra hi
  rw [vget, Vector.getElem?_eq_none (by omega)] at h
  cases h

theorem creditTake_chan (hd : k.dst < 16) (hn : n < 8) (hv : (vget (ctxRunOf s k.dst n).fwd k.ch {}).valid = true) (w : FwdCh) :
    vget (ctxRunOf (modCtxRun k.dst n (withFwd k.ch w) s) k.dst n).fwd k.ch {} = w := by
  have hch := chan_lt hv
  have hhas : HasRun s k.dst n := hasRun_of (fun r => (vget r.fwd k.ch {}).valid) (by
    dsimp only
    rw [hv, show vget ({} : CtxRun).fwd k.ch {} = {} from vget_replicate _ _ hch _]
    exact Bool.noConfusion)
  rw [ctxRunOf_modCtxRun hd hn hhas]
  exact vget_vset_self _ _ _ _ hch

end

end

end Sys2Proof.Machine

namespace Sys2Proof.Proofs
open Sys2Proof.Machine

/-- SETUP on a core without a region (R190, R268). -/
theorem setup_denied (s : State) (c : Fin 16) (d : QDesc) (h : Issues s c.val 4 0x80 d)
    (hr : (prBasin (recOf s (ctxOf (coreOf s c.val)).part) (wbits d.w 11 3 4)).2 ≤
      (prBasin (recOf s (ctxOf (coreOf s c.val)).part) (wbits d.w 11 3 4)).1) :
    Completes (.setup c) s fun t => Raised .remoteDeny c.val t ∧ t.fab.landing = s.fab.landing ∧
      (coreOf t c.val).run.fwd = (coreOf s c.val).run.fwd ∧ ∀ e, e ≠ c.val → coreOf t e = coreOf s e := by
  have hstep := issued_step c.isLt 4 d s
  obtain ⟨hraised, hfab, ⟨hcc, hfwd⟩, hother⟩ := failed_spec c.isLt (code := .remoteDeny) (f := issuedFlight s c.val 4 d)
    (by simp [issuedFlight]) 0 rfl (issuedState s c.val 4 d)
  obtain ⟨q, hq⟩ := hstep.fab
  refine ⟨_, congrArg Host.Outcome.next (issue_fault c.isLt (by decide) h (peSetup_denied ?_ _) hcc), hraised, ?_, ?_, fun e he => ?_⟩
  · rw [hstep.ctxOf, hstep.recOf]
    exact hr
  · rw [hfab, hq]
  · rw [hfwd, hstep.run (fun r => r.fwd) (fun _ _ _ => rfl)]
    rfl
  · rw [hother e he, hstep.others e he]

/-- SETUP binds the channel and empties the ring (R268). -/
theorem setup_bound (s : State) (c : Fin 16) (d : QDesc) (n : Nat) (g : Ring) (h : Issues s c.val 4 0x80 d)
    (hs : SetupSite s c.val d.w n g) : let ch := wbits d.w 11 0 3
    let tc := wbits d.w 11 3 4
    let tr := wbits d.w 11 7 4
    let q := ((vget (coreOf s c.val).run.fwd ch {}).setup + 1) % 16
    Completes (.setup c) s fun t =>
      vget (coreOf t c.val).run.fwd ch {} = ⟨true, tc, tr, q, g.full.length, g.full.length, g.slotl, 0⟩ ∧
      (∀ i, i ≠ ch → vget (coreOf t c.val).run.fwd i {} = vget (coreOf s c.val).run.fwd i {}) ∧
      vget (ctxRunOf t tc n).rings tr none =
        some { g with full := List.replicate g.full.length false, wr := 0, rd := 0, feeder := some (c.val, ch, q) } ∧
      (∀ i, i ≠ tr → vget (ctxRunOf t tc n).rings i none = vget (ctxRunOf s tc n).rings i none) ∧
      DoneWith (coreOf t c.val) d (fun _ => True) ∧
      (∀ e, e ≠ c.val → e ≠ tc → coreOf t e = coreOf s e) ∧ ∀ e, (coreOf t e).basin = (coreOf s e).basin := by
  intro ch tc tr q
  have hstep := issued_step c.isLt 4 d s
  have hflight := issuedState_flight c.isLt 4 d s
  have hsite := hs.issued hstep rfl
  have hrings := hstep.ctxRun (fun r => r.rings) rfl (fun _ _ _ => rfl) tc n
  have hfwd : (coreOf (issuedState s c.val 4 d) c.val).run.fwd = (coreOf s c.val).run.fwd := hstep.run (fun r => r.fwd) (fun _ _ _ => rfl)
  have hhas : HasRun (issuedState s c.val 4 d) tc n := hasRun_of (fun r => vget r.rings tr none) (by
    dsimp only
    rw [hsite.ring, show vget ({} : CtxRun).rings tr none = none from vget_replicate _ _ (wbits_lt d.w 11 7 4) _]
    exact Option.some_ne_none g)
  have hissue : issue c.val 4 0x80 peSetup s = setupState c.val (issuedFlight s c.val 4 d) d.w n g (issuedState s c.val 4 d) :=
    issue_ok c.isLt (by decide) h (peSetup_bound hsite _) (setupDone_run (fun r => r.cc) c.isLt (fun _ _ _ _ => rfl) c.val)
  have hno : setupNo (issuedState s c.val 4 d) c.val d.w = q := by rw [setupNo, hfwd]
  have hch : ch < 8 := wbits_lt d.w 11 0 3
  have htr : tr < 16 := wbits_lt d.w 11 7 4
  refine ⟨_, congrArg Host.Outcome.next hissue, ?_, fun i hi => ?_, ?_, fun i hi => ?_, ⟨_, setupState_flight c.isLt hflight, rfl, rfl, rfl, trivial⟩,
    fun e he ht => ?_, fun e => ?_⟩
  · rw [setupState_fwd c.isLt, vget_vset_self _ _ _ _ hch, setupChan, hno]
  · rw [setupState_fwd c.isLt, vget_vset_ne _ _ _ hi.symm, hfwd]
  · rw [setupState_rings c.isLt (ctxByTag_lt hsite.ctx) hhas, vget_vset_self _ _ _ _ htr, hno]
    rfl
  · rw [setupState_rings c.isLt (ctxByTag_lt hsite.ctx) hhas, vget_vset_ne _ _ _ hi.symm, hrings]
  · rw [setupState_others he ht, hstep.others e he]
  · rw [setupState_basin c.isLt, hstep.field (fun x => x.basin) (fun _ _ _ _ => rfl)]

/-- SEND takes a credit and sends its slot's lines (R269). -/
theorem send_launches (s : State) (c : Fin 16) (d : QDesc) (h : Issues s c.val 4 0x81 d) : let x := coreOf s c.val
    let ch := wbits d.w 11 0 3
    let u := wbits d.w 12 0 17
    let w := vget x.run.fwd ch {}
    LinesOpen x d.w u w.slotl false → (∀ k, smGet upZero x.basinUp k = 0) →
    Completes (.send c) s fun t =>
      t.fab.landing = s.fab.landing ++ (List.range w.slotl).map (fun k =>
        ⟨c.val, d.commit, ch, (ctxOf x).taggen, (ctxOf x).part, w.setup, w.tcore, w.tring, w.next, k,
          lineBytes x (u + k), k + 1 == w.slotl, replica s c.val, s.fab.next + k⟩) ∧
      t.fab.credit = s.fab.credit ∧ 0 < w.credits ∧
      vget (coreOf t c.val).run.fwd ch {} = { w with credits := w.credits - 1, next := (w.next + 1) % w.slots } ∧
      DoneWith (coreOf t c.val) d (fun f => f.outst = w.slotl) ∧
      (coreOf t c.val).basin = x.basin ∧ ∀ e, e ≠ c.val → coreOf t e = coreOf s e := by
  intro x ch u w hopen hup
  have hstep := issued_step c.isLt 4 d s
  have hflight := issuedState_flight c.isLt 4 d s
  have hfwd : (coreOf (issuedState s c.val 4 d) c.val).run.fwd = (coreOf s c.val).run.fwd := hstep.run (fun r => r.fwd) (fun _ _ _ => rfl)
  obtain ⟨q, hq⟩ := hstep.fab
  have hchan : chanOf (issuedState s c.val 4 d) c.val d.w = w := by rw [chanOf, hfwd]
  have hcredit : 0 < w.credits := by
    obtain ⟨-, hop, hunit⟩ := ready_head h.1
    unfold unitFree at hunit
    rw [hop] at hunit
    exact of_decide_eq_true hunit
  have hbytes : lineBytes (coreOf (issuedState s c.val 4 d) c.val) = lineBytes x := hstep.field lineBytes (fun _ _ _ _ => rfl) c.val
  have hrings : (coreOf (issuedState s c.val 4 d) c.val).run.rings = x.run.rings := hstep.run (fun r => r.rings) (fun _ _ _ => rfl)
  have hlines : LinesOpen (coreOf (issuedState s c.val 4 d) c.val) d.w u w.slotl false := by
    obtain ⟨hin, hring⟩ := hopen
    refine ⟨fun i hi => ?_, fun r => by rw [hrings]; exact hring r⟩
    rw [hstep.field relocLine (fun _ _ _ _ => rfl) c.val, hstep.field taskLine (fun _ _ _ _ => rfl) c.val,
      hstep.field winOf (fun _ _ _ _ => rfl) c.val]
    exact hin i hi
  have hread := basinReadLines_open (a := ⟨c.val, 4, d.w⟩) w.slotl u hlines (fun k => by
    rw [hstep.field (fun x => x.basinUp) (fun _ _ _ _ => rfl) c.val]
    exact hup k)
  rw [← hchan] at hread
  have hissue : issue c.val 4 0x81 peSend s = sendState c.val (issuedFlight s c.val 4 d) d.w _ (issuedState s c.val 4 d) :=
    issue_ok c.isLt (by decide) h (peSend_done (by rw [hchan]; exact hcredit) _ hread)
      (sendDone_run (fun r => r.cc) c.isLt (fun _ _ _ => rfl) c.val)
  have hch : ch < 8 := wbits_lt d.w 11 0 3
  refine ⟨_, congrArg Host.Outcome.next hissue, ?_, ?_, hcredit, ?_, ⟨_, sendState_flight c.isLt hflight, rfl, rfl, rfl, ?_⟩, ?_, fun e he => ?_⟩
  · rw [sendState_fab, landings_map, hstep.replica, hstep.ctxOf, hq, hchan, hbytes]
    rfl
  · rw [sendState_fab, hq]
  · rw [sendState_fwd c.isLt, vget_vset_self _ _ _ _ hch, hchan]
    rfl
  · rw [hchan, List.length_map, List.length_range]
    exact Nat.zero_add _
  · rw [sendState_basin c.isLt, hstep.field (fun x => x.basin) (fun _ _ _ _ => rfl)]
  · rw [sendState_others he, hstep.others e he]

/-- A live landing write stores its line, marks its slot by the last one and is counted off its descriptor (R269). -/
theorem landing_stored (s : State) (l : Landing) (rest : List Landing) (h : LandFront s l rest) (hsrc : l.src < 16) (hdst : l.dst < 16)
    (ht : replica s l.dst ≤ l.ts + 1000000) (n : Nat) (g : Ring) (f : Flight) (hn : ctxByTag s l.dst l.part l.taggen = some n)
    (hg : vget (ctxRunOf s l.dst n).rings l.ring none = some g) (hf : g.feeder = some (l.src, l.ch, l.setup))
    (hfl : flightOf s l.src l.commit l.taggen l.part = some f) :
    let line := (tctx (coreOf s l.dst) n).basinBase * 64 + g.base + l.slot * g.slotl + l.k
    let r := prBasin (recOf s l.part) l.dst
    r.1 * 64 ≤ line → line < r.2 * 64 → winOf (coreOf s l.dst) (line / 64) = none →
    Completes .peerLandingWrite s fun t =>
      t.fab.landing = rest ∧ t.fab.credit = s.fab.credit ∧
      BasinBecomes (coreOf s l.dst) (coreOf t l.dst) (line * 64) l.line.length (fun b => l.line.getD b 0) ∧
      vget (ctxRunOf t l.dst n).rings l.ring none = some { g with full := if l.last then g.full.set l.slot true else g.full } ∧
      (∃ h ∈ (coreOf t l.src).run.flight, h = { f with outst := f.outst - 1 }) ∧
      ∀ e, e ≠ l.dst → e ≠ l.src → coreOf t e = coreOf s e := by
  intro line r hlo hhi hw
  have hlive : landingWrite l (landTake rest s) = flightStep l.src f (landMark l n g (landStore l line (landTake rest s))) :=
    landingWrite_live hn hg hf hfl hlo hhi hw
  have hbasin : (coreOf (flightStep l.src f (landMark l n g (landStore l line (landTake rest s)))) l.dst).basin =
      smSetList byteZero (coreOf s l.dst).basin (line * 64) l.line := by
    rw [flightStep, modRun_field (f := putFlight _) (fun x => x.basin) hsrc (fun _ _ => rfl), landMark_basin hdst, landStore_basin hdst]
    rfl
  refine ⟨_, h.exec_eq.trans (congrArg Host.Outcome.next ((if_neg (by rw [fabLost_false ht]; exact Bool.false_ne_true)).trans hlive)), ?_, ?_, ⟨fun b hb => ?_, fun k hk => ?_⟩, ?_,
    ⟨_, ?_, rfl⟩, fun e hd hs => ?_⟩
  · rw [flightStep_fab, landMark_fab, landStore_fab]
    rfl
  · rw [flightStep_fab, landMark_fab, landStore_fab]
    rfl
  · rw [hbasin, smGet_setList_in _ _ _ _ _ hb]
    simp [List.getD_eq_getElem?_getD, hb]
  · rw [hbasin, smGet_setList_out _ _ _ _ _ hk]
  · rw [flightStep, ctxRunOf_modRun (f := putFlight _) (fun r => r.rings) hsrc (fun _ => rfl)]
    refine landMark_ring hdst (ctxByTag_lt hn) ?_
    rw [landStore_ctxRun hdst]
    exact hg
  · refine mem_flight_put (f := f) hsrc ?_ rfl
    rw [landMark_flight hdst, landStore_field hdst line (fun x => x.run.flight) (fun _ _ _ _ => rfl)]
    exact flightOf_mem hfl
  · rw [flightStep, coreOf_modRun_ne hs, landMark_others hd, landStore_core, coreOf_modCore_ne _ hd]
    rfl

/-- A credit adds one to the channel of its setup, or is counted (R270, R271). -/
theorem credit_returned (s : State) (k : Credit) (rest : List Credit) (n : Nat) (h : s.fab.credit = k :: rest) (hr : isReady s = true)
    (hd : k.dst < 16) (ht : replica s k.dst ≤ k.ts + 1000000) (hn : ctxByTag s k.dst k.part k.taggen = some n) :
    let w := vget (ctxRunOf s k.dst n).fwd k.ch {}
    Completes .creditReturn s fun t =>
      t.fab.credit = rest ∧ t.fab.landing = s.fab.landing ∧ (∀ e, e ≠ k.dst → coreOf t e = coreOf s e) ∧
      (w.valid = true → w.setup = k.setup →
        vget (ctxRunOf t k.dst n).fwd k.ch {} = { w with credits := min w.slots (w.credits + 1) } ∧ t.regs = s.regs) ∧
      (w.setup ≠ k.setup → t.kc = s.kc ∧
        (regGet t (kreg k.dst 0x2864)).toNat = min ((regGet s (kreg k.dst 0x2864)).toNat + 1) (2 ^ 32 - 1)) := by
  intro w
  have hexec := exec_creditReturn hr h
  rw [fabLost_false ht, if_neg Bool.false_ne_true] at hexec
  by_cases hlive : w.valid = true ∧ w.setup = k.setup
  · obtain ⟨hv, hq⟩ := hlive
    have htake : creditTake k (creditPop rest s) = modCtxRun k.dst n (withFwd k.ch (chanCredited w)) (creditPop rest s) :=
      creditTake_live (s := creditPop rest s) hn hv hq
    obtain ⟨kc, hkc⟩ := modCtxRun_rest k.dst n (withFwd k.ch (chanCredited w)) (creditPop rest s)
    refine ⟨_, hexec.trans (congrArg Host.Outcome.next htake), by rw [hkc]; rfl, by rw [hkc]; rfl, fun e he => ?_,
      fun _ _ => ⟨creditTake_chan (s := creditPop rest s) hd (ctxByTag_lt hn) hv _, by rw [hkc]; rfl⟩, fun hne => absurd hq hne⟩
    rw [coreOf_modCtxRun_ne he]
    rfl
  · have htake : creditTake k (creditPop rest s) = regCount (kreg k.dst 0x2864) 1 (creditPop rest s) :=
      creditTake_other (s := creditPop rest s) hn hlive
    have hcount := counted_at k.dst (creditPop rest s)
    refine ⟨_, hexec.trans (congrArg Host.Outcome.next htake), by rw [hcount.fab]; rfl, by rw [hcount.fab]; rfl, fun e _ => coreOf_congr hcount.kc e,
      fun hv hq => absurd ⟨hv, hq⟩ hlive, fun _ => ⟨hcount.kc, hcount.count⟩⟩

/-- Settles O49: SETUP and SEND issue and do their work (`issue_ok`, `peSetup_bound`, `peSend_done`); the oldest landing write or
credit arrives (`LandFront.exec_eq`, `exec_creditReturn`) and finds its channel live, gone or replaced. -/
theorem forwardChannels : Obligations.ForwardChannels := by
  unfold Obligations.ForwardChannels
  refine ⟨?setup, send_launches, ?landing, ?held, ?lost, ?old, credit_returned⟩
  case setup =>
    intro s c d n g h tx ch tc tr rg q
    exact ⟨setup_denied s c d h, fun h1 h2 h3 h4 h5 => setup_bound s c d n g h ⟨h1, h2, h3, h4, h5⟩⟩
  case landing =>
    intro s l rest hf hr hsrc hdst hfirst ht
    have hfront : LandFront s l rest := ⟨hr, hf, hfirst⟩
    have hexec := hfront.exec_eq
    rw [fabLost_false ht, if_neg Bool.false_ne_true] at hexec
    refine ⟨fun hn => ?_, fun n g hn hg hne => ?_, fun n g f => landing_stored s l rest hfront hsrc hdst ht n g f⟩
    · have hat := peerStale_at l.dst l.part (landTake rest s)
      exact ⟨_, hexec.trans (congrArg Host.Outcome.next (landingWrite_gone (s := landTake rest s) hn)), congrArg FabQ.landing hat.fab, hat.kc, hat.count⟩
    · have hat := counted_at l.dst (landTake rest s)
      exact ⟨_, hexec.trans (congrArg Host.Outcome.next (landingWrite_other (s := landTake rest s) hn hg hne)), congrArg FabQ.landing hat.fab, hat.kc, hat.count⟩
  case held =>
    intro s l hf hr
    obtain ⟨r, hr, hb, hs, hd, ho⟩ := hr
    have hany : s.fab.remote.any (precedes l) = true := List.any_eq_true.mpr ⟨r, hr, precedes_iff.mpr ⟨hb, hs, hd, ho⟩⟩
    have hnone : landNext s [] s.fab.landing = none := by
      rw [hf, landNext_cons hany]
      rfl
    change execPeerLandingWrite s = _
    unfold execPeerLandingWrite
    rw [hnone]
  case lost =>
    intro s l rest hf hr hfirst ht
    have hlost : fabLost s l.dst l.ts = true := decide_eq_true ht
    exact ⟨_, (LandFront.mk hr hf hfirst).exec_eq.trans (congrArg Host.Outcome.next (if_pos hlost)), rfl⟩
  case old =>
    intro s k rest hf hr ht
    have hlost : fabLost s k.dst k.ts = true := decide_eq_true ht
    exact ⟨_, (exec_creditReturn hr hf).trans (congrArg Host.Outcome.next (if_pos hlost)), rfl⟩

end Sys2Proof.Proofs

/-! ## Retirement of descriptors -/

namespace Sys2Proof.Machine

section
variable {s t u : State} {c e : Nat}

/-! ### Semaphores -/

theorem semGet_congr (hk : t.kc = s.kc) (hs : t.sems = s.sems) (c q : Nat) : semGet t c q = semGet s c q := by
  unfold semGet
  rw [coreOf_congr hk, hs]

theorem semGet_semPut_ne {p q : Nat} (hc : c < 16) (h : q ≠ p) (v : Nat) (s : State) : semGet (semPut c p v s) c q = semGet s c q := by
  unfold semGet semPut
  by_cases hp : p < 64
  · rw [if_pos hp]
    split
    · rw [coreOf_modRun_self hc]
      exact vget_vset_ne _ _ _ h.symm
    · rfl
  · rw [if_neg hp]
    split
    · rfl
    · exact vget_vset_ne _ _ _ (by omega)

theorem semGet_semPut_self {q : Nat} (hc : c < 16) (h : q < 32 ∨ (64 ≤ q ∧ q < 128)) (v : Nat) (s : State) :
    semGet (semPut c q v s) c q = v := by
  unfold semGet semPut
  by_cases hq : q < 64
  · rw [if_pos hq, if_pos hq, coreOf_modRun_self hc]
    exact vget_vset_self _ _ _ _ (by omega)
  · rw [if_neg hq, if_neg hq]
    exact vget_vset_self _ _ _ _ (by omega)

theorem semGet_coreFault (d eng : Nat) (commit : Option Nat) (code : FaultCode) (q : Nat) (s : State) :
    semGet (coreFault d eng commit code s) c q = semGet s c q := by
  obtain ⟨g, x, -, -, h⟩ := coreFault_spec d eng commit code s
  have hrest := (FaultPath.raise g { s with regs := x }).rest
  rw [h]
  exact semGet_congr (congrArg (fun v : State => v.kc) hrest) (congrArg (fun v : State => v.sems) hrest) c q

/-- Sets leave every semaphore that they do not name (R302). -/
theorem semGet_applySets_out {q : Nat} (hc : c < 16) (eng commit : Nat) (ds : List (Nat × Nat)) (h : ds.all (fun e => e.1 != q) = true)
    (s : State) : semGet (applySets c eng commit ds s) c q = semGet s c q := by
  unfold applySets
  induction ds generalizing s with
  | nil => rfl
  | cons d ds ih =>
    rw [List.all_cons, Bool.and_eq_true] at h
    obtain ⟨hd, hds⟩ := h
    rw [List.foldl_cons, ih hds]
    split
    · exact semGet_coreFault c eng _ _ q s
    · exact semGet_semPut_ne hc (by simpa using Ne.symm (bne_iff_ne.mp hd)) _ s

theorem semGet_applySets_one {q n : Nat} (hc : c < 16) (eng commit : Nat) (hq : q < 32 ∨ (64 ≤ q ∧ q < 128))
    (ho : semOwned s (ctxOf (coreOf s c)).part q = true) (hn : semGet s c q + n ≤ 65535) :
    semGet (applySets c eng commit [(q, n)] s) c q = semGet s c q + n := by
  have hfault : semFault s c (ctxOf (coreOf s c)).part q n = none := by
    unfold semFault
    rw [ho, Bool.not_true, if_neg Bool.false_ne_true, if_neg (by omega)]
  unfold applySets
  rw [List.foldl_cons, List.foldl_nil]
  dsimp only
  rw [hfault]
  exact semGet_semPut_self hc hq _ s

/-! ### Item records (R377) -/

theorem sendMsix_frame (h v : Nat) (s : State) : ∃ p o, sendMsix h v s = { s with hst := { s.hst with ports := p }, out := o } := by
  unfold sendMsix
  dsimp only
  split
  · exact ⟨s.hst.ports, s.out, rfl⟩
  · split
    · exact ⟨_, s.out, rfl⟩
    · exact ⟨_, _, rfl⟩

theorem setRings_frame (p : Nat) (g : RingSet) (s : State) : ∃ x, setRings p g s = { s with parts := x } := ⟨_, rfl⟩

theorem ringSignal_frame (p h : Nat) (s : State) :
    ∃ x q o, ringSignal p h s = { s with parts := x, hst := { s.hst with ports := q }, out := o } := by
  unfold ringSignal
  dsimp only
  obtain ⟨x, hx⟩ := setRings_frame p { ringsOf s p with unsig := 0 } s
  obtain ⟨q, o, hq⟩ := sendMsix_frame h (ringsOf s p).vec (setRings p { ringsOf s p with unsig := 0 } s)
  exact ⟨x, q, o, by rw [hq, hx]⟩

/-- A record changes its ring, its port, the device's output and HST's last stamp. -/
theorem postRecord_frame (p : Nat) (rsv : Bool) (cause : Nat) (r : CqRec) (s : State) : ∃ x q l o, postRecord p rsv cause r s =
    { s with parts := x, hst := { s.hst with ports := q }, tb := { s.tb with last := l }, out := o } := by
  unfold postRecord
  extract_lets g
  split
  · exact ⟨s.parts, s.hst.ports, s.tb.last, s.out, rfl⟩
  next h _ =>
    split
    · exact ⟨s.parts, s.hst.ports, s.tb.last, s.out, rfl⟩
    · extract_lets s1 g' s2
      obtain ⟨o, l, h1⟩ : ∃ o l, s1 = { s with tb := { s.tb with last := l }, out := o } := ⟨_, _, rfl⟩
      obtain ⟨x, h2⟩ : ∃ x, s2 = { s1 with parts := x } := setRings_frame p g' s1
      clear_value s1 s2
      subst h1 h2
      split
      · obtain ⟨y, q, o', h3⟩ := ringSignal_frame p h { s with tb := { s.tb with last := l }, out := o, parts := x }
        exact ⟨y, q, l, o', h3⟩
      · exact ⟨x, s.hst.ports, l, o, rfl⟩

/-- Recording an item changes its job's counts and what HST sends, nothing of the cores and of FAB. -/
structure ItemStep (slot : Nat) (s t : State) : Prop where
  kc : t.kc = s.kc
  sems : t.sems = s.sems
  fab : t.fab = s.fab
  dbg : t.dbg = s.dbg
  job : ∃ r i, jobOf t slot = { jobOf s slot with rsv := r, itemsAll := i }

theorem descItem_step {slot : Nat} (h : (jobOf s slot).st ≠ .draining) (c commit status code event : Nat) :
    ItemStep slot s (descItem slot c commit status code event s) ∧
      ((jobOf s slot).silent = false → (jobOf (descItem slot c commit status code event s) slot).itemsAll = (jobOf s slot).itemsAll + 1) := by
  unfold descItem
  dsimp only
  rw [if_neg fun k => h k.1]
  split
  next hs => exact ⟨⟨rfl, rfl, rfl, rfl, _, _, rfl⟩, fun k => by rw [hs] at k; cases k⟩
  next =>
    generalize hj : jobOf s slot = j
    obtain ⟨x, q, l, o, hp⟩ := postRecord_frame j.part true event
      ⟨tagGen j + j.part * 0x1000000, 1, status, code, event, commit, c, j.attempt, 0, 0⟩
      (setJob slot { j with rsv := j.rsv - 1, itemsAll := j.itemsAll + 1 } s)
    have hjob : jobOf (postRecord j.part true event
        ⟨tagGen j + j.part * 0x1000000, 1, status, code, event, commit, c, j.attempt, 0, 0⟩
        (setJob slot { j with rsv := j.rsv - 1, itemsAll := j.itemsAll + 1 } s)) slot =
        { j with rsv := j.rsv - 1, itemsAll := j.itemsAll + 1 } := by
      rw [hp]
      exact jobOf_setJob_self s slot _
    refine ⟨⟨?_, ?_, ?_, ?_, j.rsv - 1, j.itemsAll + 1, ?_⟩, fun _ => ?_⟩
    · rw [hp]; rfl
    · rw [hp]; rfl
    · rw [hp]; rfl
    · rw [hp]; rfl
    · rw [hjob, hj]
    · rw [hjob]

/-! ### A descriptor retires (R158) -/

section
variable {f : Flight} {ts : Nat}

/-- What runs on the core once the descriptor has left and its values are posted. -/
def retiredRun (f : Flight) (r : CtxRun) : CtxRun := { r with
  flight := r.flight.filter (·.d.commit != f.d.commit)
  sb := r.sb.filter (·.commit != f.d.commit)
  cc := { r.cc with
    ge := match f.geVal with
      | some v => BitVec.ofNat 32 (min v 0xFFFFFFFF)
      | none => r.cc.ge
    red := f.reds.foldl (fun v e => vset v e.1 e.2) r.cc.red } }

/-- The descriptor has left and its values are posted. -/
def retired (c : Nat) (f : Flight) (ts : Nat) (s : State) : State :=
  retireCounters c f (retireValues c f (modRun c (fun r => releaseAll f.d.commit (dropFlight f.d.commit r)) (keepStamp c ts s)))

theorem retireCounters_frame (c : Nat) (f : Flight) (s : State) : ∃ g, retireCounters c f s = { s with regs := g } := by
  unfold retireCounters
  split
  · exact ⟨_, rfl⟩
  · exact ⟨s.regs, rfl⟩

/-- What retirement changes before its sets: one core's run, registers and the core's last stamp. -/
structure RetiredStep (c : Nat) (f : Flight) (s t : State) : Prop where
  rest : ∃ k g l, t = { s with kc := k, regs := g, tb := { s.tb with last := l } }
  others : ∀ e, e ≠ c → coreOf t e = coreOf s e
  core : coreOf t c = { coreOf s c with run := retiredRun f (coreOf s c).run }

theorem retired_step (hc : c < 16) (f : Flight) (ts : Nat) (s : State) : RetiredStep c f s (retired c f ts s) := by
  obtain ⟨g, hg⟩ := retireCounters_frame c f
    (retireValues c f (modRun c (fun r => releaseAll f.d.commit (dropFlight f.d.commit r)) (keepStamp c ts s)))
  unfold retired
  rw [hg]
  refine ⟨⟨_, g, _, rfl⟩, fun e he => ?_, ?_⟩
  · rw [coreOf_regs, retireValues, modCc, coreOf_modRun_ne he, coreOf_modRun_ne he]
    rfl
  · rw [coreOf_regs, retireValues, modCc, coreOf_modRun_self hc, coreOf_modRun_self hc]
    rfl

/-- The sets applied and the job's watchdog reset. -/
def retiredSets (c : Nat) (f : Flight) (ts : Nat) (s : State) : State :=
  jobProgress (ctxOf (coreOf s c)).slot ts (applySets c f.eng f.d.commit (setsOf f.d.w true) (retired c f ts s))

/-- The item recorded. -/
def retiredItem (c : Nat) (f : Flight) (ts : Nat) (s : State) : State :=
  if bitOf (f.d.w.getD 0 0).toNat 11 then descItem (ctxOf (coreOf s c)).slot c f.d.commit 0 0 ts (retiredSets c f ts s)
  else retiredSets c f ts s

/-- What the sets and the watchdog leave. -/
structure SetsDone (c : Nat) (f : Flight) (ts : Nat) (s t : State) : Prop where
  others : ∀ e, e ≠ c → coreOf t e = coreOf s e
  core : ∃ z, coreOf t c = { coreOf s c with run := { retiredRun f (coreOf s c).run with sems := z } }
  fab : t.fab = s.fab
  dbg : t.dbg = s.dbg
  job : jobOf t (ctxOf (coreOf s c)).slot = { jobOf s (ctxOf (coreOf s c)).slot with wd := 0, lastRetire := ts }

theorem retiredSets_done (hc : c < 16) (f : Flight) (ts : Nat) (s : State) : SetsDone c f ts s (retiredSets c f ts s) := by
  have hstep := retired_step hc f ts s
  have hsets := applySets_step hc f.eng f.d.commit (setsOf f.d.w true) (retired c f ts s)
  unfold retiredSets
  obtain ⟨⟨k, g, l, hr⟩, hother, hcore⟩ := hstep
  generalize retired c f ts s = u at hr hother hcore hsets
  obtain ⟨⟨k2, m, g2, a, l2, hr2⟩, hother2, z, hz⟩ := hsets
  generalize applySets c f.eng f.d.commit (setsOf f.d.w true) u = v at hr2 hother2 hz
  have hhst : v.hst = s.hst := by rw [hr2, hr]
  refine ⟨fun e he => (hother2 e he).trans (hother e he), ⟨z, ?_⟩, ?_, ?_, ?_⟩
  · exact hz.trans (by rw [hcore])
  · show v.fab = s.fab
    rw [hr2, hr]
  · show v.dbg = s.dbg
    rw [hr2, hr]
  · unfold jobProgress modJob
    rw [jobOf_setJob_self, jobOf, hhst]
    rfl

theorem semGet_retiredSets (f : Flight) (ts q : Nat) (s : State) :
    semGet (retiredSets c f ts s) c q = semGet (applySets c f.eng f.d.commit (setsOf f.d.w true) (retired c f ts s)) c q := rfl

theorem semGet_retired (hc : c < 16) (f : Flight) (ts q : Nat) (s : State) : semGet (retired c f ts s) c q = semGet s c q := by
  obtain ⟨⟨k, g, l, hr⟩, -, hcore⟩ := retired_step hc f ts s
  have hsems : (retired c f ts s).sems = s.sems := by rw [hr]
  unfold semGet
  rw [hcore, hsems]
  rfl

theorem semOwned_retired (hc : c < 16) (f : Flight) (ts q : Nat) (s : State) :
    semOwned (retired c f ts s) (ctxOf (coreOf (retired c f ts s) c)).part q = semOwned s (ctxOf (coreOf s c)).part q := by
  obtain ⟨⟨k, g, l, hr⟩, -, hcore⟩ := retired_step hc f ts s
  have hparts : (retired c f ts s).parts = s.parts := by rw [hr]
  have hctx : ctxOf (coreOf (retired c f ts s) c) = ctxOf (coreOf s c) := by
    rw [hcore]
    rfl
  unfold semOwned recOf partOf
  rw [hctx, hparts]

/-- What the item record leaves. -/
theorem retiredItem_step (hc : c < 16) (f : Flight) (ts : Nat) (h : (jobOf s (ctxOf (coreOf s c)).slot).st ≠ .draining) :
    ItemStep (ctxOf (coreOf s c)).slot (retiredSets c f ts s) (retiredItem c f ts s) := by
  have hjob := (retiredSets_done hc f ts s).job
  unfold retiredItem
  split
  · exact (descItem_step (by rw [hjob]; exact h) c _ _ _ _).1
  · exact ⟨rfl, rfl, rfl, rfl, _, _, rfl⟩

theorem retire_eq (hc : c < 16) (f : Flight) (h : (jobOf s (ctxOf (coreOf s c)).slot).st ≠ .draining)
    (hp : (coreOf s c).run.cc.pendCommit = none) (hw : (haltOf s c).stopWait = false) :
    retire c f s = retiredItem c f (stampOf s c 0) s := by
  have hdone := retiredSets_done hc f (stampOf s c 0) s
  have hitem := retiredItem_step hc f (stampOf s c 0) h
  have hcommit : commitResume c (retiredItem c f (stampOf s c 0) s) = retiredItem c f (stampOf s c 0) s := by
    obtain ⟨z, hz⟩ := hdone.core
    refine commitResume_none ?_
    rw [coreOf_congr hitem.kc, hz]
    exact hp
  have hhalt : haltOf (retiredItem c f (stampOf s c 0) s) c = haltOf s c := by
    unfold haltOf
    rw [hitem.dbg, hdone.dbg]
  have hstop : stopCapture c (retiredItem c f (stampOf s c 0) s) = retiredItem c f (stampOf s c 0) s := by
    unfold stopCapture
    dsimp only
    rw [hhalt, hw, Bool.false_and, if_neg Bool.false_ne_true]
  have hfold : retire c f s = stopCapture c (commitResume c (retiredItem c f (stampOf s c 0) s)) := rfl
  rw [hfold, hcommit, hstop]

/-- The ring that a RINGSET's words define (R314). -/
def definedRing (w : List Word) : Ring :=
  { base := wbits w 11 0 17, slotl := wbits w 11 17 11, prod := wbits w 12 12 3, cons := wbits w 12 15 3,
    checked := wbits w 12 18 1 = 1, full := List.replicate (wbits w 12 0 8 + 1) false }

theorem ringDefine_eq (c : Nat) (w : List Word) (s : State) : ringDefine c w s = modRun c (withRing (wbits w 12 8 4) (definedRing w)) s := rfl

/-- The state that a retirement leaves. -/
def retiredState (c : Nat) (f : Flight) (s : State) : State :=
  if wbits f.d.w 0 0 8 = 0x65 then ringDefine c f.d.w (retiredItem c f (stampOf s c 0) s) else retiredItem c f (stampOf s c 0) s

theorem drainCheck_running {slot commit : Nat} (h : (jobOf s slot).st ≠ .draining) : drainCheck slot c commit s = s :=
  if_neg fun k => h k.1

theorem engineResume_none {eng : Nat} (h : ∀ g ∈ (coreOf s c).run.flight, g.eng = eng → resumes (coreOf s c) g = false) :
    engineResume c eng s = s := by
  have hnone : ((coreOf s c).run.flight.find? fun g => g.eng == eng && resumes (coreOf s c) g) = none := by
    rw [List.find?_eq_none]
    intro g hg hr
    obtain ⟨he, hr⟩ := Bool.and_eq_true_iff.mp hr
    rw [h g hg (beq_iff_eq.mp he)] at hr
    cases hr
  unfold engineResume
  rw [hnone]

theorem retirable_mem {x : Core} {eng : Nat} (h : retirable x eng = some f) : f ∈ x.run.flight ∧ f.eng = eng := by
  have hp := List.find?_some h
  simp only [Bool.and_eq_true, beq_iff_eq] at hp
  obtain ⟨⟨⟨heng, -⟩, -⟩, -⟩ := hp
  exact ⟨List.mem_of_find?_eq_some h, heng⟩

/-- The rings after a retirement: a RINGSET's stands defined and empty (R314). -/
def retiredRings (f : Flight) (r : CtxRun) : Vector (Option Ring) 16 :=
  if wbits f.d.w 0 0 8 = 0x65 then vset r.rings (wbits f.d.w 12 8 4) (some (definedRing f.d.w)) else r.rings

/-- What a retirement leaves of its core, the others, FAB, the semaphores and the job. -/
structure RetiredAt (c : Nat) (f : Flight) (s t : State) : Prop where
  others : ∀ e, e ≠ c → coreOf t e = coreOf s e
  core : ∃ z, coreOf t c = { coreOf s c with run := { retiredRun f (coreOf s c).run with sems := z, rings := retiredRings f (coreOf s c).run } }
  fab : t.fab = s.fab
  sems : ∀ q, semGet t c q = semGet (retiredSets c f (stampOf s c 0) s) c q
  job : ∀ n, jobOf t n = jobOf (retiredItem c f (stampOf s c 0) s) n

theorem retiredState_at (hc : c < 16) (f : Flight) (h : (jobOf s (ctxOf (coreOf s c)).slot).st ≠ .draining) :
    RetiredAt c f s (retiredState c f s) := by
  obtain ⟨hother, ⟨z, hz⟩, hfab, -, -⟩ := retiredSets_done hc f (stampOf s c 0) s
  have hitem := retiredItem_step hc f (stampOf s c 0) h
  have hsems := semGet_congr hitem.kc hitem.sems c
  have hcore := coreOf_congr hitem.kc
  unfold retiredState
  by_cases hop : wbits f.d.w 0 0 8 = 0x65
  · rw [if_pos hop, ringDefine_eq]
    have hself := coreOf_modRun_self hc (withRing (wbits f.d.w 12 8 4) (definedRing f.d.w)) (retiredItem c f (stampOf s c 0) s)
    refine ⟨fun e he => ?_, ⟨z, ?_⟩, hitem.fab.trans hfab, fun q => ?_, fun _ => rfl⟩
    · rw [coreOf_modRun_ne he, hcore, hother e he]
    · rw [hself, hcore, hz, retiredRings, if_pos hop]
      rfl
    · rw [← hsems]
      unfold semGet
      rw [hself]
      rfl
  · rw [if_neg hop]
    refine ⟨fun e he => by rw [hcore, hother e he], ⟨z, ?_⟩, hitem.fab.trans hfab, hsems, fun _ => rfl⟩
    rw [hcore, hz, retiredRings, if_neg hop]
    rfl

end

/-- What the retirement of an engine's oldest finished descriptor asks (R158). -/
structure Retires (s : State) (c : Fin 16) (eng : Fin 5) (f : Flight) : Prop where
  ready : isReady s = true
  running : (ctxOf (coreOf s c.val)).st = .running
  free : (coreOf s c.val).stop = none
  job : (jobOf s (ctxOf (coreOf s c.val)).slot).st = .running
  idle : ∀ g ∈ (coreOf s c.val).run.flight, g.eng = eng.val → resumes (coreOf s c.val) g = false
  oldest : retirable (coreOf s c.val) eng.val = some f
  commit : (coreOf s c.val).run.cc.pendCommit = none
  halt : (haltOf s c.val).stopWait = false
  crossed : crossed s islHst (stampOf s c.val 0) = true

theorem Retires.notDraining {c : Fin 16} {eng : Fin 5} {f : Flight} (h : Retires s c eng f) :
    (jobOf s (ctxOf (coreOf s c.val)).slot).st ≠ .draining := by
  rw [h.job]
  exact JobState.noConfusion

theorem Retires.exec_eq {c : Fin 16} {eng : Fin 5} {f : Flight} (h : Retires s c eng f) :
    exec (.descriptorRetire c eng) s = .next (retiredState c.val f s) := by
  have hat := retiredState_at c.isLt f h.notDraining
  have hitem := retiredItem_step c.isLt f (stampOf s c.val 0) h.notDraining
  have hdrain : (jobOf (retiredState c.val f s) (ctxOf (coreOf s c.val)).slot).st ≠ .draining := by
    obtain ⟨r, i, hj⟩ := hitem.job
    rw [hat.job, hj, (retiredSets_done c.isLt f (stampOf s c.val 0) s).job]
    exact h.notDraining
  change execDescriptorRetire c eng s = _
  unfold execDescriptorRetire
  dsimp only
  rw [h.free, h.ready, h.running, h.crossed, engineResume_none h.idle, h.oldest]
  dsimp only
  rw [retire_eq c.isLt f h.notDraining h.commit h.halt]
  exact congrArg Host.Outcome.next (drainCheck_running hdrain)

/-- With nothing to resume and nothing to retire, nothing changes. -/
theorem exec_retire_none {c : Fin 16} {eng : Fin 5}
    (hi : ∀ g ∈ (coreOf s c.val).run.flight, g.eng = eng.val → resumes (coreOf s c.val) g = false)
    (hn : retirable (coreOf s c.val) eng.val = none) : exec (.descriptorRetire c eng) s = .next s := by
  change execDescriptorRetire c eng s = _
  unfold execDescriptorRetire
  dsimp only
  rw [engineResume_none hi, hn]
  exact congrArg Host.Outcome.next (ite_self s)

/-- While the item's message cannot be taken, nothing changes (R52). -/
theorem exec_retire_held {c : Fin 16} {eng : Fin 5} (h : crossed s islHst (stampOf s c.val 0) = false) :
    exec (.descriptorRetire c eng) s = .next s := by
  change execDescriptorRetire c eng s = _
  unfold execDescriptorRetire
  dsimp only
  rw [h, Bool.and_false, if_neg Bool.false_ne_true]

end

end Sys2Proof.Machine

namespace Sys2Proof.Proofs
open Sys2Proof.Machine

/-- Settles O50: the oldest finished descriptor leaves and its values are posted (`retired_step`), its sets are applied
(`semGet_applySets_out`, `semGet_applySets_one`), its job and item recorded (`retiredSets_done`, `descItem_step`). -/
theorem descriptorsRetire : Obligations.DescriptorsRetire := by
  unfold Obligations.DescriptorsRetire
  refine ⟨?_, fun s c eng h => exec_retire_held h, fun s c eng hi hn => exec_retire_none hi hn⟩
  intro s c eng f x tx sets hready _ hrun hstop hjob hidle hold hcommit hhalt hcross
  have hret : Retires s c eng f := ⟨hready, hrun, hstop, hjob, hidle, hold, hcommit, hhalt, hcross⟩
  obtain ⟨hmem, heng⟩ := retirable_mem hold
  obtain ⟨hother, ⟨z, hcore⟩, hfab, hsems, hjobs⟩ := retiredState_at c.isLt f hret.notDraining
  have hsets := (retiredSets_done c.isLt f (stampOf s c.val 0) s).job
  obtain ⟨r, i, hitem⟩ := (retiredItem_step c.isLt f (stampOf s c.val 0) hret.notDraining).job
  refine ⟨_, hret.exec_eq, hmem, heng, ?_, ?_, ?_, ?_, fun hreds => ?_, fun j v hreds hj => ?_, ?_, fun q hq => ?_, fun q n hq hlt hown hle => ?_,
    ?_, ?_, fun hvis hsil => ?_, fun hvis => ?_, fun hop => ?_, fun hop => ?_, ?_, ?_, ?_, hother, hfab⟩
  · rw [hcore]
    rfl
  · rw [hcore]
    rfl
  · rw [hcore]
    rfl
  · rw [hcore]
    rfl
  · rw [hcore]
    simp only [retiredRun, hreds, List.foldl_nil]
    rfl
  · rw [hcore]
    simp only [retiredRun, hreds, List.foldl_cons, List.foldl_nil]
    exact vget_vset_self _ _ _ _ hj
  · rw [hcore]
    rfl
  · rw [hsems, semGet_retiredSets, semGet_applySets_out c.isLt _ _ _ hq, semGet_retired c.isLt]
  · have hkeep := semGet_retired c.isLt f (stampOf s c.val 0) q s
    have hset : setsOf f.d.w true = [(q, n)] := hq
    rw [hsems, semGet_retiredSets, hset, semGet_applySets_one c.isLt _ _ hlt ?_ (by rw [hkeep]; exact hle), hkeep]
    rw [semOwned_retired c.isLt]
    exact hown
  · rw [hjobs, hitem, hsets]
  · rw [hjobs, hitem, hsets]
  · rw [hjobs, retiredItem, if_pos hvis, (descItem_step (by rw [hsets]; exact hret.notDraining) _ _ _ _ _).2 (by rw [hsets]; exact hsil), hsets]
  · rw [hjobs, retiredItem, hvis, if_neg Bool.false_ne_true, hsets]
  · rw [hcore, retiredRings, if_neg hop]
  · rw [hcore, retiredRings, if_pos hop]
    exact vget_vset_self _ _ _ _ (wbits_lt f.d.w 12 8 4)
  · rw [hcore]
  · rw [hcore]
  · rw [hcore]

end Sys2Proof.Proofs

/-! ## Frames and injected blocks -/

namespace Sys2Proof.Machine

/-! ### Counters that wrap, and counters in half a register (R20) -/

section
variable (s : State)

theorem regWrap_frame (k d : Nat) : ∃ g, regWrap k d s = { s with regs := g } := ⟨_, rfl⟩

theorem regGet_wrap_self (k d : Nat) : regGet (regWrap k d s) k = regGet s k + BitVec.ofNat 32 d := regGet_put_self s k _

theorem regGet_wrap_ne {k j : Nat} (h : j ≠ k) (d : Nat) : regGet (regWrap k d s) j = regGet s j := regGet_put_ne s h _

theorem regGet_countField_low (k : Nat) :
    (regGet (regCountField k 0 16 1 s) k).toNat % 65536 = min ((regGet s k).toNat % 65536 + 1) 65535 := by
  have hv := (regGet s k).isLt
  rw [regCountField, regGet_put_self, BitVec.toNat_ofNat]
  simp only [putBits, bits, satAdd]
  omega

end

/-! ### One stream context is set -/

section
variable {s t u : State} {c : Nat} {x : StreamCtx}

/-- A stream context reads as before, or is the one that was set. -/
theorem ingCtx_set_cases (c : Nat) (x : StreamCtx) (s : State) (d : Nat) :
    ingCtx (setIngCtx c x s) d = ingCtx s d ∨ d = c ∧ ingCtx (setIngCtx c x s) d = x := by
  by_cases hd : d = c
  · subst hd
    by_cases hc : d < 128
    · exact .inr ⟨rfl, ingCtx_set_self s hc x⟩
    · exact .inl (by simp [ingCtx, setIngCtx, vget, hc])
  · exact .inl (ingCtx_set_ne hd x s)

/-! ### A packet that finds no room (R65) -/

/-- Only contexts, the fault path and stamps move; no sweep opens or closes, and a degraded one stays so. -/
structure SweepsKept (s t : State) : Prop where
  macs : t.ing.macs = s.ing.macs
  regs : t.regs = s.regs
  vox : t.vox = s.vox
  hst : t.hst = s.hst
  od : t.od = s.od
  isOpen : ∀ d, (ingCtx t d).sweepOpen = (ingCtx s d).sweepOpen
  degraded : ∀ d, (ingCtx s d).degraded = true → (ingCtx t d).degraded = true

theorem SweepsKept.refl (s : State) : SweepsKept s s := ⟨rfl, rfl, rfl, rfl, rfl, fun _ => rfl, fun _ => id⟩

theorem SweepsKept.trans (h : SweepsKept s t) (k : SweepsKept t u) : SweepsKept s u :=
  ⟨k.macs.trans h.macs, k.regs.trans h.regs, k.vox.trans h.vox, k.hst.trans h.hst, k.od.trans h.od,
    fun d => (k.isOpen d).trans (h.isOpen d), fun d => k.degraded d ∘ h.degraded d⟩

theorem SweepsKept.raise (h : SweepsKept s t) (f : FaultRec) : SweepsKept s (Machine.raise f t) := by
  obtain ⟨w, q, l, n, y, hr⟩ := raise_frame f t
  rw [hr]
  exact ⟨h.macs, h.regs, h.vox, h.hst, h.od, h.isOpen, h.degraded⟩

theorem SweepsKept.set (ho : x.sweepOpen = (ingCtx s c).sweepOpen) (hd : (ingCtx s c).degraded = true → x.degraded = true) :
    SweepsKept s (setIngCtx c x s) := by
  refine ⟨rfl, rfl, rfl, rfl, rfl, fun d => ?_, fun d h => ?_⟩ <;>
    obtain e | ⟨rfl, e⟩ := ingCtx_set_cases c x s d <;> rw [e]
  · exact ho
  · exact h
  · exact hd h

theorem dropPacket_sweeps (c : Nat) (s : State) : SweepsKept s (dropPacket c s) := by
  unfold dropPacket
  extract_lets x
  split
  · have hset : SweepsKept s (setIngCtx c { ingCtx s c with dropSeen := true } s) := .set rfl id
    exact hset.raise (plainFault .ingressDrop islIng none)
  · exact .refl s

theorem degradeOpen_open (x : StreamCtx) : (degradeOpen x).sweepOpen = x.sweepOpen := by
  unfold degradeOpen
  split <;> rfl

theorem degradeOpen_degraded (h : x.degraded = true ∨ x.sweepOpen = true) : (degradeOpen x).degraded = true := by
  unfold degradeOpen
  split
  · rfl
  next ho => exact h.resolve_right ho

theorem degradeCtx_sweeps (c : Nat) (s : State) : SweepsKept s (degradeCtx c s) :=
  .set (degradeOpen_open _) fun h => degradeOpen_degraded (.inl h)

/-- What an overflow of a MAC does to one context. -/
def overflowCtx (m : Nat) (s : State) (c : Nat) : State :=
  if ctxNat s c 2 = m ∧ (ingCtx s c).sweepOpen then dropPacket c (degradeCtx c s) else s

theorem overflowCtx_sweeps (m : Nat) (s : State) (c : Nat) : SweepsKept s (overflowCtx m s c) := by
  unfold overflowCtx
  split
  · exact (degradeCtx_sweeps c s).trans (dropPacket_sweeps c _)
  · exact .refl s

/-- The open sweep of a context of the MAC is degraded. -/
theorem overflowCtx_degrades {m : Nat} (hm : ctxNat s c 2 = m) (ho : (ingCtx s c).sweepOpen = true) :
    (ingCtx (overflowCtx m s c) c).degraded = true := by
  rw [overflowCtx, if_pos ⟨hm, ho⟩]
  refine (dropPacket_sweeps c _).degraded c ?_
  have hself : ingCtx (degradeCtx c s) c = degradeOpen (ingCtx s c) := ingCtx_set_self s (lt_of_sweepOpen ho) _
  rw [hself]
  exact degradeOpen_degraded (.inr ho)

theorem overflow_sweeps (m : Nat) (l : List Nat) (s : State) : SweepsKept s (l.foldl (overflowCtx m) s) :=
  foldl_keeps (P := SweepsKept s) (fun u c h => h.trans (overflowCtx_sweeps m u c)) l (.refl s)

/-- Every open sweep among the contexts of the MAC is degraded. -/
theorem overflow_degrades {m : Nat} {l : List Nat} (hc : c ∈ l) (hm : ctxNat s c 2 = m) (ho : (ingCtx s c).sweepOpen = true) :
    (ingCtx (l.foldl (overflowCtx m) s) c).degraded = true := by
  induction l generalizing s with
  | nil => cases hc
  | cons d l ih =>
    have hk := overflowCtx_sweeps m s d
    obtain rfl | hc := List.mem_cons.mp hc
    · exact (overflow_sweeps m l _).degraded c (overflowCtx_degrades hm ho)
    · exact ih hc (by rw [ctxNat, odNat, odGet, hk.od]; exact hm) ((hk.isOpen c).trans ho)

theorem rxOverflow_sweeps (m : Nat) (s : State) : SweepsKept (regCount (ingMacReg m 0x0C) 1 s) (rxOverflow m s) :=
  overflow_sweeps m (List.range 128) _

theorem rxOverflow_degrades {m : Nat} (hc : c < 128) (hm : ctxNat s c 2 = m) (ho : (ingCtx s c).sweepOpen = true) :
    (ingCtx (rxOverflow m s) c).degraded = true :=
  overflow_degrades (s := regCount (ingMacReg m 0x0C) 1 s) (List.mem_range.mpr hc) hm ho

end

/-! ### A frame at a sensor MAC (R63 to R65) -/

section
variable {s : State} {m : Nat} {f : List Byte} {ok : Bool} {p : UdpPkt} {c : Nat}

theorem ingMacReg_ne {a b : Nat} (h : a ≠ b) : ingMacReg m a ≠ ingMacReg m b := by
  simp only [ingMacReg, ingReg, rkey]
  omega

/-- A frame is received: it is counted. -/
def frameCounted (m : Nat) (s : State) : State := regWrap (ingMacReg m 0) 1 s

/-- A frame received and counted once more, for what it is. -/
theorem frameCounted_counted {a : Nat} (ha : a ≠ 0) (m : Nat) (s : State) :
    (regGet (regCount (ingMacReg m a) 1 (frameCounted m s)) (ingMacReg m a)).toNat =
      min ((regGet s (ingMacReg m a)).toNat + 1) (2 ^ 32 - 1) := by
  rw [regGet_count_self, frameCounted, regGet_wrap_ne s (ingMacReg_ne ha)]

theorem frameCounted_overflow (m : Nat) (s : State) :
    (regGet (rxOverflow m (frameCounted m s)) (ingMacReg m 0x0C)).toNat =
      min ((regGet s (ingMacReg m 0x0C)).toNat + 1) (2 ^ 32 - 1) := by
  rw [regGet, (rxOverflow_sweeps m (frameCounted m s)).regs]
  exact frameCounted_counted (by decide) m s

theorem frameCounted_frame (k m : Nat) (s : State) : ∃ g, regCount k 1 (frameCounted m s) = { s with regs := g } := by
  obtain ⟨g, hg⟩ := regCount_frame (frameCounted m s) k 1
  exact ⟨g, hg⟩

theorem frameCounted_rest (k m : Nat) (s : State) : { regCount k 1 (frameCounted m s) with regs := s.regs } = s := by
  obtain ⟨g, hg⟩ := frameCounted_frame k m s
  rw [hg]

theorem frameRx_err (hr : isReady s = true) (hk : frameKind s m f ok = .err) :
    frameRx m f ok s = regCount (ingMacReg m 4) 1 (frameCounted m s) := by
  have hk' : frameKind (regWrap (ingMacReg m 0) 1 s) m f ok = .err := hk
  simp only [frameRx, hr, hk', Bool.not_true, Bool.false_eq_true, if_false]
  rfl

theorem frameRx_unmatched (hr : isReady s = true) (hk : frameKind s m f ok = .udp p)
    (hn : ∀ d < 128, ctxMatches s m p d = false) : frameRx m f ok s = regCount (ingMacReg m 8) 1 (frameCounted m s) := by
  have hk' : frameKind (regWrap (ingMacReg m 0) 1 s) m f ok = .udp p := hk
  have hf : (List.range 128).find? (ctxMatches (regWrap (ingMacReg m 0) 1 s) m p) = none :=
    List.find?_range_eq_none.mpr fun d hd => by rw [Bool.not_eq_true']; exact hn d hd
  simp only [frameRx, hr, hk', hf, Bool.not_true, Bool.false_eq_true, if_false]
  rfl

theorem frameRx_overflow (hr : isReady s = true) (hk : frameKind s m f ok = .udp p) (hc : c < 128) (hm : ctxMatches s m p c = true)
    (hq : rxRoom < ((vget s.ing.macs m []).map (·.room)).sum + f.length) :
    frameRx m f ok s = rxOverflow m (frameCounted m s) := by
  have hk' : frameKind (regWrap (ingMacReg m 0) 1 s) m f ok = .udp p := hk
  obtain ⟨d, hf⟩ : ∃ d, (List.range 128).find? (ctxMatches (regWrap (ingMacReg m 0) 1 s) m p) = some d :=
    Option.isSome_iff_exists.mp (List.find?_isSome.mpr ⟨c, List.mem_range.mpr hc, hm⟩)
  simp only [frameRx, hr, hk', hf, Bool.not_true, Bool.false_eq_true, if_false]
  exact if_pos hq

/-- A packet joins the queue of its MAC. -/
def packetWaits (m : Nat) (k : Pkt) (s : State) : State :=
  { s with ing := { s.ing with macs := vset s.ing.macs m (vget s.ing.macs m [] ++ [k]) } }

theorem regGet_packetWaits (i ts m j : Nat) (k : Pkt) (s : State) :
    regGet (keepStamp i ts (packetWaits m k s)) j = regGet s j := rfl

/-- The lowest context that takes a datagram gets it, stamped by ING. -/
theorem frameRx_queued (hr : isReady s = true) (hk : frameKind s m f ok = .udp p) (hc : c < 128) (hm : ctxMatches s m p c = true)
    (hl : ∀ d < c, ctxMatches s m p d = false) (hq : ((vget s.ing.macs m []).map (·.room)).sum + f.length ≤ rxRoom) :
    frameRx m f ok s = keepStamp islIng (stampOf s islIng 0)
      (packetWaits m ⟨c, stampOf s islIng 0, p.payload, f.length⟩ (frameCounted m s)) := by
  have hk' : frameKind (regWrap (ingMacReg m 0) 1 s) m f ok = .udp p := hk
  have hf : (List.range 128).find? (ctxMatches (regWrap (ingMacReg m 0) 1 s) m p) = some c :=
    List.find?_range_eq_some.mpr ⟨hm, List.mem_range.mpr hc, fun d hd => by rw [Bool.not_eq_true']; exact hl d hd⟩
  simp only [frameRx, hr, hk', hf, Bool.not_true, Bool.false_eq_true, if_false]
  exact if_neg (Nat.not_lt.mpr hq)

end

/-! ### Injected blocks (R66, R67) -/

section
variable {s : State} {h : Fin 4} {v : Nat}

/-- The address of the block that a port injects. -/
def injAddr (s : State) (h : Nat) : Nat := (regGet s (injReg h 0x200)).toNat + 2 ^ 32 * (regGet s (injReg h 0x204)).toNat

/-- The length of the block that a port injects. -/
def injLen (s : State) (h : Nat) : Nat := (regGet s (injReg h 0x208)).toNat

/-- R66 accepts an injection: room in the queue, an enabled context of this port, an aligned block of 1 to 16,384 bytes. -/
structure InjAccepted (s : State) (h c : Nat) : Prop where
  room : (vget s.ing.inj h []).length < 16
  enabled : ctxEn s c = true
  source : ctxNat s c 2 = 0x10 + h
  aligned : injAddr s h % 64 = 0
  nonempty : 1 ≤ injLen s h
  most : injLen s h ≤ 16384

theorem injEnqueue_accepted (hl : linked s (.host h) = true) (hr : isReady s = true) (ha : InjAccepted s h.val (v % 128)) :
    injEnqueue (.host h) v s = { s with ing := { s.ing with
      inj := vset s.ing.inj h.val (vget s.ing.inj h.val [] ++ [⟨v % 128, injAddr s h.val, injLen s h.val⟩]) } } := by
  obtain ⟨h1, h2, h3, h4, h5, h6⟩ := ha
  simp only [injEnqueue, blockGate_open hl hr]
  refine if_neg ?_
  rintro (k | k | k | k | k | k)
  · exact absurd k (Nat.not_le.mpr h1)
  · rw [h2] at k; cases k
  · exact k h3
  · exact k h4
  · exact absurd k (Nat.not_lt.mpr h5)
  · exact absurd k (Nat.not_lt.mpr h6)

theorem injEnqueue_rejected (hl : linked s (.host h) = true) (hr : isReady s = true) (ha : ¬ InjAccepted s h.val (v % 128)) :
    injEnqueue (.host h) v s = regCountField (injReg h.val 0x218) 0 16 1 s := by
  simp only [injEnqueue, blockGate_open hl hr]
  refine if_pos ?_
  by_contra hk
  simp only [not_or, not_le, not_lt, ne_eq, not_not, Bool.not_eq_true', Bool.not_eq_false] at hk
  obtain ⟨h1, h2, h3, h4, h5, h6⟩ := hk
  exact ha ⟨h1, h2, h3, h4, h5, h6⟩

/-- The block at the head of a port's queue leaves it, and is counted. -/
def injTaken (n : Nat) (rest : List InjBlk) (s : State) : State :=
  regWrap (injReg n 0x214) 1 { s with ing := { s.ing with inj := vset s.ing.inj n rest } }

theorem injTaken_frame (n : Nat) (rest : List InjBlk) (s : State) :
    ∃ g, injTaken n rest s = { s with regs := g, ing := { s.ing with inj := vset s.ing.inj n rest } } :=
  regWrap_frame _ (injReg n 0x214) 1

theorem regGet_injTaken (n : Nat) (rest : List InjBlk) (s : State) :
    regGet (injTaken n rest s) (injReg n 0x214) = regGet s (injReg n 0x214) + 1 := by
  generalize hk : injReg n 0x214 = k
  rw [injTaken, hk, regGet_wrap_self]
  rfl

/-- A block waits for its parser. -/
def blockWaits (k : Pkt) (s : State) : State := { s with ing := { s.ing with blocks := s.ing.blocks ++ [k] } }

theorem injTaken_stampOf (n : Nat) (rest : List InjBlk) (s : State) :
    stampOf (injTaken n rest s) islIng 0 = stampOf s islIng 0 := by
  obtain ⟨g, hg⟩ := injTaken_frame n rest s
  rw [hg]
  rfl

theorem regGet_blockWaits (i ts j : Nat) (k : Pkt) (s : State) : regGet (keepStamp i ts (blockWaits k s)) j = regGet s j := rfl

/-- Once read without error it waits for its parser, stamped by ING. -/
theorem injRead_ok {n : Nat} {b : InjBlk} {rest : List InjBlk} (d : List Byte) (hr : isReady s = true)
    (hq : vget s.ing.inj n [] = b :: rest) :
    injRead n (.ok d) s = keepStamp islIng (stampOf s islIng 0)
      (blockWaits ⟨b.ctx, stampOf s islIng 0, slice d 0 b.len, 0⟩ (injTaken n rest s)) := by
  have h : injRead n (.ok d) s = keepStamp islIng (stampOf (injTaken n rest s) islIng 0)
      (blockWaits ⟨b.ctx, stampOf (injTaken n rest s) islIng 0, slice d 0 b.len, 0⟩ (injTaken n rest s)) := by
    simp only [injRead, hq, hr, Bool.not_true, Bool.false_eq_true, if_false, injTaken, blockWaits]
  rw [h, injTaken_stampOf]

end

/-! ### Links of the sensor MACs (R99) -/

/-- The link bits after a lock event. -/
def linkAfter (x : BitVec 8) (m : Nat) (l : Bool) : BitVec 8 := if l then x ||| (1#8 <<< m) else x &&& ~~~(1#8 <<< m)

theorem getLsbD_linkAfter (x : BitVec 8) (m j : Fin 8) (l : Bool) :
    (linkAfter x m.val l).getLsbD j.val = if j = m then l else x.getLsbD j.val := by
  have hbit : (1#8 <<< m.val).getLsbD j.val = decide (j = m) := by revert m j; decide
  cases l
  · have hj : j.val < 8 := j.isLt
    simp only [linkAfter, Bool.false_eq_true, if_false, BitVec.getLsbD_and, BitVec.getLsbD_not, hbit, hj, decide_true, Bool.true_and]
    by_cases e : j = m <;> simp [e]
  · simp only [linkAfter, if_true, BitVec.getLsbD_or, hbit]
    by_cases e : j = m <;> simp [e]

end Sys2Proof.Machine

namespace Sys2Proof.Proofs

open Sys2Proof.Machine

/-- Settles O35: each command in closed form (`frameRx_queued`, `frameRx_err`, `frameRx_unmatched`, `frameRx_overflow`, the
`injEnqueue` lemmas, `injRead_ok`, `getLsbD_linkAfter`), of which the clauses are read off. -/
theorem framesAndInjectedBlocks : Obligations.FramesAndInjectedBlocks := by
  unfold Obligations.FramesAndInjectedBlocks
  refine ⟨?queued, ?dropped, ?overflow, ?inject, ?read, ?lock⟩
  case queued =>
    intro s m f ok p c hr hk hc hm hl hq
    refine ⟨_, rfl, ?_⟩
    rw [frameRx_queued hr hk hc hm hl hq]
    refine ⟨vget_vset_self _ _ _ _ m.isLt, fun j hj => vget_vset_ne _ _ _ fun e => hj (Fin.ext e.symm),
      (regGet_packetWaits _ _ _ _ _ _).trans (regGet_wrap_self s _ 1),
      fun k hne => (regGet_packetWaits _ _ _ _ _ _).trans (regGet_wrap_ne s hne 1), rfl, ?_⟩
    obtain ⟨g, hg⟩ := regWrap_frame s (ingMacReg m.val 0) 1
    rw [frameCounted, hg]
    rfl
  case dropped =>
    intro s m f ok hr hk
    refine ⟨_, rfl, ?_⟩
    obtain herr | ⟨p, hp, hn⟩ := hk
    · rw [frameRx_err hr herr, if_pos herr]
      exact ⟨frameCounted_counted (by decide) m.val s, frameCounted_rest _ m.val s⟩
    · rw [frameRx_unmatched hr hp hn, if_neg (by rw [hp]; exact nofun)]
      exact ⟨frameCounted_counted (by decide) m.val s, frameCounted_rest _ m.val s⟩
  case overflow =>
    intro s m f ok p c hr hk hc hm hq
    refine ⟨_, rfl, ?_⟩
    rw [frameRx_overflow hr hk hc hm hq]
    have hkept := rxOverflow_sweeps m.val (frameCounted m.val s)
    obtain ⟨g, hg⟩ := frameCounted_frame (ingMacReg m.val 0x0C) m.val s
    rw [hg] at hkept
    exact ⟨hkept.macs, frameCounted_overflow m.val s, fun d hd hdm ho => rxOverflow_degrades hd hdm ho, hkept.vox,
      hkept.hst, hkept.od⟩
  case inject =>
    intro s h v hl hr q a n good
    have hgood : good ↔ InjAccepted s h.val (v % 128) :=
      ⟨fun ⟨h1, h2, h3, h4, h5, h6⟩ => ⟨h1, h2, h3, h4, h5, h6⟩, fun ⟨h1, h2, h3, h4, h5, h6⟩ => ⟨h1, h2, h3, h4, h5, h6⟩⟩
    refine ⟨fun hg => ⟨_, rfl, ?_⟩, fun hg => ⟨_, rfl, ?_⟩⟩
    · rw [injEnqueue_accepted hl hr (hgood.mp hg)]
      exact ⟨vget_vset_self _ _ _ _ h.isLt, fun j hj => vget_vset_ne _ _ _ fun e => hj (Fin.ext e.symm), rfl⟩
    · rw [injEnqueue_rejected hl hr (hg ∘ hgood.mpr)]
      refine ⟨regGet_countField_low s _, ?_⟩
      obtain ⟨g, hg⟩ := regCountField_frame (injReg h.val 0x218) 0 16 1 s
      rw [hg]
  case read =>
    intro s h b rest d hr hq
    refine ⟨_, rfl, ?_⟩
    rw [injRead_ok d hr hq]
    refine ⟨vget_vset_self _ _ _ _ h.isLt, rfl, (regGet_blockWaits _ _ _ _ _).trans (regGet_injTaken h.val rest s), rfl, rfl, ?_⟩
    obtain ⟨g, hg⟩ := injTaken_frame h.val rest s
    rw [hg]
    rfl
  case lock =>
    intro s m l
    refine ⟨_, rfl, ?_, fun j hj => ?_, rfl⟩
    · exact (getLsbD_linkAfter s.ing.link m m l).trans (if_pos rfl)
    · exact (getLsbD_linkAfter s.ing.link m j l).trans (if_neg hj)

end Sys2Proof.Proofs

/-! ## Stream contexts enabled and disabled -/

namespace Sys2Proof.Machine

/-! ### What leaves the settings and the enables of the stream contexts -/

/-- The dictionary and the enables of the stream contexts stand. -/
structure EnablesKept (s t : State) : Prop where
  od : t.od = s.od
  en : ∀ d, ctxEn t d = ctxEn s d

section
variable {s t u : State}

theorem EnablesKept.of_eq (ho : t.od = s.od) (hi : t.ing.ctx = s.ing.ctx) : EnablesKept s t :=
  ⟨ho, fun d => by rw [ctxEn, hi, ← ctxEn]⟩

theorem EnablesKept.refl (s : State) : EnablesKept s s := .of_eq rfl rfl

theorem EnablesKept.trans (h : EnablesKept s t) (k : EnablesKept t u) : EnablesKept s u :=
  ⟨k.od.trans h.od, fun d => (k.en d).trans (h.en d)⟩

/-- A change that leaves the dictionary and the contexts, then one that keeps the enables. -/
theorem EnablesKept.after (h : EnablesKept t u) (ho : t.od = s.od) (hi : t.ing.ctx = s.ing.ctx) : EnablesKept s u :=
  (of_eq ho hi).trans h

theorem EnablesKept.foldl {β : Type} {f : State → β → State} (h : ∀ u b, EnablesKept u (f u b)) (l : List β) (s : State) :
    EnablesKept s (l.foldl f s) :=
  foldl_keeps (P := EnablesKept s) (fun u b hu => hu.trans (h u b)) l (.refl s)

theorem EnablesKept.set {c : Nat} {x : StreamCtx} (h : x.en = (ingCtx s c).en) : EnablesKept s (setIngCtx c x s) := by
  refine ⟨rfl, fun d => ?_⟩
  change (ingCtx (setIngCtx c x s) d).en = (ingCtx s d).en
  obtain e | ⟨rfl, e⟩ := ingCtx_set_cases c x s d <;> rw [e]
  exact h

end

/-! ### Faults, records and the monitor -/

theorem emitOut_enables (e : OutEvent) (s : State) : EnablesKept s (emitOut e s) := .of_eq rfl rfl

theorem keepStamp_enables (i ts : Nat) (s : State) : EnablesKept s (keepStamp i ts s) := .of_eq rfl rfl

theorem setJob_enables (n : Nat) (j : Job) (s : State) : EnablesKept s (setJob n j s) := .of_eq rfl rfl

theorem setRings_enables (p : Nat) (g : RingSet) (s : State) : EnablesKept s (setRings p g s) := .of_eq rfl rfl

theorem regCount_enables (k d : Nat) (s : State) : EnablesKept s (regCount k d s) := .of_eq rfl rfl

theorem monPut_enables (n : Nat) (e : Option MonEntry) (s : State) : EnablesKept s (monPut n e s) := .of_eq rfl rfl

theorem raise_enables (f : FaultRec) (s : State) : EnablesKept s (raise f s) := by
  obtain ⟨w, q, l, n, x, h⟩ := raise_frame f s
  rw [h]
  exact .of_eq rfl rfl

theorem weirPut_enables (f : FaultRec) (s : State) : EnablesKept s (weirPut f s) := by
  obtain ⟨w, q, l, h⟩ := weirPut_frame f s
  rw [h]
  exact .of_eq rfl rfl

theorem journal_enables (i k c ts tg a b d : Nat) (s : State) : EnablesKept s (journal i k c ts tg a b d s) := by
  obtain ⟨q, x, g, l, h⟩ := journal_frame i k c ts tg a b d s
  rw [h]
  exact .of_eq rfl rfl

theorem setReason_enables (b c ts : Nat) (s : State) : EnablesKept s (setReason b c ts s) := by
  obtain ⟨a, b, e, f, jr, g, tb, n, h⟩ := setWhy_frame (s.saf.why ||| (1#16 <<< b)) c ts s
  rw [setReason, h]
  exact .of_eq rfl rfl

theorem postRecord_enables (p : Nat) (rsv : Bool) (cause : Nat) (r : CqRec) (s : State) :
    EnablesKept s (postRecord p rsv cause r s) := by
  obtain ⟨x, q, l, o, h⟩ := postRecord_frame p rsv cause r s
  rw [h]
  exact .of_eq rfl rfl

theorem regFirst_enables (k n v : Nat) (s : State) : EnablesKept s (regFirst k n v s) := by
  obtain ⟨g, h⟩ := regFirst_frame k n v s
  rw [h]
  exact .of_eq rfl rfl

theorem monMiss_enables (n : Nat) (e : MonEntry) (ts : Nat) (a : Bool) (s : State) : EnablesKept s (monMiss n e ts a s) := by
  unfold monMiss
  extract_lets t u _ _ v w
  have ht : EnablesKept s t := monPut_enables _ _ s
  have hu : EnablesKept s u := ht.trans ((regCount_enables _ _ t).trans (regFirst_enables _ _ _ _))
  clear_value u
  have hw : EnablesKept u w := (weirPut_enables _ v).after rfl rfl
  clear_value w
  have hsw : EnablesKept s w := hu.trans hw
  split
  · exact hsw.trans (setReason_enables _ _ _ _)
  · exact hsw

theorem monEnd_enables (n ts : Nat) (q : Bool) (s : State) : EnablesKept s (monEnd n ts q s) := by
  have hend (e : MonEntry) : EnablesKept s (if q then monPut n none s else monMiss n e ts true s) := by
    split
    · exact monPut_enables _ _ s
    · exact monMiss_enables _ _ _ _ _
  unfold monEnd
  split
  · exact .refl s
  · split
    · split
      · exact monMiss_enables _ _ _ _ _
      · exact hend _
    · exact hend _

/-! ### Cores and their contexts -/

theorem coreNext_enables (c : Nat) (s : State) : EnablesKept s (coreNext c s) := by
  unfold coreNext
  extract_lets x
  split
  · exact .refl s
  · split
    · split
      · exact .of_eq rfl rfl
      · exact .refl s
    · exact .refl s

theorem corePreempt_enables (c : Nat) (s : State) : EnablesKept s (corePreempt c s) := by
  unfold corePreempt
  extract_lets x
  split
  · extract_lets
    split
    · exact .of_eq rfl rfl
    · exact .refl s
  · exact .refl s

theorem wwSettle_enables (c : Nat) (s : State) : EnablesKept s (wwSettle c s) := by
  unfold wwSettle
  extract_lets x
  split
  · exact .refl s
  · extract_lets
    split
    · exact .refl s
    · exact .of_eq rfl rfl

theorem ctxFree_enables (c n : Nat) (s : State) : EnablesKept s (ctxFree c n s) := by
  unfold ctxFree
  extract_lets x here u
  have hu : EnablesKept s u := .of_eq rfl rfl
  have hw : EnablesKept u (wwSettle c u) := wwSettle_enables c u
  exact hu.trans (hw.trans ((coreNext_enables c _).trans (corePreempt_enables c _)))

theorem jobFree_enables (n : Nat) (s : State) : EnablesKept s (jobFree n s) :=
  (keepStamp_enables _ _ s).trans (setJob_enables _ _ _)

theorem jobFreeCtx_enables (n : Nat) (s : State) : EnablesKept s (jobFreeCtx n s) := by
  unfold jobFreeCtx
  extract_lets j u
  have hu : EnablesKept s u := setJob_enables _ _ s
  refine hu.trans (.foldl (fun v e => ?_) j.cores u)
  split
  · exact ctxFree_enables _ _ v
  · exact .refl v

/-! ### The end of a queued job (R371, R378, R380) -/

theorem resetSince_enables (p ts : Nat) (s : State) : EnablesKept s (resetSince p ts s) := by
  unfold resetSince
  split
  · exact .of_eq rfl rfl
  · exact .refl s

theorem finalRecord_enables (n st code ev cause : Nat) (s : State) : EnablesKept s (finalRecord n st code ev cause s) := by
  unfold finalRecord
  extract_lets u j ts v g w x ts' y z st'
  have hu : EnablesKept s u := jobFreeCtx_enables n s
  clear_value u
  split
  · have hv : EnablesKept u v := (keepStamp_enables _ _ u).trans (journal_enables _ _ _ _ _ _ _ _ _)
    clear_value v
    have hm := (resetSince_enables j.part ts v).trans (monEnd_enables n ts (code == 0x0D08) _)
    exact hu.trans (hv.trans (hm.trans (jobFree_enables _ _)))
  · have hx : EnablesKept u x := (setRings_enables _ _ u).trans (postRecord_enables _ _ _ _ _)
    clear_value x
    have hy : EnablesKept x y := (keepStamp_enables _ _ x).trans (resetSince_enables _ _ _)
    clear_value y
    have hz : EnablesKept y z := monEnd_enables _ _ _ _
    exact hu.trans (hx.trans (hy.trans (hz.trans (setJob_enables _ _ _))))

theorem sweepGone_enables (f : Job → Nat → Bool) (s : State) : EnablesKept s (sweepGone f s) := by
  refine .foldl (fun u e => ?_) _ s
  exact (raise_enables _ u).trans (finalRecord_enables _ _ _ _ _ _)

/-! ### The end of a sweep, and what settles after it (R70, R104) -/

theorem flushSums_enables (l : List IngItem) (s : State) : EnablesKept s (flushSums l s) := by
  induction l generalizing s with
  | nil => exact .refl s
  | cons i l ih =>
    cases i with
    | pt p => exact .refl s
    | sum x =>
      unfold flushSums
      split
      · exact (ih _).after rfl rfl
      · exact .refl s

theorem ingPut_enables (i : IngItem) (s : State) : EnablesKept s (ingPut i s) := (flushSums_enables _ _).after rfl rfl

theorem sliceClose_enables (c : Nat) (s : State) : EnablesKept s (sliceClose c s) := by
  unfold sliceClose
  extract_lets x
  split
  next sl _ =>
    have h : EnablesKept s (setIngCtx c { x with slice := none, sliceTs := (sl.openTs, stampOf s islIng 0) } s) := .set rfl
    exact h.trans (keepStamp_enables _ _ _)
  · exact .refl s

theorem sweepClose_enables (c : Nat) (deg : Bool) (s : State) : EnablesKept s (sweepClose c deg s) := by
  unfold sweepClose
  extract_lets u x t y
  split
  · have hu : EnablesKept s u := sliceClose_enables c s
    clear_value u
    have hset : EnablesKept u (setIngCtx c { y with
        sweepOpen := false, gapFrom := replica u islIng, degraded := false, nopose := false } u) := .set rfl
    exact hu.trans (hset.trans ((keepStamp_enables _ _ _).trans (ingPut_enables _ _)))
  · exact .refl s

theorem ctxSettle_enables (c : Nat) (s : State) : EnablesKept s (ctxSettle c s) := by
  unfold ctxSettle
  extract_lets x heads
  split
  · exact (sweepClose_enables c true s).trans (.set rfl)
  · exact .refl s

theorem voxSettle_enables (c : Nat) (s : State) : EnablesKept s (voxSettle c s) := by
  unfold voxSettle
  split
  · exact .of_eq rfl rfl
  · exact .refl s

theorem injDiscard_enables (c : Nat) (s : State) (h : Nat) : EnablesKept s (injDiscard c s h) := by
  unfold injDiscard
  split
  · exact .refl s
  next b rest _ =>
    obtain ⟨g, hg⟩ := regWrap_frame { s with ing := { s.ing with inj := vset s.ing.inj h (b :: rest.filter (·.ctx != c)) } }
      (injReg h 0x214) (rest.filter (·.ctx == c)).length
    rw [hg]
    exact .of_eq rfl rfl

/-! ### One context takes an enable (R70, R103) -/

/-- Stream context `c` alone takes the enable `b`, and its entry stores it. -/
structure EnableSet (c : Nat) (b : Bool) (s t : State) : Prop where
  en : ctxEn t c = b
  stored : odNat t (0x2300 + c) 1 = b.toNat
  others : ∀ d, d ≠ c → ctxEn t d = ctxEn s d

section
variable {s t u : State} {c : Nat} {b : Bool}

theorem odNat_congr (h : t.od = s.od) (i j : Nat) : odNat t i j = odNat s i j := by rw [odNat, odGet, h, ← odGet, ← odNat]

theorem EnableSet.kept (h : EnableSet c b s t) (k : EnablesKept t u) : EnableSet c b s u where
  en := (k.en c).trans h.en
  stored := (odNat_congr k.od _ _).trans h.stored
  others d hd := (k.en d).trans (h.others d hd)

/-- A context set in a state whose enables are as before, and in which its entry stores the enable. -/
theorem enableSet_set (hc : c < 128) {x : StreamCtx} (hx : x.en = b) (hen : ∀ d, ctxEn t d = ctxEn s d)
    (hod : odNat t (0x2300 + c) 1 = b.toNat) : EnableSet c b s (setIngCtx c x t) where
  en := (congrArg StreamCtx.en (ingCtx_set_self t hc x)).trans hx
  stored := hod
  others d hd := (congrArg StreamCtx.en (ingCtx_set_ne hd x t)).trans (hen d)

theorem odNat_put_byte (idx sub : Nat) (n : Byte) (s : State) : odNat (odPut idx sub [n] s) idx sub = n.toNat := by
  rw [odNat, odGet_put_self, leNat, leNat, Nat.mul_zero, Nat.add_zero]

/-- The state in which an enabled context accepts packets, its allotment of pages `v` (R70, R104). -/
def enabledCtx (c : Nat) (v : VoxCtx) (s : State) : State :=
  odPut (0x2300 + c) 1 [1] (setVoxCtx c v
    (setIngCtx c { ingCtx s c with en := true, gapFrom := replica s islIng, silent := false } s))

theorem enabledCtx_set (hc : c < 128) (v : VoxCtx) (s : State) : EnableSet c true s (enabledCtx c v s) := by
  have h : EnableSet c true s (setIngCtx c { ingCtx s c with en := true, gapFrom := replica s islIng, silent := false }
      (odPut (0x2300 + c) 1 [1] s)) := enableSet_set hc rfl (fun _ => rfl) (odNat_put_byte _ _ _ _)
  exact h.kept (.of_eq rfl rfl)

theorem enabledCtx_rest (c : Nat) (v : VoxCtx) (s : State) :
    (enabledCtx c v s).hst = s.hst ∧ (enabledCtx c v s).kc = s.kc ∧ (enabledCtx c v s).parts = s.parts := by
  simp [enabledCtx]

theorem contextOn_accepted (he : ctxEn s c = false) (hi : ingReject s c = false) (hv : voxReason s c = 0) :
    ∃ v, contextOn c s = (0, enabledCtx c v s) := by
  unfold contextOn
  rw [he, hi, hv]
  exact ⟨_, rfl⟩

/-- A refusal leaves the code, and VOX's reason where that is the one (R103). -/
theorem contextOn_refused (he : ctxEn s c = false) (h : ingReject s c = true ∨ voxReason s c ≠ 0) :
    ∃ v, contextOn c s = (0x06090030, { s with vox := v }) := by
  unfold contextOn
  rw [he]
  cases hi : ingReject s c with
  | true => exact ⟨s.vox, rfl⟩
  | false =>
    have hv : voxReason s c ≠ 0 := h.resolve_left (by simp [hi])
    exact ⟨_, if_pos hv⟩

/-- The state in which nothing of a context is queued, and its entry stores 0. -/
def ctxUnqueued (c : Nat) (s : State) : State :=
  let u := odPut (0x2300 + c) 1 [0] ((List.range 4).foldl (injDiscard c) s)
  { u with ing := { u.ing with macs := vmap u.ing.macs [] fun _ q => q.filter (·.ctx != c) } }

theorem ctxUnqueued_en (c : Nat) (s : State) (d : Nat) : ctxEn (ctxUnqueued c s) d = ctxEn s d := by
  have hd : EnablesKept s ((List.range 4).foldl (injDiscard c) s) := .foldl (fun u h => injDiscard_enables c u h) _ s
  rw [← hd.en d, ctxUnqueued]
  generalize (List.range 4).foldl (injDiscard c) s = v
  rfl

theorem ctxUnqueued_stored (c : Nat) (s : State) : odNat (ctxUnqueued c s) (0x2300 + c) 1 = 0 := by
  have ho : (ctxUnqueued c s).od = (odPut (0x2300 + c) 1 [0] ((List.range 4).foldl (injDiscard c) s)).od := rfl
  rw [odNat_congr ho, odNat_put_byte]
  rfl

/-- The state in which the context then stops. -/
def stoppedCtx (c : Nat) (s : State) : State := modIngCtx c (fun x => { x with en := false, closing := true }) (ctxUnqueued c s)

theorem stoppedCtx_set (hc : c < 128) (s : State) : EnableSet c false s (stoppedCtx c s) :=
  enableSet_set hc rfl (ctxUnqueued_en c s) (ctxUnqueued_stored c s)

theorem contextOff_enabled (h : ctxEn s c = true) :
    contextOff c s = sweepGone (boundOpen c) (voxSettle c (ctxSettle c (stoppedCtx c s))) := by
  unfold contextOff
  rw [h]
  rfl

theorem contextOff_set (hc : c < 128) (h : ctxEn s c = true) : EnableSet c false s (contextOff c s) := by
  rw [contextOff_enabled h]
  exact (stoppedCtx_set hc s).kept ((ctxSettle_enables c _).trans ((voxSettle_enables c _).trans (sweepGone_enables _ _)))

end

/-! ### A write of `ENABLE` over the dictionary (R495, R497) -/

/-- MGT serves writes at once: it runs, no transfer waits, and the device is neither latched nor held after READY. -/
structure WritesServed (s : State) : Prop where
  runs : mgtRuns s = true
  alone : s.node.odq = []
  begun : s.saf.everReady = true
  unlatched : s.saf.latch = false
  unheld : held s = false

section
variable {s : State}

/-- Where no transfer waits, the access runs and its answer is an output. -/
theorem odServe_alone (h : WritesServed s) (r : OdReq) (w : Bool) (idx sub : Nat) (d : List Byte)
    (run : State → Nat × List Byte × State) :
    odServe r w idx sub d run s = emitOut (.od (odReqNo r) (run s).1 (run s).2.1) (run s).2.2 := by
  simp only [odServe, h.runs, h.alone, Bool.not_true, Bool.false_eq_true, if_false]

/-- The index is one of a stream context. -/
def isCtxIdx (idx : Nat) : Prop := 0x2300 ≤ idx ∧ idx ≤ 0x237F

theorem odRows_ctx {idx : Nat} (hi : isCtxIdx idx) : odRows idx = odCtxRows := if_pos hi

theorem odRow_enable {idx : Nat} (hi : isCtxIdx idx) : odRow idx 1 = some (odN 1 2 .rw 1 0) := by
  rw [odRow, odRows_ctx hi]
  rfl

theorem odNoRight_enable {idx : Nat} (hi : isCtxIdx idx) (c : Fin 2) : odNoRight s c.val idx 1 = false := by
  obtain ⟨h1, h2⟩ := hi
  have hc := c.isLt
  have hcan : odCanOnly idx 1 = false := by
    simp only [odCanOnly, Bool.or_eq_false_iff, Bool.and_eq_false_iff, beq_eq_false_iff_ne]
    omega
  have htab : odTableRight s c.val idx 1 = 0 := if_pos (by omega)
  have hreq : (c.val == 6) = false := beq_false_of_ne (by omega)
  simp [odNoRight, hcan, htab, hreq]

theorem odDeviceRefuses_served (h : WritesServed s) (idx sub : Nat) : odDeviceRefuses s idx sub = false := by
  simp only [odDeviceRefuses, h.unheld, h.unlatched, h.begun, Bool.false_and, Bool.not_true, Bool.or_self]

theorem odRuleRefuses_enable {idx : Nat} (hi : isCtxIdx idx) (req : Nat) {n : Byte} (hn : n.toNat ≤ 1) :
    odRuleRefuses s req idx 1 [n] = 0 := by
  have hnum : leNat [n] ≤ 1 := by simpa [leNat] using hn
  obtain ⟨h1, h2⟩ := hi
  unfold odRuleRefuses
  rw [if_neg (by omega), if_neg (by omega), if_pos ⟨h1, h2, rfl⟩, okIf, if_pos (decide_eq_true hnum)]

theorem odApply_enable (x : Fin 128) (req : Nat) (n : Byte) : odApply req (0x2300 + x.val) 1 [n] s =
    if n.toNat = 1 then contextOn x.val s else (0, contextOff x.val s) := by
  have hx := x.isLt
  have hnum : leNat [n] = n.toNat := by simp [leNat]
  unfold odApply
  rw [if_neg (by omega), if_neg (by omega), if_neg (by omega), if_pos (by omega), Nat.add_sub_cancel_left, hnum]

/-- A write of 0 or 1 to `ENABLE` over CAN FD. -/
theorem odWriteCmd_enable (h : WritesServed s) (c : Fin 2) (x : Fin 128) {n : Byte} (hn : n.toNat ≤ 1) :
    odWriteCmd (.can c) (0x2300 + x.val) 1 [n] s =
      let a := if n.toNat = 1 then contextOn x.val s else (0, contextOff x.val s)
      emitOut (.od c.val a.1 []) a.2 := by
  have hi : isCtxIdx (0x2300 + x.val) := ⟨by omega, by omega⟩
  have hrows : odRows (0x2300 + x.val) ≠ [] := by rw [odRows_ctx hi]; exact nofun
  have hrun : odWriteRun c.val (0x2300 + x.val) 1 [n] s =
      let a := if n.toNat = 1 then contextOn x.val s else (0, contextOff x.val s)
      (a.1, [], a.2) := by
    rw [odWriteRun, if_neg hrows, odRow_enable hi]
    simp only [odNoRight_enable hi, odDeviceRefuses_served h, odRuleRefuses_enable hi _ hn, odApply_enable]
    rfl
  rw [odWriteCmd, odServe_alone h, odReqNo, hrun]

theorem exec_contextEnable (h : WritesServed s) (c : Fin 2) (x : Fin 128) : exec (.contextEnable (.can c) x) s =
    .next (emitOut (.od c.val (contextOn x.val s).1 []) (contextOn x.val s).2) :=
  congrArg Host.Outcome.next (odWriteCmd_enable h c x (n := 1) (by decide))

theorem exec_contextDisable (h : WritesServed s) (c : Fin 2) (x : Fin 128) : exec (.contextDisable (.can c) x) s =
    .next (emitOut (.od c.val 0 []) (contextOff x.val s)) :=
  congrArg Host.Outcome.next (odWriteCmd_enable h c x (n := 0) (by decide))

end

end Sys2Proof.Machine

namespace Sys2Proof.Proofs

open Sys2Proof.Machine

/-- Settles O29: each command in closed form (`exec_contextEnable`, `exec_contextDisable`), then what enabling and disabling
do to the enables (`enabledCtx_set`, `contextOn_refused`, `contextOff_set`). -/
theorem streamContextsEnableAndDisable : Obligations.StreamContextsEnableAndDisable := by
  unfold Obligations.StreamContextsEnableAndDisable
  refine ⟨?enabled, ?refused, ?disabled⟩
  case enabled =>
    intro s c x hm hq hr hl hh he hi hv
    obtain ⟨v, hon⟩ := contextOn_accepted he hi hv
    rw [completes_iff (exec_contextEnable ⟨hm, hq, hr, hl, hh⟩ c x), hon]
    have hset := (enabledCtx_set x.isLt v s).kept (emitOut_enables (.od c.val 0 []) _)
    exact ⟨hset.en, hset.stored, fun y hy => hset.others y.val fun e => hy (Fin.ext e), enabledCtx_rest x.val v s⟩
  case refused =>
    intro s c x hm hq hr hl hh he hrej
    obtain ⟨v, hon⟩ := contextOn_refused he hrej
    rw [completes_iff (exec_contextEnable ⟨hm, hq, hr, hl, hh⟩ c x), hon]
    exact ⟨rfl, rfl, rfl, rfl⟩
  case disabled =>
    intro s c x hm hq hr hl hh he
    rw [completes_iff (exec_contextDisable ⟨hm, hq, hr, hl, hh⟩ c x)]
    have hset := (contextOff_set x.isLt he).kept (emitOut_enables (.od c.val 0 []) _)
    exact ⟨hset.en, hset.stored, fun y hy => hset.others y.val fun e => hy (Fin.ext e)⟩

end Sys2Proof.Proofs

/-! ## Emission -/

namespace Sys2Proof.Machine

/-! ### What work of the memories and ends of jobs leave -/

/-- The state but for what a store to a Basin or DRAM can change, the directory's work for it and its faults counted in. -/
def besideMem (s : State) : State :=
  { s with regs := [], saf := {}, tb := {}, kc := State.reset.kc, dir := {}, dram := {}, free := 0 }

/-- The state but for what that or the end of a job can change. -/
def besideJobs (s : State) : State :=
  { besideMem s with hst := {}, jr := {}, node := {}, parts := State.reset.parts, fab := {}, out := [] }

/-- A part of the state stands. -/
structure Keeps (v : State → State) (s t : State) : Prop where
  eq : v t = v s

section
variable {v : State → State} {s t u : State}

theorem Keeps.refl (s : State) : Keeps v s s := ⟨rfl⟩

theorem Keeps.trans (h : Keeps v s t) (k : Keeps v t u) : Keeps v s u := ⟨k.eq.trans h.eq⟩

theorem Keeps.foldl {β : Type} {f : State → β → State} (h : ∀ u b, Keeps v u (f u b)) (l : List β) (s : State) :
    Keeps v s (l.foldl f s) :=
  foldl_keeps (P := Keeps v s) (fun u b hu => hu.trans (h u b)) l (.refl s)

theorem Keeps.jobs (h : Keeps besideMem s t) : Keeps besideJobs s t := by
  have e := congrArg besideJobs h.eq
  exact ⟨e⟩

theorem Keeps.hst (h : Keeps besideMem s t) : t.hst = s.hst := by
  have e := congrArg State.hst h.eq
  exact e

theorem Keeps.vox (h : Keeps besideJobs s t) : t.vox = s.vox := by
  have e := congrArg State.vox h.eq
  exact e

theorem Keeps.ing (h : Keeps besideJobs s t) : t.ing = s.ing := by
  have e := congrArg State.ing h.eq
  exact e

theorem Keeps.od (h : Keeps besideJobs s t) : t.od = s.od := by
  have e := congrArg State.od h.eq
  exact e

theorem Keeps.openLast (h : Keeps besideJobs s t) : t.openLast = s.openLast := by
  have e := congrArg State.openLast h.eq
  exact e

end

/-! ### Shared operations -/

section
variable {s t u : State}

theorem regPut_mem (k : Nat) (v : Word) (s : State) : Keeps besideMem s (regPut k v s) := ⟨rfl⟩

theorem regs_mem (g : SMap Word) (s : State) : Keeps besideMem s { s with regs := g } := ⟨rfl⟩

theorem keepStamp_mem (i ts : Nat) (s : State) : Keeps besideMem s (keepStamp i ts s) := ⟨rfl⟩

theorem setCore_mem (c : Nat) (x : Core) (s : State) : Keeps besideMem s (setCore c x s) := ⟨rfl⟩

theorem modDir_mem (f : Dir → Dir) (s : State) : Keeps besideMem s (modDir f s) := ⟨rfl⟩

theorem setDir_mem (l : Nat) (d : Option DirState) (s : State) : Keeps besideMem s (setDir l d s) := ⟨rfl⟩

theorem dramStore_mem (l : Nat) (b : List Byte) (s : State) : Keeps besideMem s (dramStore l b s) := ⟨rfl⟩

theorem takeFree_mem (s : State) : Keeps besideMem s (takeFree s).2 := ⟨rfl⟩

theorem raise_mem (f : FaultRec) (s : State) : Keeps besideMem s (raise f s) := by
  obtain ⟨w, q, l, n, x, h⟩ := raise_frame f s
  rw [h]
  exact ⟨rfl⟩

theorem coreFault_mem (c eng : Nat) (commit : Option Nat) (code : FaultCode) (s : State) :
    Keeps besideMem s (coreFault c eng commit code s) := by
  obtain ⟨f, g, -, -, h⟩ := coreFault_spec c eng commit code s
  rw [h]
  exact (regs_mem g s).trans (raise_mem f _)

theorem dram_mem (d : Dram) (s : State) : Keeps besideMem s { s with dram := d } := ⟨rfl⟩

theorem modRun_mem (c : Nat) (f : CtxRun → CtxRun) (s : State) : Keeps besideMem s (modRun c f s) := ⟨rfl⟩

theorem eccCount_mem (l lo : Nat) (s : State) : Keeps besideMem s (eccCount l lo s) := by
  obtain ⟨g, h⟩ := eccCount_frame l lo s
  rw [h]
  exact regs_mem g s

theorem ccStopRec_mem (c kind cause code tval : Nat) (s : State) : Keeps besideMem s (ccStopRec c kind cause code tval s) := by
  obtain ⟨g, h⟩ := ccStopRec_frame c kind cause code tval s
  rw [h]
  exact regs_mem g s

/-! ### Reads of DRAM (R398, R506) -/

theorem dramCount_mem (s : State) : Keeps besideMem s (dramCount s) := by
  unfold dramCount
  extract_lets d w
  split <;> exact ⟨rfl⟩

theorem metaFetch_mem (a : Nat) (s : State) : Keeps besideMem s (metaFetch a s).2 := by
  unfold metaFetch
  extract_lets ch l f l'
  split <;> exact ⟨rfl⟩

theorem memPlain_mem (a : Nat) (s : State) : Keeps besideMem s (memPlain a s) := by
  have h := (dramCount_mem s).trans (metaFetch_mem a _)
  unfold memPlain
  extract_lets u r
  split
  · split
    · exact h
    · exact h.trans (dramCount_mem _)
  · exact dramCount_mem s

theorem dramCheck_mem (l : Nat) (s : State) : Keeps besideMem s (dramCheck l s).2 := by
  unfold dramCheck
  extract_lets u f
  split
  · exact .refl s
  · split
    · exact (dram_mem _ s).trans (eccCount_mem l 0 _)
    · split
      · exact eccCount_mem l 16 s
      · split
        · split
          · exact (takeFree_mem s).trans (eccCount_mem l 16 _)
          · exact takeFree_mem s
        · exact .refl s

/-! ### The caches and the directory (R416 to R419) -/

theorem modDc_mem (c : Nat) (f : DCache → DCache) (s : State) : Keeps besideMem s (modDc c f s) := ⟨rfl⟩

theorem dcDrop_mem (c l : Nat) (s : State) : Keeps besideMem s (dcDrop c l s) := ⟨rfl⟩

theorem dcClean_mem (c l : Nat) (s : State) : Keeps besideMem s (dcClean c l s) := ⟨rfl⟩

theorem dcFill_mem (c l : Nat) (b : List Byte) (excl : Bool) (s : State) : Keeps besideMem s (dcFill c l b excl s) := ⟨rfl⟩

theorem dcDecode_mem (c l : Nat) (ws : List Nat) (s : State) : Keeps besideMem s (dcDecode c l ws s).2 := by
  unfold dcDecode
  split
  · exact .refl s
  · extract_lets cor unc mend s1 s2 s3
    have h1 : Keeps besideMem s s1 := modDc_mem _ _ s
    have h2 : Keeps besideMem s1 s2 := by
      unfold s2
      split
      · exact .refl s1
      · exact regPut_mem _ _ s1
    have h3 : Keeps besideMem s2 s3 := by
      unfold s3
      split
      · exact .refl s2
      · exact regPut_mem _ _ s2
    split
    · exact .refl s
    · exact h1.trans (h2.trans h3)

theorem dcLost_mem (c l : Nat) (s : State) : Keeps besideMem s (dcLost c l s) := by
  unfold dcLost
  exact (dcDrop_mem c l s).trans ((modDc_mem c _ _).trans ((ccStopRec_mem _ _ _ _ _ _).trans (coreFault_mem _ _ _ _ _)))

theorem dirSend_mem (c : Nat) (m : DirMsg) (s : State) : Keeps besideMem s (dirSend c m s) := modDir_mem _ s

theorem dirAnswer_mem (a : DirAns) (s : State) : Keeps besideMem s (dirAnswer a s) := modDir_mem _ s

theorem dirOpen_mem (q : DirReq) (j : Option JobRef) (w : List Nat) (s : State) :
    Keeps besideMem s (dirOpen q j w s) := modDir_mem _ s

theorem dirSendAll_mem (cs : List Nat) (m : DirMsg) (s : State) : Keeps besideMem s (dirSendAll cs m s) :=
  .foldl (fun u c => dirSend_mem c m u) cs s

theorem cacheData_mem (c l : Nat) {after : State → State} (h : ∀ u, Keeps besideMem u (after u)) (s : State) :
    Keeps besideMem s (cacheData c l after s) := by
  have hd := dcDecode_mem c l lineWords s
  unfold cacheData
  split
  · extract_lets r
    split
    · exact hd.trans ((dcLost_mem c l _).trans (dirAnswer_mem _ _))
    · exact hd.trans ((h _).trans (dirAnswer_mem _ _))
  · exact dirAnswer_mem _ s

theorem cacheMsg_mem (c : Nat) (m : DirMsg) (s : State) : Keeps besideMem s (cacheMsg c m s) := by
  cases m with
  | fwdS l _ => exact cacheData_mem c l (dcClean_mem c l) s
  | recallKeep l => exact cacheData_mem c l (dcClean_mem c l) s
  | fwdM l _ => exact cacheData_mem c l (dcDrop_mem c l) s
  | inv l => exact (dcDrop_mem c l s).trans (dirAnswer_mem _ _)
  | putAck l => exact ⟨rfl⟩

theorem missFault_mem (c : Nat) (j : Option JobRef) (code : FaultCode) (s : State) :
    Keeps besideMem s (missFault c j code s) := by
  unfold missFault
  extract_lets x u w
  have hu : Keeps besideMem s u := modDc_mem c _ s
  have hw : Keeps besideMem u w := by
    unfold w
    split
    · exact ccStopRec_mem _ _ _ _ _ u
    · exact .refl u
  split
  · exact (hu.trans hw).trans ((modRun_mem c _ w).trans (coreFault_mem c 7 none code _))
  · exact hu.trans (raise_mem _ u)

theorem reqFault_mem (q : DirReq) (j : Option JobRef) (code : FaultCode) (s : State) :
    Keeps besideMem s (reqFault q j code s) := by
  unfold reqFault
  split
  · exact missFault_mem _ j code s
  · exact missFault_mem _ j code s
  · exact raise_mem _ s
  · exact raise_mem _ s

/-- Unfolded as a function, as in `dirFromDram_ok`. -/
theorem dirFromDram_mem (q : DirReq) (j : Option JobRef) (c l : Nat) (excl : Bool) (s : State) :
    Keeps besideMem s (dirFromDram q j c l excl s) := by
  have h := dramCheck_mem l s
  have e : dirFromDram = dirFromDram := rfl
  conv at e => rhs; delta dirFromDram
  rw [e]
  beta_reduce
  generalize dramCheck l s = r at h
  obtain ⟨b, u⟩ := r
  cases b with
  | error e => exact h.trans (reqFault_mem q j e u)
  | ok b => exact h.trans ((setDir_mem l _ u).trans (dcFill_mem c l b excl _))

theorem dirGrantM_mem (q : DirReq) (j : Option JobRef) (c l : Nat) (s : State) : Keeps besideMem s (dirGrantM q j c l s) := by
  unfold dirGrantM
  split
  · exact (setDir_mem l _ s).trans (dcFill_mem c l [] true _)
  · exact dirFromDram_mem q j c l true s

theorem dirReadDram_mem (l : Nat) (s : State) : Keeps besideMem s (dirReadDram l s) := by
  have h := dramCheck_mem l s
  have e : dirReadDram = dirReadDram := rfl
  conv at e => rhs; delta dirReadDram
  rw [e]
  beta_reduce
  generalize dramCheck l s = r at h
  obtain ⟨b, u⟩ := r
  cases b with
  | error e => exact h.trans (raise_mem _ u)
  | ok b => exact h

theorem dirScrub_mem (l : Nat) (s : State) : Keeps besideMem s (dirScrub l s) := by
  unfold dirScrub
  extract_lets n s1 one
  have h1 : Keeps besideMem s s1 := modDir_mem _ s
  have hone : ∀ u c, Keeps besideMem u (one u c) := by
    intro u c
    unfold one
    split
    next x _ =>
      extract_lets r w
      have hr : Keeps besideMem u r.2 := by
        unfold r
        split
        · exact dcDecode_mem c l lineWords u
        · exact .refl u
      have hw : Keeps besideMem r.2 w := by
        unfold w
        split
        · exact dcLost_mem c l _
        · split
          · exact dramStore_mem l x.bytes _
          · exact .refl _
      have hd := (hr.trans hw).trans (dcDrop_mem c l w)
      split
      · exact hd.trans (coreFault_mem c 7 none .dirUe _)
      · exact hd
    next => exact .refl u
  split
  · exact .refl s
  · split
    · exact h1
    · exact (h1.trans (.foldl hone _ s1)).trans (setDir_mem l none _)

theorem recallLine_mem (l : Nat) (s : State) : Keeps besideMem s (recallLine l s).2 := by
  unfold recallLine
  split
  next o _ =>
    have hd := dcDecode_mem o l lineWords s
    split
    next x _ =>
      extract_lets r
      split
      · exact hd.trans ((dcLost_mem o l _).trans (setDir_mem l none _))
      · exact hd.trans ((dcClean_mem o l _).trans ((dramStore_mem l x.bytes _).trans (setDir_mem l _ _)))
    next => exact setDir_mem l _ s
  next => exact .refl s

theorem invalidateLine_mem (l : Nat) (s : State) : Keeps besideMem s (invalidateLine l s) :=
  (Keeps.foldl (fun u c => dcDrop_mem c l u) _ s).trans (setDir_mem l none _)

theorem dirMakeRoom_mem (l : Nat) (s : State) : Keeps besideMem s (dirMakeRoom l s) := by
  unfold dirMakeRoom
  extract_lets idle f
  split
  · exact .refl s
  · split
    next v _ =>
      exact (takeFree_mem s).trans ((dirScrub_mem v _).trans ((recallLine_mem v _).trans (invalidateLine_mem v _)))
    next => exact .refl s

theorem dirStart_mem (q : DirReq) (j : Option JobRef) (s : State) : Keeps besideMem s (dirStart q j s) := by
  unfold dirStart
  extract_lets line u st
  have hu : Keeps besideMem s u := dirScrub_mem line s
  refine hu.trans ?_
  clear_value st u
  split
  next c _ b =>
    split
    · exact (dramStore_mem line b u).trans ((setDir_mem line none _).trans (dirSend_mem c _ _))
    · exact dirSend_mem c _ u
  next =>
    split
    · exact reqFault_mem _ j .dirTimeout u
    · split
      · exact (dirSend_mem _ _ u).trans (dirOpen_mem _ j _ _)
      · exact (dirMakeRoom_mem line u).trans (dirFromDram_mem _ j _ line false _)
      · exact (dirSend_mem _ _ u).trans (dirOpen_mem _ j _ _)
      · extract_lets hs
        split
        · exact (dirMakeRoom_mem line u).trans (dirGrantM_mem _ j _ line _)
        · exact (dirSendAll_mem _ _ u).trans (dirOpen_mem _ j _ _)
      · exact (dirSend_mem _ _ u).trans (dirOpen_mem _ j _ _)
      · exact dirReadDram_mem line u
      · extract_lets hs
        split
        · exact (dramStore_mem line _ u).trans (setDir_mem line none _)
        · exact (dirSendAll_mem _ _ u).trans (dirOpen_mem _ j _ _)
      · exact .refl u

theorem dirFinish_mem (x : DirTxn) (data : Option (Option (List Byte))) (s : State) : Keeps besideMem s (dirFinish x data s) := by
  unfold dirFinish
  extract_lets line
  split
  · exact .refl s
  · exact (dramStore_mem line _ s).trans ((setDir_mem line _ _).trans (dcFill_mem _ line _ false _))
  · exact (setDir_mem line _ s).trans (dcFill_mem _ line _ true _)
  · exact (dramStore_mem line _ s).trans (setDir_mem line _ _)
  · exact (dramStore_mem line _ s).trans (setDir_mem line none _)
  · exact (setDir_mem line none s).trans (reqFault_mem _ x.job .dcacheUe _)
  · exact (setDir_mem line none s).trans (dirFromDram_mem x.req x.job _ line false _)
  · exact dirGrantM_mem x.req x.job _ line s
  · exact (setDir_mem line none s).trans (dirReadDram_mem line _)

theorem dirWake_mem (l n : Nat) (s : State) : Keeps besideMem s (dirWake l n s) := by
  induction n generalizing s with
  | zero => exact .refl s
  | succ n ih =>
    unfold dirWake
    split
    · exact .refl s
    · split
      · split
        · exact (modDir_mem _ s).trans ((dirStart_mem _ _ _).trans (ih _))
        · exact (modDir_mem _ s).trans ((dirStart_mem _ _ _).trans (ih _))
        · exact .refl s
      · exact .refl s

theorem waitFresh_mem (l : Nat) (s : State) : Keeps besideMem s (waitFresh l s) := by
  unfold waitFresh
  exact modDir_mem _ s

theorem dirTake_mem (a : DirAns) (s : State) : Keeps besideMem s (dirTake a s) := by
  unfold dirTake
  extract_lets line c data
  split
  · exact .refl s
  next x rest _ =>
    extract_lets left
    split
    · exact (modDir_mem _ s).trans ((dirFinish_mem x data _).trans ((waitFresh_mem line _).trans (dirWake_mem line 64 _)))
    · exact modDir_mem _ s

theorem dirExpire_mem (l : Nat) (q : DirReq) (j : Option JobRef) (s : State) : Keeps besideMem s (dirExpire l q j s) := by
  unfold dirExpire
  exact (modDir_mem _ s).trans ((reqFault_mem q j .dirTimeout _).trans ((waitFresh_mem l _).trans (dirWake_mem l 64 _)))

theorem dirServe_mem (e : DirWait) (rest : List DirWait) (s : State) : Keeps besideMem s (dirServe e rest s) := by
  unfold dirServe
  extract_lets u
  have hu : Keeps besideMem s u := modDir_mem _ s
  refine hu.trans ?_
  clear_value u
  split
  · exact dirExpire_mem _ _ _ u
  · exact (dirStart_mem _ _ u).trans (dirWake_mem _ 64 _)

theorem dirStepLine_mem {l : Nat} (h : dirStepLine l s = some t) : Keeps besideMem s t := by
  unfold dirStepLine at h
  split at h
  next a rest _ =>
    extract_lets u at h
    have hu : Keeps besideMem s u := modDir_mem _ s
    obtain rfl := Option.some.inj h
    clear_value u
    split
    · exact hu
    · exact hu.trans (dirTake_mem a u)
  next =>
    split at h
    next c m rest _ =>
      extract_lets u at h
      have hu : Keeps besideMem s u := modDir_mem _ s
      obtain rfl := Option.some.inj h
      clear_value u
      split
      · exact hu
      · exact hu.trans (cacheMsg_mem c m u)
    next =>
      split at h
      next x _ =>
        obtain rfl := Option.some.inj h
        exact dirExpire_mem _ _ _ s
      next e rest _ _ =>
        split at h
        · obtain rfl := Option.some.inj h
          exact dirServe_mem e rest s
        · cases h
      next => cases h

theorem dirStepSet_mem {l : Nat} (h : dirStepSet l s = some t) : Keeps besideMem s t := by
  unfold dirStepSet at h
  split at h
  next hl =>
    obtain rfl := Option.some.inj h
    exact dirStepLine_mem hl
  next =>
    split at h
    · obtain ⟨m, -, hm⟩ := List.exists_of_findSome?_eq_some h
      exact dirStepLine_mem hm
    · cases h

theorem dirSettle_mem (l n : Nat) (s : State) : Keeps besideMem s (dirSettle l n s) := by
  induction n generalizing s with
  | zero => exact .refl s
  | succ n ih =>
    unfold dirSettle
    split
    next h => exact (dirStepSet_mem h).trans (ih _)
    next => exact .refl s

theorem agentWrite_mem (l : Nat) (b : List Byte) (s : State) : Keeps besideMem s (agentWrite l b s).2 := by
  have h := dirSettle_mem l (settleFuel s) s
  unfold agentWrite
  extract_lets u
  change Keeps besideMem s u at h
  clear_value u
  split
  · exact h
  · exact h.trans ((dirScrub_mem l u).trans ((invalidateLine_mem l _).trans (dramStore_mem l b _)))

/-! ### What an emission writes (R119) -/

/-- The write of a line is made a variable before the recursion is unfolded: the kernel would evaluate it to compare the two
sides. -/
theorem dramWrite_mem (i a : Nat) (ls : List (List Byte)) (s : State) : Keeps besideMem s (dramWrite i a ls s) := by
  obtain ⟨w, hw⟩ : ∃ w, w = agentWrite := ⟨_, rfl⟩
  have hk := agentWrite_mem
  delta dramWrite dramWrite._f
  rw [← hw] at hk ⊢
  clear hw
  induction ls generalizing a s with
  | nil => exact .refl s
  | cons l ls ih =>
    have h := (memPlain_mem a s).trans (hk a (slice l 0 64) _)
    dsimp only [List.brecOn, List.brecOn.go] at ih ⊢
    generalize w a (slice l 0 64) (memPlain a s) = r at h
    obtain ⟨b, u⟩ := r
    cases b with
    | error e => exact h.trans ((raise_mem _ u).trans (ih _ _))
    | ok b => exact h.trans (ih _ u)

theorem basinWritePhys_mem (i c a : Nat) (ls : List (List Byte)) (s : State) : Keeps besideMem s (basinWritePhys i c a ls s) := by
  induction ls generalizing a s with
  | nil => exact .refl s
  | cons l ls ih =>
    unfold basinWritePhys
    extract_lets x
    split
    · exact (raise_mem _ s).trans (ih _ _)
    · exact (setCore_mem c _ s).trans (ih _ _)

theorem emitWrite_mem (c off : Nat) (b : List Byte) (s : State) : Keeps besideMem s (emitWrite c off b s) := by
  unfold emitWrite
  extract_lets slot a
  split
  · exact basinWritePhys_mem _ _ _ _ s
  · exact dramWrite_mem _ _ _ s

end

/-! ### The end of a queued job (R371, R378, R380) -/

section
variable {s t u : State}

theorem setJob_jobs (n : Nat) (j : Job) (s : State) : Keeps besideJobs s (setJob n j s) := ⟨rfl⟩

theorem monPut_jobs (n : Nat) (e : Option MonEntry) (s : State) : Keeps besideJobs s (monPut n e s) := ⟨rfl⟩

theorem setRings_jobs (p : Nat) (g : RingSet) (s : State) : Keeps besideJobs s (setRings p g s) := ⟨rfl⟩

theorem startCtx_jobs (c n : Nat) (s : State) : Keeps besideJobs s (startCtx c n s) := ⟨rfl⟩

theorem weirPut_jobs (f : FaultRec) (s : State) : Keeps besideJobs s (weirPut f s) := by
  obtain ⟨w, q, l, h⟩ := weirPut_frame f s
  rw [h]
  exact ⟨rfl⟩

theorem journal_jobs (i k c ts tg a b d : Nat) (s : State) : Keeps besideJobs s (journal i k c ts tg a b d s) := by
  obtain ⟨q, x, g, l, h⟩ := journal_frame i k c ts tg a b d s
  rw [h]
  exact ⟨rfl⟩

theorem setReason_jobs (b c ts : Nat) (s : State) : Keeps besideJobs s (setReason b c ts s) := by
  obtain ⟨a, b, e, f, jr, g, tb, n, h⟩ := setWhy_frame (s.saf.why ||| (1#16 <<< b)) c ts s
  rw [setReason, h]
  exact ⟨rfl⟩

theorem postRecord_jobs (p : Nat) (rsv : Bool) (cause : Nat) (r : CqRec) (s : State) :
    Keeps besideJobs s (postRecord p rsv cause r s) := by
  obtain ⟨x, q, l, o, h⟩ := postRecord_frame p rsv cause r s
  rw [h]
  exact ⟨rfl⟩

theorem regFirst_jobs (k n v : Nat) (s : State) : Keeps besideJobs s (regFirst k n v s) := by
  obtain ⟨g, h⟩ := regFirst_frame k n v s
  rw [h]
  exact ⟨rfl⟩

theorem monMiss_jobs (n : Nat) (e : MonEntry) (ts : Nat) (a : Bool) (s : State) : Keeps besideJobs s (monMiss n e ts a s) := by
  unfold monMiss
  extract_lets t u _ _ v w
  have ht : Keeps besideJobs s t := monPut_jobs _ _ s
  have hu : Keeps besideJobs t u := (regPut_mem _ _ t).jobs.trans (regFirst_jobs _ _ _ _)
  clear_value u
  have hv : Keeps besideJobs u v := ⟨rfl⟩
  have hw : Keeps besideJobs v w := weirPut_jobs _ v
  clear_value w
  have hsw := (ht.trans hu).trans (hv.trans hw)
  split
  · exact hsw.trans (setReason_jobs _ _ _ _)
  · exact hsw

theorem monEnd_jobs (n ts : Nat) (q : Bool) (s : State) : Keeps besideJobs s (monEnd n ts q s) := by
  have hend (e : MonEntry) : Keeps besideJobs s (if q then monPut n none s else monMiss n e ts true s) := by
    split
    · exact monPut_jobs _ _ s
    · exact monMiss_jobs _ _ _ _ _
  unfold monEnd
  split
  · exact .refl s
  · split
    · split
      · exact monMiss_jobs _ _ _ _ _
      · exact hend _
    · exact hend _

theorem coreNext_jobs (c : Nat) (s : State) : Keeps besideJobs s (coreNext c s) := by
  unfold coreNext
  extract_lets x
  split
  · exact .refl s
  · split
    · split
      · exact startCtx_jobs c _ s
      · exact .refl s
    · exact .refl s

theorem corePreempt_jobs (c : Nat) (s : State) : Keeps besideJobs s (corePreempt c s) := by
  unfold corePreempt
  extract_lets x
  split
  · extract_lets
    split
    · exact (setCore_mem c _ s).jobs
    · exact .refl s
  · exact .refl s

theorem wwSettle_mem (c : Nat) (s : State) : Keeps besideMem s (wwSettle c s) := by
  unfold wwSettle
  extract_lets x
  split
  · exact .refl s
  · extract_lets
    split
    · exact .refl s
    · exact setCore_mem c _ s

theorem ctxFree_jobs (c n : Nat) (s : State) : Keeps besideJobs s (ctxFree c n s) :=
  ((setCore_mem c _ s).trans (wwSettle_mem c _)).jobs.trans ((coreNext_jobs c _).trans (corePreempt_jobs c _))

theorem jobFreeCtx_jobs (n : Nat) (s : State) : Keeps besideJobs s (jobFreeCtx n s) := by
  unfold jobFreeCtx
  extract_lets j u
  have hu : Keeps besideJobs s u := setJob_jobs n _ s
  refine hu.trans (.foldl (fun v e => ?_) j.cores u)
  split
  · exact ctxFree_jobs _ _ v
  · exact .refl v

theorem jobFree_jobs (n : Nat) (s : State) : Keeps besideJobs s (jobFree n s) :=
  (keepStamp_mem _ _ s).jobs.trans (setJob_jobs n _ _)

theorem resetSince_jobs (p ts : Nat) (s : State) : Keeps besideJobs s (resetSince p ts s) := by
  unfold resetSince
  split
  · exact ⟨rfl⟩
  · exact .refl s

theorem finalRecord_jobs (n st code ev cause : Nat) (s : State) : Keeps besideJobs s (finalRecord n st code ev cause s) := by
  unfold finalRecord
  extract_lets u j ts v g w x ts' y z st'
  have hu : Keeps besideJobs s u := jobFreeCtx_jobs n s
  clear_value u
  split
  · have hv : Keeps besideJobs u v := (keepStamp_mem _ _ u).jobs.trans (journal_jobs _ _ _ _ _ _ _ _ _)
    clear_value v
    have hm := (resetSince_jobs j.part ts v).trans (monEnd_jobs n ts (code == 0x0D08) _)
    exact hu.trans (hv.trans (hm.trans (jobFree_jobs n _)))
  · have hx : Keeps besideJobs u x := (setRings_jobs _ _ u).trans (postRecord_jobs _ _ _ _ _)
    clear_value x
    have hy : Keeps besideJobs x y := (keepStamp_mem _ _ x).jobs.trans (resetSince_jobs _ _ _)
    clear_value y
    have hz : Keeps besideJobs y z := monEnd_jobs _ _ _ _
    exact hu.trans (hx.trans (hy.trans (hz.trans (setJob_jobs n _ _))))

theorem sweepGone_jobs (f : Job → Nat → Bool) (s : State) : Keeps besideJobs s (sweepGone f s) := by
  unfold sweepGone
  refine .foldl (fun u e => ?_) _ s
  exact (raise_mem _ u).jobs.trans (finalRecord_jobs _ _ _ _ _ _)

end

/-! ### Reads of the Pond for an emission (R127) -/

section
variable {s t u : State} {c : Nat}

/-- What reading and writing out the sweep of context `c` keeps. -/
structure EmitKept (c : Nat) (s t : State) : Prop where
  sealedAs : (voxCtx t c).sealed = (voxCtx s c).sealed
  emitting : (voxCtx t c).emitting = (voxCtx s c).emitting
  slots : (voxCtx t c).slots = (voxCtx s c).slots
  others : ∀ d, d ≠ c → voxCtx t d = voxCtx s d
  ready : t.vox.ready = s.vox.ready
  od : t.od = s.od
  ing : t.ing = s.ing
  openLast : t.openLast = s.openLast

theorem Keeps.emit (h : Keeps besideJobs s t) : EmitKept c s t := by
  have hc := voxCtx_congr h.vox
  exact ⟨by rw [hc], by rw [hc], by rw [hc], fun d _ => hc d, by rw [h.vox], h.od, h.ing, h.openLast⟩

theorem EmitKept.refl (s : State) : EmitKept c s s := (Keeps.refl (v := besideJobs) s).emit

theorem EmitKept.trans (h : EmitKept c s t) (k : EmitKept c t u) : EmitKept c s u where
  sealedAs := k.sealedAs.trans h.sealedAs
  emitting := k.emitting.trans h.emitting
  slots := k.slots.trans h.slots
  others d hd := (k.others d hd).trans (h.others d hd)
  ready := k.ready.trans h.ready
  od := k.od.trans h.od
  ing := k.ing.trans h.ing
  openLast := k.openLast.trans h.openLast

theorem EmitKept.set (hc : c < 128) {x : VoxCtx} (h : x.sealed = (voxCtx s c).sealed) (he : x.emitting = (voxCtx s c).emitting)
    (hs : x.slots = (voxCtx s c).slots) : EmitKept c s (setVoxCtx c x s) := by
  have hx := voxCtx_set_self s hc x
  exact ⟨by rw [hx, h], by rw [hx, he], by rw [hx, hs], fun d hd => voxCtx_set_ne hd x s, rfl, rfl, rfl, rfl⟩

theorem voxCode_mem (code : FaultCode) (d : List Word) (s : State) : Keeps besideMem s (voxCode code d s) := raise_mem _ s

/-- A slot read, with the errors met (R127). -/
theorem pondAt_emit (hc : c < 128) (j : Nat) (s : State) : EmitKept c s (pondAt c j s).2 := by
  unfold pondAt
  extract_lets x v errs one more up s1 lost
  have h1 : Keeps besideMem s s1 := regPut_mem _ _ s
  have hx : voxCtx s1 c = x := voxCtx_congr h1.jobs.vox c
  clear_value s1
  split
  · exact .refl s
  · split
    · exact h1.jobs.emit.trans (.set hc (by rw [hx]) (by rw [hx]) (by rw [hx]))
    · exact h1.jobs.emit.trans (.trans (.set hc (by rw [hx]) (by rw [hx]) (by rw [hx]))
        ((regPut_mem _ _ _).trans (voxCode_mem _ _ _)).jobs.emit)

/-! ### The start of an emission (R119, R123, R409) -/

/-- Serving a partition is noted in an OPEN slot only (R409). -/
theorem openServe_frame (p : Nat) (s : State) :
    ∃ v, openServe 0 p s = { s with openLast := v } ∧ (slotCode s 0x20 = 8 → vget v 0 7 = p) := by
  unfold openServe
  split
  · exact ⟨_, rfl, fun _ => vget_vset_self _ _ _ _ (by decide)⟩
  next h => exact ⟨s.openLast, rfl, fun k => absurd k h⟩

theorem openServe_reads (p : Nat) (s : State) : (openServe 0 p s).od = s.od ∧ (openServe 0 p s).hst = s.hst ∧
    (openServe 0 p s).vox = s.vox := by
  obtain ⟨v, hv, -⟩ := openServe_frame p s
  rw [hv]
  exact ⟨rfl, rfl, rfl⟩

theorem ctxNat_congr (h : t.od = s.od) (c j : Nat) : ctxNat t c j = ctxNat s c j := odNat_congr h _ _

theorem slotBusy_congr (h : t.hst = s.hst) (c q : Nat) : slotBusy t c q = slotBusy s c q := by rw [slotBusy, h]; rfl

/-- A closed sweep that nothing keeps from its emission: slot and turn admit partition `p`. -/
structure EmitGate (s : State) (c : Nat) (m : SweepSum) (p : Nat) : Prop where
  ready : isReady s = true
  sealedAs : (voxCtx s c).sealed = some m
  unfolded : (voxCtx s c).folding = false
  idle : (voxCtx s c).emitting = false
  clear : (voxCtx s c).clearing = false
  reader : emitReader s c = some p
  turn : openTurn s 0 p (emitWaits s) = true

theorem EmitGate.opens {m : SweepSum} {p : Nat} (h : EmitGate s c m p) :
    ¬ (!isReady s || !emitReady (voxCtx s c) || !openTurn s 0 p (emitWaits s)) = true := by
  simp [emitReady, h.ready, h.sealedAs, h.unfolded, h.idle, h.clear, h.turn]

/-- The state in which the slot of the ring is free and the emission has begun. -/
def emitBegun (c n : Nat) (s : State) : State :=
  modVoxCtx c (fun x => { x with emitting := true, slots := vset x.slots n none }) (sweepGone (boundSlot c n) s)

theorem voxCtx_emitBegun (hc : c < 128) (n : Nat) (s : State) : voxCtx (emitBegun c n s) c =
    { voxCtx s c with emitting := true, slots := vset (voxCtx s c).slots n none } := by
  rw [emitBegun, modVoxCtx, voxCtx_set_self _ hc, voxCtx_congr (sweepGone_jobs _ s).vox]

theorem voxCtx_emitBegun_ne {d : Nat} (hd : d ≠ c) (n : Nat) (s : State) : voxCtx (emitBegun c n s) d = voxCtx s d :=
  (voxCtx_set_ne hd _ _).trans (voxCtx_congr (sweepGone_jobs _ s).vox d)

/-- What an emission that starts leaves (R119). -/
theorem emissionStart_begins {m : SweepSum} {p : Nat} (hc : c < 128) (h : EmitGate s c m p)
    (hfree : ∀ i, vget (voxCtx s c).slots (m.seq % ctxNat s c 0x24) none = some i → slotBusy s c i.seq = false) :
    EmitKept c (emitBegun c (m.seq % ctxNat s c 0x24) (openServe 0 p s)) (emissionStart c s) := by
  obtain ⟨hod, hhst, -⟩ := openServe_reads p s
  unfold emissionStart
  simp only [h.sealedAs, h.reader]
  rw [if_neg h.opens, ctxNat_congr hod]
  generalize openServe 0 p s = u at hhst
  rw [if_neg]
  case hnc =>
    generalize vget (voxCtx s c).slots (m.seq % ctxNat s c 0x24) none = o at hfree
    cases o with
    | none => exact Bool.false_ne_true
    | some i =>
      change ¬ slotBusy u c i.seq = true
      rw [slotBusy_congr hhst, hfree i rfl]
      exact Bool.false_ne_true
  refine .trans ?_ (emitWrite_mem c 64 _ _).jobs.emit
  refine foldl_keeps (P := fun r : List PondEntry × State =>
    EmitKept c (emitBegun c (m.seq % ctxNat s c 0x24) u) r.2) (fun r e hr => ?_) _ (.refl _)
  have ha := hr.trans (pondAt_emit hc e.1 r.2)
  generalize pondAt c e.1 r.2 = a at ha
  obtain ⟨w, u⟩ := a
  cases w with
  | empty => exact ha
  | tomb => exact ha
  | live w => exact ha

/-- A sweep whose ring slot an admitted job names is skipped (R123). -/
theorem emissionStart_skips {m : SweepSum} {p : Nat} {i : EmitInfo} (h : EmitGate s c m p)
    (hi : vget (voxCtx s c).slots (m.seq % ctxNat s c 0x24) none = some i) (hb : slotBusy s c i.seq = true) :
    emissionStart c s = emitSkip c m (openServe 0 p s) := by
  obtain ⟨hod, hhst, -⟩ := openServe_reads p s
  unfold emissionStart
  simp only [h.sealedAs, h.reader]
  rw [if_neg h.opens, ctxNat_congr hod]
  simp only [hi, slotBusy_congr hhst, hb, if_true]

end

/-! ### Sweep-readies and skips (R123, R124) -/

section
variable {s t u : State} {c : Nat} {m : SweepSum}

/-- What a sweep-ready of context `c` leaves, sent after the change `f` of the context. -/
structure ReadySent (c seq : Nat) (skipped : Bool) (f : VoxCtx → VoxCtx) (s t : State) : Prop where
  self : voxCtx t c = { f (voxCtx s c) with seq := seq, anySeq := true }
  others : ∀ d, d ≠ c → voxCtx t d = voxCtx s d
  ready : t.vox.ready = s.vox.ready ++ [⟨c, seq, skipped, sweepRefs c seq s⟩]
  rest : ∃ v, t = { s with vox := v }

theorem readyPut_sent (hc : c < 128) (seq : Nat) (skipped : Bool) (f : VoxCtx → VoxCtx) (s : State) :
    ReadySent c seq skipped f s (readyPut c seq skipped (modVoxCtx c f s)) where
  self := by
    have h := congrArg (fun x : VoxCtx => { x with seq := seq, anySeq := true }) (voxCtx_set_self s hc (f (voxCtx s c)))
    exact (voxCtx_set_self _ hc _).trans h
  others _ hd := (voxCtx_set_ne hd _ _).trans (voxCtx_set_ne hd _ s)
  ready := rfl
  rest := ⟨_, rfl⟩

/-- A sweep-ready names the waiting jobs as they are. -/
theorem sweepRefs_congr (h : t.hst = s.hst) (c seq : Nat) : sweepRefs c seq t = sweepRefs c seq s := by rw [sweepRefs, h]; rfl

/-- What a skipped sweep leaves (R123): a skipped sweep-ready, `EMIT_SKIP` counted and raised, the clearing begun. -/
structure EmitSkipped (c : Nat) (m : SweepSum) (s t : State) : Prop where
  self : voxCtx t c = { voxCtx s c with clearing := true, seq := m.seq, anySeq := true }
  others : ∀ d, d ≠ c → voxCtx t d = voxCtx s d
  ready : t.vox.ready = s.vox.ready ++ [⟨c, m.seq, true, sweepRefs c m.seq s⟩]
  count : (regGet t (voxCtxReg c 0x1C)).toNat = min ((regGet s (voxCtxReg c 0x1C)).toNat + 1) (2 ^ 32 - 1)
  rest : ∃ v g f b, t = { s with vox := v, regs := g, saf := f, tb := b }

theorem emitSkip_skipped (hc : c < 128) (m : SweepSum) (s : State) : EmitSkipped c m s (emitSkip c m s) := by
  obtain ⟨hself, hothers, hready, y, hrest⟩ := readyPut_sent hc m.seq true (fun x => { x with clearing := true }) s
  unfold emitSkip
  generalize readyPut c m.seq true (modVoxCtx c (fun x => { x with clearing := true }) s) = u at hself hothers hready hrest
  obtain ⟨w, q, l, n, x, hv⟩ :=
    raise_frame { plainFault .emitSkip islVox none with detail := [] } (regCount (voxCtxReg c 0x1C) 1 u)
  have hcount := regGet_count_self u (voxCtxReg c 0x1C) 1
  have hregs : regGet u (voxCtxReg c 0x1C) = regGet s (voxCtxReg c 0x1C) := by rw [hrest]; rfl
  rw [show voxCode .emitSkip [] (regCount (voxCtxReg c 0x1C) 1 u) = _ from hv]
  exact ⟨hself, hothers, hready, hcount.trans (by rw [hregs]), _, _, _, _, by rw [hrest]; rfl⟩

/-! ### The header (R120) -/

/-- A part of what was stored reads back. -/
theorem smGetList_setList_part {α : Type} [DecidableEq α] (d : Nat → α) (m : SMap α) (k : Nat) (p v q : List α) :
    smGetList d (smSetList d m k (p ++ (v ++ q))) (k + p.length) v.length = v := by
  refine List.ext_getElem? fun i => ?_
  rw [smGetList_getElem?]
  split
  next h =>
    have hi : (p ++ (v ++ q))[k + p.length + i - k]? = some v[i] := by
      rw [show k + p.length + i - k = p.length + i by omega, List.getElem?_append_right (by omega), Nat.add_sub_cancel_left,
        List.getElem?_append_left h, List.getElem?_eq_getElem h]
    rw [smGet_setList, if_pos (by omega), hi, List.getElem?_eq_getElem h, Option.getD_some]
  next h => exact (List.getElem?_eq_none (by omega)).symm

/-- A number stored among other bytes reads back. -/
theorem leNat_setList_part (b : SMap Byte) (k n x : Nat) (p q : List Byte) :
    leNat (smGetList byteZero (smSetList byteZero b k (p ++ (leBytes n x ++ q))) (k + p.length) n) = x % 256 ^ n := by
  have h := smGetList_setList_part byteZero b k p (leBytes n x) q
  rw [leBytes_length] at h
  rw [h, leNat_leBytes]

/-- The first fields of a line stored: two bytes that are not read here stand after the first. -/
theorem leNat_setList_fields (b : SMap Byte) (k x y z : Nat) {p : List Byte} (hp : p.length = 2) (q : List Byte) :
    let m := smSetList byteZero b k (leBytes 2 x ++ (p ++ (leBytes 4 y ++ (leBytes 8 z ++ q))))
    leNat (smGetList byteZero m k 2) = x % 2 ^ 16 ∧ leNat (smGetList byteZero m (k + 4) 4) = y % 2 ^ 32 ∧
      leNat (smGetList byteZero m (k + 8) 8) = z % 2 ^ 64 := by
  have h1 := leNat_setList_part b k 2 x [] (p ++ (leBytes 4 y ++ (leBytes 8 z ++ q)))
  have h2 := leNat_setList_part b k 4 y (leBytes 2 x ++ p) (leBytes 8 z ++ q)
  have h3 := leNat_setList_part b k 8 z (leBytes 2 x ++ (p ++ leBytes 4 y)) q
  simp only [List.length_append, leBytes_length, hp, List.append_assoc] at h2 h3
  exact ⟨h1, h2, h3⟩

/-- The header is one line: its mark, context and settings group, then the sweep's number and reference time. -/
theorem voxHeader_fields (s : State) (c e n : Nat) (x : VoxCtx) (m : SweepSum) : ∃ p q, p.length = 2 ∧ q.length = 48 ∧
    voxHeader s c e n x m = leBytes 2 0x5658 ++ (p ++ (leBytes 4 m.seq ++ (leBytes 8 m.tref ++ q))) := by
  refine ⟨leBytes 1 c ++ leBytes 1 (ctxNat s c 0x17), ?q, by simp only [List.length_append, leBytes_length], ?hq, ?he⟩
  case he =>
    unfold voxHeader
    simp only [List.append_assoc]
    rfl
  case hq => simp only [List.length_append, leBytes_length]

theorem chunks_line {b : List Byte} (h : b.length = 64) : chunks 64 b = [b] := by
  have hr : List.range ((b.length + 64 - 1) / 64) = [0] := by rw [h]; rfl
  rw [chunks, hr, List.map_singleton, Nat.zero_mul, List.drop_zero, List.take_of_length_le (by omega)]

/-- One line written to a Basin outside the weight windows. -/
theorem basinWritePhys_line {i k a : Nat} {b : List Byte} (hb : b.length = 64) (hw : winOf (coreOf s k) (a / 4096) = none) :
    basinWritePhys i k a [b] s = setCore k (basinStore a b (coreOf s k)) s := by
  simp only [basinWritePhys, hw, Option.isSome_none, Bool.false_eq_true, if_false, slice_full hb]

/-! ### The end of an emission (R119, R124) -/

/-- LIVE entries of a context at its level. -/
def siteCount (x : VoxCtx) : Nat := ((liveEntries x).filter fun e => keyLevel e.2.key == x.level).length

/-- The state in which the header of the sweep `m` is written. -/
def headed (c : Nat) (m : SweepSum) (s : State) : State :=
  let t := stampOf s islVox m.close
  emitWrite c 0 (voxHeader s c t (siteCount (voxCtx s c)) (voxCtx s c) m) (keepStamp islVox t s)

theorem headed_mem (c : Nat) (m : SweepSum) (s : State) : Keeps besideMem s (headed c m s) :=
  (keepStamp_mem _ _ s).trans (emitWrite_mem c 0 _ _)

/-- What the ring slot of the sweep `m` of a context records of it (R124). -/
structure EmitRecord (m : SweepSum) (x : VoxCtx) (i : EmitInfo) : Prop where
  seq : i.seq = m.seq
  tref : i.tref = m.tref
  sites : i.nsites = siteCount x
  noroom : i.noroom = x.noroom

/-- A context whose sweep, recorded as `i` in slot `n`, has been emitted. -/
def emitEnded (n : Nat) (i : EmitInfo) (x : VoxCtx) : VoxCtx :=
  { x with emitting := false, clearing := true, peak := x.high, slots := vset x.slots n (some i) }

theorem emissionComplete_eq (hr : isReady s = true) (hs : (voxCtx s c).sealed = some m) (he : (voxCtx s c).emitting = true) :
    ∃ i, EmitRecord m (voxCtx s c) i ∧ emissionComplete c s =
      readyPut c m.seq false (modVoxCtx c (emitEnded (m.seq % ctxNat (headed c m s) c 0x24) i) (headed c m s)) := by
  unfold emissionComplete
  simp only [hs]
  rw [if_pos (by rw [hr, he]; rfl)]
  exact ⟨_, ⟨rfl, rfl, rfl, rfl⟩, rfl⟩

/-- What the end of an emission leaves (R119, R124). -/
structure EmitDone (c : Nat) (m : SweepSum) (s t : State) : Prop where
  self : ∃ i, EmitRecord m (voxCtx s c) i ∧
    voxCtx t c = { emitEnded (m.seq % ctxNat s c 0x24) i (voxCtx s c) with seq := m.seq, anySeq := true }
  others : ∀ d, d ≠ c → voxCtx t d = voxCtx s d
  ready : t.vox.ready = s.vox.ready ++ [⟨c, m.seq, false, sweepRefs c m.seq s⟩]
  rest : ∃ v, t = { headed c m s with vox := v }

theorem emissionComplete_done (hc : c < 128) (hr : isReady s = true) (hs : (voxCtx s c).sealed = some m)
    (he : (voxCtx s c).emitting = true) : EmitDone c m s (emissionComplete c s) := by
  obtain ⟨i, hi, heq⟩ := emissionComplete_eq hr hs he
  have hk := headed_mem c m s
  have hctx := voxCtx_congr hk.jobs.vox
  rw [ctxNat_congr hk.jobs.od] at heq
  obtain ⟨hself, hothers, hready, hrest⟩ := readyPut_sent hc m.seq false (emitEnded (m.seq % ctxNat s c 0x24) i) (headed c m s)
  rw [← heq] at hself hothers hready hrest
  rw [hctx] at hself
  rw [hk.jobs.vox, sweepRefs_congr hk.hst] at hready
  exact ⟨⟨i, hi, hself⟩, fun d hd => (hothers d hd).trans (hctx d), hready, hrest⟩

/-- The header stands in the Basin that the context emits to (R119, R120). -/
theorem headed_basin (hb : ctxNat s c 0x22 = 1) (hs : (voxCtx s c).sealed = some m) (hk : ctxNat s c 0x26 < 16)
    (hw : winOf (coreOf s (ctxNat s c 0x26))
      ((ctxNat s c 0x23 + m.seq % ctxNat s c 0x24 * ctxNat s c 0x25) / 4096) = none) :
    ∃ p q, p.length = 2 ∧ (coreOf (headed c m s) (ctxNat s c 0x26)).basin =
      smSetList byteZero (coreOf s (ctxNat s c 0x26)).basin (ctxNat s c 0x23 + m.seq % ctxNat s c 0x24 * ctxNat s c 0x25)
        (leBytes 2 0x5658 ++ (p ++ (leBytes 4 m.seq ++ (leBytes 8 m.tref ++ q)))) := by
  obtain ⟨p, q, hp, hq, hh⟩ := voxHeader_fields s c (stampOf s islVox m.close) (siteCount (voxCtx s c)) (voxCtx s c) m
  refine ⟨p, q, hp, ?_⟩
  unfold headed
  extract_lets t
  generalize voxHeader s c t (siteCount (voxCtx s c)) (voxCtx s c) m = b at hh
  have hb64 : b.length = 64 := by
    rw [hh]
    simp only [List.length_append, leBytes_length, hp, hq]
  have hwrite : emitWrite c 0 b (keepStamp islVox t s) = setCore (ctxNat s c 0x26)
      (basinStore (ctxNat s c 0x23 + m.seq % ctxNat s c 0x24 * ctxNat s c 0x25) b (coreOf s (ctxNat s c 0x26)))
      (keepStamp islVox t s) := by
    have hsl : (voxCtx (keepStamp islVox t s) c).sealed = some m := hs
    unfold emitWrite
    rw [hsl, chunks_line hb64]
    exact (if_pos hb).trans (basinWritePhys_line hb64 hw)
  rw [hwrite, coreOf_setCore_self _ hk, ← hh]
  rfl

end

/-! ### A cleared allotment (R104, R118) -/

section
variable {s t u : State} {c : Nat}

/-- Items of other contexts stay in the hold buffer. -/
theorem holdDrain_stays {l : List VoxIn} (h : ∀ v ∈ l, inCtx v ≠ c) (kept : List VoxIn) (s : State) :
    holdDrain c l kept s = { s with vox := { s.vox with hold := kept.reverse ++ l } } := by
  induction l generalizing kept with
  | nil =>
    rw [List.append_nil]
    rfl
  | cons v l ih =>
    have hv : ¬ (inCtx v = c ∧ (voxCtx s c).sealed.isNone) := fun k => h v List.mem_cons_self k.1
    unfold holdDrain
    rw [if_neg hv, ih (fun w hw => h w (List.mem_cons_of_mem _ hw)), List.reverse_cons, List.append_assoc]
    rfl

/-- An empty allotment at its first level. -/
structure Emptied (lvl : Nat) (x : VoxCtx) : Prop where
  table : x.table = []
  live : x.live = 0
  unsealed : x.sealed = none
  clear : x.clearing = false
  level : x.level = lvl

/-- The state in which the allotment of context `c` is empty, with new pages where it was enabled again (R104). -/
def emptied (c : Nat) (s : State) : State :=
  let u := setVoxCtx c (voxEmpty s c (voxCtx s c)) s
  if (voxCtx s c).renew then modVoxCtx c (voxReserve u c) u else u

theorem emptied_spec (hc : c < 128) (s : State) : (∃ v, emptied c s = { s with vox := { s.vox with ctx := v } }) ∧
    Emptied (startLevel s c) (voxCtx (emptied c s) c) ∧ (∀ d, d ≠ c → voxCtx (emptied c s) d = voxCtx s d) ∧
    ((voxCtx s c).renew = false → (voxCtx (emptied c s) c).pages = (voxCtx s c).pages) := by
  have hset := voxCtx_set_self s hc (voxEmpty s c (voxCtx s c))
  unfold emptied
  extract_lets u
  split
  next hr =>
    have hx : voxCtx (modVoxCtx c (voxReserve u c) u) c = voxReserve u c (voxEmpty s c (voxCtx s c)) :=
      (voxCtx_set_self u hc _).trans (congrArg (voxReserve u c) hset)
    refine ⟨⟨_, rfl⟩, ?_, fun d hd => (voxCtx_set_ne hd _ u).trans (voxCtx_set_ne hd _ s), fun hn => ?_⟩
    · rw [hx]
      exact ⟨rfl, rfl, rfl, rfl, rfl⟩
    · rw [hn] at hr
      cases hr
  next =>
    refine ⟨⟨_, rfl⟩, ?_, fun d hd => voxCtx_set_ne hd _ s, fun _ => ?_⟩
    · rw [show voxCtx u c = _ from hset]
      exact ⟨rfl, rfl, rfl, rfl, rfl⟩
    · rw [show voxCtx u c = _ from hset]
      rfl

theorem allotmentCleared_eq (hr : isReady s = true) (hx : (voxCtx s c).clearing = true) (hh : ∀ v ∈ s.vox.hold, inCtx v ≠ c) :
    allotmentCleared c s = voxSettle c (emptied c s) := by
  have hhold : (emptied c s).vox.hold = s.vox.hold := by
    unfold emptied
    extract_lets u
    split <;> rfl
  have hdrain := holdDrain_stays (s := emptied c s) (c := c) (l := (emptied c s).vox.hold) (by rwa [hhold]) []
  unfold allotmentCleared
  extract_lets x u v
  rw [if_pos (by rw [hr, show x.clearing = true from hx]; rfl)]
  exact congrArg (voxSettle c) hdrain

/-- A running context keeps its pages. -/
theorem voxSettle_runs (h : ctxRuns (ingCtx s c) = true) : voxSettle c s = s := by
  simp [voxSettle, h]

/-- A stopped context with nothing under way has returned its pages (R104). -/
theorem voxSettle_returns (hc : c < 128) (h : ctxRuns (ingCtx s c) = false) (hq : voxQuiet (voxSettle c s) c = true) :
    (voxCtx (voxSettle c s) c).pages = 0 := by
  by_cases hs : voxQuiet s c = true
  · have hgate : (!ctxRuns (ingCtx s c) && voxQuiet s c) = true := by rw [h, hs]; rfl
    rw [voxSettle, if_pos hgate, modVoxCtx, voxCtx_set_self s hc]
  · rw [voxSettle, if_neg (by simp [hs])] at hq
    exact absurd hq hs

end

end Sys2Proof.Machine

namespace Sys2Proof.Proofs

open Sys2Proof.Machine

/-- Settles O39: an emission begins or is skipped (`emissionStart_begins`, `emissionStart_skips`), ends with its header and
its sweep-ready (`emissionComplete_done`, `headed_basin`), and its allotment is emptied (`allotmentCleared_eq`). -/
theorem emission : Obligations.Emission := by
  unfold Obligations.Emission
  refine ⟨?starts, ?skips, ?ends, ?cleared⟩
  case starts =>
    intro s c m p hr x n hs hf he hcl hrd ht hfree
    have hk := emissionStart_begins c.isLt ⟨hr, hs, hf, he, hcl, hrd, ht⟩ hfree
    obtain ⟨hod, -, hvox⟩ := openServe_reads p s
    obtain ⟨v, hv, hlast⟩ := openServe_frame p s
    have hgone := sweepGone_jobs (boundSlot c.val n) (openServe 0 p s)
    have hself : voxCtx (emitBegun c.val n (openServe 0 p s)) c.val =
        { x with emitting := true, slots := vset x.slots n none } := by
      rw [voxCtx_emitBegun c.isLt, voxCtx_congr hvox]
    have hlast' : (emitBegun c.val n (openServe 0 p s)).openLast = v := hgone.openLast.trans (by rw [hv])
    refine ⟨_, rfl, ?_, ?_, fun hn => ?_, fun ho => ?_, ?_, fun d hd => ?_, ?_, ?_⟩
    · rw [hk.emitting, hself]
    · rw [hk.sealedAs, hself, ← hs]
    · rw [hk.slots, hself]
      exact vget_vset_self _ _ _ _ hn
    · rw [hk.openLast, hlast', hlast ho]
    · refine hk.ready.trans ?_
      have e := congrArg Vox.ready (hgone.vox.trans hvox)
      exact e
    · exact (hk.others d hd).trans ((voxCtx_emitBegun_ne hd n _).trans (voxCtx_congr hvox d))
    · exact hk.od.trans (hgone.od.trans hod)
    · exact hk.ing.trans (hgone.ing.trans (by rw [hv]))
  case skips =>
    intro s c m p i hr x hs hf he hcl hrd ht hi hb
    obtain ⟨v, hv, -⟩ := openServe_frame p s
    have hskip := emitSkip_skipped c.isLt m (openServe 0 p s)
    rw [← emissionStart_skips ⟨hr, hs, hf, he, hcl, hrd, ht⟩ hi hb, hv] at hskip
    obtain ⟨hself, hothers, hready, hcount, w, g, f, b, hrest⟩ := hskip
    exact ⟨_, rfl, by rw [hself], by rw [hself]; exact he, hready, by rw [hself]; rfl, hcount, by rw [hrest], by rw [hrest],
      by rw [hrest], hothers⟩
  case ends =>
    intro s c m hr x n hs he hn
    obtain ⟨⟨i, hi, hself⟩, hothers, hready, w, hrest⟩ := emissionComplete_done c.isLt hr hs he
    have hk := headed_mem c.val m s
    have hod : (emissionComplete c.val s).od = (headed c.val m s).od := by rw [hrest]
    have hhst : (emissionComplete c.val s).hst = (headed c.val m s).hst := by rw [hrest]
    have hing : (emissionComplete c.val s).ing = (headed c.val m s).ing := by rw [hrest]
    have hkc : (emissionComplete c.val s).kc = (headed c.val m s).kc := by rw [hrest]
    refine ⟨_, rfl, by rw [hself]; rfl, by rw [hself]; rfl, by rw [hself]; rfl, hready,
      ⟨i, ?_, hi.seq, hi.tref, hi.sites, hi.noroom⟩, hothers, hod.trans hk.jobs.od, hhst.trans hk.hst,
      hing.trans hk.jobs.ing, fun hbas hcore => ?_⟩
    · rw [hself]
      exact vget_vset_self _ _ _ _ hn
    · intro a hwin
      obtain ⟨q, r, hq, hbasin⟩ := headed_basin hbas hs hcore hwin
      have hcoreOf : coreOf (emissionComplete c.val s) (ctxNat s c.val 0x26) = coreOf (headed c.val m s) (ctxNat s c.val 0x26) :=
        coreOf_congr hkc _
      rw [hcoreOf, hbasin]
      exact leNat_setList_fields _ a 0x5658 m.seq m.tref hq r
  case cleared =>
    intro s c hr hx hh
    obtain ⟨⟨v, hv⟩, hempty, hothers, hpages⟩ := emptied_spec c.isLt s
    obtain ⟨⟨w, hw⟩, ⟨k, r, i, hself⟩, hsettled⟩ := voxSettle_settled c.isLt (emptied c.val s)
    have hruns : ingCtx (emptied c.val s) c.val = ingCtx s c.val := ingCtx_congr (by rw [hv]) _
    have hex : exec (.allotmentCleared c) s = .next (voxSettle c.val (emptied c.val s)) :=
      congrArg Host.Outcome.next (allotmentCleared_eq hr hx hh)
    have ht : Emptied (startLevel s c.val) (voxCtx (voxSettle c.val (emptied c.val s)) c.val) := by
      rw [hself]
      exact ⟨hempty.table, hempty.live, hempty.unsealed, hempty.clear, hempty.level⟩
    refine ⟨_, hex, ht.table, ht.live, ht.unsealed, ht.clear, ht.level, fun hrun hren => ?_, fun hstop hq => ?_,
      by rw [hw, hv], fun d hd => (hsettled d hd).trans (hothers d hd), by rw [hw, hv]⟩
    · rw [voxSettle_runs (by rw [hruns]; exact hrun)]
      exact hpages hren
    · exact voxSettle_returns c.isLt (by rw [hruns]; exact hstop) hq

end Sys2Proof.Proofs

/-! ## The matrix engine's passes -/

namespace Sys2Proof.Machine

section
variable {α β : Type} {s t u : State} {c : Nat}

/-! ### Engine work that ends well -/

/-- Work that ends well went well in its first part and in the rest. -/
theorem engRun_bind_inv {m : EngM β} {f : β → EngM α} {a : α} (h : engRun (m >>= f) s = (.ok a, u)) :
    ∃ b t, engRun m s = (.ok b, t) ∧ engRun (f b) t = (.ok a, u) := by
  change (ExceptT.bindCont f (engRun m s).1 : StateM State _) (engRun m s).2 = _ at h
  rcases hm : engRun m s with ⟨_ | b, t⟩
  · rw [hm] at h
    cases h
  · rw [hm] at h
    exact ⟨b, t, rfl, h⟩

theorem engRun_throw_bind (e : Stop) (f : β → EngM α) (s : State) : engRun (throw e >>= f) s = (.error e, s) := rfl

/-- A relation of states that every turn of a loop keeps holds over a loop that ends well. -/
theorem engRun_forIn_inv {R : State → State → Prop} (hrefl : ∀ s, R s s) (htrans : ∀ {s t u}, R s t → R t u → R s u)
    {f : β → PUnit → EngM (ForInStep PUnit)} (hf : ∀ b {s t r}, engRun (f b ⟨⟩) s = (.ok r, t) → R s t) (l : List β)
    {s t : State} {r : PUnit} (h : engRun (forIn l ⟨⟩ f) s = (.ok r, t)) : R s t := by
  induction l generalizing s with
  | nil =>
    cases h
    exact hrefl _
  | cons b l ih =>
    rw [List.forIn_cons] at h
    obtain ⟨x, v, hx, hrest⟩ := engRun_bind_inv h
    cases x with
    | done y =>
      cases hrest
      exact hf b hx
    | yield y => exact htrans (hf b hx) (ih hrest)

/-! ### Requests on the Cistern (R193 to R196) -/

/-- The entry that an operation leaves where `old` stood. -/
def CisOp.result : CisOp → Word → Word → Word
  | .read, old, _ => old
  | .write, _, v => v
  | .acc fp, old, v => accWord fp old v

/-- An operation on entries, one after another. -/
def cisApply (op : CisOp) (es : List (Nat × Word)) (x : Core) : Core :=
  es.foldl (fun x e => cisStore e.1 (op.result (smGet wordZero x.cis e.1) e.2) x) x

theorem cisApply_append (op : CisOp) (es fs : List (Nat × Word)) (x : Core) :
    cisApply op (es ++ fs) x = cisApply op fs (cisApply op es x) := List.foldl_append

/-- An operation on entries changes the Cistern. -/
theorem cisApply_frame (op : CisOp) (es : List (Nat × Word)) (x : Core) :
    ∃ m v, cisApply op es x = { x with cis := m, cisUp := v } := by
  induction es generalizing x with
  | nil => exact ⟨x.cis, x.cisUp, rfl⟩
  | cons e es ih =>
    obtain ⟨m, v, h⟩ := ih (cisStore e.1 (op.result (smGet wordZero x.cis e.1) e.2) x)
    exact ⟨m, v, h⟩

/-- The entries that a request names: `n` from `b` upward, with their values. -/
def entriesFrom (b n : Nat) (f : Nat → Word) : List (Nat × Word) := (List.range n).map fun i => (b + i, f i)

/-- An operation on consecutive entries reaches each once and no other. -/
theorem smGet_cisApply_entries (op : CisOp) (b n : Nat) (f : Nat → Word) (x : Core) :
    (∀ i < n, smGet wordZero (cisApply op (entriesFrom b n f) x).cis (b + i) = op.result (smGet wordZero x.cis (b + i)) (f i)) ∧
      ∀ e, e < b ∨ b + n ≤ e → smGet wordZero (cisApply op (entriesFrom b n f) x).cis e = smGet wordZero x.cis e := by
  induction n with
  | zero => exact ⟨fun i hi => absurd hi (Nat.not_lt_zero i), fun _ _ => rfl⟩
  | succ n ih =>
    obtain ⟨hin, hout⟩ := ih
    have hlast : cisApply op (entriesFrom b (n + 1) f) x =
        cisApply op [(b + n, f n)] (cisApply op (entriesFrom b n f) x) := by
      rw [← cisApply_append, entriesFrom, List.range_succ, List.map_append]
      rfl
    rw [hlast]
    refine ⟨fun i hi => ?_, fun e he => (smGet_set_ne _ _ (by omega) _).trans (hout e (by omega))⟩
    by_cases hn : i = n
    · subst hn
      exact (smGet_set_self _ _ _ _).trans (congrArg (op.result · _) (hout _ (.inr (Nat.le_refl _))))
    · exact (smGet_set_ne _ _ (by omega) _).trans (hin i (by omega))

/-- Zeros written to entries leave every other as it was. -/
theorem smGet_cisApply_zero (es : List (Nat × Word)) (hz : ∀ e ∈ es, e.2 = 0) (x : Core) (k : Nat) :
    smGet wordZero (cisApply .write es x).cis k = if k ∈ es.map Prod.fst then 0 else smGet wordZero x.cis k := by
  induction es generalizing x with
  | nil => rfl
  | cons e es ih =>
    have hrest : smGet wordZero (cisApply .write (e :: es) x).cis k = _ :=
      ih (fun e he => hz e (List.mem_cons_of_mem _ he)) (cisStore e.1 e.2 x)
    have hcis : (cisStore e.1 e.2 x).cis = smSet wordZero x.cis e.1 e.2 := rfl
    rw [hrest, List.map_cons, hcis]
    by_cases hk : k = e.1
    · subst hk
      simp only [smGet_set_self, hz e List.mem_cons_self, ite_self, List.mem_cons, true_or, if_true]
    · simp only [smGet_set_ne _ _ hk, List.mem_cons, hk, false_or]

/-- `t` is `s` after an operation on entries of core `c`'s Cistern, with registers written. -/
structure CisStep (c : Nat) (op : CisOp) (es : List (Nat × Word)) (s t : State) : Prop where
  rest : { t with kc := s.kc, regs := s.regs } = s
  others : ∀ e, e ≠ c → coreOf t e = coreOf s e
  core : coreOf t c = cisApply op es (coreOf s c)

theorem CisStep.of_regs (op : CisOp) (g : SMap Word) (s : State) : CisStep c op [] s { s with regs := g } :=
  ⟨rfl, fun _ _ => rfl, rfl⟩

theorem CisStep.trans {op : CisOp} {es fs : List (Nat × Word)} (h : CisStep c op es s t) (k : CisStep c op fs t u) :
    CisStep c op (es ++ fs) s u :=
  ⟨(congrArg (fun v : State => { v with kc := s.kc, regs := s.regs }) k.rest).trans h.rest,
    fun e he => (k.others e he).trans (h.others e he), by rw [k.core, h.core, cisApply_append]⟩

/-- What an operation on the Cistern keeps of the core. -/
theorem CisStep.field {op : CisOp} {es : List (Nat × Word)} (h : CisStep c op es s t) (p : Core → α)
    (hp : ∀ x m v, p { x with cis := m, cisUp := v } = p x) : p (coreOf t c) = p (coreOf s c) := by
  obtain ⟨m, v, hx⟩ := cisApply_frame op es (coreOf s c)
  rw [h.core, hx, hp]

theorem cisCounted_frame (c quad lo : Nat) (unc : Bool) (s : State) :
    ∃ g, eccLast c true false unc quad (regCountField (kreg c 0x3004) lo 16 1 s) = { s with regs := g } := by
  obtain ⟨g, hg⟩ := regCountField_frame (kreg c 0x3004) lo 16 1 s
  obtain ⟨g', hg'⟩ := regFirst_frame (kreg c 0x3008) 31
    (2 ^ 31 + bitAt true 30 + bitAt false 29 + bitAt unc 28 + quad % 131072) { s with regs := g }
  exact ⟨g', by rw [hg, eccLast, hg']⟩

/-- A fold of steps each of which changes registers alone. -/
theorem foldl_regs {f : Bool × State → β → Bool × State} (hf : ∀ r b, ∃ o g, f r b = (o, { r.2 with regs := g }))
    (l : List β) (r : Bool × State) : ∃ o g, l.foldl f r = (o, { r.2 with regs := g }) := by
  induction l generalizing r with
  | nil => exact ⟨r.1, r.2.regs, rfl⟩
  | cons b l ih =>
    obtain ⟨o, g, h⟩ := hf r b
    obtain ⟨o', g', h'⟩ := ih (o, { r.2 with regs := g })
    exact ⟨o', g', by rw [List.foldl_cons, h, h']⟩

/-- Decoding entries writes registers. -/
theorem cisDecode_frame (c quad : Nat) (es : List Nat) (s : State) :
    ∃ b g, cisDecode c quad es s = (b, { s with regs := g }) := by
  refine foldl_regs (fun r e => ?_) es (true, s)
  split
  · exact ⟨r.1, r.2.regs, rfl⟩
  · obtain ⟨g, hg⟩ := cisCounted_frame c quad 0 false r.2
    exact ⟨r.1, g, congrArg (r.1, ·) hg⟩
  · obtain ⟨g, hg⟩ := cisCounted_frame c quad 16 true r.2
    exact ⟨false, g, congrArg (false, ·) hg⟩

/-- An operation that is performed on a quad changes its entries. -/
theorem cisQuadOp_step {op : CisOp} {es : List (Nat × Word)} (hc : c < 16) (ho : op ≠ .read)
    (h : (cisQuadOp c op es s).1.isSome = true) : CisStep c op es s (cisQuadOp c op es s).2 := by
  cases op with
  | read => exact absurd rfl ho
  | write => exact ⟨rfl, fun e he => coreOf_modCore_ne _ he, coreOf_modCore_self _ hc⟩
  | acc fp =>
    obtain ⟨b, g, hg⟩ := cisDecode_frame c ((es.headD (0, 0)).1 / 4) (es.map (·.1)) s
    unfold cisQuadOp at h ⊢
    simp only [reduceCtorEq, if_false, hg] at h ⊢
    cases b with
    | false => cases h
    | true => exact ⟨rfl, fun e he => coreOf_modCore_ne _ he, coreOf_modCore_self _ hc⟩

theorem groupQuads_flatten (es : List (Nat × Word)) : (groupQuads es).flatten = es := by
  induction es with
  | nil => rfl
  | cons e es ih =>
    unfold groupQuads
    split
    next h => rw [← ih, h]; rfl
    next g gs h =>
      rw [h] at ih
      split
      · rw [← ih]; rfl
      · rw [← ih]; rfl

/-- Operations performed quad by quad change the entries of all. -/
theorem cisQuads_step {op : CisOp} (hc : c < 16) (ho : op ≠ .read) (gs : List (List (Nat × Word))) (s : State)
    (h : (cisQuads c op gs s).1 = true) : CisStep c op gs.flatten s (cisQuads c op gs s).2.2 := by
  induction gs generalizing s with
  | nil => exact .of_regs op s.regs s
  | cons g gs ih =>
    obtain ⟨hg, hgs⟩ := Bool.and_eq_true_iff.mp h
    exact (cisQuadOp_step hc ho hg).trans (ih _ hgs)

/-- A write is performed on every quad (R196). -/
theorem cisQuads_write (c : Nat) (gs : List (List (Nat × Word))) (s : State) : (cisQuads c .write gs s).1 = true := by
  induction gs generalizing s with
  | nil => rfl
  | cons g gs ih => exact Bool.and_eq_true_iff.mpr ⟨rfl, ih _⟩

/-- The entries of a request whose values are given one by one. -/
theorem entriesFrom_getD (b n : Nat) (f : Nat → Word) :
    entriesFrom b n (((List.range n).map f).getD · 0) = entriesFrom b n f :=
  List.map_congr_left fun i hi => by simp [List.mem_range.mp hi]

theorem engRun_cisPhys (c : Nat) (op : CisOp) (es : List (Nat × Word)) (s : State) :
    engRun (cisPhys c op es) s = if (cisQuads c op (groupQuads es) s).1 = true
      then (.ok (cisQuads c op (groupQuads es) s).2.1, (cisQuads c op (groupQuads es) s).2.2)
      else (.error (.fault .cisternUe 0), (cisQuads c op (groupQuads es) s).2.2) := by
  unfold cisPhys
  rw [engRun_get_bind]
  dsimp only
  split
  · rfl
  · rfl

/-- A request is performed inside the task and in declared regions (R163, R171). -/
theorem engRun_cisReq (a : Acc) (op : CisOp) (e n : Nat) (f : Nat → Word) (s : State) :
    engRun (cisReq a op e ((List.range n).map f)) s =
      if (ctxOf (coreOf s a.c)).cisBound * 1024 < (ctxOf (coreOf s a.c)).cisBase * 1024 + e + n
      then (.error (.fault .taskBound 0), s)
      else if ((List.range n).any fun i => !declared a.w true ((e + i) / 16) (decide (op ≠ .read))) = true
      then (.error (.fault .regionUndeclared 0), s)
      else engRun (cisPhys a.c op (entriesFrom ((ctxOf (coreOf s a.c)).cisBase * 1024 + e) n f)) s := by
  rw [← entriesFrom_getD]
  unfold cisReq
  rw [engRun_get_bind]
  dsimp only
  rw [List.length_map, List.length_range]
  split
  · rfl
  · split
    · rfl
    · rfl

/-- A request that is performed changes its entries. -/
theorem cisReq_step {a : Acc} {op : CisOp} {e n : Nat} {f : Nat → Word} {r : List Word} (hc : a.c < 16) (ho : op ≠ .read)
    (h : engRun (cisReq a op e ((List.range n).map f)) s = (.ok r, t)) :
    CisStep a.c op (entriesFrom ((ctxOf (coreOf s a.c)).cisBase * 1024 + e) n f) s t := by
  rw [engRun_cisReq] at h
  split at h
  · cases h
  · split at h
    · cases h
    · rw [engRun_cisPhys] at h
      split at h
      next hok =>
        cases h
        have hstep := cisQuads_step hc ho _ s hok
        rwa [groupQuads_flatten] at hstep
      next => cases h

/-- A write inside the task and in declared regions is performed. -/
theorem cisReq_write {a : Acc} {e n : Nat} (f : Nat → Word)
    (hb : (ctxOf (coreOf s a.c)).cisBase * 1024 + e + n ≤ (ctxOf (coreOf s a.c)).cisBound * 1024)
    (hd : ∀ i < n, declared a.w true ((e + i) / 16) true = true) :
    ∃ r t, engRun (cisReq a .write e ((List.range n).map f)) s = (.ok r, t) := by
  have hany : ((List.range n).any fun i => !declared a.w true ((e + i) / 16) (decide (CisOp.write ≠ .read))) = false := by
    simpa using hd
  rw [engRun_cisReq, if_neg (Nat.not_lt.mpr hb), hany, if_neg Bool.false_ne_true, engRun_cisPhys, if_pos (cisQuads_write _ _ s)]
  exact ⟨_, _, rfl⟩

/-! ### What a request makes of a row of entries -/

/-- Of core `c`, the `n` entries from `b` upward become what `f` makes of each, and the rest stands, as do the other cores. -/
structure RowBecomes (c b n : Nat) (f : Nat → Word → Word) (s t : State) : Prop where
  row : ∀ i < n, smGet wordZero (coreOf t c).cis (b + i) = f i (smGet wordZero (coreOf s c).cis (b + i))
  outside : ∀ e, e < b ∨ b + n ≤ e → smGet wordZero (coreOf t c).cis e = smGet wordZero (coreOf s c).cis e
  core : ∃ m v, coreOf t c = { coreOf s c with cis := m, cisUp := v }
  others : ∀ d, d ≠ c → coreOf t d = coreOf s d

theorem RowBecomes.of_regs (c b n : Nat) (g : SMap Word) (s : State) :
    RowBecomes c b n (fun _ old => old) s { s with regs := g } :=
  ⟨fun _ _ => rfl, fun _ _ => rfl, ⟨_, _, rfl⟩, fun _ _ => rfl⟩

theorem CisStep.row {op : CisOp} {b n : Nat} {v : Nat → Word} (h : CisStep c op (entriesFrom b n v) s t) :
    RowBecomes c b n (fun i old => op.result old (v i)) s t := by
  obtain ⟨hin, hout⟩ := smGet_cisApply_entries op b n v (coreOf s c)
  obtain ⟨m, u, hframe⟩ := cisApply_frame op (entriesFrom b n v) (coreOf s c)
  exact ⟨by rwa [h.core], by rwa [h.core], ⟨m, u, h.core.trans hframe⟩, h.others⟩

theorem RowBecomes.field {b n : Nat} {f : Nat → Word → Word} (h : RowBecomes c b n f s t) (p : Core → α)
    (hp : ∀ x m v, p { x with cis := m, cisUp := v } = p x) : p (coreOf t c) = p (coreOf s c) := by
  obtain ⟨m, v, hx⟩ := h.core
  rw [hx, hp]

/-- Registers written after the request. -/
theorem RowBecomes.regs {b n : Nat} {f : Nat → Word → Word} (h : RowBecomes c b n f s t) (g : SMap Word) :
    RowBecomes c b n f s { t with regs := g } := ⟨h.row, h.outside, h.core, h.others⟩

theorem RowBecomes.congr {b n : Nat} {f g : Nat → Word → Word} (h : RowBecomes c b n f s t)
    (hfg : ∀ i < n, ∀ old, f i old = g i old) : RowBecomes c b n g s t :=
  ⟨fun i hi => (h.row i hi).trans (hfg i hi _), h.outside, h.core, h.others⟩

/-! ### One site (R144, R145, R204) -/

/-- The array row at which a sub-problem begins. -/
def siteRow0 (p : Pass) (q : Nat) : Nat := if p.mmp then (if passInt4 p then 64 else 32) * (q / 2) else 0

/-- The logical column at which a sub-problem begins. -/
def siteCol0 (p : Pass) (q : Nat) : Nat := if p.mmp then 32 * (q % 2) else 0

/-- The sum that a site forms in column `n` of its sub-problem. -/
def siteSum (p : Pass) (tile : List (List Byte)) (q : Nat) (els : List Nat) (n : Nat) : Nat :=
  (((List.range p.n).map fun n => passSum p tile (contrib p (siteRow0 p q) els) (siteCol0 p q + n)).getD n none).getD 0

theorem siteSum_eq {p : Pass} {n : Nat} (hn : n < p.n) (tile : List (List Byte)) (q : Nat) (els : List Nat) :
    siteSum p tile q els n = (passSum p tile (contrib p (siteRow0 p q) els) (siteCol0 p q + n)).getD 0 := by
  simp [siteSum, hn]

/-- What a site leaves in entry `n` of its row where `old` stood. -/
def siteEntry (p : Pass) (tile bias : List (List Byte)) (q : Nat) (els : List Nat) (n : Nat) (old : Word) : Word :=
  if contrib p (siteRow0 p q) els = [] then
    if p.init = 0 then old else if p.init = 1 then BitVec.ofNat 32 (biasAt bias (siteCol0 p q + n)) else 0
  else if p.init = 0 then accWord (!passInt p) old (BitVec.ofNat 32 (siteSum p tile q els n))
  else BitVec.ofNat 32 (accAdd (passInt p) (if p.init = 1 then biasAt bias (siteCol0 p q + n) else 0) (siteSum p tile q els n))

theorem regWrap64_frame (lo hi d : Nat) (s : State) : ∃ g, regWrap64 lo hi d s = { s with regs := g } := by
  unfold regWrap64
  dsimp only
  generalize ((regGet s hi).toNat * 2 ^ 32 + (regGet s lo).toNat + d) % 2 ^ 64 = v
  obtain ⟨g, hg⟩ := regPut_frame s lo (BitVec.ofNat 32 v)
  rw [hg]
  exact regPut_frame _ _ _

/-- The comparisons of a site that fail none write registers. -/
theorem abftSite_frame {a : Acc} {p : Pass} {q m : Nat} {vs : List (Nat × Abft)}
    (h : engRun (abftSite a p q m vs) s = (.ok (), t)) : ∃ g, t = { s with regs := g } := by
  unfold abftSite at h
  dsimp only at h
  rw [engRun_modify_bind, engRun_modify_bind] at h
  obtain ⟨r, u, hloop, hend⟩ := engRun_bind_inv h
  cases hend
  have hkeep := engRun_forIn_inv (R := Eq) (fun _ => rfl) Eq.trans (fun b s t r hb => ?_) _ hloop
  · obtain ⟨g, hg⟩ := regWrap_frame s (kreg a.c 0x1030) _
    rw [← hkeep, hg]
    exact regCount_frame _ _ _
  · split at hb
    · rw [engRun_get_bind, engRun_modify_bind] at hb
      split at hb
      · rw [engRun_modify_bind, engRun_modify_bind, engRun_throw_bind] at hb
        cases hb
      · rw [engRun_throw_bind] at hb
        cases hb
    · cases hb
      rfl

/-- A site's request, its count of products and its comparisons. -/
theorem checkedReq_row {a : Acc} {p : Pass} {op : CisOp} {e n k lo hi q m : Nat} {f : Nat → Word} {vs : List (Nat × Abft)}
    (hc : a.c < 16) (ho : op ≠ .read)
    (h : engRun (do
      let _ ← cisReq a op e ((List.range n).map f)
      modify (regWrap64 lo hi k)
      abftSite a p q m vs) s = (.ok (), t)) :
    RowBecomes a.c ((ctxOf (coreOf s a.c)).cisBase * 1024 + e) n (fun i old => op.result old (f i)) s t := by
  obtain ⟨r, u, hreq, hrest⟩ := engRun_bind_inv h
  obtain ⟨g, hg⟩ := regWrap64_frame lo hi k u
  rw [engRun_modify_bind, hg] at hrest
  obtain ⟨g, rfl⟩ := abftSite_frame hrest
  exact (cisReq_step hc ho hreq).row.regs g

/-- A site that ends well met no parity error at the feeder queues (R207). -/
theorem meSite_clean {a : Acc} {p : Pass} {tile bias : List (List Byte)} {q m : Nat} {els : List Nat}
    (h : engRun (meSite a p tile bias q m els) s = (.ok (), t)) :
    (!passMvp p && decide ((coreOf s a.c).feedBad = some m)) = false := by
  unfold meSite at h
  rw [engRun_get_bind] at h
  dsimp only at h
  split at h
  next =>
    rw [engRun_modify_bind, engRun_modify_bind, engRun_throw_bind] at h
    cases h
  next hpar => exact Bool.eq_false_of_not_eq_true hpar

section
variable {a : Acc} {p : Pass} {tile bias : List (List Byte)} {q m : Nat} {els : List Nat}
variable (hclean : (!passMvp p && decide ((coreOf s a.c).feedBad = some m)) = false)
include hclean

/-- A site to which no row contributes asks the Cistern for the start of its sums alone. -/
theorem meSite_silent (hrows : contrib p (siteRow0 p q) els = []) :
    engRun (meSite a p tile bias q m els) s = engRun (do
      if p.init = 1 then
        let _ ← cisReq a .write (passRow p q m) ((List.range p.n).map fun n => BitVec.ofNat 32 (biasAt bias (siteCol0 p q + n)))
      else if p.init = 2 then
        let _ ← cisReq a .write (passRow p q m) ((List.range p.n).map fun _ => 0)) s := by
  unfold siteRow0 at hrows
  unfold meSite
  rw [engRun_get_bind]
  dsimp only
  rw [hclean, if_neg Bool.false_ne_true, hrows, List.isEmpty_nil, if_pos rfl]
  rfl

theorem meSite_summed (hrows : contrib p (siteRow0 p q) els ≠ []) :
    ∃ k vs, engRun (meSite a p tile bias q m els) s = engRun (do
      if p.init = 0 then
        let _ ← cisReq a (.acc (!passInt p)) (passRow p q m) ((List.range p.n).map fun n => BitVec.ofNat 32 (siteSum p tile q els n))
        modify (regWrap64 (kreg a.c 0x1010) (kreg a.c 0x1014) k)
        abftSite a p q m vs
      else
        let _ ← cisReq a .write (passRow p q m) ((List.range p.n).map fun n => BitVec.ofNat 32
          (accAdd (passInt p) (if p.init = 1 then biasAt bias (siteCol0 p q + n) else 0) (siteSum p tile q els n)))
        modify (regWrap64 (kreg a.c 0x1010) (kreg a.c 0x1014) k)
        abftSite a p q m vs) s := by
  have hempty : (contrib p (siteRow0 p q) els).isEmpty = false := by simp [hrows]
  unfold siteRow0 at hempty
  unfold meSite
  rw [engRun_get_bind]
  dsimp only
  rw [hclean, if_neg Bool.false_ne_true, hempty, if_neg Bool.false_ne_true]
  exact ⟨_, _, rfl⟩

end

theorem meSite_row {a : Acc} {p : Pass} {tile bias : List (List Byte)} {q m : Nat} {els : List Nat} (hc : a.c < 16)
    (hi : p.init < 3) (h : engRun (meSite a p tile bias q m els) s = (.ok (), t)) :
    RowBecomes a.c ((ctxOf (coreOf s a.c)).cisBase * 1024 + passRow p q m) p.n (siteEntry p tile bias q els) s t := by
  have hclean := meSite_clean h
  by_cases hrows : contrib p (siteRow0 p q) els = []
  · rw [meSite_silent hclean hrows] at h
    split at h
    next h1 =>
      obtain ⟨r, u, hreq, hend⟩ := engRun_bind_inv h
      cases hend
      exact (cisReq_step hc (by decide) hreq).row.congr fun i _ old => by simp [siteEntry, hrows, h1, CisOp.result]
    next h1 =>
      split at h
      next h2 =>
        obtain ⟨r, u, hreq, hend⟩ := engRun_bind_inv h
        cases hend
        exact (cisReq_step hc (by decide) hreq).row.congr fun i _ old => by simp [siteEntry, hrows, h2, CisOp.result]
      next h2 =>
        cases h
        have h0 : p.init = 0 := by omega
        exact (RowBecomes.of_regs _ _ _ s.regs s).congr fun i _ old => by simp [siteEntry, hrows, h0]
  · obtain ⟨k, vs, hsum⟩ := meSite_summed (tile := tile) (bias := bias) hclean hrows
    rw [hsum] at h
    split at h
    next h0 => exact (checkedReq_row hc (by simp) h).congr fun i _ old => by simp [siteEntry, hrows, h0, CisOp.result]
    next h0 => exact (checkedReq_row hc (by decide) h).congr fun i _ old => by simp [siteEntry, hrows, h0, CisOp.result]

/-! ### A pass with `K` 0 and `INIT` 2 (R144, R204) -/

/-- A loop whose turns each end well with a request on the Cistern ends well with all of them. -/
theorem engRun_forIn_cis {op : CisOp} {f : β → PUnit → EngM (ForInStep PUnit)} {g : β → List (Nat × Word)} {P : State → Prop}
    (hP : ∀ {s t es}, P s → CisStep c op es s t → P t) (l : List β)
    (hf : ∀ b ∈ l, ∀ s, P s → ∃ t, engRun (f b ⟨⟩) s = (.ok (.yield ⟨⟩), t) ∧ CisStep c op (g b) s t) (hs : P s) :
    ∃ t, engRun (forIn l ⟨⟩ f) s = (.ok ⟨⟩, t) ∧ CisStep c op (l.flatMap g) s t := by
  induction l generalizing s with
  | nil => exact ⟨s, rfl, .of_regs op s.regs s⟩
  | cons b l ih =>
    obtain ⟨t, hb, hstep⟩ := hf b List.mem_cons_self s hs
    obtain ⟨u, hl, hrest⟩ := ih (fun x hx => hf x (List.mem_cons_of_mem _ hx)) (hP hs hstep)
    exact ⟨u, by rw [List.forIn_cons, engRun_bind_ok hb]; exact hl, hstep.trans hrest⟩

/-- The zeros that a site of sub-problem `q` and row `m` writes, in a task whose entries begin at `b`. -/
def zeroRow (b : Nat) (p : Pass) (q m : Nat) : List (Nat × Word) := entriesFrom (b + passRow p q m) p.n fun _ => 0

/-- The zeros that all sites of a pass write. -/
def passZeros (b : Nat) (p : Pass) : List (Nat × Word) := (passRows p).flatMap fun e => zeroRow b p e.1 e.2

/-- Each row of a pass lies inside the task and in declared write regions. -/
def RowsOpen (t : TaskCtx) (w : List Word) (p : Pass) : Prop :=
  ∀ e ∈ passRows p, t.cisBase * 1024 + passRow p e.1 e.2 + p.n ≤ t.cisBound * 1024 ∧
    ∀ n < p.n, declared w true ((passRow p e.1 e.2 + n) / 16) true = true

theorem meSite_zero {a : Acc} {p : Pass} (tile bias : List (List Byte)) {q m : Nat} (hc : a.c < 16)
    (hbad : (coreOf s a.c).feedBad = none) (hk : p.k = 0) (hi : p.init = 2)
    (hb : (ctxOf (coreOf s a.c)).cisBase * 1024 + passRow p q m + p.n ≤ (ctxOf (coreOf s a.c)).cisBound * 1024)
    (hd : ∀ n < p.n, declared a.w true ((passRow p q m + n) / 16) true = true) :
    ∃ t, engRun (meSite a p tile bias q m []) s = (.ok (), t) ∧
      CisStep a.c .write (zeroRow ((ctxOf (coreOf s a.c)).cisBase * 1024) p q m) s t := by
  have hrows : contrib p (siteRow0 p q) [] = [] := by simp [contrib, hk]
  have hclean : (!passMvp p && decide ((coreOf s a.c).feedBad = some m)) = false := by simp [hbad]
  obtain ⟨r, t, hreq⟩ := cisReq_write (fun _ => 0) hb hd
  refine ⟨t, ?_, cisReq_step hc (by decide) hreq⟩
  rw [meSite_silent hclean hrows, if_neg (by omega), if_pos hi, engRun_bind_ok hreq]
  rfl

theorem meBusy_frame (c n : Nat) (s : State) : ∃ g, meBusy c n s = { s with regs := g } := regCount_frame s _ _

/-- The sites of the pass: each row of it becomes zero. -/
theorem meStream_zero {a : Acc} {p : Pass} (tile bias : List (List Byte)) (hc : a.c < 16)
    (hbad : (coreOf s a.c).feedBad = none) (hk : p.k = 0) (hi : p.init = 2)
    (hopen : RowsOpen (ctxOf (coreOf s a.c)) a.w p) :
    ∃ t, engRun (meStream a p tile bias) s = (.ok (), t) ∧
      CisStep a.c .write (passZeros ((ctxOf (coreOf s a.c)).cisBase * 1024) p) s t := by
  generalize hT : ctxOf (coreOf s a.c) = T at hopen ⊢
  unfold meStream
  rw [if_pos hk]
  rw [bind_pure_unit]
  refine engRun_forIn_cis (P := fun s => (coreOf s a.c).feedBad = none ∧ ctxOf (coreOf s a.c) = T)
    (fun hs h => by rwa [h.field Core.feedBad fun _ _ _ => rfl, h.field ctxOf fun _ _ _ => rfl]) (passRows p)
    (fun e he u hu => ?_) ⟨hbad, hT⟩
  obtain ⟨hbad', rfl⟩ := hu
  obtain ⟨hbound, hdecl⟩ := hopen e he
  have hsite : ∀ g, ∃ t, engRun (meSite a p tile bias e.1 e.2 []) { u with regs := g } = (.ok (), t) ∧
      CisStep a.c .write (zeroRow ((ctxOf (coreOf u a.c)).cisBase * 1024) p e.1 e.2) { u with regs := g } t := fun g =>
    meSite_zero (s := { u with regs := g }) tile bias hc hbad' hk hi hbound hdecl
  dsimp only
  split
  · obtain ⟨g, hg⟩ := meBusy_frame a.c (passRate p / if p.mmp = true then 4 else 1) u
    obtain ⟨t, ht, hstep⟩ := hsite g
    refine ⟨t, ?_, (CisStep.of_regs .write g u).trans hstep⟩
    rw [engRun_modify_bind, hg, engRun_bind_ok ht]
    rfl
  · obtain ⟨t, ht, hstep⟩ := hsite u.regs
    exact ⟨t, by rw [engRun_bind_ok ht]; rfl, hstep⟩

theorem engRun_tryCatch_ok {m : EngM α} {x : α} (h : engRun m s = (.ok x, t)) (k : Stop → EngM α) :
    engRun (tryCatch m k) s = (.ok x, t) := by
  have hrun : StateT.run m s = (.ok x, t) := h
  unfold engRun
  simp only [tryCatch, tryCatchThe, MonadExceptOf.tryCatch, ExceptT.tryCatch]
  rw [ExceptT.run_mk, StateT.run_bind, hrun]
  rfl

/-- A flight whose pass has run. -/
def passedFlight (f : Flight) : Flight := { f with done := true, loading := false, tile := [] }

theorem passRows_single {p : Pass} (h : p.mmp = false) : passRows p = (List.range p.m).map fun m => (0, m) := by
  simp [passRows, h]

/-- A pass with no access has no entries. -/
theorem passZeros_empty {p : Pass} (h : passEmpty p = true) (hm : p.mmp = false) (b : Nat) :
    passZeros b p = [] := by
  rw [passZeros, passRows_single hm]
  rcases Bool.or_eq_true_iff.mp h with h0 | h0
  · rw [beq_iff_eq.mp h0]
    rfl
  · simp [zeroRow, entriesFrom, beq_iff_eq.mp h0]

/-- The entries of the rows of a pass. -/
theorem mem_passZeros {p : Pass} (hm : p.mmp = false) {b k : Nat} :
    k ∈ (passZeros b p).map Prod.fst ↔ ∃ m < p.m, ∃ n < p.n, b + passRow p 0 m + n = k := by
  simp [passZeros, passRows_single hm, zeroRow, entriesFrom]

theorem passZeros_zero {p : Pass} {b : Nat} : ∀ e ∈ passZeros b p, e.2 = 0 := by
  simp only [passZeros, List.mem_flatMap, zeroRow, entriesFrom, List.mem_map]
  rintro e ⟨qm, -, n, -, rfl⟩
  rfl

theorem mePassRun_zero {a : Acc} {f : Flight} {p : Pass} (hp : passOf f.d.w = p) (hc : a.c < 16)
    (hbad : (coreOf s a.c).feedBad = none) (hm : p.mmp = false) (hw : p.wsrc = false) (hk : p.k = 0) (hi : p.init = 2)
    (he : p.epi = false) (hopen : RowsOpen (ctxOf (coreOf s a.c)) a.w p) :
    ∃ t, engRun (mePassRun a f) s = (.ok (passedFlight f), modRun a.c (releaseReads f.d.commit) t) ∧
      CisStep a.c .write (passZeros ((ctxOf (coreOf s a.c)).cisBase * 1024) p) s t := by
  have hsites : ∀ (tile bias : List (List Byte)) (k : Stop → EngM Unit) (g : SMap Word),
      ∃ t, engRun (do
        tryCatch (meStream a p tile bias) k
        doneWork a { f with loading := false, tile := [] }) { s with regs := g } =
          (.ok (passedFlight f), modRun a.c (releaseReads f.d.commit) t) ∧
        CisStep a.c .write (passZeros ((ctxOf (coreOf s a.c)).cisBase * 1024) p) s t := by
    intro tile bias k g
    obtain ⟨t, ht, hstep⟩ := meStream_zero (s := { s with regs := g }) tile bias hc hbad hk hi hopen
    exact ⟨t, engRun_bind_ok (engRun_tryCatch_ok ht k) _, (CisStep.of_regs .write g s).trans hstep⟩
  unfold mePassRun
  dsimp only
  simp only [hp, hw, hk, he, Bool.false_eq_true, if_false]
  rw [engRun_bind_ok (engRun_pure _ s)]
  split
  next hnone => exact ⟨s, rfl, by rw [passZeros_empty hnone hm]; exact .of_regs .write s.regs s⟩
  next =>
    split
    · rw [engRun_modify_bind]
      obtain ⟨g, hg⟩ := meBusy_frame a.c _ s
      rw [hg]
      exact hsites _ _ _ g
    · exact hsites _ _ _ s.regs

/-- PASS_START runs the pass that stands loaded (R209). -/
theorem passStart_eq {f : Flight} (hf : (coreOf s c).run.flight.find? (fun f => f.eng == 0 && f.loading) = some f)
    (hn : f.failed = none) (hr : isReady s = true) (ha : (coreOf s c).active.isSome = true)
    (ht : (ctxOf (coreOf s c)).st = .running) : passStart c s = runWork c f mePassRun s := by
  unfold passStart
  simp [hf, hn, hr, ha, ht]

/-- PASS_START changes nothing where no pass stands loaded, the core does not run or the pass has failed. -/
theorem passStart_idle (h : (coreOf s c).run.flight.all (fun f => !(f.eng == 0 && f.loading)) = true ∨ isReady s = false ∨
      (ctxOf (coreOf s c)).st ≠ .running ∨
      (∃ f, (coreOf s c).run.flight.find? (fun f => f.eng == 0 && f.loading) = some f ∧ f.failed.isSome = true)) :
    passStart c s = s := by
  unfold passStart
  dsimp only
  split
  next f hf =>
    refine if_neg fun hgo => ?_
    simp only [Bool.and_eq_true, Option.isNone_iff_eq_none, beq_iff_eq] at hgo
    obtain ⟨⟨⟨hr, -⟩, hn⟩, ht⟩ := hgo
    rcases h with hall | hr' | ht' | ⟨f', hf', hn'⟩
    · have hno := List.all_eq_true.mp hall f (List.mem_of_find?_eq_some hf)
      have hyes := List.find?_some hf
      rw [hyes] at hno
      cases hno
    · rw [hr] at hr'
      cases hr'
    · exact ht' ht
    · rw [hf] at hf'
      cases hf'
      rw [hn] at hn'
      cases hn'
  next => rfl

theorem runWork_ok {f g : Flight} {work : Acc → Flight → EngM Flight} (h : engRun (work ⟨c, f.eng, f.d.w⟩ f) s = (.ok g, t)) :
    runWork c f work s = modRun c (putFlight g) t := by
  unfold runWork
  rw [h]

/-- What runs on a core after a pass: its read entries are released. -/
theorem passed_run {f : Flight} {r : CtxRun} (h : r.flight = [f]) :
    putFlight (passedFlight f) (releaseReads f.d.commit r) = { r with
      flight := [passedFlight f], sb := r.sb.filter fun e => !(e.commit == f.d.commit && !e.write) } := by
  unfold putFlight releaseReads releaseRead
  simp only [h, List.map_cons, List.map_nil, passedFlight, if_true, Bool.or_false, bne, Bool.not_and, Bool.not_not]

/-- The core after a pass whose sites made requests on its Cistern. -/
theorem passed_core {op : CisOp} {es : List (Nat × Word)} (hc : c < 16) (h : CisStep c op es s t) (f : Flight) :
    coreOf (modRun c (putFlight (passedFlight f)) (modRun c (releaseReads f.d.commit) t)) c =
      { coreOf t c with run := putFlight (passedFlight f) (releaseReads f.d.commit (coreOf s c).run) } := by
  rw [coreOf_modRun_self hc, coreOf_modRun_self hc, h.field (fun x => x.run) (fun _ _ _ => rfl)]

/-! ### The tile load (R187, R201, R203, R208) -/

/-- A core without rings lets an engine's accesses pass. -/
theorem rings_open {a : Acc} (hg : ∀ r, vget (coreOf s a.c).run.rings r none = none) (line : Nat) (write : Bool) :
    engRun (ringPre a line write) s = (.ok (), s) ∧ engRun (ringPost a line write) s = (.ok (), s) := by
  have hring : ringAt (coreOf s a.c).run line a.eng write = none := by
    unfold ringAt
    rw [List.findSome?_eq_none_iff]
    intro i _
    rw [hg i]
  unfold ringPre ringPost
  rw [engRun_get_bind, engRun_get_bind, hring]
  exact ⟨rfl, rfl⟩

/-- A read of a line without error, in a block that is ready, answers its bytes and changes nothing (R187, R188). -/
theorem basinPhysRead_ready {l : Nat} (hb : (wblkOf (coreOf s c) (l / 64)).1 = 0 ∨ (wblkOf (coreOf s c) (l / 64)).1 = 3)
    (hu : ∀ k, smGet upZero (coreOf s c).basinUp k = 0) :
    engRun (basinPhysRead c l) s = (.ok (basinBytes (coreOf s c) (l * 64) 64), s) := by
  have hdec : basinDecode c l s = (true, s) := by
    obtain ⟨g, hg, hz⟩ := lineDecode_spec c l s
    have hbad : lineBad (coreOf s c) l = [] := List.filter_eq_nil_iff.mpr fun k _ => by simp [wordBad, hu k]
    unfold basinDecode
    rw [hg, hbad, hz fun k _ => hu _]
    rfl
  unfold basinPhysRead
  rw [engRun_get_bind]
  dsimp only
  rw [if_neg (by omega), engRun_get_bind, hdec]
  rfl

theorem weightsOpen_sub {w : List Word} {line n : Nat} (h : WeightsOpen s c w line n) (i k : Nat) (hk : i + k ≤ n) :
    WeightsOpen s c w (line + i) k := by
  obtain ⟨hopen, hring⟩ := h
  refine ⟨fun j hj => ?_, hring⟩
  have hline := hopen (i + j) (by omega)
  rwa [← Nat.add_assoc line, show taskLine (coreOf s c) + line + (i + j) = taskLine (coreOf s c) + (line + i) + j by omega] at hline

/-- ME-WT reads an open weight line and changes nothing. -/
theorem basinRead_weight {a : Acc} {line : Nat} (hl : WeightsOpen s a.c a.w line 1)
    (hu : ∀ k, smGet upZero (coreOf s a.c).basinUp k = 0) :
    engRun (basinRead a true line) s = (.ok (lineBytes (coreOf s a.c) line), s) := by
  obtain ⟨hopen, hring⟩ := hl
  obtain ⟨hreloc, hdecl, hclass, hblk⟩ := hopen 0 Nat.one_pos
  obtain ⟨hpre, hpost⟩ := rings_open hring line false
  simp only [Nat.add_zero] at hreloc hdecl hclass hblk
  have hwin : (true && decide (partClass s (ctxOf (coreOf s a.c)).part < 2) &&
      (winOf (coreOf s a.c) ((taskLine (coreOf s a.c) + line) / 64)).isNone) = false := by
    refine Bool.eq_false_iff.mpr fun h => ?_
    simp only [Bool.true_and, Bool.and_eq_true, decide_eq_true_eq, Option.isNone_iff_eq_none] at h
    obtain ⟨hlow, hnone⟩ := h
    have hsome := hclass hlow
    rw [hnone] at hsome
    cases hsome
  unfold basinRead
  rw [engRun_get_bind]
  simp only [hreloc, hdecl, hwin, Bool.not_true, Bool.false_eq_true, if_false]
  rw [engRun_bind_ok hpre, engRun_bind_ok (basinPhysRead_ready hblk hu), engRun_bind_ok hpost]
  rfl

/-- Consecutive task-relative lines. -/
def linesAt (x : Core) (line n : Nat) : List (List Byte) := (List.range n).map fun k => lineBytes x (line + k)

theorem linesAt_add (x : Core) (line m n : Nat) : linesAt x line (m + n) = linesAt x line m ++ linesAt x (line + m) n := by
  simp [linesAt, List.range_add, Nat.add_assoc]

theorem linesAt_succ (x : Core) (line n : Nat) : linesAt x line (n + 1) = lineBytes x line :: linesAt x (line + 1) n := by
  rw [Nat.add_comm, linesAt_add]
  rfl

/-- ME-WT reads open weight lines and changes nothing. -/
theorem basinReadLines_weights {a : Acc} (n line : Nat) (hl : WeightsOpen s a.c a.w line n)
    (hu : ∀ k, smGet upZero (coreOf s a.c).basinUp k = 0) :
    engRun (basinReadLines a true line n) s = (.ok (linesAt (coreOf s a.c) line n), s) := by
  induction n generalizing line with
  | zero => rfl
  | succ n ih =>
    have hfirst := basinRead_weight (weightsOpen_sub hl 0 1 (by omega)) hu
    have hrest := ih (line + 1) (weightsOpen_sub hl 1 n (by omega))
    unfold basinReadLines
    rw [linesAt_succ]
    exact (engRun_bind_ok hfirst _).trans (engRun_bind_ok hrest _)

/-- The lines that a pass loads: weights and check values, and with `INIT` 1 the biases. -/
def tileLines (x : Core) (p : Pass) : List (List Byte) :=
  linesAt x p.wtOff (weightLines p) ++ linesAt x p.paramOff (checkBytes p / 64 + (if p.init = 1 then 4 else 0))

/-- A flight whose tile is loaded. -/
def loadedFlight (x : Core) (f : Flight) : Flight := { f with loading := true, tile := tileLines x (passOf f.d.w) }

/-- A pass that keeps its shape loads its tile and releases what it no longer reads. -/
theorem mePassLoad_loads {a : Acc} {f : Flight} {p : Pass} (hp : passOf f.d.w = p) (hf : passFault s a.c p = none)
    (he : passEmpty p = false) (hw : p.wsrc = false) (hk : 0 < p.k) (hweights : WeightsOpen s a.c a.w p.wtOff (weightLines p))
    (hparams : WeightsOpen s a.c a.w p.paramOff (checkBytes p / 64 + (if p.init = 1 then 4 else 0)))
    (hu : ∀ k, smGet upZero (coreOf s a.c).basinUp k = 0) :
    ∃ more, engRun (mePassLoad a f) s =
      (.ok (loadedFlight (coreOf s a.c) f), modRun a.c (releaseRead f.d.commit more) s) := by
  have htile : engRun (do
      let ws ← basinReadLines a true p.wtOff (weightLines p)
      let cs ← basinReadLines a true p.paramOff (checkBytes p / 64)
      pure (ws ++ cs)) s = (.ok (linesAt (coreOf s a.c) p.wtOff (weightLines p) ++
        linesAt (coreOf s a.c) p.paramOff (checkBytes p / 64)), s) := by
    rw [engRun_bind_ok (basinReadLines_weights _ _ hweights hu),
      engRun_bind_ok (basinReadLines_weights _ p.paramOff (weightsOpen_sub hparams 0 _ (by omega)) hu)]
    rfl
  unfold mePassLoad loadedFlight tileLines
  dsimp only
  simp only [hp]
  rw [engRun_get_bind, hf]
  dsimp only
  simp only [he, hw, Bool.false_eq_true, if_false, or_false, if_neg (Nat.ne_of_gt hk)]
  rw [engRun_bind_ok htile]
  by_cases h1 : p.init = 1
  · simp only [if_pos h1] at hparams ⊢
    rw [engRun_bind_ok (basinReadLines_weights _ _ (weightsOpen_sub hparams _ 4 (Nat.le_refl _)) hu), linesAt_add, ← List.append_assoc]
    exact ⟨_, rfl⟩
  · simp only [if_neg h1, Nat.add_zero]
    rw [engRun_bind_ok (engRun_pure _ s), List.append_nil]
    exact ⟨_, rfl⟩

theorem mePassLoad_refused {a : Acc} {f : Flight} {code : FaultCode} (h : passFault s a.c (passOf f.d.w) = some code) :
    engRun (mePassLoad a f) s = (.error (.fault code 0), s) := by
  unfold mePassLoad
  dsimp only
  rw [engRun_get_bind, h]
  rfl

/-- The faults of a pass are not of class 8. -/
theorem passFault_cls {p : Pass} {code : FaultCode} (h : passFault s c p = some code) : (code.cls == 8) = false := by
  unfold passFault at h
  dsimp only at h
  split at h
  · cases h
    rfl
  · split at h
    · cases h
      rfl
    · split at h
      · cases h
        rfl
      · cases h

/-! ### The issue of a pass -/

theorem IssueStep.partClass {r : CtxRun} (h : IssueStep c r s t) (p : Nat) : Machine.partClass t p = Machine.partClass s p :=
  congrArg prClass (h.recOf p)

/-- The issue cycle leaves what the shape of a pass is checked against. -/
theorem IssueStep.passFault {r : CtxRun} (h : IssueStep c r s t) (p : Pass) :
    Machine.passFault t c p = Machine.passFault s c p := by
  have hwidth : coreWidth t c = coreWidth s c := by
    obtain ⟨⟨k, m, g, a, l, q, rfl⟩, -, -⟩ := h
    rfl
  unfold Machine.passFault
  dsimp only
  rw [hwidth, h.ctxOf, h.partClass]

theorem IssueStep.weightsOpen {r : CtxRun} (h : IssueStep c r s t) (hr : r.rings = (coreOf s c).run.rings) {w : List Word}
    {line n : Nat} (hw : WeightsOpen s c w line n) : WeightsOpen t c w line n := by
  obtain ⟨hopen, hring⟩ := hw
  refine ⟨fun i hi => ?_, fun j => ?_⟩
  · have hline := hopen i hi
    rwa [h.ctxOf, h.partClass, h.field relocLine (fun _ _ _ _ => rfl), h.field taskLine (fun _ _ _ _ => rfl),
      h.field winOf (fun _ _ _ _ => rfl), h.field wblkOf (fun _ _ _ _ => rfl)]
  · rw [h.run (fun r => r.rings) (fun _ _ _ => rfl), hr]
    exact hring j

/-- A field of the core that neither issue nor a change of what runs on it touches. -/
theorem IssueStep.workField {α : Type} {r : CtxRun} (h : IssueStep c r s t) (hc : c < 16) (p : Core → α)
    (hp : ∀ x o n y, p { x with pre := o, rr := n, run := y } = p x) (f : CtxRun → CtxRun) :
    p (coreOf (modRun c f t) c) = p (coreOf s c) :=
  (modRun_field p hc (fun x y => hp x x.pre x.rr y) c).trans (h.field p hp c)

/-- A fault changes no core but for the flight that fails. -/
theorem coreOf_failFlight {f : Flight} {code : FaultCode} (he : f.eng ≠ 2) (idx : Nat) (s : State) (e : Nat) :
    coreOf (failFlight c f code idx s) e = coreOf (modRun c (putFlight (failedFlight c f code s)) s) e := by
  obtain ⟨g, x, -, -, hfail⟩ := failFlight_spec (c := c) (code := code) he idx s
  rw [hfail, (FaultPath.raise g _).coreOf, coreOf_regs]

end

end Sys2Proof.Machine

namespace Sys2Proof.Proofs
open Sys2Proof.Machine

/-- MM or MMP, by its command and operation code. -/
def IssuesPass (i : Fin 16 → Instr) (opc : Nat) : Prop :=
  ∀ (s : State) (c : Fin 16), exec (i c) s = .next (issue c.val 0 opc mePassLoad s)

/-- A pass that keeps its shape stands loaded at issue (R201, R203, R208). -/
theorem pass_loads {i : Fin 16 → Instr} {opc : Nat} (hexec : IssuesPass i opc) {s : State} {c : Fin 16} {d : QDesc} {p : Pass}
    (hp : passOf d.w = p) (h : Issues s c.val 0 opc d) (hf : passFault s c.val p = none) (he : passEmpty p = false)
    (hw : p.wsrc = false) (hk : 0 < p.k) (hweights : WeightsOpen s c.val d.w p.wtOff (weightLines p))
    (hparams : WeightsOpen s c.val d.w p.paramOff (checkBytes p / 64 + (if p.init = 1 then 4 else 0)))
    (hu : NoErrors (coreOf s c.val)) : Completes (i c) s fun t =>
      (∃ f ∈ (coreOf t c.val).run.flight, f.d = d ∧ f.loading = true ∧ f.done = false ∧ f.failed = none ∧
        f.tile = tileLines (coreOf s c.val) p) ∧
      (coreOf t c.val).basin = (coreOf s c.val).basin ∧ (coreOf t c.val).cis = (coreOf s c.val).cis ∧
      (coreOf t c.val).dmem = (coreOf s c.val).dmem ∧ ∀ e, e ≠ c.val → coreOf t e = coreOf s e := by
  have hstep := issued_step c.isLt 0 d s
  obtain ⟨hup, -⟩ := hu
  obtain ⟨more, hload⟩ := mePassLoad_loads (a := ⟨c.val, 0, d.w⟩) (f := issuedFlight s c.val 0 d) hp ((hstep.passFault p).trans hf)
    he hw hk (hstep.weightsOpen rfl hweights) (hstep.weightsOpen rfl hparams) (fun k => by
      rw [hstep.field (fun x => x.basinUp) (fun _ _ _ _ => rfl)]
      exact hup k)
  have htile : tileLines (coreOf (issuedState s c.val 0 d) c.val) p = tileLines (coreOf s c.val) p :=
    hstep.field (tileLines · p) (fun _ _ _ _ => rfl) c.val
  have hissue := issue_ok c.isLt (by decide) h hload (modRun_run (f := releaseRead d.commit more) (fun r => r.cc) c.isLt (fun _ => rfl) c.val)
  refine ⟨_, (hexec s c).trans (congrArg Host.Outcome.next hissue), ⟨_, mem_flight_put c.isLt
    (f := issuedFlight s c.val 0 d) ?_ rfl, rfl, rfl, rfl, rfl, ?_⟩, ?_, ?_, ?_, fun e he => ?_⟩
  · rw [modRun_run (f := releaseRead _ more) (fun r => r.flight) c.isLt (fun _ => rfl)]
    exact issuedState_flight c.isLt 0 d s
  · exact (congrArg (tileLines _) hp).trans htile
  · exact (modRun_field (fun x => x.basin) c.isLt (fun _ _ => rfl) _).trans
      (hstep.workField c.isLt (fun x => x.basin) (fun _ _ _ _ => rfl) _)
  · exact (modRun_field (fun x => x.cis) c.isLt (fun _ _ => rfl) _).trans
      (hstep.workField c.isLt (fun x => x.cis) (fun _ _ _ _ => rfl) _)
  · exact (modRun_field (fun x => x.dmem) c.isLt (fun _ _ => rfl) _).trans
      (hstep.workField c.isLt (fun x => x.dmem) (fun _ _ _ _ => rfl) _)
  · rw [coreOf_modRun_ne he, coreOf_modRun_ne he, hstep.others e he]

/-- A pass that does not keep its shape raises its fault (R200, R213, R215). -/
theorem pass_refused {i : Fin 16 → Instr} {opc : Nat} (hexec : IssuesPass i opc) {s : State} {c : Fin 16} {d : QDesc}
    {code : FaultCode} (h : Issues s c.val 0 opc d) (hf : passFault s c.val (passOf d.w) = some code) :
    Completes (i c) s fun t =>
      Raised code c.val t ∧ (∃ f ∈ (coreOf t c.val).run.flight, f.d = d ∧ f.loading = false ∧ f.failed.isSome) ∧
      (coreOf t c.val).basin = (coreOf s c.val).basin ∧ (coreOf t c.val).cis = (coreOf s c.val).cis ∧
      ∀ e, e ≠ c.val → coreOf t e = coreOf s e := by
  have hstep := issued_step c.isLt 0 d s
  have heng : (issuedFlight s c.val 0 d).eng ≠ 2 := by simp [issuedFlight]
  obtain ⟨hraised, -, ⟨hcc, -⟩, hother⟩ := failed_spec c.isLt heng 0 (passFault_cls hf) (issuedState s c.val 0 d)
  have hissue := issue_fault c.isLt (by decide) h (mePassLoad_refused (a := ⟨c.val, 0, d.w⟩) (f := issuedFlight s c.val 0 d)
    ((hstep.passFault _).trans hf)) hcc
  have hcore := coreOf_failFlight (c := c.val) (code := code) heng 0 (issuedState s c.val 0 d) c.val
  refine ⟨_, (hexec s c).trans (congrArg Host.Outcome.next hissue), hraised,
    ⟨failedFlight c.val (issuedFlight s c.val 0 d) code (issuedState s c.val 0 d), ?_, rfl, rfl, rfl⟩, ?_, ?_, fun e he => ?_⟩
  · rw [hcore]
    exact mem_flight_put c.isLt (issuedState_flight c.isLt 0 d s) rfl
  · rw [hcore]
    exact hstep.workField c.isLt (fun x => x.basin) (fun _ _ _ _ => rfl) _
  · rw [hcore]
    exact hstep.workField c.isLt (fun x => x.cis) (fun _ _ _ _ => rfl) _
  · rw [hother e he, hstep.others e he]

/-- Settles O47: MM and MMP issue and load their pass or raise its fault (`mePassLoad_loads`, `mePassLoad_refused`), PASS_START
runs what stands loaded (`passStart_eq`, `passStart_idle`), a site makes one request on its row (`meSite_row`), and the sites of
a pass with `K` 0 and `INIT` 2 write zeros (`mePassRun_zero`). -/
theorem passesAndTheirSites : Obligations.PassesAndTheirSites := by
  unfold Obligations.PassesAndTheirSites
  refine ⟨⟨?mm, ?mmp⟩, ?runs, ?idle, ?site, ?zero⟩
  case mm =>
    intro s c d h x p nw np
    exact ⟨pass_loads (i := .mm) (fun _ _ => rfl) rfl h, fun code => pass_refused (i := .mm) (fun _ _ => rfl) h⟩
  case mmp =>
    intro s c d h x p nw np
    exact ⟨pass_loads (i := .mmp) (fun _ _ => rfl) rfl h, fun code => pass_refused (i := .mmp) (fun _ _ => rfl) h⟩
  case runs =>
    intro s c f hf hn hr ha ht
    exact congrArg Host.Outcome.next (passStart_eq hf hn hr ha ht)
  case idle =>
    intro s c h
    exact congrArg Host.Outcome.next (passStart_idle h)
  case site =>
    intro a p tile bias q m els s t hc hi h x y row0 col0 rows sum base
    have hsite := meSite_row hc hi h
    refine ⟨fun n hn => (hsite.row n hn).trans ?_, hsite.outside, hsite.field (fun x => x.basin) (fun _ _ _ => rfl),
      hsite.field (fun x => x.dmem) (fun _ _ _ => rfl), hsite.field (fun x => x.run) (fun _ _ _ => rfl), hsite.others⟩
    unfold siteEntry
    rw [siteSum_eq hn]
    rfl
  case zero =>
    intro s c f x p base hfl heng hload hfail hready hact hrun hbad hm hw hk hi he hopen
    have hfind : x.run.flight.find? (fun f => f.eng == 0 && f.loading) = some f := by simp [hfl, heng, hload]
    have hrows : RowsOpen (ctxOf x) f.d.w p := by
      rw [RowsOpen, passRows_single hm]
      simpa using hopen
    obtain ⟨u, hwork, hstep⟩ := mePassRun_zero (a := ⟨c.val, f.eng, f.d.w⟩) rfl c.isLt hbad hm hw hk hi he hrows
    have hstart := (passStart_eq hfind hfail hready hact hrun).trans (runWork_ok hwork)
    have hcore := passed_core c.isLt hstep f
    have hcis : ∀ k, smGet wordZero (coreOf u c.val).cis k =
        if k ∈ (passZeros base p).map Prod.fst then 0 else smGet wordZero x.cis k := fun k => by
      rw [hstep.core]
      exact smGet_cisApply_zero _ passZeros_zero x k
    refine ⟨_, congrArg Host.Outcome.next hstart, fun m hm' n hn => ?_, fun e he => ?_, ?_, ?_, hstep.rest, fun d hd => ?_⟩
    · rw [hcore, hcis, if_pos ((mem_passZeros hm).mpr ⟨m, hm', n, hn, rfl⟩)]
    · rw [hcore, hcis, if_neg fun hmem => ?_]
      obtain ⟨m, hm', n, hn, hk⟩ := (mem_passZeros hm).mp hmem
      have hout := he m hm'
      omega
    · rw [hcore]
      exact passed_run hfl
    · rw [hcore]
      exact hstep.field (fun x => x.basin) (fun _ _ _ => rfl)
    · rw [coreOf_modRun_ne hd, coreOf_modRun_ne hd, hstep.others d hd]

end Sys2Proof.Proofs

/-! ## Device instructions of the control core -/

namespace Sys2Proof.Machine

/-! ### Instructions, step by step -/

section
variable {α β : Type} {s t : State}

theorem ccRun_get_bind (f : State → CcM α) (s : State) : ccRun (get >>= f) s = ccRun (f s) s := rfl

theorem ccRun_modify_bind (g : State → State) (f : PUnit → CcM α) (s : State) : ccRun (modify g >>= f) s = ccRun (f ()) (g s) := rfl

theorem ccRun_throw (e : CcStop) (s : State) : ccRun (throw e : CcM α) s = (.error e, s) := rfl

theorem ccRun_bind_ok {m : CcM β} {b : β} (h : ccRun m s = (.ok b, t)) (f : β → CcM α) : ccRun (m >>= f) s = ccRun (f b) t := by
  change (ExceptT.bindCont f (ccRun m s).1 : StateM State _) (ccRun m s).2 = _
  rw [h]
  rfl

end

section
variable {s t u : State} {c : Nat} {op : RvOp} {len : Nat} {k k' : CcCtx}

theorem lockOk_pc (h : lockOk (coreOf s c) op len = true) :
    (coreOf s c).mismatch = false ∧ (coreOf s c).run.cc.leader.pc = (coreOf s c).run.cc.checker.pc := by
  obtain ⟨hm, ho⟩ := Bool.and_eq_true_iff.mp h
  exact ⟨by simpa using hm, (List.cons.inj (beq_iff_eq.mp ho)).1⟩

section
variable {all : Bool} {sel : RvOp → Hart → Bool} {work : RvOp → Nat → CcM Unit}

/-- An instruction that is fetched with its harts in agreement runs (R345). -/
theorem ccStep_ok (h : Fetches s c op len u) (hs : sel op (coreOf s c).run.cc.leader = true)
    (hw : ccRun (work op len) u = (.ok (), t)) : ccStep c all sel work s = t := by
  obtain ⟨hr, hf, hl⟩ := h
  obtain ⟨hm, hpc⟩ := lockOk_pc hl
  simp [ccStep, hr, hf, hl, hm, hpc, hs, hw]

theorem ccStep_error {x : CcStop} (h : Fetches s c op len u) (hs : sel op (coreOf s c).run.cc.leader = true)
    (hw : ccRun (work op len) u = (.error x, t)) : ccStep c all sel work s = ccFail c x t := by
  obtain ⟨hr, hf, hl⟩ := h
  obtain ⟨hm, hpc⟩ := lockOk_pc hl
  simp [ccStep, hr, hf, hl, hm, hpc, hs, hw]

end

/-! ### What an instruction leaves -/

/-- `t` differs from `s` in the control core of `c`, which is `k`, and in the counter of free values. -/
structure CcMoved (c : Nat) (k : CcCtx) (s t : State) : Prop where
  rest : { t with kc := s.kc, free := s.free } = s
  others : ∀ e, e ≠ c → coreOf t e = coreOf s e
  core : coreOf t c = { coreOf s c with run := { (coreOf s c).run with cc := k } }

theorem CcMoved.trans (h : CcMoved c k s t) (h' : CcMoved c k' t u) : CcMoved c k' s u where
  rest := (congrArg (fun v : State => { v with kc := s.kc, free := s.free }) h'.rest).trans h.rest
  others e he := (h'.others e he).trans (h.others e he)
  core := by rw [h'.core, h.core]

theorem CcMoved.only (h : CcMoved c k s t) : OnlyCc c s t := ⟨h.others, by rw [h.core]⟩

theorem CcMoved.cc (h : CcMoved c k s t) : (coreOf t c).run.cc = k := by rw [h.core]

theorem CcMoved.dbg (h : CcMoved c k s t) : t.dbg = s.dbg := by
  have e := congrArg (fun v : State => v.dbg) h.rest
  exact e

theorem CcMoved.sems (h : CcMoved c k s t) : t.sems = s.sems := by
  have e := congrArg (fun v : State => v.sems) h.rest
  exact e

theorem CcMoved.semGet (h : CcMoved c k s t) (d q : Nat) : semGet t d q = semGet s d q := by
  unfold Machine.semGet
  rw [h.sems]
  by_cases hd : d = c
  · rw [hd, h.core]
  · rw [h.others d hd]

theorem modCc_moved (hc : c < 16) (f : CcCtx → CcCtx) (s : State) : CcMoved c (f (coreOf s c).run.cc) s (modCc c f s) :=
  ⟨rfl, fun _ he => coreOf_modRun_ne he _ s, coreOf_modRun_self hc _ s⟩

theorem noHalt_congr (h : NoHalt s c) (ht : t.dbg = s.dbg) : NoHalt t c := by
  unfold NoHalt haltOf
  rw [ht]
  exact h

/-- The control core after `n` cycles. -/
def ccCycled (n : Nat) (k : CcCtx) : CcCtx := { k with cycle := wrapAdd 64 k.cycle n }

/-- Without a halt or a step, cycles pass and nothing else (R557). -/
theorem ccAfter_noHalt (h : NoHalt s c) :
    ccAfter c s = modCc c (ccCycled (1 + Config.ccCycles (takeFree s).1)) (takeFree s).2 := by
  obtain ⟨hp, hs⟩ := h
  have hp' : (haltOf (modCc c (ccCycled (1 + Config.ccCycles (takeFree s).1)) (takeFree s).2) c).pending = false := hp
  have hs' : (haltOf (modCc c (ccCycled (1 + Config.ccCycles (takeFree s).1)) (takeFree s).2) c).stepping = false := hs
  unfold ccCycled at hp' hs' ⊢
  simp [ccAfter, hp', hs']

theorem ccAfter_moved (hc : c < 16) (h : NoHalt s c) : ∃ n, CcMoved c (ccCycled n (coreOf s c).run.cc) s (ccAfter c s) := by
  rw [ccAfter_noHalt h]
  obtain ⟨-, ho, hcore⟩ := modCc_moved hc (ccCycled (1 + Config.ccCycles (takeFree s).1)) (takeFree s).2
  exact ⟨_, rfl, ho, hcore⟩

/-- The control core after an instruction that writes `v` to `rd` and `n` cycles. -/
def ccGone (op : RvOp) (len rd : Nat) (v : Word) (n : Nat) (k : CcCtx) : CcCtx :=
  ccCycled n { k with
    leader := { hartSet rd v k.leader with pc := nextPc op len k.leader }
    checker := { hartSet rd v k.checker with pc := nextPc op len k.checker }
    instret := wrapAdd 64 k.instret 1 }

theorem vget_hartSet (rd : Nat) (v : Word) (h : Hart) {r : Nat} (hr : r < 32) :
    vget (hartSet rd v h).x r 0 = if r = rd ∧ rd ≠ 0 then v else vget h.x r 0 := by
  unfold hartSet
  by_cases hz : rd = 0
  · simp [hz]
  · by_cases he : r = rd
    · rw [if_neg hz, if_pos ⟨he, hz⟩, he]
      exact vget_vset_self _ _ _ _ (he ▸ hr)
    · rw [if_neg hz, if_neg fun k => he k.1]
      exact vget_vset_ne _ _ _ (Ne.symm he)

theorem ccGone_harts (op : RvOp) (len rd : Nat) (v : Word) (n : Nat) (k : CcCtx) :
    HartsGo k (ccGone op len rd v n k) (nextPc op len k.leader) rd v :=
  ⟨rfl, fun _ hr => vget_hartSet rd v k.leader hr, rfl, rfl, rfl, rfl⟩

/-- An instruction retires with one result for both harts (R326, R345). -/
theorem ccFinish_moved (hc : c < 16) (h : NoHalt s c) (op : RvOp) (len rd : Nat) (v : Word) :
    ∃ n, CcMoved c (ccGone op len rd v n (coreOf s c).run.cc) s (ccFinish c op len (fun _ => (rd, v)) s) := by
  have hmove := modCc_moved hc (fun x => { x with
    leader := { hartSet rd v x.leader with pc := nextPc op len x.leader }
    checker := { hartSet rd v x.checker with pc := nextPc op len x.checker }
    instret := wrapAdd 64 x.instret 1 }) s
  obtain ⟨n, hn⟩ := ccAfter_moved hc (noHalt_congr h hmove.dbg)
  rw [hmove.cc] at hn
  exact ⟨n, hmove.trans hn⟩

/-! ### What a fault of the control core leaves (R325) -/

/-- `t` differs from `s` in the control core of `c`, which is `k`, in registers and on the fault path, where `code` stands. -/
structure CcFault (c : Nat) (code : FaultCode) (k : CcCtx) (s t : State) : Prop where
  raised : Raised code c t
  rest : { t with kc := s.kc, regs := s.regs, saf := s.saf, tb := s.tb } = s
  others : ∀ e, e ≠ c → coreOf t e = coreOf s e
  core : coreOf t c = { coreOf s c with run := { (coreOf s c).run with cc := k } }

theorem CcFault.only {code : FaultCode} (h : CcFault c code k s t) : OnlyCc c s t := ⟨h.others, by rw [h.core]⟩

theorem CcFault.sems {code : FaultCode} (h : CcFault c code k s t) : t.sems = s.sems := by
  have e := congrArg (fun v : State => v.sems) h.rest
  exact e

theorem CcFault.hst {code : FaultCode} (h : CcFault c code k s t) : t.hst = s.hst := by
  have e := congrArg (fun v : State => v.hst) h.rest
  exact e

/-- A fault raised after the control core has changed and registers are written. -/
theorem ccFault_raised {code : FaultCode} (hc : c < 16) (h8 : (code.cls == 8) = false) (f : CcCtx → CcCtx) (g : SMap Word)
    (eng : Nat) (commit : Option Nat) (s : State) :
    CcFault c code (f (coreOf s c).run.cc) s (coreFault c eng commit code { modCc c f s with regs := g }) := by
  obtain ⟨r, x, hcode, hisl, hr⟩ := coreFault_spec c eng commit code { modCc c f s with regs := g }
  have hpath : FaultPath (modCc c f s) (coreFault c eng commit code { modCc c f s with regs := g }) := by
    rw [hr]
    exact (FaultPath.of_regs x (modCc c f s)).trans (.raise r { modCc c f s with regs := x })
  obtain ⟨-, hother, hcore⟩ := modCc_moved hc f s
  refine ⟨?_, ?_, fun e he => (hpath.coreOf e).trans (hother e he), (hpath.coreOf c).trans hcore⟩
  · rw [hr, ← hcode, ← hisl]
    exact raise_raised r _ (by rw [hcode]; exact h8) (by omega)
  · exact congrArg (fun v : State => { v with kc := s.kc, regs := s.regs, saf := s.saf, tb := s.tb }) hpath.rest

/-- The control core stands still. -/
def ccHeld (k : CcCtx) : CcCtx := { k with st := .stopped, pendCommit := none, pendWait := none }

theorem ccFail_plain {code : FaultCode} (hc : c < 16) (h8 : (code.cls == 8) = false) (s : State) :
    CcFault c code (ccHeld (coreOf s c).run.cc) s (ccFail c (.plain 0 code) s) :=
  ccFault_raised hc h8 ccHeld s.regs 7 none s

/-! ### Semaphores (R164 to R166, R336) -/

theorem semGet_semPut_out {d q e : Nat} (hc : c < 16) (h : e ≠ q ∨ (e < 64 ∧ d ≠ c)) (v : Nat) (s : State) :
    semGet (semPut c q v s) d e = semGet s d e := by
  by_cases hd : d = c
  · rw [hd]
    exact semGet_semPut_ne hc (h.resolve_right fun k => k.2 hd) v s
  · unfold semGet semPut
    split
    · split
      · rw [coreOf_modRun_ne hd]
      · rfl
    · split
      · rfl
      · exact vget_vset_ne _ _ _ (by omega)

/-- What a change of one semaphore leaves. -/
theorem semPut_rest (hc : c < 16) (q v : Nat) (s : State) : { semPut c q v s with kc := s.kc, sems := s.sems } = s ∧
    (∀ d, d ≠ c → coreOf (semPut c q v s) d = coreOf s d) ∧ (coreOf (semPut c q v s) c).run.cc = (coreOf s c).run.cc := by
  unfold semPut
  split
  · exact ⟨rfl, fun d hd => coreOf_modRun_ne hd _ s, by rw [coreOf_modRun_self hc]⟩
  · exact ⟨rfl, fun _ _ => rfl, rfl⟩

/-- The code and the count of SWAIT and SSET, where the code names a semaphore. -/
theorem ccRun_semArgs {r1 r2 : Nat} (h : (hx (coreOf s c).run.cc.leader r1).toNat % 128 < 32 ∨
    64 ≤ (hx (coreOf s c).run.cc.leader r1).toNat % 128) :
    ccRun (semArgs c r1 r2) s = (.ok ((hx (coreOf s c).run.cc.leader r1).toNat % 128,
      (hx (coreOf s c).run.cc.leader r2).toNat % 65536), s) := by
  unfold semArgs
  rw [ccRun_get_bind]
  dsimp only
  rw [if_neg (by omega)]
  rfl

section
variable {r1 r2 q n : Nat}

/-- The operands of SWAIT and SSET in the leading hart. -/
structure SemOperands (s : State) (c r1 r2 q n : Nat) : Prop where
  code : (hx (coreOf s c).run.cc.leader r1).toNat % 128 = q
  count : (hx (coreOf s c).run.cc.leader r2).toNat % 65536 = n
  named : q < 32 ∨ 64 ≤ q

theorem SemOperands.args (h : SemOperands s c r1 r2 q n) : ccRun (semArgs c r1 r2) s = (.ok (q, n), s) := by
  obtain ⟨rfl, rfl, h⟩ := h
  exact ccRun_semArgs h

theorem SemOperands.lt (h : SemOperands s c r1 r2 q n) : q < 32 ∨ (64 ≤ q ∧ q < 128) := by
  have := h.code
  have := h.named
  omega

theorem ccSwait_denied (h : SemOperands s c r1 r2 q n) (ho : semOwned s (ctxOf (coreOf s c)).part q = false) :
    ccRun (ccSwait c op len r1 r2) s = (.error (.plain 0 .semDeny), s) := by
  unfold ccSwait
  rw [ccRun_bind_ok h.args, ccRun_get_bind]
  simp only [ho, Bool.not_false, if_true]
  rfl

theorem ccSwait_takes (h : SemOperands s c r1 r2 q n) (ho : semOwned s (ctxOf (coreOf s c)).part q = true)
    (ht : n = 0 ∨ swaitTurn s c q n = true) : ccRun (ccSwait c op len r1 r2) s =
      (.ok (), ccFinish c op len (fun _ => (0, 0)) (semPut c q (semGet s c q - n) s)) := by
  unfold ccSwait
  rw [ccRun_bind_ok h.args, ccRun_get_bind]
  simp only [ho, Bool.not_true, Bool.false_eq_true, if_false]
  rw [if_pos ht]
  rfl

/-- The control core waits for `n` of semaphore `q`. -/
def ccWaiting (q n : Nat) (k : CcCtx) : CcCtx := { k with st := .swait, pendWait := some (q, n) }

theorem ccSwait_waits (h : SemOperands s c r1 r2 q n) (ho : semOwned s (ctxOf (coreOf s c)).part q = true) (hn : n ≠ 0)
    (ht : swaitTurn s c q n = false) :
    ccRun (ccSwait c op len r1 r2) s = (.ok (), semArrive c (modCc c (ccWaiting q n) s)) := by
  have hno : ¬ (n = 0 ∨ swaitTurn s c q n = true) := by simp [hn, ht]
  unfold ccSwait
  rw [ccRun_bind_ok h.args, ccRun_get_bind]
  simp only [ho, Bool.not_true, Bool.false_eq_true, if_false]
  rw [if_neg hno]
  rfl

theorem ccSset_adds (h : SemOperands s c r1 r2 q n) (hf : semFault s c (ctxOf (coreOf s c)).part q n = none) :
    ccRun (ccSset c op len r1 r2) s = (.ok (), ccFinish c op len (fun _ => (0, 0)) (semPut c q (semGet s c q + n) s)) := by
  unfold ccSset
  rw [ccRun_bind_ok h.args, ccRun_get_bind]
  simp only [hf]
  rfl

theorem ccSset_refused {code : FaultCode} (h : SemOperands s c r1 r2 q n)
    (hf : semFault s c (ctxOf (coreOf s c)).part q n = some code) :
    ccRun (ccSset c op len r1 r2) s = (.error (.plain 0 code), s) := by
  unfold ccSset
  rw [ccRun_bind_ok h.args, ccRun_get_bind]
  simp only [hf]
  rfl

end

/-- What a semaphore operation that retires leaves. -/
structure SemRetired (c q v : Nat) (op : RvOp) (len : Nat) (s t : State) : Prop where
  value : semGet t c q = v
  harts : HartsGo (coreOf s c).run.cc (coreOf t c).run.cc (nextPc op len (coreOf s c).run.cc.leader) 0 0
  sems : ∀ d e, e ≠ q ∨ (e < 64 ∧ d ≠ c) → semGet t d e = semGet s d e
  others : ∀ d, d ≠ c → coreOf t d = coreOf s d
  rest : { t with kc := s.kc, free := s.free, sems := s.sems } = s

theorem ccFinish_semPut (hc : c < 16) (h : NoHalt s c) {q : Nat} (hq : q < 32 ∨ (64 ≤ q ∧ q < 128)) (v : Nat) (op : RvOp) (len : Nat) :
    SemRetired c q v op len s (ccFinish c op len (fun _ => (0, 0)) (semPut c q v s)) := by
  obtain ⟨hrest, hother, hcc⟩ := semPut_rest hc q v s
  have hdbg : (semPut c q v s).dbg = s.dbg := by
    have e := congrArg (fun v : State => v.dbg) hrest
    exact e
  obtain ⟨n, hn⟩ := ccFinish_moved hc (noHalt_congr h hdbg) op len 0 0
  refine ⟨?_, ?_, fun d e he => ?_, fun d hd => ?_, ?_⟩
  · rw [hn.semGet, semGet_semPut_self hc hq]
  · rw [hn.cc, hcc]
    exact ccGone_harts op len 0 0 n _
  · rw [hn.semGet, semGet_semPut_out hc he]
  · rw [hn.others d hd, hother d hd]
  · have e := congrArg (fun v : State => { v with kc := s.kc, free := s.free, sems := s.sems }) hn.rest
    have e' := congrArg (fun v : State => { v with free := s.free }) hrest
    exact e.trans e'

/-- A waiting SWAIT whose turn it is takes its count and retires (R336). -/
def ccReleased (n : Nat) (k : CcCtx) : CcCtx := ccCycled n (ccRetire ((k.leader.pc + 4) % 2 ^ 32) k)

theorem ccReleased_harts (n : Nat) (k : CcCtx) : HartsGo k (ccReleased n k) ((k.leader.pc + 4) % 2 ^ 32) 0 0 :=
  ⟨rfl, fun _ _ => by simp [ccReleased, ccCycled, ccRetire], rfl, rfl, rfl, rfl⟩

/-- The retiring SWAIT, before its cycles are counted. -/
def swaitRetired (c q n : Nat) (s : State) : State :=
  semArrive c (modCc c (fun k => ccRetire ((k.leader.pc + 4) % 2 ^ 32) k) (semPut c q (semGet s c q - n) s))

theorem swaitRetired_release (hc : c < 16) (h : NoHalt s c) {q n : Nat} (hq : q < 32 ∨ (64 ≤ q ∧ q < 128)) :
    let t := ccAfter c (swaitRetired c q n s)
    semGet t c q = semGet s c q - n ∧ (∃ m, (coreOf t c).run.cc = ccReleased m (coreOf s c).run.cc) ∧
      (∀ d, d ≠ c → coreOf t d = coreOf s d) ∧
      { t with kc := s.kc, free := s.free, sems := s.sems, fab := { t.fab with semq := s.fab.semq } } = s := by
  obtain ⟨hrest, hother, hcc⟩ := semPut_rest hc q (semGet s c q - n) s
  have hmove := modCc_moved hc (fun k => ccRetire ((k.leader.pc + 4) % 2 ^ 32) k) (semPut c q (semGet s c q - n) s)
  have hdbg : (swaitRetired c q n s).dbg = s.dbg := by
    have e := congrArg (fun v : State => v.dbg) hrest
    exact e
  obtain ⟨m, hm⟩ := ccAfter_moved hc (noHalt_congr h hdbg)
  refine ⟨?_, ⟨m, ?_⟩, fun d hd => ?_, ?_⟩
  · exact (hm.semGet c q).trans ((hmove.semGet c q).trans (semGet_semPut_self hc hq _ s))
  · rw [hm.cc, ← hcc]
    exact congrArg (ccCycled m) hmove.cc
  · exact (hm.others d hd).trans ((hmove.others d hd).trans (hother d hd))
  · have e := congrArg (fun v : State => { v with kc := s.kc, free := s.free, sems := s.sems, fab := { v.fab with semq := s.fab.semq } })
      hm.rest
    have e' := congrArg (fun v : State => { v with free := s.free, fab := { v.fab with semq := s.fab.semq } }) hrest
    exact e.trans e'

end

end Sys2Proof.Machine

namespace Sys2Proof.Proofs
open Sys2Proof.Machine

/-- Settles O44: an instruction that is fetched runs (`ccStep_ok`) or is refused (`ccStep_error`), and each does to the state
what its lemma says: retire with a value (`ccFinish_moved`), take or add to a semaphore (`ccFinish_semPut`), wait
(`ccSwait_waits`), be released (`swaitRetired_release`) or fault (`ccFail_plain`). -/
theorem controlCoreDeviceInstructions : Obligations.ControlCoreDeviceInstructions := by
  unfold Obligations.ControlCoreDeviceInstructions
  refine ⟨?qpush, ?redrd, ?tsrdLo, ?tsrdHi, ?swait, ?denied, ?release, ?sset, ?refused⟩
  case qpush =>
    intro s u c r1 i len hf hh hi _
    have hmove := modCc_moved c.isLt (fun x => { x with
      stage := vset x.stage i (hx x.leader r1), written := x.written ||| (1#16 <<< i),
      seqPc := if x.written = 0 then some x.leader.pc else x.seqPc }) u
    obtain ⟨n, hn⟩ := ccFinish_moved c.isLt (noHalt_congr hh hmove.dbg) (.qpush r1 i) len 0 0
    refine ⟨_, congrArg Host.Outcome.next (ccStep_ok hf rfl rfl), ?_⟩
    rw [hmove.cc] at hn
    have h := hmove.trans hn
    dsimp only
    rw [h.cc]
    exact ⟨rfl, rfl, rfl, rfl, rfl, h.only, h.rest⟩
  case redrd =>
    intro s u c rd n len hf hh _
    obtain ⟨m, h⟩ := ccFinish_moved c.isLt hh (.redrd rd n) len rd
      (if n = 8 then (coreOf u c.val).run.cc.ge else vget (coreOf u c.val).run.cc.red n 0)
    refine ⟨_, congrArg Host.Outcome.next (ccStep_ok hf rfl rfl), ?_⟩
    dsimp only
    rw [h.cc]
    exact ⟨ccGone_harts _ _ _ _ _ _, h.only, h.rest⟩
  case tsrdLo =>
    intro s u c rd len hf hh _
    have hmove := modCc_moved c.isLt (fun x => { x with tsrd := stampOf u c.val 0 / 2 ^ 32 % 2 ^ 32 }) (keepStamp c.val (stampOf u c.val 0) u)
    obtain ⟨n, hn⟩ := ccFinish_moved c.isLt (noHalt_congr hh hmove.dbg) (.tsrdLo rd) len rd (BitVec.ofNat 32 (stampOf u c.val 0))
    refine ⟨_, congrArg Host.Outcome.next (ccStep_ok hf rfl rfl), ?_⟩
    rw [hmove.cc] at hn
    have h := hmove.trans hn
    dsimp only
    rw [h.cc]
    refine ⟨ccGone_harts _ _ _ _ _ _, rfl, h.only, ?_, ?_⟩
    · have e := congrArg (fun v : State => v.tb) h.rest
      exact e
    · have e := congrArg (fun v : State => { v with tb := u.tb }) h.rest
      exact e
  case tsrdHi =>
    intro s u c rd len hf hh _
    obtain ⟨n, h⟩ := ccFinish_moved c.isLt hh (.tsrdHi rd) len rd (BitVec.ofNat 32 (coreOf u c.val).run.cc.tsrd)
    refine ⟨_, congrArg Host.Outcome.next (ccStep_ok hf rfl rfl), ?_⟩
    dsimp only
    rw [h.cc]
    exact ⟨ccGone_harts _ _ _ _ _ _, h.only, h.rest⟩
  case swait =>
    intro s u c r1 r2 len hf hh _ k q n hq ho
    have hops : SemOperands u c.val r1 r2 q n := ⟨rfl, rfl, hq⟩
    by_cases ht : n = 0 ∨ swaitTurn u c.val q n = true
    · have h := ccFinish_semPut c.isLt hh hops.lt (semGet u c.val q - n) (.swait r1 r2) len
      refine ⟨_, congrArg Host.Outcome.next (ccStep_ok hf rfl (ccSwait_takes hops ho ht)),
        fun _ => ⟨h.value, h.harts⟩, fun hn hno => ?_, fun d e hd he hlo hhi => h.sems d e (by omega), h.others, ?_⟩
      · simp [hn, hno] at ht
      · have e := congrArg (fun v : State => { v with fab := { v.fab with semq := u.fab.semq } }) h.rest
        exact e
    · obtain ⟨hn, hno⟩ := not_or.mp ht
      have hmove := modCc_moved c.isLt (ccWaiting q n) u
      refine ⟨_, congrArg Host.Outcome.next (ccStep_ok hf rfl (ccSwait_waits hops ho hn (by simpa using hno))),
        fun hyes => absurd hyes ht, fun _ _ => ⟨?_, ?_, ?_, hmove.semGet _ _⟩, fun d e _ _ _ _ => hmove.semGet d e, hmove.others, rfl⟩
      · exact congrArg CcCtx.st hmove.cc
      · exact congrArg CcCtx.pendWait hmove.cc
      · have e := congrArg CcCtx.leader hmove.cc
        exact e
  case denied =>
    intro s u c r1 r2 len hf q hq ho
    have hops : SemOperands u c.val r1 r2 q _ := ⟨rfl, rfl, hq⟩
    have h := ccFail_plain (code := .semDeny) c.isLt rfl u
    refine ⟨_, congrArg Host.Outcome.next (ccStep_error hf rfl (ccSwait_denied hops ho)), h.raised, ?_, h.sems, ?_⟩
    · rw [h.core]
      rfl
    · rw [h.core]
  case release =>
    intro s c q n hr ha hs hp hst hw ht hq hh
    obtain ⟨hval, ⟨m, hcc⟩, hother, hrest⟩ := swaitRetired_release c.isLt hh (n := n) hq
    have hrun : exec (.swaitRelease c) s = .next (ccAfter c.val (swaitRetired c.val q n s)) := by
      simp [exec, execSwaitRelease, swaitRetired, hw, hr, ha, hs, hp, hst, ht]
    refine (completes_iff hrun).mpr ?_
    dsimp only
    rw [hcc]
    exact ⟨hval, rfl, rfl, ccReleased_harts _ _, hother, hrest⟩
  case sset =>
    intro s u c r1 r2 len hf hh _ k q n hq ho hsum
    have hops : SemOperands u c.val r1 r2 q n := ⟨rfl, rfl, hq⟩
    have hno : semFault u c.val (ctxOf (coreOf u c.val)).part q n = none := by
      simp [semFault, ho, show ¬ 65535 < semGet u c.val q + n by omega]
    have h := ccFinish_semPut c.isLt hh hops.lt (semGet u c.val q + n) (.sset r1 r2) len
    exact ⟨_, congrArg Host.Outcome.next (ccStep_ok hf rfl (ccSset_adds hops hno)), h.value, h.harts, h.others, h.rest⟩
  case refused =>
    intro s u c r1 r2 len hf k q n hq hbad
    have hops : SemOperands u c.val r1 r2 q n := ⟨rfl, rfl, hq⟩
    have hcode : semFault u c.val (ctxOf (coreOf u c.val)).part q n =
        some (if semOwned u (ctxOf (coreOf u c.val)).part q = false then .semDeny else .semOverflow) := by
      cases ho : semOwned u (ctxOf (coreOf u c.val)).part q with
      | false => simp [semFault, ho]
      | true => simp [semFault, ho, hbad.resolve_left (by simp [ho])]
    have h8 : ((if semOwned u (ctxOf (coreOf u c.val)).part q = false then FaultCode.semDeny else .semOverflow).cls == 8) = false := by
      split <;> rfl
    have h := ccFail_plain c.isLt h8 u
    refine ⟨_, congrArg Host.Outcome.next (ccStep_error hf rfl (ccSset_refused hops hcode)), h.raised, ?_, h.sems, ?_⟩
    · rw [h.core]
      rfl
    · rw [h.core]

end Sys2Proof.Proofs

/-! ## Commits and ends of the control core -/

namespace Sys2Proof.Machine

section
variable {s : State} {c rd : Nat} {tpl : Option Nat} {w : List Word}

/-- Words that pass the checks of R307 name an engine. -/
theorem descCheck_eng (h : descCheck w = 0) : wbits w 0 8 3 < 5 := by
  by_contra hno
  have h1 : descCheck w = 1 := by
    unfold descCheck
    dsimp only
    rw [if_pos (Nat.le_of_not_lt hno)]
  omega

theorem commitWords_eng (h : commitWords s c tpl = .ok w) : wbits w 0 8 3 < 5 := by
  apply descCheck_eng
  unfold commitWords at h
  grind

/-- The control core past a commit whose number goes to `rd` (R335). -/
def ccCommitted (rd : Nat) (k : CcCtx) : CcCtx :=
  ccRetire ((k.leader.pc + 4) % 2 ^ 32) (ccSetReg rd (BitVec.ofNat 32 k.commit)
    { k with commit := wrapAdd 32 k.commit 1, stage := stageEmpty, written := 0, seqPc := none, passBrk := false })

theorem ccCommitted_fields (rd : Nat) (k : CcCtx) :
    (ccCommitted rd k).commit = (k.commit + 1) % 2 ^ 32 ∧ (ccCommitted rd k).stage = stageEmpty ∧ (ccCommitted rd k).written = 0 ∧
      (ccCommitted rd k).leader.pc = (k.leader.pc + 4) % 2 ^ 32 := by
  unfold ccCommitted ccSetReg
  split <;> exact ⟨rfl, rfl, rfl, rfl⟩

theorem ccCommitted_rd (h0 : rd ≠ 0) (h : rd < 32) (k : CcCtx) :
    vget (ccCommitted rd k).leader.x rd 0 = BitVec.ofNat 32 k.commit := by
  unfold ccCommitted ccSetReg
  rw [if_neg h0]
  exact vget_vset_self _ _ _ _ h

theorem ccCommitted_x0 (rd : Nat) (k : CcCtx) : vget (ccCommitted rd k).leader.x 0 0 = vget k.leader.x 0 0 := by
  unfold ccCommitted ccSetReg
  split
  · rfl
  · next h => exact vget_vset_ne _ _ _ h

/-- A context that has placed the words `w` whole (R155). -/
def commitRun (rd : Nat) (w : List Word) (r : CtxRun) : CtxRun :=
  { r with cc := ccCommitted rd r.cc,
           runnels := vset r.runnels (wbits w 0 8 3) (vget r.runnels (wbits w 0 8 3) [] ++ [⟨w, r.cc.commit, parOf w⟩]) }

/-- What a placed commit leaves, before its waiters arrive and its cycles are counted. -/
def commitPlaced (c rd : Nat) (tpl : Option Nat) (w : List Word) (s : State) : State :=
  let t := modRun c (commitRun rd w) s
  let t := if tpl.isSome then regWrap (kreg c 0x908) 1 t else t
  let slot := (ctxOf (coreOf s c)).slot
  if bitOf (w.getD 0 0).toNat 11 then setJob slot { jobOf s slot with items := (jobOf s slot).items + 1 } t else t

theorem commitPlaced_frame (c rd : Nat) (tpl : Option Nat) (w : List Word) (s : State) :
    ∃ g h, commitPlaced c rd tpl w s = { modRun c (commitRun rd w) s with regs := g, hst := h } ∧
      (smGet jobDflt h.jobs (ctxOf (coreOf s c)).slot).items =
        (jobOf s (ctxOf (coreOf s c)).slot).items + if bitOf (w.getD 0 0).toNat 11 = true then 1 else 0 := by
  obtain ⟨g, hg⟩ : ∃ g, (if tpl.isSome then regWrap (kreg c 0x908) 1 (modRun c (commitRun rd w) s) else modRun c (commitRun rd w) s)
      = { modRun c (commitRun rd w) s with regs := g } := by
    split
    · exact regWrap_frame (s := modRun c (commitRun rd w) s) _ _
    · exact ⟨_, rfl⟩
  unfold commitPlaced
  dsimp only
  rw [hg]
  split
  · next hv => exact ⟨g, _, rfl, by rw [smGet_set_self]⟩
  · next hv => exact ⟨g, _, rfl, rfl⟩

section
variable (hb : brkHit s c = false) (hw : commitWords s c tpl = .ok w)
  (hi : bitOf (w.getD 0 0).toNat 11 = true →
    (jobOf s (ctxOf (coreOf s c)).slot).items < (jobOf s (ctxOf (coreOf s c)).slot).nitem)
include hb hw hi

theorem doCommit_placed (hroom : (vget (coreOf s c).run.runnels (wbits w 0 8 3) []).length < runnelDepth (wbits w 0 8 3)) :
    doCommit c rd tpl s = ccAfter c (semArrive c (commitPlaced c rd tpl w s)) := by
  unfold doCommit
  simp only [hb, hw, Bool.false_eq_true, if_false]
  rw [if_neg (by simpa using hi), if_neg (by omega)]
  rfl

/-- A commit that waits for a slot. -/
def ccStalled (rd : Nat) (tpl : Option Nat) (k : CcCtx) : CcCtx := { k with st := .qcommit, pendCommit := some (rd, tpl) }

theorem doCommit_full (hfull : runnelDepth (wbits w 0 8 3) ≤ (vget (coreOf s c).run.runnels (wbits w 0 8 3) []).length) :
    ∃ g, doCommit c rd tpl s = { modCc c (ccStalled rd tpl) s with regs := g } := by
  unfold doCommit
  simp only [hb, hw, Bool.false_eq_true, if_false]
  rw [if_neg (by simpa using hi), if_pos hfull]
  exact regCount_frame (s := modCc c (ccStalled rd tpl) s) _ _

end

theorem doCommit_refused {n : Nat} (hb : brkHit s c = false) (hw : commitWords s c tpl = .error (n, w)) :
    doCommit c rd tpl s = commitRefused c tpl w n s := by
  unfold doCommit
  simp only [hb, hw, Bool.false_eq_true, if_false]

/-- The control core stops at a refused commit. -/
def ccRefused (k : CcCtx) : CcCtx := { k with st := .stopped, pendCommit := none }

theorem commitRefused_fault (hc : c < 16) (tpl : Option Nat) (w : List Word) (n : Nat) (s : State) :
    CcFault c (if n = 6 then .templateCrc else .descInvalid) (ccRefused (coreOf s c).run.cc) s (commitRefused c tpl w n s) := by
  obtain ⟨g, hg⟩ := regFirst_frame (kreg c 0x90C) 31
    (2 ^ 31 + bitAt tpl.isSome 30 + wbits w 0 8 3 * 2 ^ 27 + n * 2 ^ 24 + (tpl.getD 0) * 256 + wbits w 0 0 8) s
  have h := ccFault_raised (code := if n = 6 then .templateCrc else .descInvalid) hc (by split <;> rfl) ccRefused g 7 none s
  unfold commitRefused
  dsimp only
  rw [hg]
  exact h

section
variable {t : State}

/-- What a commit that is placed leaves (R155, R335, R377). -/
theorem commit_placed (hc : c < 16) (h : NoHalt s c)
    (ht : t = ccAfter c (semArrive c (commitPlaced c rd tpl w s))) :
    (∃ n, coreOf t c = { coreOf s c with run := { commitRun rd w (coreOf s c).run with
      cc := ccCycled n (ccCommitted rd (coreOf s c).run.cc) } }) ∧
    (jobOf t (ctxOf (coreOf s c)).slot).items =
      (jobOf s (ctxOf (coreOf s c)).slot).items + (if bitOf (w.getD 0 0).toNat 11 = true then 1 else 0) ∧
    (∀ d, d ≠ c → coreOf t d = coreOf s d) ∧
    { t with kc := s.kc, free := s.free, hst := s.hst, regs := s.regs, fab := { t.fab with semq := s.fab.semq } } = s := by
  obtain ⟨g, hst, hp, hitems⟩ := commitPlaced_frame c rd tpl w s
  rw [hp] at ht
  obtain ⟨n, hn⟩ := ccAfter_moved (s := semArrive c { modRun c (commitRun rd w) s with regs := g, hst := hst }) hc (noHalt_congr h rfl)
  rw [← ht] at hn
  have hcore : coreOf (semArrive c { modRun c (commitRun rd w) s with regs := g, hst := hst }) c =
      { coreOf s c with run := commitRun rd w (coreOf s c).run } := coreOf_modRun_self hc _ s
  refine ⟨⟨n, ?_⟩, ?_, fun d hd => (hn.others d hd).trans (coreOf_modRun_ne hd _ s), ?_⟩
  · rw [hn.core, hcore]
    rfl
  · have e := congrArg (fun v : State => v.hst) hn.rest
    have e' : t.hst = hst := e
    rw [jobOf, e', hitems]
  · have e := congrArg (fun v : State => { v with
      kc := s.kc, free := s.free, hst := s.hst, regs := s.regs, fab := { v.fab with semq := s.fab.semq } }) hn.rest
    exact e

end

/-- A control core that has ended (R342). -/
def ccEnded (k : CcCtx) : CcCtx :=
  { ccRetire ((k.leader.pc + 4) % 2 ^ 32) k with st := .ended, stage := stageEmpty, written := 0, seqPc := none, rsv := none }

/-- The job of an ended control core: it lives no longer, and its stamp is the last. -/
def ccEndJob (c : Nat) (s : State) : Job :=
  { jobOf s (ctxOf (coreOf s c)).slot with
    live := (jobOf s (ctxOf (coreOf s c)).slot).live.filter (· != c), endTs := stampOf s c 0 }

theorem ccEnd_eq (c : Nat) (s : State) : ccEnd c s =
    setJob (ctxOf (coreOf s c)).slot (ccEndJob c s) (modCc c ccEnded (keepStamp c (stampOf s c 0) s)) := by
  have hj : jobOf (modCc c ccEnded (keepStamp c (stampOf s c 0) s)) (ctxOf (coreOf s c)).slot = jobOf s (ctxOf (coreOf s c)).slot := rfl
  unfold ccEndJob
  rw [← hj]
  rfl

theorem ccEnd_moved (hc : c < 16) (s : State) :
    coreOf (ccEnd c s) c = { coreOf s c with run := { (coreOf s c).run with cc := ccEnded (coreOf s c).run.cc } } ∧
      (∀ d, d ≠ c → coreOf (ccEnd c s) d = coreOf s d) ∧ { ccEnd c s with kc := s.kc, hst := s.hst, tb := s.tb } = s := by
  have hrest : { modCc c ccEnded (keepStamp c (stampOf s c 0) s) with kc := s.kc, tb := s.tb } = s := rfl
  obtain ⟨-, hother, hcore⟩ := modCc_moved hc ccEnded (keepStamp c (stampOf s c 0) s)
  rw [ccEnd_eq]
  generalize modCc c ccEnded (keepStamp c (stampOf s c 0) s) = v at hrest hother hcore ⊢
  exact ⟨hcore, hother, congrArg (fun w : State => { w with hst := s.hst }) hrest⟩

theorem jobOf_ccEnd (c : Nat) (s : State) : jobOf (ccEnd c s) (ctxOf (coreOf s c)).slot = ccEndJob c s ∧
    ∀ i, i ≠ (ctxOf (coreOf s c)).slot → jobOf (ccEnd c s) i = jobOf s i := by
  rw [ccEnd_eq]
  exact ⟨jobOf_setJob_self _ _ _, fun i hi => jobOf_setJob_ne _ hi _⟩

end

end Sys2Proof.Machine

namespace Sys2Proof.Proofs
open Sys2Proof.Machine

/-- Settles O45: what a commit does is one of `commit_placed`, `doCommit_full` and `commitRefused_fault`, for a descriptor of its
own words and for a template's alike; an end is `ccEnd`, and an abort a fault of the control core (`ccFault_raised`). -/
theorem commitsAndEnds : Obligations.CommitsAndEnds := by
  unfold Obligations.CommitsAndEnds
  refine ⟨?placed, ?full, ?refused, ?ends, ?aborts⟩
  case placed =>
    intro s u c rd r1 len tpl w hh _ hb x k j e vis hw hi hroom P
    have hP : P (doCommit c.val rd tpl u) := by
      have he : e < 5 := commitWords_eng hw
      obtain ⟨⟨n, hcore⟩, hitems, hother, hrest⟩ := commit_placed c.isLt hh (doCommit_placed hb hw hi hroom)
      obtain ⟨hcommit, hstage, hwritten, hpc⟩ := ccCommitted_fields rd k
      dsimp only [P]
      rw [hcore]
      exact ⟨he, vget_vset_self _ _ _ _ he, fun f hf => vget_vset_ne _ _ _ (Ne.symm hf), hcommit, hstage, hwritten, hpc,
        fun h0 h => ccCommitted_rd h0 h k, ccCommitted_x0 rd k, hitems, rfl, rfl, hother, hrest⟩
    refine ⟨?own, ?template⟩
    case own =>
      rintro rfl hf
      exact ⟨_, congrArg Host.Outcome.next (ccStep_ok hf rfl rfl), hP⟩
    case template =>
      rintro rfl hf
      exact ⟨_, congrArg Host.Outcome.next (ccStep_ok hf rfl rfl), hP⟩
  case full =>
    intro s u c rd len w hf hb x j hw hi hfull
    have hmove := modCc_moved c.isLt (ccStalled rd none) u
    obtain ⟨g, hg⟩ := doCommit_full (rd := rd) hb hw hi hfull
    refine ⟨_, congrArg Host.Outcome.next (ccStep_ok hf rfl (congrArg (Prod.mk _) hg)), ?_⟩
    have hcore : coreOf { modCc c.val (ccStalled rd none) u with regs := g } c.val =
        { coreOf u c.val with run := { (coreOf u c.val).run with cc := ccStalled rd none (coreOf u c.val).run.cc } } := hmove.core
    refine ⟨?_, ?_, ?_, ?_, hmove.only, rfl⟩
    all_goals rw [hcore]
    all_goals rfl
  case refused =>
    intro s u c rd r1 len n w hf hb hw
    refine ⟨_, congrArg Host.Outcome.next (ccStep_ok hf rfl (congrArg (Prod.mk _) (doCommit_refused hb hw))), ?_⟩
    have h := commitRefused_fault c.isLt (some ((hx (coreOf u c.val).run.cc.leader r1).toNat % 64)) w n u
    refine ⟨h.raised, ?_, ?_, ?_, h.only, h.hst⟩
    all_goals rw [h.core]
    all_goals rfl
  case ends =>
    intro s u c len hf h0
    have hsel : (RvOp.ecall == RvOp.ecall && hx (coreOf s c.val).run.cc.leader 17 == 0) = true := by
      rw [h0]
      rfl
    refine ⟨ccEnd c.val u, congrArg Host.Outcome.next (ccStep_ok hf hsel rfl), ?_⟩
    obtain ⟨hcore, hother, hrest⟩ := ccEnd_moved c.isLt u
    obtain ⟨hjob, hjobs⟩ := jobOf_ccEnd c.val u
    have hlive := congrArg Job.live hjob
    have hstamp := congrArg Job.endTs hjob
    dsimp only
    rw [hcore]
    exact ⟨rfl, rfl, rfl, hlive, hstamp, ⟨hother, by rw [hcore]⟩, fun i hi => hjobs i hi, hrest⟩
  case aborts =>
    intro s u c len hf h1
    have hsel : (RvOp.ecall == RvOp.ecall && hx (coreOf s c.val).run.cc.leader 17 == 1) = true := by
      rw [h1]
      rfl
    obtain ⟨g, hg⟩ := ccStopRec_frame c.val 2 0 ((hx (coreOf u c.val).run.cc.leader 10).toNat % 65536) 0 (ccStopped c.val u)
    refine ⟨_, congrArg Host.Outcome.next
      (ccStep_ok hf hsel (congrArg (fun v => (Except.ok (), coreFault c.val 7 none .ccAbort v)) hg)), ?_⟩
    have h : CcFault c.val .ccAbort (ccHeld (coreOf u c.val).run.cc) u
        (coreFault c.val 7 none .ccAbort { ccStopped c.val u with regs := g }) :=
      ccFault_raised (code := .ccAbort) c.isLt rfl ccHeld g 7 none u
    refine ⟨h.raised, ?_, ?_, h.only, h.hst⟩
    all_goals rw [h.core]
    all_goals rfl

end Sys2Proof.Proofs

/-! ## The issue of every engine command -/

namespace Sys2Proof.Machine

section
variable {s t : State} {c eng opc : Nat} {d : QDesc}

/-! ### The head of a Runnel (R157, R159, R166) -/

theorem readyHead_waits {e : QDesc} (h : readyHead s c eng = some e) : waitsOk s c e.w = true := by
  unfold readyHead at h
  dsimp only at h
  split at h
  · cases h
  · split at h
    next hall =>
      cases h
      simp only [Bool.and_eq_true] at hall
      obtain ⟨⟨⟨_, hwaits⟩, _⟩, _⟩ := hall
      exact hwaits
    next => cases h

/-- A head that may issue is the ready head of its Runnel. -/
theorem ready_readyHead (h : headState s c eng opc = .ready d) : readyHead s c eng = some d := by
  obtain ⟨⟨ds, hd⟩, -, -⟩ := ready_head h
  unfold headState at h
  dsimp only at h
  rw [hd] at h
  dsimp only at h
  split at h
  · cases h
  split at h
  · cases h
  split at h
  · cases h
  split at h
  · cases h
  split at h
  next hmay =>
    have hm := (Bool.and_eq_true_iff.mp hmay).1
    unfold mayIssue at hm
    unfold readyHead at hm ⊢
    simp only [hd] at hm ⊢
    split at hm
    next y hy =>
      split at hy
      next hall => rw [if_pos hall]
      next => cases hy
    next => cases hm
  next => cases h

/-- A head that may not issue has a parity error, or waits on a semaphore that is not the partition's. -/
theorem bad_head {code : FaultCode} (h : headState s c eng opc = .bad d code) : code = .runnelParity ∨ code = .semDeny := by
  unfold headState at h
  dsimp only at h
  split at h
  · cases h
  split at h
  · cases h
  split at h
  · cases h
  split at h
  · cases h
    exact .inl rfl
  split at h
  · cases h
    exact .inr rfl
  split at h
  · cases h
  · cases h

/-! ### A head that may not issue -/

/-- A failing descriptor of any engine: its fault is raised in its core, and its flight stands failed. -/
theorem failFlight_raises (f : Flight) (code : FaultCode) (idx : Nat) (s : State) :
    ∃ g x, g.code = code ∧ g.isl = c ∧
      failFlight c f code idx s = raise g { modRun c (putFlight (failedFlight c f code s)) s with regs := x } := by
  by_cases he : f.eng = 2
  · obtain ⟨x, hx⟩ := regFirst_frame (kreg c 0x2028) 31 (2 ^ 31 + (wbits f.d.w 0 0 8 - 0x3F) * 2 ^ 27 + idx % 2 ^ 20) s
    obtain ⟨g, y, hcode, hisl, hg⟩ := coreFault_spec c f.eng (some f.d.commit) code
      { modRun c (putFlight (failedFlight c f code s)) s with regs := x }
    refine ⟨g, y, hcode, hisl, ?_⟩
    unfold failFlight geFaultInfo
    rw [if_pos he, hx]
    exact hg
  · exact failFlight_spec he idx s

/-- The head leaves its Runnel to fail. -/
def headTaken (eng : Nat) (d : QDesc) (r : CtxRun) : CtxRun :=
  { popHead eng r with flight := r.flight ++ [{ eng := eng, d := d, issueTs := 0 }] }

theorem headFail_raises (hc : c < 16) (code : FaultCode) (h8 : (code.cls == 8) = false) (s : State) :
    let f := failedFlight c { eng := eng, d := d, issueTs := 0 } code s
    let t := headFail c eng d code s
    Raised code c t ∧ { t with kc := s.kc, regs := s.regs, saf := s.saf, tb := s.tb } = s ∧
      coreOf t c = { coreOf s c with run := putFlight f (headTaken eng d (coreOf s c).run) } ∧ ∀ e, e ≠ c → coreOf t e = coreOf s e := by
  dsimp only
  obtain ⟨g, x, hcode, hisl, hfail⟩ :=
    failFlight_raises (c := c) { eng := eng, d := d, issueTs := 0 } code 0 (modRun c (headTaken eng d) s)
  have hpath := FaultPath.raise g { modRun c (putFlight (failedFlight c { eng := eng, d := d, issueTs := 0 } code s))
    (modRun c (headTaken eng d) s) with regs := x }
  have ht : headFail c eng d code s = raise g { modRun c (putFlight (failedFlight c { eng := eng, d := d, issueTs := 0 } code s))
      (modRun c (headTaken eng d) s) with regs := x } := hfail
  rw [ht]
  refine ⟨?_, ?_, ?_, fun e he => ?_⟩
  · rw [← hcode, ← hisl]
    exact raise_raised g _ (by rw [hcode]; exact h8) (by omega)
  · have e := congrArg (fun v : State => { v with kc := s.kc, regs := s.regs, saf := s.saf, tb := s.tb }) hpath.rest
    exact e
  · rw [hpath.coreOf, coreOf_regs, coreOf_modRun_self hc, coreOf_modRun_self hc]
  · rw [hpath.coreOf, coreOf_regs, coreOf_modRun_ne he, coreOf_modRun_ne he]

theorem headTaken_flight (f : Flight) (hf : f.d = d) (r : CtxRun) : f ∈ (putFlight f (headTaken eng d r)).flight :=
  mem_putFlight (f := { eng := eng, d := d, issueTs := 0 }) (List.mem_append_right _ (List.mem_singleton.mpr rfl)) (by rw [hf])

/-! ### What issues -/

/-- Every engine command is the issue of its Runnel's head (R155). -/
theorem exec_engineCmd {i : Instr} {work : Acc → Flight → EngM Flight} (h : engineCmd i = some (c, eng, opc, work)) (s : State) :
    exec i s = .next (issue c eng opc work s) ∧ c < 16 ∧ eng < 5 := by
  unfold engineCmd at h
  split at h
  next k e =>
    cases h
    exact ⟨rfl, k.isLt, e.isLt⟩
  all_goals cases h
  all_goals exact ⟨rfl, Fin.isLt _, by decide⟩

/-! ### The issue cycle, exactly (R157) -/

/-- The head's waits are taken and it stands in flight. -/
def cycleTaken (s : State) (c eng : Nat) (d : QDesc) : State :=
  modCore c (fun x => { x with rr := eng }) (modRun c (fun r => { popHead eng r with
    flight := r.flight ++ [issuedFlight s c eng d], sb := r.sb ++ sbEntries (ctxOf (coreOf s c)) eng d.commit d.w })
    (takeWaits c d.w (keepStamp c (stampOf s c 0) s)))

/-- The issue cycle before the ISSUE sets. -/
def cyclePlaced (s : State) (c eng : Nat) (d : QDesc) : State :=
  sbPeak c (preMax c (ctxOf (coreOf s c)).part (cycleTaken s c eng d))

theorem issueCycle_eq (s : State) (c eng : Nat) (d : QDesc) :
    issueCycle c eng d s = (issuedFlight s c eng d, applySets c eng d.commit (setsOf d.w false) (cyclePlaced s c eng d)) := rfl

/-- What the issue cycle makes of its core, before the ISSUE sets and after. -/
structure CoreIssued (c eng : Nat) (d : QDesc) (s t : State) : Prop where
  core : ∃ z p, coreOf t c = { coreOf s c with
    pre := p, rr := eng, run := { issuedRun s c eng d with
      sems := z, sb := (coreOf s c).run.sb ++ sbEntries (ctxOf (coreOf s c)) eng d.commit d.w } }
  others : ∀ e, e ≠ c → coreOf t e = coreOf s e

theorem CoreIssued.then {u : State} (h : CoreIssued c eng d s t) (k : SetStep c t u) : CoreIssued c eng d s u := by
  obtain ⟨⟨z, p, hz⟩, ho⟩ := h
  obtain ⟨-, ho', z', hz'⟩ := k
  exact ⟨⟨z', p, by rw [hz', hz]⟩, fun e he => (ho' e he).trans (ho e he)⟩

/-- The first issue of a preempting context changes registers and the core's mark of it (R425). -/
theorem preMax_frame (c p : Nat) (s : State) :
    preMax c p s = s ∨ ∃ g, preMax c p s = { modCore c (fun x => { x with pre := none }) s with regs := g } := by
  unfold preMax
  split
  · exact .inl rfl
  · split
    · exact .inl rfl
    · dsimp only
      generalize modCore c (fun x => { x with pre := none }) s = t
      split
      · exact .inr ⟨_, rfl⟩
      · exact .inr ⟨_, rfl⟩

theorem preMax_core (hc : c < 16) (p : Nat) (s : State) :
    (∃ o, coreOf (preMax c p s) c = { coreOf s c with pre := o }) ∧ (∀ e, e ≠ c → coreOf (preMax c p s) e = coreOf s e) ∧
      (preMax c p s).sems = s.sems ∧ (preMax c p s).parts = s.parts := by
  obtain h | ⟨g, h⟩ := preMax_frame c p s
  · rw [h]
    exact ⟨⟨_, rfl⟩, fun _ _ => rfl, rfl, rfl⟩
  · rw [h]
    refine ⟨⟨none, ?_⟩, fun e he => ?_, rfl, rfl⟩
    · rw [coreOf_regs, coreOf_modCore_self _ hc]
    · rw [coreOf_regs, coreOf_modCore_ne _ he]

theorem sbPeak_regs (c : Nat) (s : State) : ∃ g, sbPeak c s = { s with regs := g } := by
  unfold sbPeak
  dsimp only
  split
  · exact ⟨_, rfl⟩
  · exact ⟨_, rfl⟩

/-- The waits are taken before anything else of the core moves. -/
theorem waitsTaken_step (hc : c < 16) (w : List Word) (s : State) :
    SetStep c s (takeWaits c w (keepStamp c (stampOf s c 0) s)) := (SetStep.stamp c _ s).trans (takeWaits_step hc w _)

theorem cyclePlaced_core (hc : c < 16) (eng : Nat) (d : QDesc) (s : State) : CoreIssued c eng d s (cyclePlaced s c eng d) := by
  obtain ⟨-, ho, z, hz⟩ := waitsTaken_step hc d.w s
  obtain ⟨⟨o, hcore⟩, hother, -, -⟩ := preMax_core hc (ctxOf (coreOf s c)).part (cycleTaken s c eng d)
  refine .then ⟨⟨z, o, ?_⟩, fun e he => ?_⟩ (sbPeak_step _)
  · rw [hcore, cycleTaken, coreOf_modCore_self _ hc, coreOf_modRun_self hc, hz]
    rfl
  · rw [hother e he, cycleTaken, coreOf_modCore_ne _ he, coreOf_modRun_ne he, ho e he]

/-- Nothing in the issue cycle but its waits and its sets moves a semaphore, and nothing a partition's record. -/
theorem cyclePlaced_sems (hc : c < 16) (eng : Nat) (d : QDesc) (s : State) :
    (∀ q, semGet (cyclePlaced s c eng d) c q = semGet (takeWaits c d.w (keepStamp c (stampOf s c 0) s)) c q) ∧
      (cyclePlaced s c eng d).parts = s.parts := by
  obtain ⟨⟨o, hcore⟩, -, hsems, hparts⟩ := preMax_core hc (ctxOf (coreOf s c)).part (cycleTaken s c eng d)
  obtain ⟨g, hg⟩ := sbPeak_regs c (preMax c (ctxOf (coreOf s c)).part (cycleTaken s c eng d))
  obtain ⟨⟨k, m, g', a, l, hwaits⟩, -, -⟩ := waitsTaken_step hc d.w s
  have hrun : (coreOf (cycleTaken s c eng d) c).run.sems = (coreOf (takeWaits c d.w (keepStamp c (stampOf s c 0) s)) c).run.sems := by
    rw [cycleTaken, coreOf_modCore_self _ hc, coreOf_modRun_self hc]
    rfl
  unfold cyclePlaced
  rw [hg]
  refine ⟨fun q => ?_, ?_⟩
  · unfold semGet
    rw [coreOf_regs, hcore]
    dsimp only
    rw [hsems, hrun]
    rfl
  · have hp := congrArg (fun v : State => v.parts) hwaits
    exact hparts.trans hp

theorem issueCycle_core (hc : c < 16) (eng : Nat) (d : QDesc) (s : State) : CoreIssued c eng d s (issueCycle c eng d s).2 :=
  (cyclePlaced_core hc eng d s).then (applySets_step hc eng d.commit (setsOf d.w false) _)

/-! ### Semaphores at issue (R157, R164, R302) -/

theorem semGet_takeWaits_out {q : Nat} (hc : c < 16) {w : List Word} (h : ((waitsOf w).all fun e => e.1 != q) = true) (s : State) :
    semGet (takeWaits c w s) c q = semGet s c q := by
  unfold takeWaits
  generalize waitsOf w = ws at h
  induction ws generalizing s with
  | nil => rfl
  | cons d ds ih =>
    rw [List.all_cons, Bool.and_eq_true] at h
    obtain ⟨hd, hds⟩ := h
    rw [List.foldl_cons, ih _ hds]
    exact semGet_semPut_ne hc (by simpa using Ne.symm (bne_iff_ne.mp hd)) _ s

theorem semGet_takeWaits_one {q n : Nat} (hc : c < 16) (hq : q < 32 ∨ (64 ≤ q ∧ q < 128)) {w : List Word} (h : waitsOf w = [(q, n)])
    (s : State) : semGet (takeWaits c w s) c q = semGet s c q - n := by
  unfold takeWaits
  rw [h]
  exact semGet_semPut_self hc hq _ s

theorem semGet_keepStamp (i ts q : Nat) (s : State) : semGet (keepStamp i ts s) c q = semGet s c q := semGet_congr rfl rfl c q

/-- A semaphore that the sets do not name moves by the waits alone. -/
theorem semGet_issueCycle_waits {q : Nat} (hc : c < 16) (eng : Nat) (h : ((setsOf d.w false).all fun e => e.1 != q) = true) (s : State) :
    semGet (issueCycle c eng d s).2 c q = semGet (takeWaits c d.w (keepStamp c (stampOf s c 0) s)) c q := by
  rw [issueCycle_eq, semGet_applySets_out hc eng d.commit _ h]
  exact (cyclePlaced_sems hc eng d s).1 q

theorem semGet_issueCycle_out {q : Nat} (hc : c < 16) (eng : Nat) (hw : ((waitsOf d.w).all fun e => e.1 != q) = true)
    (hs : ((setsOf d.w false).all fun e => e.1 != q) = true) (s : State) : semGet (issueCycle c eng d s).2 c q = semGet s c q := by
  rw [semGet_issueCycle_waits hc eng hs, semGet_takeWaits_out hc hw, semGet_keepStamp]

theorem semGet_issueCycle_takes {q n : Nat} (hc : c < 16) (eng : Nat) (hq : q < 32 ∨ (64 ≤ q ∧ q < 128)) (hw : waitsOf d.w = [(q, n)])
    (hs : ((setsOf d.w false).all fun e => e.1 != q) = true) (s : State) :
    semGet (issueCycle c eng d s).2 c q = semGet s c q - n := by
  rw [semGet_issueCycle_waits hc eng hs, semGet_takeWaits_one hc hq hw, semGet_keepStamp]

theorem semGet_issueCycle_adds {q n : Nat} (hc : c < 16) (eng : Nat) (hq : q < 32 ∨ (64 ≤ q ∧ q < 128))
    (hw : ((waitsOf d.w).all fun e => e.1 != q) = true) (hs : setsOf d.w false = [(q, n)])
    (ho : semOwned s (ctxOf (coreOf s c)).part q = true) (hn : semGet s c q + n ≤ 65535) :
    semGet (issueCycle c eng d s).2 c q = semGet s c q + n := by
  obtain ⟨hsems, hparts⟩ := cyclePlaced_sems hc eng d s
  have hsem : semGet (cyclePlaced s c eng d) c q = semGet s c q := by
    rw [hsems, semGet_takeWaits_out hc hw, semGet_keepStamp]
  have hctx : ctxOf (coreOf (cyclePlaced s c eng d) c) = ctxOf (coreOf s c) := by
    obtain ⟨z, p, hz⟩ := (cyclePlaced_core hc eng d s).core
    rw [hz]
    rfl
  rw [issueCycle_eq, hs, ← hsem]
  refine semGet_applySets_one hc eng d.commit hq ?_ (by omega)
  rw [hctx]
  unfold semOwned recOf partOf at ho ⊢
  rw [hparts]
  exact ho

end

end Sys2Proof.Machine

namespace Sys2Proof.Proofs
open Sys2Proof.Machine

/-- Settles O46: an engine command is the issue of its Runnel's head (`exec_engineCmd`), a head that may not issue fails
(`headFail_raises`), and one that is ready issues as `issueCycle_core` and the lemmas on its semaphores say. -/
theorem enginesIssueReadyHeads : Obligations.EnginesIssueReadyHeads := by
  unfold Obligations.EnginesIssueReadyHeads
  refine ⟨?command, ?cycle, ?nop⟩
  case command =>
    intro i s c eng opc work hi
    obtain ⟨hexec, hc, he⟩ := exec_engineCmd hi s
    refine ⟨?idle, ?bad, ?ready⟩
    case idle =>
      intro h
      rw [hexec]
      unfold issue
      obtain h | h := h
      all_goals rw [h]
    case bad =>
      intro d code h
      have hrun : exec i s = .next (headFail c eng d code s) := by
        rw [hexec, issue, h]
      have h8 : (code.cls == 8) = false := by
        obtain rfl | rfl := bad_head h
        all_goals rfl
      obtain ⟨hraised, hrest, hcore, hother⟩ := headFail_raises (eng := eng) (d := d) hc code h8 s
      refine (completes_iff hrun).mpr ?_
      rw [hcore]
      have hsems := congrArg (fun v : State => v.sems) hrest
      refine ⟨hraised, vget_vset_self _ _ _ _ he, ?_, rfl, hsems, rfl, rfl, hother⟩
      exact ⟨_, headTaken_flight (failedFlight c { eng := eng, d := d, issueTs := 0 } code s) rfl _, rfl, rfl, rfl⟩
    case ready =>
      intro d h f u
      have hrun : exec i s = .next (commitResume c (runWork c f work u)) := by
        rw [hexec, issue, h]
      refine ⟨fun g v hw => ?_, fun code k v hw => ?_, fun v hw => ?_⟩
      all_goals
        rw [hrun, runWork, hw]
  case cycle =>
    intro s c eng opc d h f t r r'
    obtain ⟨⟨ds, hd⟩, -, -⟩ := ready_head h
    obtain ⟨⟨z, p, hz⟩, hother⟩ := issueCycle_core c.isLt eng.val d s
    have hwaits := readyHead_waits (ready_readyHead h)
    have hr : r' = { issuedRun s c.val eng.val d with
        sems := z, sb := r.sb ++ sbEntries (ctxOf (coreOf s c.val)) eng.val d.commit d.w } := congrArg Core.run hz
    have hself : vget r'.runnels eng.val [] = ds := by
      rw [hr]
      exact (vget_vset_self _ _ _ _ eng.isLt).trans (congrArg (List.drop 1) hd)
    refine ⟨rfl, rfl, rfl, rfl, rfl, by rw [hself]; exact hd, fun e he => ?_, by rw [hr]; rfl, by rw [hr], by rw [hr]; rfl, by rw [hr]; rfl,
      by rw [hr]; rfl, by rw [hz], fun q hw hs => semGet_issueCycle_out c.isLt _ hw hs s, fun q n hw hs hq => ?_,
      fun q n hs hw hq ho hn => semGet_issueCycle_adds c.isLt _ hq hw hs ho hn, by rw [hz], by rw [hz], by rw [hz], hother⟩
    · rw [hr]
      exact vget_vset_ne _ _ _ (Ne.symm he)
    · refine ⟨?_, semGet_issueCycle_takes c.isLt _ hq hw hs s⟩
      rw [waitsOk, hw] at hwaits
      simpa using hwaits
  case nop =>
    intro s c eng d h
    have hstep := issued_step c.isLt eng.val d s
    have hrun : exec (.nop c eng) s =
        .next (modRun c.val (putFlight { issuedFlight s c.val eng.val d with done := true }) (issuedState s c.val eng.val d)) :=
      congrArg Host.Outcome.next (issue_ok c.isLt eng.isLt h rfl rfl)
    refine (completes_iff hrun).mpr ?_
    have hcore : coreOf (issuedState s c.val eng.val d) c.val = coreOf (issueCycle c.val eng.val d s).2 c.val := rfl
    refine ⟨⟨_, mem_flight_put c.isLt (issuedState_flight c.isLt eng.val d s) rfl, rfl, rfl, rfl, trivial⟩, ?_, ?_, ?_, ?_, ?_,
      fun e he => ?_, ?_⟩
    · rw [coreOf_modRun_self c.isLt, hcore]
      rfl
    · rw [coreOf_modRun_self c.isLt, hcore]
      rfl
    · rw [coreOf_modRun_self c.isLt, hcore]
      rfl
    · rw [coreOf_modRun_self c.isLt, hcore]
      rfl
    · rw [coreOf_modRun_self c.isLt]
      exact hstep.field (fun x => x.basin) (fun _ _ _ _ => rfl) c.val
    · rw [coreOf_modRun_ne he, hstep.others e he]
    · unfold issuedState
      generalize (issueCycle c.val eng.val d s).2 = u
      rfl

end Sys2Proof.Proofs

/-! ## Sluices, slots, translation copies, tables and partition resets -/

namespace Sys2Proof.Machine

section
variable {s t u : State} {p : Nat}

/-! ### Sluices and slots (R405, R406, R408, R409) -/

/-- A partition whose buckets have gained the tokens of `n` microseconds under the budget `b`. -/
def bucketsFilled (n : Nat) (b : List Byte) (x : Part) : Part :=
  { x with
    memTok := vmap x.memTok 0 fun _ t => min (t + n * field b 0 2) (field b 2 2)
    fabTok := min (x.fabTok + n * field b 4 2) (field b 6 2) }

theorem bucketsFilled_mem (n : Nat) (b : List Byte) (x : Part) {ch : Nat} (h : ch < 8) :
    vget (bucketsFilled n b x).memTok ch 0 = min (vget x.memTok ch 0 + n * field b 0 2) (field b 2 2) :=
  vget_vmap x.memTok 0 (fun _ t => min (t + n * field b 0 2) (field b 2 2)) ch h

theorem bucketsFilled_rest (n : Nat) (b : List Byte) (x : Part) :
    (bucketsFilled n b x).fabTok = min (x.fabTok + n * field b 4 2) (field b 6 2) ∧ (bucketsFilled n b x).record = x.record ∧
      (bucketsFilled n b x).rings = x.rings := by
  unfold bucketsFilled
  exact ⟨rfl, rfl, rfl⟩

theorem foldl_bucketFill (n : Nat) (l : List Nat) (s : State) : l.foldl (bucketFill n) s =
    { s with parts := l.foldl (fun v p => vmod v p {} (bucketsFilled n (budgetOf s p))) s.parts } := by
  induction l generalizing s with
  | nil => rfl
  | cons p l ih =>
    rw [List.foldl_cons, ih]
    rfl

/-- Every partition's buckets gain by the same time, and nothing else moves. -/
theorem exec_sluiceRefill (s : State) : ∃ v, exec .sluiceRefill s = .next { s with parts := v, sluiceUs := s.tb.master / 1000 } ∧
    ∀ p < 8, vget v p {} = bucketsFilled (s.tb.master / 1000 - s.sluiceUs) (budgetOf s p) (partOf s p) := by
  have h := foldl_bucketFill (s.tb.master / 1000 - s.sluiceUs) (List.range 8) s
  have hrun : exec .sluiceRefill s = .next { (List.range 8).foldl (bucketFill (s.tb.master / 1000 - s.sluiceUs)) s with
    sluiceUs := s.tb.master / 1000 } := rfl
  rw [hrun, h]
  exact ⟨_, rfl, fun p hp => vget_vmap s.parts {} (fun q => bucketsFilled (s.tb.master / 1000 - s.sluiceUs) (budgetOf s q)) p hp⟩

section
variable {α : Type} [DecidableEq α] (d : Nat → α) (k : Nat → Nat) (f : Nat → α)

theorem smGet_foldl_set_out {j : Nat} (l : List Nat) (h : ∀ u ∈ l, j ≠ k u) (m : SMap α) :
    smGet d (l.foldl (fun m u => smSet d m (k u) (f u)) m) j = smGet d m j := by
  induction l generalizing m with
  | nil => rfl
  | cons a l ih =>
    rw [List.foldl_cons, ih fun u hu => h u (List.mem_cons_of_mem _ hu)]
    exact smGet_set_ne d m (h a List.mem_cons_self) _

theorem smGet_foldl_set_in (hk : ∀ u v, k u = k v → u = v) {l : List Nat} {u : Nat} (h : u ∈ l) (m : SMap α) :
    smGet d (l.foldl (fun m u => smSet d m (k u) (f u)) m) (k u) = f u := by
  induction l generalizing m with
  | nil => cases h
  | cons a l ih =>
    rw [List.foldl_cons]
    by_cases hu : u ∈ l
    · exact ih hu _
    · obtain rfl : u = a := (List.mem_cons.mp h).resolve_right hu
      rw [smGet_foldl_set_out d k f l fun v hv hkey => hu (hk u v hkey ▸ hv)]
      exact smGet_set_self d m _ _

end

/-- A new major frame takes the budgets that wait (R405). -/
theorem frameBudget_get (s : State) {e : Nat} (h : e ∈ frameSubs) :
    smGet odDefault (frameSubs.foldl (fun m u => smSet odDefault m (odKey 0x2500 u) (odGet s 0x2500 u)) s.budget) (odKey 0x2500 e) =
      odGet s 0x2500 e :=
  smGet_foldl_set_in odDefault (odKey 0x2500) (odGet s 0x2500) (fun u v huv => by unfold odKey at huv; omega) h s.budget

/-! ### The owner's commands (R39, R403, R412) -/

section
variable {h : Fin 4} (hl : linked s (.host h) = true) (hr : isReady s = true) (ho : ownerOf (partOf s p) = some h.val)
include hl hr ho

/-- The owning port reaches its block. -/
theorem prtGate_owner (k : State → State) : prtGate (.host h) p k s = k s := by
  rw [prtGate, ringGate, blockGate_open hl hr, if_pos ho]

theorem mmuGate_busy (k : State → State) (hc : (partOf s p).mmuCopy.isSome = true) : mmuGate (.host h) p k s = ignWrite (.host h) s := by
  rw [mmuGate, prtGate_owner hl hr ho, if_pos hc]

theorem mmuGate_idle (k : State → State) (hc : (partOf s p).mmuCopy = none) : mmuGate (.host h) p k s = k s := by
  rw [mmuGate, prtGate_owner hl hr ho, if_neg (by simp [hc])]

/-- A table command beside a running operation is ignored. -/
theorem tblCmd_busy {v : Nat} (hb : (partOf s p).tblOp.isSome = true) : tblCmd (.host h) p v s = ignWrite (.host h) s := by
  rw [tblCmd, prtGate_owner hl hr ho]
  exact if_pos (.inr hb)

end

/-- A table operation as it is accepted. -/
def tblTaken (s : State) (p v : Nat) : TblOp :=
  { op := v % 4, id := bits v 8 4, src := mmuReg s p 0x10100 + mmuReg s p 0x10104 * 2 ^ 32,
    dst := mmuReg s p 0x10108 + mmuReg s p 0x1010C * 2 ^ 32, len := mmuReg s p 0x10110, crc := mmuReg s p 0x10114,
    shards := bits (mmuReg s p 0x10118) 0 5, shstride := bits (mmuReg s p 0x10118) 16 16 * 65536, copied := 1,
    waits := if v % 4 = 1 then [] else admittedRefs s p, silent := false }

/-- A partition that has accepted a table operation. -/
def tblAccepted (s : State) (p v : Nat) : Part :=
  { partOf s p with
    tblOp := some (tblTaken s p v), tblState := if v % 4 = 1 then 1 else 3, tblId := bits v 8 4, tblCode := 0, tblPause := v % 4 != 1
    rings := { (partOf s p).rings with cqRsv := (partOf s p).rings.cqRsv + 1 } }

section
variable {h : Fin 4} {v : Nat} (hl : linked s (.host h) = true) (hr : isReady s = true) (ho : ownerOf (partOf s p) = some h.val)
  (hop : v % 4 ≠ 0) (hb : (partOf s p).tblOp = none)
include hl hr ho hop hb

theorem tblCmd_refused (hk : tblRefusal s p (v % 4) (bits v 8 4) ≠ 0) : tblCmd (.host h) p v s =
    setPart p { partOf s p with tblState := 6, tblId := bits v 8 4, tblCode := tblRefusal s p (v % 4) (bits v 8 4) } s := by
  rw [tblCmd, prtGate_owner hl hr ho]
  dsimp only
  rw [if_neg (by simp [hop, hb]), if_pos hk]

theorem tblCmd_accepted (hk : tblRefusal s p (v % 4) (bits v 8 4) = 0) :
    tblCmd (.host h) p v s = setPart p (tblAccepted s p v) s := by
  rw [tblCmd, prtGate_owner hl hr ho]
  dsimp only
  rw [if_neg (by simp [hop, hb]), if_neg (by simp [hk])]
  rfl

end

/-! ### The end of a table operation (R412 to R414) -/

theorem partOf_congr (h : t.parts = s.parts) (p : Nat) : partOf t p = partOf s p := by rw [partOf, h]; rfl

theorem sendMsix_parts (h v : Nat) (s : State) : (sendMsix h v s).parts = s.parts := by
  obtain ⟨q, o, hq⟩ := sendMsix_frame h v s
  rw [hq]

/-- A record changes nothing of its partition but its rings. -/
theorem partOf_ringSignal (hp : p < 8) (h : Nat) (s : State) : ∃ g, partOf (ringSignal p h s) p = { partOf s p with rings := g } :=
  ⟨_, (partOf_congr (sendMsix_parts _ _ _) p).trans (partOf_setPart_self _ hp _)⟩

theorem partOf_postRecord (hp : p < 8) (rsv : Bool) (cause : Nat) (r : CqRec) (s : State) :
    ∃ g, partOf (postRecord p rsv cause r s) p = { partOf s p with rings := g } := by
  unfold postRecord
  extract_lets g
  split
  · exact ⟨_, rfl⟩
  next h _ =>
    split
    · exact ⟨_, rfl⟩
    · extract_lets s1 g' s2
      have h2 : partOf s2 p = { partOf s p with rings := g' } := partOf_setPart_self _ hp _
      clear_value s2
      split
      · obtain ⟨y, hy⟩ := partOf_ringSignal hp h s2
        exact ⟨y, by rw [hy, h2]⟩
      · exact ⟨_, h2⟩

/-- What the end of a table operation leaves of its partition; faults and cores stand. -/
theorem tblEnd_spec (hp : p < 8) (o : TblOp) (code : Nat) (s : State) :
    (∃ g, partOf (tblEnd p o code s) p =
      { partOf s p with tblOp := none, tblState := if code = 0 then 4 else 5, tblCode := code, rings := g }) ∧
      (tblEnd p o code s).saf = s.saf ∧ (tblEnd p o code s).kc = s.kc := by
  unfold tblEnd
  extract_lets x v ver
  have hv : partOf v p = { partOf s p with tblOp := none, tblState := if code = 0 then 4 else 5, tblCode := code } :=
    partOf_setPart_self _ hp _
  have hsaf : v.saf = s.saf := rfl
  have hkc : v.kc = s.kc := rfl
  clear_value v
  split
  · exact ⟨⟨(partOf s p).rings, hv⟩, hsaf, hkc⟩
  · obtain ⟨g, hg⟩ := partOf_postRecord hp true 0 ⟨p * 0x1000000, 4, if code = 0 then 0 else 2, code, stampOf v islHst 0,
      o.id + o.op * 256 + ver * 65536, 0xFF, 0, 0, 0⟩ v
    obtain ⟨x', q, l, out, hpost⟩ := postRecord_frame p true 0 ⟨p * 0x1000000, 4, if code = 0 then 0 else 2, code, stampOf v islHst 0,
      o.id + o.op * 256 + ver * 65536, 0xFF, 0, 0, 0⟩ v
    refine ⟨⟨g, by rw [hg, hv]⟩, ?_, ?_⟩
    · rw [hpost]
      exact hsaf
    · rw [hpost]
      exact hkc

/-- The tables of a partition with one entry changed. -/
def tableSet (x : Part) (i : Nat) (e : TblEntry) : Part := { x with tables := vset x.tables i e }

/-- A table's entry at the end of a pause: its versions exchanged, or emptied (R414). -/
def entryEnded (op : Nat) (e : TblEntry) : TblEntry :=
  if op = 2 then { cur := e.standby, standby := e.cur, ver := wrapAdd 16 e.ver 1 } else { ver := wrapAdd 16 e.ver 1 }

/-- A failed LOAD raises its fault, and no standby version is left (R413). -/
theorem tblFail_spec {o : TblOp} (hp : p < 8) (hi : o.id < 16) {code : FaultCode} (h8 : (code.cls == 8) = false) (hn : code.num ≠ 0)
    (s : State) : Raised code islHst (tblFail p o code s) ∧ (partOf (tblFail p o code s) p).tblOp = none ∧
      (partOf (tblFail p o code s) p).tblState = 5 ∧ (partOf (tblFail p o code s) p).tblCode = code.num ∧
      vget (partOf (tblFail p o code s) p).tables o.id {} = { vget (partOf s p).tables o.id {} with standby := none } := by
  unfold tblFail
  extract_lets x e v
  have hv : partOf v p = tableSet (partOf s p) o.id { vget (partOf s p).tables o.id {} with standby := none } :=
    partOf_setPart_self _ hp _
  clear_value v
  obtain ⟨w, q, l, n, y, hraise⟩ := raise_frame (plainFault code islHst (some p)) v
  have hr : partOf (raise (plainFault code islHst (some p)) v) p = partOf v p := by
    rw [hraise]
    rfl
  obtain ⟨⟨g, hg⟩, hsaf, -⟩ := tblEnd_spec hp o code.num (raise (plainFault code islHst (some p)) v)
  rw [hg, hr, hv]
  refine ⟨raised_congr (raise_raised (plainFault code islHst (some p)) v h8 (by change 21 < 24; decide)) hsaf, rfl, if_neg hn, rfl, ?_⟩
  exact vget_vset_self _ _ _ _ hi

/-! ### A partition reset (R395) -/

/-- A core whose words and entries of a record's regions are 0. -/
def coreCleared (p : Nat) (r : List Byte) (c : Nat) (x : Core) : Core :=
  let b := prBasin r c
  let k := prCis r c
  { x with
    basin := smClear (b.1 * 4096) (b.2 * 4096) x.basin
    basinCls := smClear (b.1 * 512) (b.2 * 512) x.basinCls
    basinUp := smClear (b.1 * 512) (b.2 * 512) x.basinUp
    cis := smClear (k.1 * 1024) (k.2 * 1024) x.cis
    cisUp := smClear (k.1 * 1024) (k.2 * 1024) x.cisUp
    wblk := match vget x.ww p none with
      | some w => smClear w.base w.bound x.wblk
      | none => x.wblk }

theorem coreClear_eq (r : List Byte) (s : State) (c : Nat) : coreClear p r s c = modCore c (coreCleared p r c) s := rfl

theorem foldl_modCore (f : Nat → Core → Core) (l : List Nat) (s : State) : l.foldl (fun v c => modCore c (f c) v) s =
    { s with kc := l.foldl (fun v c => vmod v c {} (f c)) s.kc } := by
  induction l generalizing s with
  | nil => rfl
  | cons c l ih =>
    rw [List.foldl_cons, ih]
    rfl

theorem foldl_coreClear (r : List Byte) (l : List Nat) (s : State) : l.foldl (coreClear p r) s =
    { s with kc := l.foldl (fun v c => vmod v c {} (coreCleared p r c)) s.kc } := foldl_modCore (coreCleared p r) l s

theorem foldl_coreClear_frame (r : List Byte) (l : List Nat) (s : State) :
    (l.foldl (coreClear p r) s).hst = s.hst ∧ (l.foldl (coreClear p r) s).parts = s.parts ∧
      (l.foldl (coreClear p r) s).sems = s.sems := by
  rw [foldl_coreClear]
  exact ⟨rfl, rfl, rfl⟩

theorem coreOf_coreClears (r : List Byte) {l : List Nat} (hl : ∀ c ∈ l, c < 16) (hd : l.Nodup) (s : State) (c : Nat) :
    coreOf (l.foldl (coreClear p r) s) c = if c ∈ l then coreCleared p r c (coreOf s c) else coreOf s c := by
  rw [foldl_coreClear]
  unfold coreOf
  split
  next hc => rw [vget_foldl_in _ _ _ _ _ hc hd (hl c hc)]
  next hc => rw [vget_foldl_out _ _ _ _ _ hc]

/-- A partition after its reset. -/
def partIdle (x : Part) : Part := { x with reset := none, gens := [], preCnt := 0, restartCnt := 0, fltCode := 0 }

/-- The memories and semaphores of an enabled partition are cleared. -/
def memCleared (p : Nat) (s : State) : State :=
  if prEn (recOf s p) then (List.range 16).foldl (coreClear p (recOf s p)) (clearSems (prSems (recOf s p)) s) else s

/-- A reset clears the partition's memories; its record, the jobs and the other partitions stand. -/
theorem partClear_frame (p : Nat) (s : State) :
    (partClear p s).kc = (memCleared p s).kc ∧ (partClear p s).sems = (memCleared p s).sems ∧
      (partClear p s).hst = (memCleared p s).hst ∧
      (partClear p s).parts = vset (memCleared p s).parts p (partIdle (partOf (memCleared p s) p)) := by
  unfold partClear
  extract_lets r t _ u v _ w
  have ht : t = memCleared p s := rfl
  clear_value t
  obtain ⟨a, b, e, f, j, g, tb, n, h⟩ := setWhy_frame (w.saf.why &&& ~~~(1#16 <<< p)) 0x0D08 w.tb.master w
  rw [clearReason, h, ← ht]
  exact ⟨rfl, rfl, rfl, rfl⟩

theorem memCleared_off (h : prEn (recOf s p) = false) : memCleared p s = s := by
  rw [memCleared, h]
  rfl

theorem memCleared_on (h : prEn (recOf s p) = true) :
    memCleared p s = (List.range 16).foldl (coreClear p (recOf s p)) (clearSems (prSems (recOf s p)) s) := if_pos h

theorem clearSems_frame (m : Nat) (s : State) :
    ∃ v, clearSems m s = { s with sems := v } ∧ ∀ i < 64, vget v i 0 = if bitOf m i then 0 else vget s.sems i 0 :=
  ⟨_, rfl, fun i hi => vget_vmap s.sems 0 (fun i v => if bitOf m i then 0 else v) i hi⟩

theorem memCleared_frame (p : Nat) (s : State) : (memCleared p s).hst = s.hst ∧ (memCleared p s).parts = s.parts := by
  cases h : prEn (recOf s p) with
  | false =>
    rw [memCleared_off h]
    exact ⟨rfl, rfl⟩
  | true =>
    obtain ⟨v, hv, -⟩ := clearSems_frame (prSems (recOf s p)) s
    obtain ⟨hhst, hparts, -⟩ := foldl_coreClear_frame (p := p) (recOf s p) (List.range 16) { s with sems := v }
    rw [memCleared_on h, hv]
    exact ⟨hhst, hparts⟩

theorem memCleared_core (p : Nat) (s : State) (c : Nat) : coreOf (memCleared p s) c =
    if prEn (recOf s p) = true ∧ c < 16 then coreCleared p (recOf s p) c (coreOf s c) else coreOf s c := by
  cases h : prEn (recOf s p) with
  | false =>
    rw [memCleared_off h]
    simp
  | true =>
    obtain ⟨v, hv, -⟩ := clearSems_frame (prSems (recOf s p)) s
    rw [memCleared_on h, hv, coreOf_coreClears (recOf s p) (fun c hc => List.mem_range.mp hc) List.nodup_range]
    simp only [List.mem_range, true_and]
    rfl

theorem memCleared_sems (he : prEn (recOf s p) = true) {i : Nat} (hi : i < 64) :
    vget (memCleared p s).sems i 0 = if bitOf (prSems (recOf s p)) i then 0 else vget s.sems i 0 := by
  obtain ⟨v, hv, hget⟩ := clearSems_frame (prSems (recOf s p)) s
  obtain ⟨-, -, hsems⟩ := foldl_coreClear_frame (p := p) (recOf s p) (List.range 16) { s with sems := v }
  rw [memCleared_on he, hv, hsems]
  exact hget i hi

end

end Sys2Proof.Machine

namespace Sys2Proof.Proofs
open Sys2Proof.Machine

/-- A table command, by its operation (R412). -/
def TableCommand (cmd : Requester → Fin 8 → Nat → Instr) : Prop :=
  ∀ r p v s, exec (cmd r p v) s = .next (tblCmd r p.val v s)

/-- What a table command does: it is ignored beside another, refused with its code, or accepted with one completion slot
reserved. -/
theorem tableCommand_asks (cmd : Requester → Fin 8 → Nat → Instr) {op : Nat} (hop : op ≠ 0) (hcmd : TableCommand cmd)
    (s : State) (h : Fin 4) (p : Fin 8) (v : Nat) (hl : linked s (.host h) = true) (hr : isReady s = true) (_ : s.saf.latch = false)
    (ho : ownerOf (partOf s p.val) = some h.val) (hv : v % 4 = op) :
    let x := partOf s p.val
    let id := bits v 8 4
    let k := tblRefusal s p.val op id
    (x.tblOp.isSome → exec (cmd (.host h) p v) s = .next (ignWrite (.host h) s)) ∧
    (x.tblOp = none → k ≠ 0 → Completes (cmd (.host h) p v) s fun t =>
      t = setPart p.val { x with tblState := 6, tblId := id, tblCode := k } s) ∧
    (x.tblOp = none → k = 0 → Completes (cmd (.host h) p v) s fun t =>
      (∃ o, (partOf t p.val).tblOp = some o ∧ o.op = op ∧ o.id = id ∧ o.len = mmuReg s p.val 0x10110 ∧
        o.crc = mmuReg s p.val 0x10114 ∧ o.waits = if op = 1 then [] else admittedRefs s p.val) ∧
      (partOf t p.val).tblPause = (op != 1) ∧ (partOf t p.val).tables = x.tables ∧
      (ringsOf t p.val).cqRsv = (ringsOf s p.val).cqRsv + 1 ∧ (∀ q, q ≠ p.val → partOf t q = partOf s q) ∧
      { t with parts := s.parts } = s) := by
  subst hv
  refine ⟨fun hb => ?_, fun hb hk => ?_, fun hb hk => ?_⟩
  · rw [hcmd, tblCmd_busy hl hr ho hb]
  · exact ⟨_, (hcmd _ _ _ _).trans (congrArg Host.Outcome.next (tblCmd_refused hl hr ho hop hb hk)), rfl⟩
  · refine ⟨_, (hcmd _ _ _ _).trans (congrArg Host.Outcome.next (tblCmd_accepted hl hr ho hop hb hk)), ?_⟩
    have hpart : partOf (setPart p.val (tblAccepted s p.val v) s) p.val = tblAccepted s p.val v := partOf_setPart_self _ p.isLt _
    dsimp only
    rw [ringsOf, hpart]
    exact ⟨⟨_, rfl, rfl, rfl, rfl, rfl, rfl⟩, rfl, rfl, rfl, fun q hq => partOf_setPart_ne _ (Ne.symm hq) _, rfl⟩

/-- Settles O57: refills and slots by `exec_sluiceRefill` and `frameBudget_get`, the owner's commands by the gates they pass,
the end of a table operation by `tblEnd_spec` and `tblFail_spec`, a partition reset by `partClear_frame`. -/
theorem partitionsAndTables : Obligations.PartitionsAndTables := by
  unfold Obligations.PartitionsAndTables
  refine ⟨?refill, ?slot, ?translation, ?copyEnd, ?tableCmd, ?loadEnd, ?pauseEnd, ?resetClear⟩
  case refill =>
    intro s
    obtain ⟨v, hrun, hv⟩ := exec_sluiceRefill s
    have hpart : ∀ p < 8, partOf { s with parts := v, sluiceUs := s.tb.master / 1000 } p =
        bucketsFilled (s.tb.master / 1000 - s.sluiceUs) (budgetOf s p) (partOf s p) := hv
    refine ⟨_, hrun, fun p hp ch hch => ?_, fun p hp => ?_, rfl, rfl⟩
    · rw [hpart p hp, bucketsFilled_mem _ _ _ hch]
    · rw [hpart p hp]
      exact bucketsFilled_rest _ _ _
  case slot =>
    intro s
    have hslot : s.tb.master % 1000000 / 15625 < 64 := by omega
    refine ⟨_, rfl, ?_⟩
    dsimp only
    split
    next hne => exact ⟨rfl, hslot, rfl, fun heq => absurd heq hne, fun _ e he => frameBudget_get s he, rfl⟩
    next heq => exact ⟨rfl, hslot, (not_ne_iff.mp heq).symm, fun _ => rfl, fun hne => absurd rfl hne, rfl⟩
  case translation =>
    intro s h p hl hr _ ho x src dst len
    refine ⟨fun hc => ⟨?_, ?_⟩, fun hc => ?_, fun hc hk => ?_, fun hc hk => ?_⟩
    · exact congrArg Host.Outcome.next (mmuGate_busy hl hr ho _ hc)
    · exact congrArg Host.Outcome.next (mmuGate_busy hl hr ho _ hc)
    · refine ⟨_, congrArg Host.Outcome.next (mmuGate_idle hl hr ho _ hc), fun e he => ?_, fun e he hne => ?_, rfl⟩
      · obtain ⟨hmem, hne⟩ := List.mem_filter.mp he
        exact ⟨bne_iff_ne.mp hne, hmem⟩
      · exact List.mem_filter.mpr ⟨he, bne_iff_ne.mpr hne⟩
    · exact ⟨_, congrArg Host.Outcome.next ((mmuGate_idle hl hr ho _ hc).trans (if_pos hk)), rfl⟩
    · exact ⟨_, congrArg Host.Outcome.next ((mmuGate_idle hl hr ho _ hc).trans (if_neg hk)), rfl⟩
  case copyEnd =>
    intro s p hr hc
    obtain ⟨⟨src, dst, len, done⟩, hcopy⟩ := Option.isSome_iff_exists.mp hc
    refine ⟨?_, fun d => ?_⟩
    · have hrun : exec (.mmuCopyComplete p .err) s =
          .next (setPart p.val { partOf s p.val with mmuCopy := none, mmuState := 3, mmuRej := 4 } s) := by
        simp [exec, execMmuCopyComplete, hcopy, hr]
      exact (completes_iff hrun).mpr rfl
    · obtain ⟨u, hu⟩ : ∃ u, u = deviceLines p.val dst (chunk64 (len / 64) (slice d 0 len)) s := ⟨_, rfl⟩
      have hrun : exec (.mmuCopyComplete p (.ok d)) s =
          .next (tcInval p.val (setPart p.val { partOf u p.val with mmuCopy := none, mmuState := 2 } u)) := by
        simp [exec, execMmuCopyComplete, hcopy, hr, hu]
      refine (completes_iff hrun).mpr ?_
      have hpart : partOf (tcInval p.val (setPart p.val { partOf u p.val with mmuCopy := none, mmuState := 2 } u)) p.val =
          { partOf u p.val with mmuCopy := none, mmuState := 2 } := partOf_setPart_self _ p.isLt _
      rw [hpart]
      exact ⟨rfl, rfl, fun e he => bne_iff_ne.mp (List.mem_filter.mp he).2⟩
  case tableCmd =>
    exact ⟨tableCommand_asks .tableLoad (by decide) fun _ _ _ _ => rfl, tableCommand_asks .tableSwap (by decide) fun _ _ _ _ => rfl,
      tableCommand_asks .tableDrop (by decide) fun _ _ _ _ => rfl⟩
  case loadEnd =>
    intro s p o hr ho h1 hi
    have hgo : (!isReady s || o.op != 1) = false := by simp [hr, h1]
    refine ⟨?failed, fun d hbad => ?shape, ?loaded⟩
    case failed =>
      obtain ⟨hraised, hop, hst, hcode, htab⟩ := tblFail_spec (p := p.val) (code := .load 0x13) p.isLt hi (load_cls 0x13) (by decide) s
      have hrun : exec (.tableLoadComplete p .err) s = .next (tblFail p.val o (.load 0x13) s) := by
        simp [exec, execTableLoadComplete, ho, hr, h1]
      exact (completes_iff hrun).mpr ⟨hraised, hop, hst, hcode, htab⟩
    case shape =>
      obtain ⟨hraised, hop, hst, -, htab⟩ := tblFail_spec (p := p.val) (code := .tableBad) p.isLt hi rfl (by decide) s
      have hrun : exec (.tableLoadComplete p (.ok d)) s = .next (tblFail p.val o .tableBad s) := by
        simp [exec, execTableLoadComplete, ho, hr, h1, hbad]
      exact (completes_iff hrun).mpr ⟨hraised, hop, hst, htab⟩
    case loaded =>
      intro d w hok x b hcopy hcrc hshards
      have hrun : exec (.tableLoadComplete p (.ok d)) s = .next (tblEnd p.val o 0 (setPart p.val (tableSet (partOf w p.val) o.id
          { vget (partOf w p.val).tables o.id {} with standby := some ⟨o.dst, o.shards, o.shstride, o.len⟩ }) w)) := by
        simp only [x, b, ho] at hcopy hcrc hshards
        simp only [exec, execTableLoadComplete, ho, hgo, hok, Bool.false_eq_true, if_false, hcopy, hcrc, hshards, and_self, if_true]
        rfl
      refine (completes_iff hrun).mpr ?_
      obtain ⟨⟨g, hg⟩, -, hkc⟩ := tblEnd_spec p.isLt o 0 (setPart p.val (tableSet (partOf w p.val) o.id
          { vget (partOf w p.val).tables o.id {} with standby := some ⟨o.dst, o.shards, o.shstride, o.len⟩ }) w)
      rw [hg, partOf_setPart_self _ p.isLt]
      exact ⟨rfl, rfl, rfl, vget_vset_self _ _ _ _ hi, hkc⟩
  case pauseEnd =>
    intro s p o hr ho hop hi e
    refine ⟨fun hw => ?_, fun hw => ?_⟩
    · simp [exec, execTablePauseEnd, ho, hw]
    · have hrun : exec (.tablePauseEnd p) s = .next (tblEnd p.val o 0 (setPart p.val
          { tableSet (partOf s p.val) o.id (entryEnded o.op e) with tblPause := false } s)) := by
        simp [exec, execTablePauseEnd, tableSet, entryEnded, ho, hr, hw, hop, e]
      refine (completes_iff hrun).mpr ?_
      obtain ⟨⟨g, hg⟩, -, -⟩ := tblEnd_spec p.isLt o 0 (setPart p.val
          { tableSet (partOf s p.val) o.id (entryEnded o.op e) with tblPause := false } s)
      rw [hg, partOf_setPart_self _ p.isLt]
      exact ⟨vget_vset_self _ _ _ _ hi, rfl, rfl, rfl⟩
  case resetClear =>
    intro s p since hreset
    refine ⟨fun hlt => ?_, fun hge hjobs => ?_⟩
    · simp [exec, execPartitionResetClear, hreset, show ¬ since + 1000000 ≤ s.tb.master by omega]
    · have hall : (liveJobs s p.val).all (fun e => e.2.st == .done || e.2.st == .failed) = true :=
        List.all_eq_true.mpr fun e he => by simpa using hjobs e he
      have hrun : exec (.partitionResetClear p) s = .next (partClear p.val s) := by
        simp [exec, execPartitionResetClear, hreset, hall, hge]
      refine (completes_iff hrun).mpr ?_
      obtain ⟨hkc, hsems, hhst, hparts⟩ := partClear_frame p.val s
      obtain ⟨hmhst, hmparts⟩ := memCleared_frame p.val s
      have hpart : partOf (partClear p.val s) p.val = partIdle (partOf s p.val) := by
        rw [partOf, hparts, partOf_congr hmparts]
        exact vget_vset_self _ _ _ _ p.isLt
      have hcore : ∀ c, coreOf (partClear p.val s) c = coreOf (memCleared p.val s) c := coreOf_congr hkc
      have hin : ∀ c, c < 16 → prEn (recOf s p.val) = true →
          coreOf (partClear p.val s) c = coreCleared p.val (recOf s p.val) c (coreOf s c) := fun c hc he => by
        rw [hcore, memCleared_core, if_pos ⟨he, hc⟩]
      refine ⟨?_, ?_, fun he => ?_, fun he => ⟨fun c hc a hlo hhi => ?_, fun c hc a ha => ?_, fun c hc e hlo hhi => ?_, fun i hi => ?_⟩,
        hhst.trans hmhst, fun c => ?_⟩
      · rw [hpart]
        rfl
      · rw [recOf, hpart]
        rfl
      · have hm := memCleared_off he
        exact ⟨hkc.trans (congrArg State.kc hm), hsems.trans (congrArg State.sems hm)⟩
      · rw [hin c hc he]
        exact smGet_clear_in _ _ _ _ _ ⟨hlo, hhi⟩
      · rw [hin c hc he]
        exact smGet_clear_out _ _ _ _ _ (by omega)
      · rw [hin c hc he]
        exact smGet_clear_in _ _ _ _ _ ⟨hlo, hhi⟩
      · rw [hsems]
        exact memCleared_sems he hi
      · rw [hcore, memCleared_core]
        split
        · exact ⟨rfl, rfl⟩
        · exact ⟨rfl, rfl⟩

end Sys2Proof.Proofs

/-! ## What DMA commands leave -/

namespace Sys2Proof.Machine

section
variable {s t u v : State} {c line n m : Nat} {f g : Nat → Byte}

/-! ### Open lines (R163, R171) -/

theorem linesOpen_congr {x y : Core} {w : List Word} {write : Bool} (h : LinesOpen x w line n write)
    (hy : ∃ o k j, y = { x with basin := o, basinCls := k, basinUp := j }) : LinesOpen y w line n write := by
  obtain ⟨o, k, j, rfl⟩ := hy
  exact h

/-- Part of some open lines. -/
theorem linesOpen_sub {x : Core} {w : List Word} {write : Bool} (h : LinesOpen x w line n write) (i k : Nat) (hk : i + k ≤ n) :
    LinesOpen x w (line + i) k write := by
  obtain ⟨hopen, hring⟩ := h
  refine ⟨fun j hj => ?_, hring⟩
  have hline := hopen (i + j) (by omega)
  rwa [← Nat.add_assoc line, show taskLine x + line + (i + j) = taskLine x + (line + i) + j by omega] at hline

/-- The lines that stand open stand open when work begins. -/
theorem IssueStep.linesOpen {r : CtxRun} (h : IssueStep c r s t) (hr : r.rings = (coreOf s c).run.rings) {w : List Word}
    {write : Bool} (hl : LinesOpen (coreOf s c) w line n write) : LinesOpen (coreOf t c) w line n write := by
  obtain ⟨hopen, hring⟩ := hl
  refine ⟨fun i hi => ?_, fun j => ?_⟩
  · have hline := hopen i hi
    rwa [h.field relocLine (fun _ _ _ _ => rfl), h.field taskLine (fun _ _ _ _ => rfl), h.field winOf (fun _ _ _ _ => rfl)]
  · rw [h.run (fun r => r.rings) (fun _ _ _ => rfl), hr]
    exact hring j

/-- An engine writes an open line. -/
theorem basinWriteLine_open {a : Acc} (hc : a.c < 16) (hl : LinesOpen (coreOf s a.c) a.w line 1 true) (bs : List Byte) :
    engRun (basinWriteLine a line 0 bs) s = (.ok (), modCore a.c (basinStore ((taskLine (coreOf s a.c) + line) * 64) bs) s) := by
  obtain ⟨hopen, hring⟩ := hl
  obtain ⟨hreloc, hdecl, hwin⟩ := hopen 0 Nat.one_pos
  simp only [Nat.add_zero] at hreloc hdecl hwin
  obtain ⟨hpre, -⟩ := rings_open hring line true
  have hring' : ∀ r, vget (coreOf (modCore a.c (basinStore ((taskLine (coreOf s a.c) + line) * 64) bs) s) a.c).run.rings r none = none := by
    rw [coreOf_modCore_self _ hc]
    exact hring
  obtain ⟨-, hpost⟩ := rings_open hring' line true
  unfold basinWriteLine
  rw [engRun_get_bind]
  simp only [hreloc, hdecl, hwin, Bool.not_true, Option.isSome_none, Bool.false_eq_true, if_false]
  rw [engRun_bind_ok hpre, engRun_modify_bind]
  exact hpost

/-! ### What stores of lines leave -/

/-- From `s` to `t`, core `c` changes its Basin alone, where `n` bytes from `a` become `f`, and no word gains an error. -/
structure Stored (c : Nat) (s t : State) (a n : Nat) (f : Nat → Byte) : Prop where
  others : ∀ e, e ≠ c → coreOf t e = coreOf s e
  core : ∃ m k j, coreOf t c = { coreOf s c with basin := m, basinCls := k, basinUp := j }
  bytes : BasinBecomes (coreOf s c) (coreOf t c) a n f
  clean : (∀ k, smGet upZero (coreOf s c).basinUp k = 0) → ∀ k, smGet upZero (coreOf t c).basinUp k = 0

theorem Stored.none (h : ∀ e, coreOf t e = coreOf s e) (a : Nat) (f : Nat → Byte) : Stored c s t a 0 f := by
  refine ⟨fun e _ => h e, ⟨_, _, _, h c⟩, ⟨fun b hb => absurd hb (Nat.not_lt_zero b), fun k _ => by rw [h]⟩, fun hu => ?_⟩
  rw [h]
  exact hu

/-- Some bytes are stored, and then the ones above them. -/
theorem Stored.above {a : Nat} (h : Stored c s t a n f) (k : Stored c t u (a + n) m fun b => f (n + b)) :
    Stored c s u a (n + m) f := by
  obtain ⟨ho, ⟨m1, k1, j1, h1⟩, ⟨hin, hout⟩, hc⟩ := h
  obtain ⟨ho', ⟨m2, k2, j2, h2⟩, ⟨hin', hout'⟩, hc'⟩ := k
  refine ⟨fun e he => (ho' e he).trans (ho e he), ⟨m2, k2, j2, by rw [h2, h1]⟩, ⟨fun b hb => ?_, fun i hi => ?_⟩, fun hu => hc' (hc hu)⟩
  · by_cases hb' : b < n
    · rw [hout' _ (by omega), hin b hb']
    · have hb := hin' (b - n) (by omega)
      dsimp only at hb
      rwa [show a + n + (b - n) = a + b by omega, show n + (b - n) = b by omega] at hb
  · rw [hout' i (by omega), hout i (by omega)]

/-- Some bytes are stored, and then the ones below them. -/
theorem Stored.below {a : Nat} (h : Stored c s t (a + n) m fun b => f (n + b)) (k : Stored c t u a n f) :
    Stored c s u a (n + m) f := by
  obtain ⟨ho, ⟨m1, k1, j1, h1⟩, ⟨hin, hout⟩, hc⟩ := h
  obtain ⟨ho', ⟨m2, k2, j2, h2⟩, ⟨hin', hout'⟩, hc'⟩ := k
  refine ⟨fun e he => (ho' e he).trans (ho e he), ⟨m2, k2, j2, by rw [h2, h1]⟩, ⟨fun b hb => ?_, fun i hi => ?_⟩, fun hu => hc' (hc hu)⟩
  · by_cases hb' : b < n
    · exact hin' b hb'
    · have hb := hin (b - n) (by omega)
      dsimp only at hb
      rw [show a + n + (b - n) = a + b by omega, show n + (b - n) = b by omega] at hb
      rw [hout' _ (by omega), hb]
  · rw [hout' i (by omega), hout i (by omega)]

theorem Stored.congr {a : Nat} (h : Stored c s t a n f) (hf : ∀ b < n, f b = g b) : Stored c s t a n g := by
  obtain ⟨ho, hcore, ⟨hin, hout⟩, hc⟩ := h
  exact ⟨ho, hcore, ⟨fun b hb => (hin b hb).trans (hf b hb), hout⟩, hc⟩

theorem Stored.linesOpen {a : Nat} (h : Stored c s t a n f) {w : List Word} {write : Bool} (hl : LinesOpen (coreOf s c) w line m write) :
    LinesOpen (coreOf t c) w line m write := linesOpen_congr hl h.core

theorem Stored.taskLine {a : Nat} (h : Stored c s t a n f) : taskLine (coreOf t c) = taskLine (coreOf s c) := by
  obtain ⟨m, k, j, h⟩ := h.core
  rw [h]
  rfl

theorem Stored.run {a : Nat} (h : Stored c s t a n f) : (coreOf t c).run = (coreOf s c).run := by
  obtain ⟨m, k, j, h⟩ := h.core
  rw [h]

/-- A store leaves no word of a clean Basin in error. -/
theorem upZero_stored (ks : List Nat) (o : SMap Nat) (h : ∀ k, smGet upZero o k = 0) (i : Nat) :
    smGet upZero (ks.foldl (fun m k => smSet upZero m k 0) o) i = 0 :=
  foldl_keeps (P := fun m : SMap Nat => ∀ k, smGet upZero m k = 0) (fun m k hm j => by
    by_cases hj : j = k
    · rw [hj, smGet_set_self]
    · rw [smGet_set_ne _ _ hj, hm]) ks h i

theorem basinStore_stored (hc : c < 16) (l : Nat) {bs : List Byte} (hb : bs.length = n) (s : State) :
    Stored c s (modCore c (basinStore l bs) s) l n fun b => bs.getD b 0 := by
  refine ⟨fun e he => coreOf_modCore_ne _ he, ⟨_, _, _, coreOf_modCore_self _ hc⟩, ⟨fun b hb' => ?_, fun k hk => ?_⟩, fun hu k => ?_⟩
  · rw [coreOf_modCore_self _ hc]
    have hlt : b < bs.length := by omega
    exact (smGet_setList_in byteZero bs _ l b hlt).trans (by simp [List.getD_eq_getElem?_getD, hlt])
  · rw [coreOf_modCore_self _ hc]
    exact smGet_setList_out byteZero bs _ l k (by omega)
  · rw [coreOf_modCore_self _ hc]
    exact upZero_stored _ _ hu k

theorem coreOf_deBytes (c k : Nat) (s : State) (e : Nat) : coreOf (deBytes c k s) e = coreOf s e := by
  obtain ⟨g, hg⟩ := deBytes_frame c k s
  rw [hg, coreOf_regs]

/-- The DE counts a line and writes it. -/
theorem lineWrite_stored {a : Acc} (hc : a.c < 16) (hl : LinesOpen (coreOf s a.c) a.w line 1 true) {bs : List Byte}
    (hb : bs.length = 64) : ∃ t, engRun (basinWriteLine a line 0 bs) (deBytes a.c 64 s) = (.ok (), t) ∧
      Stored a.c s t ((taskLine (coreOf s a.c) + line) * 64) 64 fun b => bs.getD b 0 := by
  have hl' : LinesOpen (coreOf (deBytes a.c 64 s) a.c) a.w line 1 true := by rwa [coreOf_deBytes]
  refine ⟨_, basinWriteLine_open hc hl' bs, ?_⟩
  rw [coreOf_deBytes]
  have h := basinStore_stored hc ((Sys2Proof.taskLine (coreOf s a.c) + line) * 64) hb (deBytes a.c 64 s)
  obtain ⟨ho, hcore, hbytes, hclean⟩ := h
  rw [coreOf_deBytes] at hcore hbytes hclean
  exact ⟨fun e he => (ho e he).trans (coreOf_deBytes _ _ _ _), hcore, hbytes, hclean⟩

/-! ### FILL (R181) -/

/-- FILL of open Basin lines leaves its pattern there. -/
theorem fillLines_stored {a : Acc} (hc : a.c < 16) {pat : List Byte} (hp : pat.length = 64) (hf : ∀ b < 64, pat.getD b 0 = f b)
    (hper : ∀ b, f (64 + b) = f b) (n : Nat) {line : Nat} {s : State} (hl : LinesOpen (coreOf s a.c) a.w line n true) :
    ∃ t, engRun (fillLines a false pat line n) s = (.ok (), t) ∧
      Stored a.c s t ((taskLine (coreOf s a.c) + line) * 64) (64 * n) f := by
  induction n generalizing line s with
  | zero => exact ⟨s, rfl, .none (fun _ => rfl) _ _⟩
  | succ n ih =>
    obtain ⟨t, ht, hst⟩ := lineWrite_stored hc (linesOpen_sub hl 0 1 (by omega)) hp
    have hst := hst.congr hf
    obtain ⟨u, hu, hsu⟩ := ih (hst.linesOpen (linesOpen_sub hl 1 n (by omega)))
    refine ⟨u, ?_, ?_⟩
    · unfold fillLines
      rw [engRun_modify_bind]
      simp only [Bool.false_eq_true, if_false]
      exact (engRun_bind_ok ht _).trans hu
    · have haddr : (taskLine (coreOf t a.c) + (line + 1)) * 64 = (taskLine (coreOf s a.c) + line) * 64 + 64 := by
        rw [hst.taskLine]
        omega
      rw [haddr] at hsu
      rw [show 64 * (n + 1) = 64 + 64 * n by omega]
      exact hst.above (hsu.congr fun b _ => (hper b).symm)

theorem deShape_ok {a : Acc} (h : opRangeOk 64 a.w = true) (s : State) : engRun (deShape a) s = (.ok (), s) := by
  unfold deShape
  rw [h]
  rfl

theorem opRangeOk_free {w : List Word} {opc : Nat} (h : wbits w 0 0 8 = opc) (ho : opc = 0x61 ∨ opc = 0x62) : opRangeOk 64 w = true := by
  unfold opRangeOk
  obtain rfl | rfl := ho
  all_goals simp [h]

/-- The 64-bit pattern of a FILL, repeated. -/
def fillPattern (w : List Word) : List Byte := leBytes 4 (wbits w 13 0 32) ++ leBytes 4 (wbits w 14 0 32)

theorem fillPattern_repeat (w : List Word) : (List.replicate 8 (fillPattern w)).flatten.length = 64 ∧
    ∀ b < 64, (List.replicate 8 (fillPattern w)).flatten.getD b 0 = (fillPattern w).getD (b % 8) 0 := by
  have hlen : (fillPattern w).length = 8 := by simp [fillPattern, leBytes_length]
  obtain ⟨b0, b1, b2, b3, b4, b5, b6, b7, hp⟩ : ∃ b0 b1 b2 b3 b4 b5 b6 b7, fillPattern w = [b0, b1, b2, b3, b4, b5, b6, b7] := by
    match fillPattern w, hlen with
    | [b0, b1, b2, b3, b4, b5, b6, b7], _ => exact ⟨b0, b1, b2, b3, b4, b5, b6, b7, rfl⟩
  rw [hp]
  refine ⟨rfl, fun b hb => ?_⟩
  interval_cases b <;> rfl

/-- FILL's work on open Basin lines. -/
theorem deFill_stored (hc : c < 16) {w : List Word} (hop : wbits w 0 0 8 = 0x61) (hsp : wbits w 0 12 1 = 0)
    (hl : LinesOpen (coreOf s c) w (wbits w 11 0 17) (wbits w 12 0 18) true) (f : Flight) :
    ∃ t, engRun (deFill ⟨c, 3, w⟩ f) s = (.ok { f with done := true }, modRun c (releaseReads f.d.commit) t) ∧
      Stored c s t ((taskLine (coreOf s c) + wbits w 11 0 17) * 64) (64 * wbits w 12 0 18) fun b => (fillPattern w).getD (b % 8) 0 := by
  obtain ⟨hlen, hpat⟩ := fillPattern_repeat w
  obtain ⟨t, ht, hst⟩ := fillLines_stored (a := ⟨c, 3, w⟩) hc hlen hpat (fun b => by rw [show (64 + b) % 8 = b % 8 by omega]) _ hl
  refine ⟨t, ?_, hst⟩
  unfold deFill
  rw [engRun_bind_ok (deShape_ok (opRangeOk_free hop (.inl rfl)) s)]
  simp only [hsp, Nat.zero_ne_one, decide_false, if_false]
  exact engRun_bind_ok ht _

/-! ### COPY (R182) -/

/-- Byte `b` of the Basin from physical address `a`. -/
def basinFrom (s : State) (c a : Nat) (b : Nat) : Byte := smGet byteZero (coreOf s c).basin (a + b)

theorem basinBytes_getD (x : Core) (a : Nat) {n b : Nat} (h : b < n) : (basinBytes x a n).getD b 0 = smGet byteZero x.basin (a + b) := by
  rw [List.getD_eq_getElem?_getD, basinBytes, smGetList_getElem?, if_pos h]
  rfl

/-- One line of a COPY. -/
theorem copyStep_stored {a : Acc} {src dst : Nat} (hc : a.c < 16) (hs : LinesOpen (coreOf s a.c) a.w src 1 false)
    (hd : LinesOpen (coreOf s a.c) a.w dst 1 true) (hu : ∀ k, smGet upZero (coreOf s a.c).basinUp k = 0) :
    ∃ t, engRun (copyStep a src dst) s = (.ok (), t) ∧ Stored a.c s t ((taskLine (coreOf s a.c) + dst) * 64) 64
      (basinFrom s a.c ((taskLine (coreOf s a.c) + src) * 64)) := by
  obtain ⟨hopen, hring⟩ := hs
  obtain ⟨hreloc, hdecl, hwin⟩ := hopen 0 Nat.one_pos
  simp only [Nat.add_zero] at hreloc hdecl hwin
  have hread := basinRead_open hreloc hdecl hwin hring hu
  obtain ⟨t, ht, hst⟩ := lineWrite_stored hc hd (smGetList_length byteZero (coreOf s a.c).basin ((taskLine (coreOf s a.c) + src) * 64) 64)
  refine ⟨t, ?_, hst.congr fun b hb => basinBytes_getD _ _ hb⟩
  unfold copyStep
  rw [engRun_bind_ok hread, engRun_modify_bind]
  exact ht

/-- Upward, no line of the source is overwritten before it is read. -/
theorem copyUp_stored {a : Acc} {src dst : Nat} (hc : a.c < 16) (hle : dst ≤ src) (n k : Nat) {s : State}
    (hs : LinesOpen (coreOf s a.c) a.w (src + k) n false) (hd : LinesOpen (coreOf s a.c) a.w (dst + k) n true)
    (hu : ∀ k, smGet upZero (coreOf s a.c).basinUp k = 0) :
    ∃ t, engRun (copyUp a src dst k n) s = (.ok (), t) ∧ Stored a.c s t ((taskLine (coreOf s a.c) + (dst + k)) * 64) (64 * n)
      (basinFrom s a.c ((taskLine (coreOf s a.c) + (src + k)) * 64)) := by
  induction n generalizing k s with
  | zero => exact ⟨s, rfl, .none (fun _ => rfl) _ _⟩
  | succ n ih =>
    obtain ⟨t, ht, hst⟩ := copyStep_stored hc (linesOpen_sub hs 0 1 (by omega)) (linesOpen_sub hd 0 1 (by omega)) hu
    obtain ⟨u, hrun, hsu⟩ := ih (k + 1) (hst.linesOpen (linesOpen_sub hs 1 n (by omega))) (hst.linesOpen (linesOpen_sub hd 1 n (by omega)))
      (hst.clean hu)
    refine ⟨u, ?_, ?_⟩
    · unfold copyUp
      exact (engRun_bind_ok ht _).trans hrun
    · have haddr : (taskLine (coreOf t a.c) + (dst + (k + 1))) * 64 = (taskLine (coreOf s a.c) + (dst + k)) * 64 + 64 := by
        rw [hst.taskLine]
        omega
      rw [haddr, hst.taskLine] at hsu
      rw [show 64 * (n + 1) = 64 + 64 * n by omega]
      refine hst.above (hsu.congr fun b hb => ?_)
      unfold basinFrom
      rw [hst.bytes.2 _ (by omega)]
      congr 1
      omega

/-- Downward alike. -/
theorem copyDown_stored {a : Acc} {src dst : Nat} (hc : a.c < 16) (hlt : src < dst) (n : Nat) {s : State}
    (hs : LinesOpen (coreOf s a.c) a.w src n false) (hd : LinesOpen (coreOf s a.c) a.w dst n true)
    (hu : ∀ k, smGet upZero (coreOf s a.c).basinUp k = 0) :
    ∃ t, engRun (copyDown a src dst n) s = (.ok (), t) ∧ Stored a.c s t ((taskLine (coreOf s a.c) + dst) * 64) (64 * n)
      (basinFrom s a.c ((taskLine (coreOf s a.c) + src) * 64)) := by
  induction n generalizing s with
  | zero => exact ⟨s, rfl, .none (fun _ => rfl) _ _⟩
  | succ n ih =>
    obtain ⟨t, ht, hst⟩ := copyStep_stored hc (linesOpen_sub hs n 1 (by omega)) (linesOpen_sub hd n 1 (by omega)) hu
    obtain ⟨u, hrun, hsu⟩ := ih (hst.linesOpen (linesOpen_sub hs 0 n (by omega))) (hst.linesOpen (linesOpen_sub hd 0 n (by omega)))
      (hst.clean hu)
    refine ⟨u, ?_, ?_⟩
    · unfold copyDown
      exact (engRun_bind_ok ht _).trans hrun
    · rw [hst.taskLine] at hsu
      rw [show (taskLine (coreOf s a.c) + (dst + n)) * 64 = (taskLine (coreOf s a.c) + dst) * 64 + 64 * n by omega] at hst
      rw [show 64 * (n + 1) = 64 * n + 64 by omega]
      refine .below (hst.congr fun b hb => ?_) (hsu.congr fun b hb => ?_)
      · unfold basinFrom
        congr 1
        omega
      · unfold basinFrom
        rw [hst.bytes.2 _ (by omega)]

/-- COPY's work on open lines leaves at the destination what the source held, overlapping or not. -/
theorem deCopy_stored (hc : c < 16) {w : List Word} (hop : wbits w 0 0 8 = 0x62)
    (hs : LinesOpen (coreOf s c) w (wbits w 11 0 17) (wbits w 13 0 18) false)
    (hd : LinesOpen (coreOf s c) w (wbits w 12 0 17) (wbits w 13 0 18) true)
    (hu : ∀ k, smGet upZero (coreOf s c).basinUp k = 0) (f : Flight) :
    ∃ t, engRun (deCopy ⟨c, 3, w⟩ f) s = (.ok { f with done := true }, modRun c (releaseReads f.d.commit) t) ∧
      Stored c s t ((taskLine (coreOf s c) + wbits w 12 0 17) * 64) (64 * wbits w 13 0 18)
        (basinFrom s c ((taskLine (coreOf s c) + wbits w 11 0 17) * 64)) := by
  by_cases hlt : wbits w 11 0 17 < wbits w 12 0 17
  · obtain ⟨t, ht, hst⟩ := copyDown_stored (a := ⟨c, 3, w⟩) hc hlt _ hs hd hu
    refine ⟨t, ?_, hst⟩
    unfold deCopy
    rw [engRun_bind_ok (deShape_ok (opRangeOk_free hop (.inr rfl)) s)]
    simp only [if_pos hlt]
    exact engRun_bind_ok ht _
  · obtain ⟨t, ht, hst⟩ := copyUp_stored (a := ⟨c, 3, w⟩) hc (Nat.le_of_not_lt hlt) (wbits w 13 0 18) 0 hs hd hu
    refine ⟨t, ?_, hst⟩
    unfold deCopy
    rw [engRun_bind_ok (deShape_ok (opRangeOk_free hop (.inr rfl)) s)]
    simp only [if_neg hlt]
    exact engRun_bind_ok ht _

/-! ### A descriptor that issues and stores -/

/-- What a descriptor leaves whose work stores `f` and is done. -/
structure StoreDone (c : Nat) (d : QDesc) (s t : State) (a n : Nat) (f : Nat → Byte) : Prop where
  bytes : BasinBecomes (coreOf s c) (coreOf t c) a n f
  cis : (coreOf t c).cis = (coreOf s c).cis
  dmem : (coreOf t c).dmem = (coreOf s c).dmem
  rings : (coreOf t c).run.rings = (coreOf s c).run.rings
  others : ∀ e, e ≠ c → coreOf t e = coreOf s e

/-- The descriptor's issue, work and end (R157, R158). -/
theorem issue_stored {opc a : Nat} {d : QDesc} (hc : c < 16) (h : Issues s c 3 opc d) {work : Acc → Flight → EngM Flight} {g : Flight}
    (hg : g.d = d)
    (hw : engRun (work ⟨c, 3, d.w⟩ (issuedFlight s c 3 d)) (issuedState s c 3 d) = (.ok g, modRun c (releaseReads d.commit) v))
    (hst : Stored c (issuedState s c 3 d) v a n f) :
    ∃ t, issue c 3 opc work s = t ∧ StoreDone c d s t a n f ∧ g ∈ (coreOf t c).run.flight ∧ t.fab = v.fab ∧
      (coreOf t c).basin = (coreOf v c).basin := by
  have hstep := issued_step hc 3 d s
  have hcc : (coreOf (modRun c (releaseReads d.commit) v) c).run.cc = (coreOf (issuedState s c 3 d) c).run.cc := by
    rw [modRun_run (f := releaseReads _) (fun r => r.cc) hc (fun _ => rfl), hst.run]
  have hfield : ∀ {α : Type} (p : Core → α), (∀ x y, p { x with run := y } = p x) →
      p (coreOf (modRun c (putFlight g) (modRun c (releaseReads d.commit) v)) c) = p (coreOf v c) := fun p hp => by
    rw [modRun_field p hc hp, modRun_field p hc hp]
  refine ⟨_, issue_ok hc (by decide) h hw hcc, ?_, ?_, rfl, hfield (fun x => x.basin) fun _ _ => rfl⟩
  · obtain ⟨m, k, j, hcore⟩ := hst.core
    obtain ⟨hin, hout⟩ := hst.bytes
    refine ⟨⟨fun b hb => ?_, fun i hi => ?_⟩, ?_, ?_, ?_, fun e he => ?_⟩
    · rw [hfield (fun x => x.basin) (fun _ _ => rfl)]
      exact hin b hb
    · rw [hfield (fun x => x.basin) (fun _ _ => rfl), hout i hi, hstep.field (fun x => x.basin) (fun _ _ _ _ => rfl)]
    · rw [hfield (fun x => x.cis) (fun _ _ => rfl), hcore]
      exact hstep.field (fun x => x.cis) (fun _ _ _ _ => rfl) c
    · rw [hfield (fun x => x.dmem) (fun _ _ => rfl), hcore]
      exact hstep.field (fun x => x.dmem) (fun _ _ _ _ => rfl) c
    · rw [modRun_run (f := putFlight _) (fun r => r.rings) hc (fun _ => rfl), modRun_run (f := releaseReads _) (fun r => r.rings) hc (fun _ => rfl),
        hst.run, hstep.run (fun r => r.rings) (fun _ _ _ => rfl)]
      rfl
    · rw [coreOf_modRun_ne he, coreOf_modRun_ne he, hst.others e he, hstep.others e he]
  · refine mem_flight_put (f := issuedFlight s c 3 d) hc ?_ (by rw [hg]; rfl)
    rw [modRun_run (f := releaseReads _) (fun r => r.flight) hc (fun _ => rfl), hst.run]
    exact issuedState_flight hc 3 d s

end

end Sys2Proof.Machine

namespace Sys2Proof.Machine

section
variable {s t u v : State} {c n : Nat}

/-! ### XFER to another core (R186, R190, R191) -/

/-- The remote write of line `k` of an XFER out of the Basin, in place `ord` of the order of issue. -/
def xferReq (s : State) (c commit : Nat) (q : XferF) (k ord : Nat) : RemReq :=
  ⟨c, 3, commit, (ctxOf (coreOf s c)).taggen, (ctxOf (coreOf s c)).part, q.dcore,
    .write (q.daddr + 64 * k) (taskBytes (coreOf s c) (q.saddr + 64 * k) 64), replica s c, ord, 0⟩

/-- From `s` to `t`, remote accesses join their queue and take their places in the order; tokens and registers move beside. -/
def Sent (s t : State) (rs : List RemReq) : Prop :=
  ∃ x g, t = { s with parts := x, regs := g, fab := { s.fab with remote := s.fab.remote ++ rs, next := s.fab.next + rs.length } }

theorem Sent.kc {rs : List RemReq} (h : Sent s t rs) : t.kc = s.kc := by
  obtain ⟨x, g, rfl⟩ := h
  rfl

theorem Sent.trans {rs qs : List RemReq} (h : Sent s t rs) (k : Sent t u qs) : Sent s u (rs ++ qs) := by
  obtain ⟨x, g, rfl⟩ := h
  obtain ⟨y, i, rfl⟩ := k
  exact ⟨y, i, by simp [List.append_assoc, Nat.add_assoc]⟩

theorem Sent.req {rs : List RemReq} (h : Sent s t rs) (c commit : Nat) (q : XferF) (k ord : Nat) :
    xferReq t c commit q k ord = xferReq s c commit q k ord := by
  obtain ⟨x, g, rfl⟩ := h
  rfl

theorem Sent.next {rs : List RemReq} (h : Sent s t rs) : t.fab.next = s.fab.next + rs.length := by
  obtain ⟨x, g, rfl⟩ := h
  rfl

/-- A remote access joins its queue. -/
theorem sendRemote_sent (a : Acc) (commit dst idx : Nat) (op : RemOp) (s : State) : ∃ t, engRun (sendRemote a commit dst idx op) s = (.ok (), t) ∧
    Sent s t [⟨a.c, a.eng, commit, (ctxOf (coreOf s a.c)).taggen, (ctxOf (coreOf s a.c)).part, dst, op, replica s a.c, s.fab.next, idx⟩] := by
  refine ⟨_, rfl, ?_⟩
  obtain ⟨x, g, h⟩ := fabToken_frame (ctxOf (coreOf s a.c)).part s
  rw [h]
  exact ⟨x, g, rfl⟩

/-- One line of an XFER out of the Basin to another core. -/
theorem xferLine_sent {w : List Word} {q : XferF} {k : Nat} (hsp : q.ssp = 0) (hdp : q.dsp = 5) (hal : q.saddr % 64 = 0)
    (hl : LinesOpen (coreOf s c) w (q.saddr / 64 + k) 1 false) (hu : ∀ k, smGet upZero (coreOf s c).basinUp k = 0) (commit : Nat) :
    ∃ t, engRun (xferLine ⟨c, 3, w⟩ commit q k none) s = (.ok 1, t) ∧ Sent s t [xferReq s c commit q k s.fab.next] := by
  obtain ⟨hopen, hring⟩ := hl
  obtain ⟨hreloc, hdecl, hwin⟩ := hopen 0 Nat.one_pos
  simp only [Nat.add_zero] at hreloc hdecl hwin
  have hline : (q.saddr + 64 * k) / 64 = q.saddr / 64 + k := by omega
  have hread := basinRead_open (a := ⟨c, 3, w⟩) hreloc hdecl hwin hring hu
  rw [show (taskLine (coreOf s c) + (q.saddr / 64 + k)) * 64 = taskLine (coreOf s c) * 64 + (q.saddr + 64 * k) by omega] at hread
  obtain ⟨g, hg⟩ := deBytes_frame c 64 s
  obtain ⟨t, ht, hsent⟩ := sendRemote_sent ⟨c, 3, w⟩ commit q.dcore 0
    (.write (q.daddr + 64 * k) (taskBytes (coreOf s c) (q.saddr + 64 * k) 64)) { s with regs := g }
  refine ⟨t, ?_, ?_⟩
  · have hread' : engRun (xferRead ⟨c, 3, w⟩ (ctxOf (coreOf s c)).part 0 (q.saddr + 64 * k)) s =
        (.ok (taskBytes (coreOf s c) (q.saddr + 64 * k) 64), s) := by
      unfold xferRead
      dsimp only
      rw [hline]
      exact hread
    have hdest : xferDest q k = .remote q.dcore (q.daddr + 64 * k) := by
      unfold xferDest
      rw [hdp]
      rfl
    unfold xferLine
    rw [engRun_get_bind]
    simp only [hsp, show ¬ (0 = 5) by decide, if_false]
    rw [engRun_bind_ok hread', hdest]
    unfold xferWrite
    rw [engRun_modify_bind, hg]
    dsimp only
    rw [engRun_bind_ok ht]
    rfl
  · obtain ⟨x, y, h⟩ := hsent
    exact ⟨x, y, h⟩

/-- The lines of an XFER to another core, in order. -/
theorem xferLines_sent {w : List Word} {q : XferF} (hsp : q.ssp = 0) (hdp : q.dsp = 5) (hal : q.saddr % 64 = 0) (commit k0 : Nat)
    (n k : Nat) {s : State} (hl : LinesOpen (coreOf s c) w (q.saddr / 64 + k) n false) (hu : ∀ k, smGet upZero (coreOf s c).basinUp k = 0) :
    ∃ t, engRun (xferLines ⟨c, 3, w⟩ commit q none k0 k n) s = (.ok n, t) ∧
      Sent s t ((List.range n).map fun i => xferReq s c commit q (k + i) (s.fab.next + i)) := by
  induction n generalizing k s with
  | zero => exact ⟨s, rfl, s.parts, s.regs, by simp⟩
  | succ n ih =>
    obtain ⟨t, ht, hsent⟩ := xferLine_sent hsp hdp hal (linesOpen_sub hl 0 1 (by omega)) hu commit
    have hcore : coreOf t c = coreOf s c := coreOf_congr hsent.kc c
    have hrest := linesOpen_sub hl 1 n (by omega)
    rw [← hcore, Nat.add_assoc] at hrest
    obtain ⟨v, hrun, hsv⟩ := ih (k + 1) hrest (by rw [hcore]; exact hu)
    refine ⟨v, ?_, ?_⟩
    · unfold xferLines
      rw [Option.map_none, engRun_bind_ok ht, engRun_bind_ok hrun, Nat.add_comm n 1]
      rfl
    · have hall := hsent.trans hsv
      rw [List.range_succ_eq_map, List.map_cons, List.map_map]
      have hmap : (List.range n).map (fun i => xferReq t c commit q (k + 1 + i) (t.fab.next + i)) =
          (List.range n).map ((fun i => xferReq s c commit q (k + i) (s.fab.next + i)) ∘ Nat.succ) :=
        List.map_congr_left fun i _ => by
          rw [hsent.req, hsent.next]
          simp only [Function.comp_apply, List.length_singleton, Nat.succ_eq_add_one]
          congr 1 <;> omega
      rw [hmap] at hall
      exact hall

/-- XFER's work out of the Basin to another core. -/
theorem deXfer_sent {w : List Word} {q : XferF} (hq : xferOf w = q) (hok : opRangeOk 64 w = true) (hsp : q.ssp = 0) (hdp : q.dsp = 5)
    (hal : q.saddr % 64 = 0) (hn : q.len / 64 = n) (hl : LinesOpen (coreOf s c) w (q.saddr / 64) n false)
    (hu : ∀ k, smGet upZero (coreOf s c).basinUp k = 0) (f : Flight) :
    ∃ t, engRun (deXfer ⟨c, 3, w⟩ f) s = (.ok { f with outst := f.outst + n, done := true }, modRun c (releaseReads f.d.commit) t) ∧
      Sent s t ((List.range n).map fun i => xferReq s c f.d.commit q i (s.fab.next + i)) := by
  obtain ⟨t, ht, hsent⟩ := xferLines_sent hsp hdp hal f.d.commit 0 n 0 hl hu
  simp only [Nat.zero_add] at hsent
  have hhost : (xferHost q && q.len != 0) = false := by simp [xferHost, hsp, hdp]
  have hend : engRun (doneWork ⟨c, 3, w⟩ { f with outst := f.outst + n }) t =
      (.ok { f with outst := f.outst + n, done := true }, modRun c (releaseReads f.d.commit) t) := rfl
  refine ⟨t, ?_, hsent⟩
  unfold deXfer
  rw [engRun_bind_ok (deShape_ok hok s)]
  simp only [hq, hhost, hn, Bool.false_eq_true, if_false]
  rw [engRun_bind_ok ht]
  exact hend

/-- An XFER in range has its source at a line (R314). -/
theorem xfer_aligned {w : List Word} (hop : wbits w 0 0 8 = 0x60) (h : opRangeOk 64 w = true) : (xferOf w).saddr % 64 = 0 := by
  unfold opRangeOk at h
  simp only [hop, Bool.and_eq_true, beq_iff_eq] at h
  obtain ⟨⟨-, hs⟩, -⟩ := h
  have hlow : wbits w 12 0 32 % 64 = wbits w 12 0 6 := by
    unfold wbits bits
    omega
  unfold xferOf
  dsimp only
  omega

/-! ### SELREQ (R275, R377) -/

theorem smGetList_append {α : Type} (d : Nat → α) (o : SMap α) (k m n : Nat) :
    smGetList d o k m ++ smGetList d o (k + m) n = smGetList d o k (m + n) := by
  refine List.ext_getElem? fun i => ?_
  rw [List.getElem?_append, smGetList_length, smGetList_getElem?, smGetList_getElem?, smGetList_getElem?]
  by_cases h : i < m
  · rw [if_pos h, if_pos h, if_pos (by omega)]
  · rw [if_neg h, show k + m + (i - m) = k + i by omega]
    exact if_congr (by omega) rfl rfl

/-- The request block of a SELREQ. -/
def selBlock (x : Core) (u : Nat) : List Byte := basinBytes x ((taskLine x + u) * 64) 128

theorem selBlock_lines (x : Core) (u : Nat) : ((List.range 2).map fun k => lineBytes x (u + k)).flatten = selBlock x u := by
  have h : selBlock x u = lineBytes x u ++ lineBytes x (u + 1) := by
    unfold selBlock lineBytes basinBytes
    rw [show (taskLine x + (u + 1)) * 64 = (taskLine x + u) * 64 + 64 by omega, smGetList_append]
  rw [h]
  simp [List.range_succ]

/-- The request that a SELREQ hands to SEL. -/
def selRequest (s : State) (c commit : Nat) (blk : List Byte) : SelReq :=
  { part := (ctxOf (coreOf s c)).part, slot := (ctxOf (coreOf s c)).slot, taggen := (ctxOf (coreOf s c)).taggen, core := c,
    commit := commit, attempt := (jobOf s (ctxOf (coreOf s c)).slot).attempt, blk := blk, ts := replica s c }

/-- The job's items, one more for a BOXES request. -/
def selCounted (c : Nat) (blk : List Byte) (s : State) : State :=
  if field blk 0 1 == 1 then
    modJob (ctxOf (coreOf s c)).slot (fun j => { j with items := j.items + 1 }) s
  else s

/-- A request reaches SEL. -/
def selHanded (c commit : Nat) (blk : List Byte) (s : State) : State :=
  { selCounted c blk s with sel := { s.sel with arr := s.sel.arr ++ [selRequest s c commit blk] } }

theorem selHanded_frame (c commit : Nat) (blk : List Byte) (s : State) :
    ∃ h, selHanded c commit blk s = { s with hst := h, sel := { s.sel with arr := s.sel.arr ++ [selRequest s c commit blk] } } ∧
      (smGet jobDflt h.jobs (ctxOf (coreOf s c)).slot).items =
        (jobOf s (ctxOf (coreOf s c)).slot).items + if (field blk 0 1 == 1) = true then 1 else 0 := by
  unfold selHanded selCounted modJob
  split
  · exact ⟨_, rfl, congrArg Job.items (jobOf_setJob_self s _ _)⟩
  · exact ⟨_, rfl, rfl⟩

/-- SELREQ's work on open lines. -/
theorem deSelreq_handed {w : List Word} {f : Flight} {x : Core} {j : Job} (hx : coreOf s c = x) (hj : jobOf s (ctxOf x).slot = j)
    (hst : j.st = .running) (hl : LinesOpen x w (wbits w 11 0 17) 2 false) (hu : ∀ k, smGet upZero x.basinUp k = 0)
    (hi : (field (selBlock x (wbits w 11 0 17)) 0 1 == 1) = true → j.items < j.nitem) :
    engRun (deSelreq ⟨c, 3, w⟩ f) s = (.ok { f with selw := true }, selHanded c f.d.commit (selBlock x (wbits w 11 0 17)) s) := by
  subst hx hj
  have hread := basinReadLines_open (a := ⟨c, 3, w⟩) 2 (wbits w 11 0 17) hl hu
  unfold deSelreq
  rw [engRun_bind_ok hread, engRun_get_bind]
  simp only [selBlock_lines]
  generalize hb : selBlock (coreOf s c) (wbits w 11 0 17) = blk at hi ⊢
  have hlive : ¬ ((jobOf s (ctxOf (coreOf s c)).slot).st = .draining ∧ (!(jobOf s (ctxOf (coreOf s c)).slot).abortTo.contains 32) = true) := by
    rw [hst]
    exact fun h => absurd h.1 (by decide)
  unfold selHanded selCounted
  by_cases hbox : (field blk 0 1 == 1) = true
  · simp only [hbox, if_true]
    rw [if_neg (Nat.not_le_of_lt (hi hbox))]
    simp only [if_neg hlive]
    rfl
  · simp only [hbox, if_neg hlive]
    rfl

/-! ### What stands when work begins -/

theorem IssueStep.hst {r : CtxRun} (h : IssueStep c r s t) : t.hst = s.hst := by
  obtain ⟨⟨k, m, g, a, l, q, rfl⟩, -, -⟩ := h
  rfl

theorem IssueStep.sel {r : CtxRun} (h : IssueStep c r s t) : t.sel = s.sel := by
  obtain ⟨⟨k, m, g, a, l, q, rfl⟩, -, -⟩ := h
  rfl

theorem IssueStep.taskBytes {r : CtxRun} (h : IssueStep c r s t) (off n : Nat) : taskBytes (coreOf t c) off n = taskBytes (coreOf s c) off n :=
  h.field (fun x => Sys2Proof.taskBytes x off n) (fun _ _ _ _ => rfl) c

theorem IssueStep.xferReq {r : CtxRun} (h : IssueStep c r s t) (commit : Nat) (q : XferF) (k ord : Nat) :
    xferReq t c commit q k ord = xferReq s c commit q k ord := by
  unfold Machine.xferReq
  rw [h.ctxOf, h.taskBytes, h.replica]

theorem IssueStep.selRequest {r : CtxRun} (h : IssueStep c r s t) (commit : Nat) (blk : List Byte) :
    selRequest t c commit blk = selRequest s c commit blk := by
  unfold Machine.selRequest jobOf
  rw [h.ctxOf, h.hst, h.replica]

theorem IssueStep.selBlock {r : CtxRun} (h : IssueStep c r s t) (k : Nat) : selBlock (coreOf t c) k = selBlock (coreOf s c) k :=
  h.field (fun x => Machine.selBlock x k) (fun _ _ _ _ => rfl) c

/-! ### WLOAD (R185, R186) -/

theorem engRun_bind_error {α β : Type} {m : EngM β} {e : Stop} (h : engRun m s = (.error e, t)) (f : β → EngM α) :
    engRun (m >>= f) s = (.error e, t) := by
  change (ExceptT.bindCont f (engRun m s).1 : StateM State _) (engRun m s).2 = _
  rw [h]
  rfl

theorem runWork_fault {f : Flight} {work : Acc → Flight → EngM Flight} {code : FaultCode} {idx : Nat}
    (h : engRun (work ⟨c, f.eng, f.d.w⟩ f) s = (.error (.fault code idx), t)) : runWork c f work s = failFlight c f code idx t := by
  unfold runWork
  rw [h]

theorem engRun_liftX_ok {α : Type} {f : State → Except FaultCode α × State} {b : α} (h : f s = (.ok b, t)) :
    engRun (liftX f) s = (.ok b, t) := by
  unfold liftX
  rw [engRun_get_bind, h]
  rfl

/-- What the WLOAD of a block has to read: its CRC, and its lines. -/
structure BlockRead (c : Nat) (w : List Word) (part src crct dst blk : Nat) (u v z : State) (b : List Byte) (ls : List (List Byte)) :
    Prop where
  crc : iovaReadBytes (agentDe c) part crct 4 u = (.ok b, v)
  place : (ctxOf (coreOf v c)).basinBase + dst = blk
  lines : engRun (wloadLines ⟨c, 3, w⟩ part src (64 * dst) blk (leNat b) 0 64) v = (.ok ls, z)

section
variable {w : List Word} {part src crct dst blk : Nat} {z : State} {b : List Byte} {ls : List (List Byte)}

/-- A block with its CRC and lines read is judged (R186). -/
def blockJudged (c blk crc got : Nat) : EngM Unit :=
  if got = crc then modify (modCore c (wblkSet blk (3, crc)))
  else do
    modify (modCore c (wblkSet blk (4, crc)))
    modify (regCountField (kreg c 0x300C) 16 16 1)
    stopF .weightCrc

theorem wloadBlock_read (h : BlockRead c w part src crct dst blk u v z b ls) :
    engRun (wloadBlock ⟨c, 3, w⟩ part src crct dst 0) u = engRun (blockJudged c blk (leNat b) (crc32c ls.flatten)) z := by
  obtain ⟨hcrc, hplace, hlines⟩ := h
  unfold wloadBlock
  rw [Nat.mul_zero, Nat.add_zero, engRun_bind_ok (engRun_liftX_ok hcrc), engRun_get_bind]
  dsimp only
  rw [Nat.add_zero, Nat.add_zero, Nat.add_zero, hplace, engRun_bind_ok hlines]
  rfl

/-- The block whose CRC agrees is CLEAN. -/
theorem blockJudged_clean (blk : Nat) {crc got : Nat} (h : got = crc) (s : State) :
    engRun (blockJudged c blk crc got) s = (.ok (), modCore c (wblkSet blk (3, crc)) s) := by
  unfold blockJudged
  rw [if_pos h]
  exact engRun_modify _ s

/-- A block that is FAILED is counted. -/
def blockFailed (c blk crc : Nat) (s : State) : State :=
  regCountField (kreg c 0x300C) 16 16 1 (modCore c (wblkSet blk (4, crc)) s)

theorem blockJudged_failed (blk : Nat) {crc got : Nat} (h : got ≠ crc) (s : State) :
    engRun (blockJudged c blk crc got) s = (.error (.fault .weightCrc 0), blockFailed c blk crc s) := by
  unfold blockJudged
  rw [if_neg h, engRun_modify_bind, engRun_modify_bind]
  exact engRun_stopF _ _

/-- The operands of a WLOAD of one block, inside its task and its window. -/
structure WloadOne (s : State) (c : Nat) (w : List Word) (part src crct dst : Nat) : Prop where
  srcIs : wbits w 11 0 32 + wbits w 12 0 16 * 2 ^ 32 = src
  crctIs : wbits w 13 0 32 + wbits w 14 0 16 * 2 ^ 32 = crct
  dstIs : wbits w 14 16 11 = dst
  partIs : (ctxOf (coreOf s c)).part = part
  one : wbits w 12 16 12 = 1
  inside : (ctxOf (coreOf s c)).basinBase + dst + 1 ≤ (ctxOf (coreOf s c)).basinBound
  window : wloadWindow (coreOf s c) part ((ctxOf (coreOf s c)).basinBase + dst) 1 = true

theorem opRangeOk_wload (hop : wbits w 0 0 8 = 0x63) (hone : wbits w 12 16 12 = 1) : opRangeOk 64 w = true := by
  unfold opRangeOk
  simp [hop, hone]

/-- A WLOAD of one block is the work on that block, and its end. -/
theorem deWload_one (hok : opRangeOk 64 w = true) (h : WloadOne u c w part src crct dst) (f : Flight) :
    engRun (deWload ⟨c, 3, w⟩ f) u = engRun (wloadBlocks ⟨c, 3, w⟩ part src crct dst 0 1 >>= fun _ => doneWork ⟨c, 3, w⟩ f) u := by
  obtain ⟨hsrc, hcrct, hdst, hpart, hone, hin, hwin⟩ := h
  unfold deWload
  rw [engRun_bind_ok (deShape_ok hok u), engRun_get_bind]
  simp only [hsrc, hcrct, hdst, hone, hpart, hwin, Nat.not_lt.mpr hin, Bool.not_true, Bool.false_eq_true, if_false]

theorem deWload_clean (hok : opRangeOk 64 w = true) (h : WloadOne u c w part src crct dst)
    (hr : BlockRead c w part src crct dst blk u v z b ls) (hcrc : crc32c ls.flatten = leNat b) (f : Flight) :
    engRun (deWload ⟨c, 3, w⟩ f) u =
      (.ok { f with done := true }, modRun c (releaseReads f.d.commit) (modCore c (wblkSet blk (3, leNat b)) z)) := by
  have hblock := (wloadBlock_read hr).trans (blockJudged_clean blk hcrc z)
  have hblocks := engRun_bind_ok hblock fun _ => (pure () : EngM Unit)
  rw [deWload_one hok h]
  exact engRun_bind_ok hblocks _

theorem deWload_failed (hok : opRangeOk 64 w = true) (h : WloadOne u c w part src crct dst)
    (hr : BlockRead c w part src crct dst blk u v z b ls) (hcrc : crc32c ls.flatten ≠ leNat b) (f : Flight) :
    engRun (deWload ⟨c, 3, w⟩ f) u = (.error (.fault .weightCrc 0), blockFailed c blk (leNat b) z) := by
  have hblock := (wloadBlock_read hr).trans (blockJudged_failed blk hcrc z)
  have hblocks := engRun_bind_error hblock fun _ => (pure () : EngM Unit)
  rw [deWload_one hok h]
  exact engRun_bind_error hblocks _

/-- The state that a WLOAD leaves, its block CLEAN. -/
def wloadDone (c : Nat) (f : Flight) (blk crc : Nat) (z : State) : State :=
  modRun c (putFlight { f with done := true }) (modRun c (releaseReads f.d.commit) (modCore c (wblkSet blk (3, crc)) z))

theorem wloadDone_core (hc : c < 16) (f : Flight) (blk crc : Nat) (z : State) :
    coreOf (wloadDone c f blk crc z) c = { wblkSet blk (3, crc) (coreOf z c) with
      run := putFlight { f with done := true } (releaseReads f.d.commit (coreOf z c).run) } ∧
    ∀ e, e ≠ c → coreOf (wloadDone c f blk crc z) e = coreOf z e := by
  unfold wloadDone
  refine ⟨?_, fun e he => ?_⟩
  · rw [coreOf_modRun_self hc, coreOf_modRun_self hc, coreOf_modCore_self _ hc]
    rfl
  · rw [coreOf_modRun_ne he, coreOf_modRun_ne he, coreOf_modCore_ne _ he]

/-- The state that a WLOAD leaves, its block FAILED. -/
def wloadFailed (c : Nat) (f : Flight) (blk crc : Nat) (z : State) : State := failFlight c f .weightCrc 0 (blockFailed c blk crc z)

theorem wloadFailed_core (hc : c < 16) {f : Flight} (he : f.eng = 3) (blk crc : Nat) (z : State) :
    Raised .weightCrc c (wloadFailed c f blk crc z) ∧
    (∃ g, coreOf (wloadFailed c f blk crc z) c = { wblkSet blk (4, crc) (coreOf z c) with run := putFlight g (coreOf z c).run }) ∧
    ∀ e, e ≠ c → coreOf (wloadFailed c f blk crc z) e = coreOf z e := by
  have h2 : f.eng ≠ 2 := by rw [he]; decide
  obtain ⟨g, hg⟩ := regCountField_frame (kreg c 0x300C) 16 16 1 (modCore c (wblkSet blk (4, crc)) z)
  obtain ⟨hraised, -, -, hother⟩ := failed_spec (f := f) (code := .weightCrc) hc h2 0 rfl (blockFailed c blk crc z)
  have hcore : ∀ e, coreOf (blockFailed c blk crc z) e = coreOf (modCore c (wblkSet blk (4, crc)) z) e := fun e => by
    rw [blockFailed, hg, coreOf_regs]
  refine ⟨hraised, ⟨failedFlight c f .weightCrc (blockFailed c blk crc z), ?_⟩, fun e he => ?_⟩
  · rw [wloadFailed, coreOf_failFlight h2, coreOf_modRun_self hc, hcore, coreOf_modCore_self _ hc]
    rfl
  · exact (hother e he).trans ((hcore e).trans (coreOf_modCore_ne _ he))

theorem issue_wloadDone {d : QDesc} (hc : c < 16) (h : Issues s c 3 0x63 d)
    (hr : engRun (deWload ⟨c, 3, d.w⟩ (issuedFlight s c 3 d)) (issuedState s c 3 d) = (.ok { issuedFlight s c 3 d with done := true },
      modRun c (releaseReads d.commit) (modCore c (wblkSet blk (3, leNat b)) z))) (hp : (coreOf z c).run.cc.pendCommit = none) :
    issue c 3 0x63 deWload s = wloadDone c (issuedFlight s c 3 d) blk (leNat b) z := by
  obtain ⟨hcore, -⟩ := wloadDone_core hc (issuedFlight s c 3 d) blk (leNat b) z
  have hrun : runWork c (issuedFlight s c 3 d) deWload (issuedState s c 3 d) = wloadDone c (issuedFlight s c 3 d) blk (leNat b) z :=
    runWork_ok hr
  rw [issue_eq hc (by decide) h deWload, hrun]
  exact commitResume_none (by rw [hcore]; exact hp)

theorem issue_wloadFailed {d : QDesc} (hc : c < 16) (h : Issues s c 3 0x63 d)
    (hr : engRun (deWload ⟨c, 3, d.w⟩ (issuedFlight s c 3 d)) (issuedState s c 3 d) =
      (.error (.fault .weightCrc 0), blockFailed c blk (leNat b) z)) (hp : (coreOf z c).run.cc.pendCommit = none) :
    issue c 3 0x63 deWload s = wloadFailed c (issuedFlight s c 3 d) blk (leNat b) z := by
  obtain ⟨-, ⟨g, hcore⟩, -⟩ := wloadFailed_core hc (f := issuedFlight s c 3 d) rfl blk (leNat b) z
  have hrun : runWork c (issuedFlight s c 3 d) deWload (issuedState s c 3 d) = wloadFailed c (issuedFlight s c 3 d) blk (leNat b) z :=
    runWork_fault hr
  rw [issue_eq hc (by decide) h deWload, hrun]
  exact commitResume_none (by rw [hcore]; exact hp)

end

/-! ### Pieces of an XFER with host memory (R314, R410) -/

theorem slice_length (bs : List Byte) (off n : Nat) : (slice bs off n).length = n := by
  simp [slice]

theorem slice_getD (bs : List Byte) (off : Nat) {n i : Nat} (h : i < n) : (slice bs off n).getD i 0 = bs.getD (off + i) 0 := by
  unfold slice
  simp only [List.getD_eq_getElem?_getD]
  by_cases hi : i < ((bs.drop off).take n).length
  · rw [List.getElem?_append_left hi, List.getElem?_take_of_lt h, List.getElem?_drop]
  · rw [List.getElem?_append_right (Nat.le_of_not_lt hi)]
    rw [List.length_take, List.length_drop] at hi
    rw [List.getElem?_eq_none (l := bs) (by omega)]
    by_cases hj : i - ((bs.drop off).take n).length < n - ((bs.drop off).take n).length
    · rw [List.getElem?_replicate, if_pos hj]
      rfl
    · rw [List.getElem?_replicate, if_neg hj]

section
variable {a : Acc} {q : XferF} {data : List Byte} {f : Flight}

/-- One line of the host's data goes to its place in the Basin. -/
theorem xferLine_stored (hc : a.c < 16) (hdp : q.dsp = 0) (hal : q.daddr % 64 = 0) {k : Nat}
    (hl : LinesOpen (coreOf s a.c) a.w (q.daddr / 64 + k) 1 true) (commit : Nat) {bs : List Byte} (hb : bs.length = 64) :
    ∃ t, engRun (xferLine a commit q k (some bs)) s = (.ok 0, t) ∧
      Stored a.c s t ((taskLine (coreOf s a.c) + (q.daddr / 64 + k)) * 64) 64 fun i => bs.getD i 0 := by
  obtain ⟨t, ht, hst⟩ := lineWrite_stored hc hl hb
  have hdest : xferDest q k = .basin (q.daddr + 64 * k) := by
    unfold xferDest
    rw [hdp]
    rfl
  refine ⟨t, ?_, hst⟩
  unfold xferLine
  rw [engRun_get_bind]
  dsimp only
  rw [hdest]
  unfold xferWrite
  rw [engRun_modify_bind]
  dsimp only
  rw [show (q.daddr + 64 * k) / 64 = q.daddr / 64 + k by omega, engRun_bind_ok ht]
  rfl

theorem xferLines_stored (hc : a.c < 16) (hdp : q.dsp = 0) (hal : q.daddr % 64 = 0) (commit k0 n k : Nat) (hk : k0 ≤ k) {s : State}
    (hl : LinesOpen (coreOf s a.c) a.w (q.daddr / 64 + k) n true) :
    ∃ t, engRun (xferLines a commit q (some data) k0 k n) s = (.ok 0, t) ∧
      Stored a.c s t ((taskLine (coreOf s a.c) + (q.daddr / 64 + k)) * 64) (64 * n) fun i => data.getD (64 * (k - k0) + i) 0 := by
  induction n generalizing k s with
  | zero => exact ⟨s, rfl, .none (fun _ => rfl) _ _⟩
  | succ n ih =>
    obtain ⟨t, ht, hst⟩ := xferLine_stored hc hdp hal (linesOpen_sub hl 0 1 (by omega)) commit
      (slice_length data (64 * (k - k0)) 64)
    obtain ⟨v, hrun, hsv⟩ := ih (k + 1) (by omega) (hst.linesOpen (linesOpen_sub hl 1 n (by omega)))
    refine ⟨v, ?_, ?_⟩
    · unfold xferLines
      rw [Option.map_some, engRun_bind_ok ht, engRun_bind_ok hrun]
      rfl
    · have haddr : (taskLine (coreOf t a.c) + (q.daddr / 64 + (k + 1))) * 64 =
          (taskLine (coreOf s a.c) + (q.daddr / 64 + k)) * 64 + 64 := by
        rw [hst.taskLine]
        omega
      rw [haddr] at hsv
      rw [show 64 * (n + 1) = 64 + 64 * n by omega]
      refine .above (hst.congr fun i hi => slice_getD data _ hi) (hsv.congr fun i _ => ?_)
      rw [show 64 * (k + 1 - k0) + i = 64 * (k - k0) + (64 + i) by omega]

/-- The flight after a piece of `n` lines. -/
def pieceMoved (q : XferF) (n : Nat) (f : Flight) : Flight :=
  { f with pos := f.pos + 1, done := f.done || decide (q.len / 64 ≤ 64 * f.pos + n) }

/-- A piece's work: the host's data stands at its place, and the flight has moved on. -/
theorem dePiece_stored (hc : a.c < 16) (hq : xferOf a.w = q) (hn : n = min 64 (q.len / 64 - 64 * f.pos))
    (ho : (ownerOf (partOf s (ctxOf (coreOf s a.c)).part)).isSome = true) (hsp : q.ssp = 4) (hdp : q.dsp = 0) (hal : q.daddr % 64 = 0)
    (hl : LinesOpen (coreOf s a.c) a.w (q.daddr / 64 + 64 * f.pos) n true) :
    ∃ t h, engRun (dePiece (.ok data) a f) s = (.ok (pieceMoved q n f), modRun a.c h t) ∧ (∀ r, (h r).flight = r.flight) ∧
      Stored a.c s t ((taskLine (coreOf s a.c) + (q.daddr / 64 + 64 * f.pos)) * 64) (64 * n) fun i => data.getD i 0 := by
  obtain ⟨t, ht, hst⟩ := xferLines_stored (data := data) hc hdp hal f.d.commit (64 * f.pos) n (64 * f.pos) (Nat.le_refl _) hl
  simp only [Nat.sub_self, Nat.mul_zero, Nat.zero_add] at hst
  have howned : (ownerOf (partOf s (ctxOf (coreOf s a.c)).part)).isNone = false := by
    rw [← Option.not_isSome, ho]
    rfl
  have hlines : engRun (dePiece (.ok data) a f) s = engRun (do
      if q.len / 64 ≤ 64 * f.pos + n then doneWork a { f with pos := f.pos + 1, outst := f.outst + 0 }
      else
        modify (modRun a.c (releaseRead f.d.commit (xferMore (coreOf (← get) a.c) q (64 * f.pos + n))))
        pure { f with pos := f.pos + 1, outst := f.outst + 0 }) t := by
    unfold dePiece
    rw [engRun_get_bind, engRun_get_bind]
    simp only [hq, howned, hsp, ← hn, Bool.false_eq_true, if_false, if_true]
    exact engRun_bind_ok ht _
  by_cases hlast : q.len / 64 ≤ 64 * f.pos + n
  · refine ⟨t, releaseReads f.d.commit, ?_, fun _ => rfl, hst⟩
    rw [hlines, if_pos hlast, pieceMoved, decide_eq_true hlast, Bool.or_true]
    rfl
  · refine ⟨t, releaseRead f.d.commit (xferMore (coreOf t a.c) q (64 * f.pos + n)), ?_, fun _ => rfl, hst⟩
    rw [hlines, if_neg hlast, pieceMoved, decide_eq_false hlast, Bool.or_false]
    rfl

/-- Without the host's data the piece moves nothing. -/
theorem dePiece_failed (hsp : (xferOf a.w).ssp = 4) (ho : (ownerOf (partOf s (ctxOf (coreOf s a.c)).part)).isSome = true) :
    engRun (dePiece .err a f) s = (.error (.fault .hostXfer 0), s) := by
  have howned : (ownerOf (partOf s (ctxOf (coreOf s a.c)).part)).isNone = false := by
    rw [← Option.not_isSome, ho]
    rfl
  unfold dePiece
  rw [engRun_get_bind, engRun_get_bind]
  simp only [howned, hsp, Bool.false_eq_true, if_false, if_true]
  rfl

end

/-- Work that stores and writes back its flight leaves the stores in its core, and the flight as it moved on. -/
theorem runWork_stored {p : Nat} {f g : Flight} {h : CtxRun → CtxRun} {b : Nat → Byte} {work : Acc → Flight → EngM Flight} (hc : c < 16)
    (hf : f ∈ (coreOf s c).run.flight) (hg : f.d.commit = g.d.commit) (hh : ∀ r, (h r).flight = r.flight)
    (hw : engRun (work ⟨c, f.eng, f.d.w⟩ f) s = (.ok g, modRun c h v)) (hst : Stored c s v p n b) (ht : runWork c f work s = t) :
    BasinBecomes (coreOf s c) (coreOf t c) p n b ∧ (coreOf t c).cis = (coreOf s c).cis ∧ (coreOf t c).dmem = (coreOf s c).dmem ∧
      (∀ e, e ≠ c → coreOf t e = coreOf s e) ∧ g ∈ (coreOf t c).run.flight := by
  rw [runWork_ok hw] at ht
  subst ht
  have hfield : ∀ {α : Type} (p : Core → α), (∀ x y, p { x with run := y } = p x) →
      p (coreOf (modRun c (putFlight g) (modRun c h v)) c) = p (coreOf v c) := fun p hp => by
    rw [modRun_field p hc hp, modRun_field p hc hp]
  obtain ⟨m, k, j, hcore⟩ := hst.core
  obtain ⟨hin, hout⟩ := hst.bytes
  refine ⟨⟨fun i hi => ?_, fun i hi => ?_⟩, ?_, ?_, fun e he => ?_, mem_flight_put hc ?_ hg⟩
  · rw [hfield (fun x => x.basin) (fun _ _ => rfl)]
    exact hin i hi
  · rw [hfield (fun x => x.basin) (fun _ _ => rfl), hout i hi]
  · rw [hfield (fun x => x.cis) (fun _ _ => rfl), hcore]
  · rw [hfield (fun x => x.dmem) (fun _ _ => rfl), hcore]
  · rw [coreOf_modRun_ne he, coreOf_modRun_ne he, hst.others e he]
  · rw [modRun_run (fun r => r.flight) hc hh, hst.run]
    exact hf

theorem coreOf_openServe (e p k : Nat) (s : State) : coreOf (openServe e p s) k = coreOf s k := by
  unfold openServe
  split
  · rfl
  · rfl

theorem partOf_openServe (e p k : Nat) (s : State) : partOf (openServe e p s) k = partOf s k := by
  unfold openServe
  split
  · rfl
  · rfl

/-- The XFER that waits for its next piece stands in flight, on the DE. -/
theorem hostFlight_spec {x : Core} {f : Flight} (h : hostFlight x = some f) :
    f ∈ x.run.flight ∧ f.eng = 3 ∧ f.failed = none ∧ f.done = false := by
  have hf := List.find?_some h
  simp only [Bool.and_eq_true, beq_iff_eq, Bool.not_eq_true', Option.isNone_iff_eq_none] at hf
  obtain ⟨⟨⟨⟨he, -⟩, hfail⟩, hdone⟩, -⟩ := hf
  exact ⟨List.mem_of_find?_eq_some h, he, hfail, hdone⟩

/-- The turn of a piece (R409, R410). -/
structure PieceTurn (s : State) (c : Nat) (f : Flight) : Prop where
  flight : hostFlight (coreOf s c) = some f
  ready : isReady s = true
  runs : (ctxOf (coreOf s c)).st = .running ∨ (ctxOf (coreOf s c)).st = .draining
  going : (coreOf s c).stop = none
  admits : codeAdmits (slotCode s 0x22) (ctxOf (coreOf s c)).part = true
  turn : openTurn s 2 (ctxOf (coreOf s c)).part (pieceWaits s) = true

theorem exec_piece {k : Fin 16} {f : Flight} (h : PieceTurn s k.val f) (data : HostRead) :
    exec (.xferHostPiece k data) s = .next (runWork k.val f (dePiece data) (openServe 2 (ctxOf (coreOf s k.val)).part s)) := by
  obtain ⟨hf, hr, hruns, hgo, hadm, hturn⟩ := h
  have hst : ((ctxOf (coreOf s k.val)).st == .running || (ctxOf (coreOf s k.val)).st == .draining) = true := by simpa using hruns
  simp [exec, execXferHostPiece, hf, hr, hst, hgo, hadm, hturn]

/-- A DE descriptor that fails leaves every core as its work left it, but for its flight. -/
theorem failed_core {f : Flight} (he : f.eng = 3) (code : FaultCode) (idx : Nat) (hc : c < 16) (s : State) :
    coreOf (failFlight c f code idx s) c = { coreOf s c with run := putFlight (failedFlight c f code s) (coreOf s c).run } := by
  rw [coreOf_failFlight (by rw [he]; decide), coreOf_modRun_self hc]

/-- A piece whose slot refuses its partition, or out of its turn, moves nothing. -/
theorem exec_piece_refused {k : Fin 16} {f : Flight} (hf : hostFlight (coreOf s k.val) = some f) (data : HostRead)
    (h : codeAdmits (slotCode s 0x22) (ctxOf (coreOf s k.val)).part = false ∨
      openTurn s 2 (ctxOf (coreOf s k.val)).part (pieceWaits s) = false) : exec (.xferHostPiece k data) s = .next s := by
  obtain hadm | hturn := h
  · simp [exec, execXferHostPiece, hf, hadm]
  · simp [exec, execXferHostPiece, hf, hturn]

end

end Sys2Proof.Machine
namespace Sys2Proof.Proofs
open Sys2Proof.Machine

/-- Settles O48, case by case: a command's work is run on open lines (`deFill_stored`, `deCopy_stored`, `deXfer_sent`,
`deSelreq_handed`, `deWload_clean`, `deWload_failed`, `dePiece_stored`), and what it left is carried through its issue and
end (`issue_stored`, `issue_ok`, `issue_wloadDone`, `issue_wloadFailed`, `runWork_stored`). COPY goes by induction over its
lines in the direction that reads every line before it is overwritten. -/
theorem dmaResults : Obligations.DmaResults := by
  unfold Obligations.DmaResults
  refine ⟨?fill, ?copy, ?xfer, ?selreq, ?wload, ?ringset, ?piece, ?refused⟩
  case fill =>
    intro s c d h x u n hsp hl
    have hstep := issued_step c.isLt 3 d s
    have htask : taskLine (coreOf (issuedState s c.val 3 d) c.val) = taskLine x := hstep.field taskLine (fun _ _ _ _ => rfl) c.val
    obtain ⟨-, hop, -⟩ := ready_head h.1
    obtain ⟨v, hrun, hst⟩ := deFill_stored c.isLt hop hsp (hstep.linesOpen rfl hl) (issuedFlight s c.val 3 d)
    rw [htask] at hst
    obtain ⟨t, ht, hdone, hflight, -, -⟩ := issue_stored c.isLt h rfl hrun hst
    exact ⟨t, congrArg Host.Outcome.next ht, hdone.bytes, hdone.cis, hdone.dmem, hdone.others, _, hflight, rfl, rfl, rfl, trivial⟩
  case copy =>
    intro s c d h x u v n hs hd hu
    have hstep := issued_step c.isLt 3 d s
    have htask : taskLine (coreOf (issuedState s c.val 3 d) c.val) = taskLine x := hstep.field taskLine (fun _ _ _ _ => rfl) c.val
    have hbasin : (coreOf (issuedState s c.val 3 d) c.val).basin = x.basin := hstep.field (fun y => y.basin) (fun _ _ _ _ => rfl) c.val
    have hup : (coreOf (issuedState s c.val 3 d) c.val).basinUp = x.basinUp := hstep.field (fun y => y.basinUp) (fun _ _ _ _ => rfl) c.val
    obtain ⟨-, hop, -⟩ := ready_head h.1
    obtain ⟨w, hrun, hst⟩ := deCopy_stored c.isLt hop (hstep.linesOpen rfl hs) (hstep.linesOpen rfl hd)
      (fun k => by rw [hup]; exact hu k) (issuedFlight s c.val 3 d)
    unfold basinFrom at hst
    rw [htask, hbasin] at hst
    obtain ⟨t, ht, hdone, hflight, -, -⟩ := issue_stored c.isLt h rfl hrun hst
    exact ⟨t, congrArg Host.Outcome.next ht, hdone.bytes, hdone.cis, hdone.dmem, hdone.others, _, hflight, rfl, rfl, rfl, trivial⟩
  case xfer =>
    intro s c d h x q n hok hsp hdp hl hu
    have hstep := issued_step c.isLt 3 d s
    have hup : (coreOf (issuedState s c.val 3 d) c.val).basinUp = x.basinUp := hstep.field (fun y => y.basinUp) (fun _ _ _ _ => rfl) c.val
    obtain ⟨-, hop, -⟩ := ready_head h.1
    obtain ⟨v, hrun, hsent⟩ := deXfer_sent rfl hok hsp hdp (xfer_aligned hop hok) rfl (hstep.linesOpen rfl hl)
      (fun k => by rw [hup]; exact hu k) (issuedFlight s c.val 3 d)
    obtain ⟨t, ht, hdone, hflight, hfab, hbasin⟩ :=
      issue_stored c.isLt h rfl hrun (.none (fun e => coreOf_congr hsent.kc e) 0 fun _ => 0)
    have hkept := hstep.field (fun y => y.basin) (fun _ _ _ _ => rfl) c.val
    refine ⟨t, congrArg Host.Outcome.next ht, ?_, ⟨_, hflight, rfl, rfl, rfl, Nat.zero_add _⟩, ?_, hdone.cis, hdone.dmem, hdone.others⟩
    · obtain ⟨y, g, hv⟩ := hsent
      obtain ⟨o, ho⟩ := hstep.fab
      rw [hfab, hv]
      dsimp only
      rw [ho]
      dsimp only
      refine congrArg (s.fab.remote ++ ·) (List.map_congr_left fun k _ => ?_)
      exact hstep.xferReq d.commit q k _
    · rw [hbasin, coreOf_congr hsent.kc]
      exact hkept
  case selreq =>
    intro s c d h x tx u blk boxes hst hl hu hi
    have hstep := issued_step c.isLt 3 d s
    have hup : (coreOf (issuedState s c.val 3 d) c.val).basinUp = x.basinUp := hstep.field (fun y => y.basinUp) (fun _ _ _ _ => rfl) c.val
    have hjob : jobOf (issuedState s c.val 3 d) (ctxOf (coreOf (issuedState s c.val 3 d) c.val)).slot = jobOf s tx.slot := by
      rw [hstep.ctxOf, jobOf, hstep.hst]
      rfl
    have hblk : selBlock (coreOf (issuedState s c.val 3 d) c.val) u = blk := hstep.selBlock u
    have hrun := deSelreq_handed (f := issuedFlight s c.val 3 d) rfl hjob hst (hstep.linesOpen rfl hl)
      (fun k => by rw [hup]; exact hu k) (fun hb => hi (by rwa [hblk] at hb))
    obtain ⟨y, hy, hitems⟩ := selHanded_frame c.val d.commit blk (issuedState s c.val 3 d)
    rw [hblk] at hrun
    change engRun _ _ = (_, selHanded c.val d.commit blk (issuedState s c.val 3 d)) at hrun
    rw [hstep.ctxOf] at hjob hitems
    rw [hjob] at hitems
    rw [hstep.sel, hstep.selRequest] at hy
    generalize selHanded c.val d.commit blk (issuedState s c.val 3 d) = v at hrun hy
    have hkc : v.kc = (issuedState s c.val 3 d).kc := by rw [hy]
    have hsel : v.sel = { s.sel with arr := s.sel.arr ++ [selRequest s c.val d.commit blk] } := by rw [hy]
    have hhst : v.hst = y := by rw [hy]
    refine ⟨_, congrArg Host.Outcome.next (issue_ok c.isLt (by decide) h hrun (by rw [coreOf_congr hkc])),
      hsel, ?_, ?_, ?_, ?_, fun e he => ?_⟩
    · rw [← hhst] at hitems
      exact hitems
    · exact ⟨_, mem_flight_put (f := issuedFlight s c.val 3 d) c.isLt
        (by rw [coreOf_congr hkc]; exact issuedState_flight c.isLt 3 d s) rfl, rfl, rfl, rfl, rfl⟩
    · rw [modRun_run (f := putFlight _) (fun r => r.sb) c.isLt (fun _ => rfl), coreOf_congr hkc]
      rfl
    · rw [modRun_field (fun y => y.basin) c.isLt (fun _ _ => rfl), coreOf_congr hkc]
      exact hstep.field (fun y => y.basin) (fun _ _ _ _ => rfl) c.val
    · rw [coreOf_modRun_ne he, coreOf_congr hkc, hstep.others e he]
  case wload =>
    intro s c d h x part src crct dst blk u hone hin hwin b v w ls hcrc hctx hlines hpend
    have hstep := issued_step c.isLt 3 d s
    have hctxU : ctxOf (coreOf u c.val) = ctxOf x := hstep.ctxOf c.val
    have hwinU : wloadWindow (coreOf u c.val) part blk 1 = true :=
      (hstep.field (fun y => wloadWindow y part blk 1) (fun _ _ _ _ => rfl) c.val).trans hwin
    obtain ⟨-, hop, -⟩ := ready_head h.1
    have hok := opRangeOk_wload hop hone
    have hread : BlockRead c.val d.w part src crct dst blk u v w b ls := ⟨hcrc, by rw [hctx], hlines⟩
    have hops : WloadOne u c.val d.w part src crct dst :=
      ⟨rfl, rfl, rfl, by rw [hctxU], hone, by rw [hctxU]; exact hin, by rw [hctxU]; exact hwinU⟩
    refine ⟨fun hgood => ⟨{ issuedFlight s c.val 3 d with done := true }, rfl, rfl, rfl, ?_⟩, fun hbad => ?_⟩
    · have hissue := issue_wloadDone c.isLt h (deWload_clean hok hops hread hgood (issuedFlight s c.val 3 d)) hpend
      obtain ⟨hcore, hother⟩ := wloadDone_core c.isLt (issuedFlight s c.val 3 d) blk (leNat b) w
      refine ⟨_, congrArg Host.Outcome.next hissue, ?_, ?_, ?_, hother⟩
      all_goals rw [hcore]
      all_goals rfl
    · have hissue := issue_wloadFailed c.isLt h (deWload_failed hok hops hread hbad (issuedFlight s c.val 3 d)) hpend
      obtain ⟨hraised, ⟨g, hcore⟩, hother⟩ := wloadFailed_core c.isLt (f := issuedFlight s c.val 3 d) rfl blk (leNat b) w
      refine ⟨_, congrArg Host.Outcome.next hissue, hraised, ?_, ?_, hother⟩
      all_goals rw [hcore]
      all_goals rfl
  case ringset =>
    intro s c d h hok
    have hrun : engRun (deRingset ⟨c.val, 3, d.w⟩ (issuedFlight s c.val 3 d)) (issuedState s c.val 3 d) =
        (.ok { issuedFlight s c.val 3 d with done := true }, modRun c.val (releaseReads d.commit) (issuedState s c.val 3 d)) := by
      unfold deRingset
      rw [engRun_bind_ok (deShape_ok hok _)]
      rfl
    obtain ⟨t, ht, hdone, hflight, -, hbasin⟩ := issue_stored c.isLt h rfl hrun (.none (fun _ => rfl) 0 fun _ => 0)
    have hkept := (issued_step c.isLt 3 d s).field (fun x => x.basin) (fun _ _ _ _ => rfl) c.val
    exact ⟨t, congrArg Host.Outcome.next ht, ⟨_, hflight, rfl, rfl, rfl, trivial⟩, hdone.rings, hbasin.trans hkept,
      hdone.cis, hdone.dmem, hdone.others⟩
  case piece =>
    intro s c f data x q k n hf hr hruns hgo hadm hturn ho hsp hdp hal hl
    obtain ⟨hmem, -, -, hdone⟩ := hostFlight_spec hf
    have hcore := fun e => coreOf_openServe 2 (ctxOf x).part e s
    have hexec := exec_piece ⟨hf, hr, hruns, hgo, hadm, hturn⟩ (.ok data)
    obtain ⟨v, y, hrun, hkeep, hst⟩ := dePiece_stored (a := ⟨c.val, f.eng, f.d.w⟩) (s := openServe 2 (ctxOf x).part s) (data := data)
      (f := f) (q := q) (n := n) c.isLt rfl rfl (by rw [partOf_openServe, hcore]; exact ho) hsp hdp hal (by rw [hcore]; exact hl)
    have hdata : ∀ i < 64 * n, data.getD i 0 = (slice data 0 (64 * n)).getD i 0 := fun i hi => by
      rw [slice_getD data 0 hi, Nat.zero_add]
    generalize openServe 2 (ctxOf x).part s = s' at hrun hst hcore hexec
    have hmem' : f ∈ (coreOf s' c.val).run.flight := by rwa [hcore]
    obtain ⟨hbasin, hcis, hdmem, hother, hflight⟩ := runWork_stored (g := pieceMoved q n f) (work := dePiece (.ok data)) c.isLt
      hmem' rfl hkeep hrun (hst.congr hdata) rfl
    simp only [hcore] at hbasin hcis hdmem hother
    have haddr : (taskLine x + (q.daddr / 64 + k)) * 64 = (taskLine x + k) * 64 + q.daddr := by omega
    refine ⟨_, hexec, ?_, hcis, hdmem, hother, _, hflight, rfl, rfl, by rw [pieceMoved, hdone, Bool.false_or]⟩
    rw [← haddr]
    exact hbasin
  case refused =>
    intro s c f hf x
    refine ⟨fun data hno => exec_piece_refused hf data hno, fun hr hruns hgo hadm hturn ho hsp => ?_⟩
    obtain ⟨hmem, heng, -, -⟩ := hostFlight_spec hf
    have hcore := fun e => coreOf_openServe 2 (ctxOf x).part e s
    have hexec := exec_piece ⟨hf, hr, hruns, hgo, hadm, hturn⟩ .err
    have hrun := dePiece_failed (a := ⟨c.val, f.eng, f.d.w⟩) (s := openServe 2 (ctxOf x).part s) (f := f) hsp
      (by rw [partOf_openServe, hcore]; exact ho)
    obtain ⟨hraised, -, -, hother⟩ := failed_spec (f := f) (code := .hostXfer) c.isLt (by rw [heng]; decide) 0 rfl
      (openServe 2 (ctxOf x).part s)
    have hself := failed_core heng .hostXfer 0 c.isLt (openServe 2 (ctxOf x).part s)
    rw [hcore] at hself
    refine ⟨_, hexec.trans (congrArg Host.Outcome.next (runWork_fault hrun)), hraised, ?_, ?_, ?_,
      ⟨failedFlight c.val f .hostXfer (openServe 2 (ctxOf x).part s), ?_, rfl, rfl, rfl⟩,
      fun e he => (hother e he).trans (hcore e)⟩
    · rw [hself]
    · rw [hself]
    · rw [hself]
    · rw [hself]
      exact mem_putFlight hmem rfl

end Sys2Proof.Proofs
